-- ==== Sys2Proof/Word.lean ====
section
/-! DEFINITION. The word types of the Miomar M12 and the two shapes of sparse data the state is built from. -/

namespace Sys2Proof

/-- One byte of a memory, a register block or a packet. -/
abbrev Byte := BitVec 8

/-- A 32-bit register (R8). -/
abbrev W32 := BitVec 32

/-- A 64-bit register, address or tag. -/
abbrev W64 := BitVec 64

/-- A 128-bit bundle (R99). -/
abbrev Bundle := BitVec 128

/-- Data held by index: strictly rising keys; what an unlisted key reads as is given where the map is read. -/
abbrev Sparse (α : Type) := List (Nat × α)

/-- A memory: bytes held by address, in the canonical form of `Sparse`. -/
abbrev Mem := List (Nat × BitVec 8)

end Sys2Proof
end

