-- ==== Sys2Proof/Syntax.lean ====
section
/-! DEFINITION. The commands and events of spec/opcode_table.json, one constructor of `Instr` per row, and the plain data their operands carry. -/

namespace Sys2Proof

/-- A haul channel: channel `ch` of the pan at physical position `pos`, or control-complex channel `ch` (R200). -/
inductive HaulId where
  | pan (pos ch : Nat)
  | cc (ch : Nat)
deriving DecidableEq, Repr

/-- One packet of the bund network or of Finron (R228, R229): its header, its data bytes from byte ADDR on,
one bittern mark per 64-byte unit, and the router at which it stands. -/
structure Packet where
  /-- OP, an operation code of R230. -/
  op : Nat := 0
  /-- VC: 0 urgent, 1 request, 2 response, 3 bulk (Finron only, R264). -/
  vc : Nat := 1
  /-- ADDR, the global address of the first byte (R281). -/
  addr : Nat := 0
  /-- SRC, the source id of R161. -/
  src : Nat := 0
  tag : Nat := 0
  /-- BYTES, 0 to 512. -/
  bytes : Nat := 0
  /-- STATUS of a response: a cause of R221. -/
  status : Nat := 0
  lane : Nat := 0
  detour : Bool := false
  dgx : Nat := 0
  dgy : Nat := 0
  sgx : Nat := 0
  sgy : Nat := 0
  /-- The router at which the packet stands (not a header field). -/
  gx : Nat := 0
  gy : Nat := 0
  /-- The packet has turned onto the detour network's final row leg (R239; not a header field). -/
  onDetour : Bool := false
  data : List Byte := []
  marks : List Bool := []
deriving DecidableEq, Repr

/-- What a decoder observed in one protected word or codeword during an access: its address within the memory,
its syndrome, and whether it was corrected (R152, R173) or uncorrectable (R156, R194). -/
structure WordObs where
  addr : Nat
  syndrome : Nat
  uncorrectable : Bool
deriving DecidableEq, Repr

/-- A memory that keeps a correctable table and an uncorrectable log (R154, R193). -/
inductive MemUnit where
  | pan (pos : Nat)
  | slice (id : Nat)
  | channel (ch : Nat)
deriving DecidableEq, Repr

/-- What the receiving router found in the link check of a unit (R226). -/
inductive LinkCheck where
  | good
  | corrected
  | badData
  | badControl
deriving DecidableEq, Repr

/-- What the link check found in one unit of a replica of a multicast write (R226, R244) on its arrival at a router. -/
structure ReplicaCheck where
  gx : Nat
  gy : Nat
  unit : Nat
  check : LinkCheck
deriving DecidableEq, Repr

/-- A unit named by class and index (R402), with the detail of an assay record. -/
structure UnitRef where
  cls : Nat
  index : Nat
  detail : Nat := 0
deriving DecidableEq, Repr

/-- What an assay found (R404, R405): the bad units by class and index; the physical regions whose oscillator failed and those whose
direct chain links failed, for which R402 has no class (R23); and the spare columns and rows each slice's repair analysis
assigned (R172), as (slice, columns, rows). -/
structure AssayFound where
  bad : List UnitRef := []
  oscillators : List Nat := []
  chains : List Nat := []
  repairs : List (Nat × Nat × Nat) := []
deriving DecidableEq, Repr

/-- A firmware slot of the boot flash as the boot ROM reads it (R475): the header fields, the digest of the body it
holds, and whether H_SIG verifies over the header (FIPS 205, outside this spec). -/
structure FwImage where
  magic : Nat := 0x4D314657
  version : Nat := 1
  stepping : Nat := 0xA1
  keySlot : Nat := 0
  revokeOther : Bool := false
  arbCommit : Bool := false
  svn : Nat := 0
  bodyLen : Nat := 0
  build : Nat := 0
  headDigest : Nat := 0
  bodyDigest : Nat := 0
  keyDigest : Nat := 0
  sigOk : Bool := false
deriving DecidableEq, Repr

/-- The board configuration record (R401), with the outcome of its signature, version and CRC check. -/
structure Bcr where
  good : Bool := true
  sites : Nat := 0xFFFFFF
  rate : Nat := 9600
  capacity : Nat := 4
  dx : Nat := 1
  dy : Nat := 1
  dz : Nat := 1
  x : Nat := 0
  y : Nat := 0
  z : Nat := 0
  /-- BCR_EXP: for each express port the peer position, when cabled. -/
  exp : List (Option Nat) := [none, none, none, none]
  portsDisabled : Nat := 0
deriving DecidableEq, Repr

/-- One record of the assay list (R406): TYPE 1 EPOCH, 2 DEFECT, 3 RUN; `tag` is L_TAG. -/
structure AssayRecord where
  type : Nat
  cls : Nat := 0
  full : Bool := false
  detail : Nat := 0
  index : Nat := 0
  epoch : Nat := 0
  tide : Nat := 0
  trans : Nat := 0
  tag : Nat := 0
deriving DecidableEq, Repr

/-- The header of a host command as the device copied it from its slot (R430). -/
structure Cmd where
  tag : Nat := 0
  job : Nat := 0xFF
  flags : Nat := 0
deriving DecidableEq, Repr

/-- What a tensor of an image is for; it decides the lot that holds it (R321). -/
inductive TensorKind where
  | weights
  | activation
  | keyValue
  | other
deriving DecidableEq, Repr

/-- A tensor of an image: the header fields R43 checks, its size and its use. -/
structure Tensor where
  kind : TensorKind
  bytes : Nat
  format : Nat := 1
  emin : Int := -128
  emax : Int := 127
  elemBase : Nat := 0
  expBase : Nat := 0
  /-- K and N: elements along the reduction dimension, and rows (R40). -/
  k : Nat := 0
  n : Nat := 0
  /-- Key-value cache: bytes per sequence in 64 KiB units (R329). -/
  seqUnits : Nat := 0
  /-- The payload an image carries for weights and other immutable inputs, from the tensor's first byte (R443). -/
  data : List Byte := []
  /-- Its layer is marked as not requiring exactness, so that writes of it may travel requantised (R71, R277). -/
  inexact : Bool := false
deriving DecidableEq, Repr

/-- A pan program of a share: bundles, entry, swizzle, NTT targets as (entry, share, pan, semaphore) and the
pan store units it is loaded with, as (byte address, bytes). -/
structure PanProgram where
  bundles : List Bundle := []
  entry : Nat := 0
  swizzle : List Nat := [1, 2, 4, 8, 16]
  ntt : List (Nat × Nat × Nat × Nat) := []
  store : List (Nat × List Byte) := []
  /-- Address fields of descriptors in pan store, which Hakar rewrites for a step (R326, R339 phase 6): byte address, tensor, whether
  the generation the step writes is meant, and the offset in the tensor's lot. -/
  addrs : List (Nat × Nat × Bool × Nat) := []
deriving DecidableEq, Repr

/-- A share of a layer (R319 ff.): its pan programs, the tensors it reads and writes, its edges of the share graph
(R328) and the atomics it declares (R331). -/
structure Share where
  programs : List PanProgram := []
  chained : Bool := false
  reads : List Nat := []
  writes : List Nat := []
  /-- The parts of a tensor that it reads and that its declared outputs cover, as (tensor, byte offset, bytes); a tensor of which no part is
  listed is read or written as a whole (R340). -/
  readParts : List (Nat × Nat × Nat) := []
  writeParts : List (Nat × Nat × Nat) := []
  notifies : List Nat := []
  /-- Shares of other devices it is joined with, as (device, share) (R337). -/
  remote : List (Nat × Nat) := []
  atomics : Nat := 0
deriving DecidableEq, Repr

/-- A one-to-many transfer of an image: its member pans as (share's job region, logical column). -/
structure OneToMany where
  members : List (Nat × Nat) := []
deriving DecidableEq, Repr

/-- A collective an image asks a slot for (R308): operation, chunks, expected inputs, whether this device is the root,
parent device and input, where the result goes (an address, or a byte offset in a tensor's lot: its number and whether the generation the step writes)
and the notes, as
NTT targets are named: share, column and semaphore (no layout in the spec, log 30). -/
structure Collective where
  rid : Nat
  rop : Nat := 0
  chunks : Nat := 1
  expect : List Nat := []
  root : Bool := true
  parent : Nat := 0
  parentInput : Nat := 0
  dst : Nat := 0
  dstTensor : Option (Nat × Bool) := none
  notes : List (Nat × Nat × Nat) := []
deriving DecidableEq, Repr

/-- A Cerbucel image as far as the device acts on it. The spec gives no byte layout; these are the contents its
rules name. -/
structure Image where
  stepping : Nat := 0xA1
  digestOk : Bool := true
  digest : Nat := 0
  bytes : Nat := 0
  tensors : List Tensor := []
  layers : List (List Share) := []
  groups : List OneToMany := []
  collectives : List Collective := []
  /-- Commit marks the image names for a step: its layer and a SEM_NOTIFY address (R325). -/
  commitMarks : List (Nat × Nat) := []
  /-- The member devices of a job that spans devices, this one among them. -/
  members : List Nat := []
  /-- How many shares another member holds: (layer, device, shares) (R336). -/
  memberShares : List (Nat × Nat × Nat) := []
  /-- The tensor that is the sequence mask (R341). -/
  seqMask : Option Nat := none
  /-- Every NTT target a program names is one its share's graph names (R328), as image load found it. -/
  graphOk : Bool := true
deriving DecidableEq, Repr

/-- A commit record (R333): KIND, replay number, share, job id, step and C_ASEQ. -/
structure CommitRecord where
  kind : Nat
  replay : Nat := 0
  share : Nat := 0
  jobId : Nat := 0
  step : Nat := 0
  aseq : Nat := 0
deriving DecidableEq, Repr

/-- A fault record (R451) before it is numbered; `jobs` is the mask of F_JOBS [15:0]. -/
structure FaultRec where
  type : Nat
  cls : Nat
  code : Nat := 0
  unitCls : Nat := 0
  unitIdx : Nat := 0
  tide : Nat := 0
  addr : Nat := 0
  detail : Nat := 0
  jobs : Nat := 0
  src : Option Nat := none
  epoch : Nat := 0
  /-- The chain has taken another fault of the same cycle, and Hakar acts for that one (R139). -/
  passive : Bool := false
deriving DecidableEq, Repr

/-- A gauge descriptor (R458). -/
structure GaugeDesc where
  source : Nat := 0
  kind : Nat := 0
  index : Nat := 0
  sampleNs : Nat := 0
  windowNs : Nat := 1000
  base : Int := 0
  width : Nat := 0
  low : Int := 0
  high : Int := 0
  highEn : Bool := false
  lowEn : Bool := false
  reservedZero : Bool := true
deriving DecidableEq, Repr

/-- A budget message (R391). -/
structure BudgetMsg where
  kind : Nat
  group : Nat
  device : Nat
  hi : Nat := 0
  lo : Nat := 0
  seq : Nat := 0
deriving DecidableEq, Repr

/-- A member entry of BUDGET_JOIN (R439): device id, lower and upper bound in W. -/
structure BudgetMember where
  device : Nat
  lower : Nat
  upper : Nat
deriving DecidableEq, Repr

/-- A Finron header unit (R264). -/
structure FinHeader where
  op : Nat
  vc : Nat := 1
  addr : Nat := 0
  src : Nat := 0
  tag : Nat := 0
  bytes : Nat := 0
  cls : Nat := 0
  detour : Bool := false
  exp : Bool := false
  xform : Bool := false
  hops : Nat := 0
  status : Nat := 0
  punits : Nat := 0
  seq : Nat := 0
  ack : Nat := 0
  crvc : Nat := 0
  crcnt : Nat := 0
  pmark : Nat := 0
  dirs : Nat := 0
  reserved : Nat := 0
  crc : Nat := 0
deriving DecidableEq, Repr

/-- What the receiver's decoder found in the codeword that carried a unit (R258, R262, R266): its physical lane, the symbols
corrected, whether it was uncorrectable, and whether this is the first unit taken from it. -/
structure Fec where
  lane : Nat := 0
  corrected : Nat := 0
  uncorrectable : Bool := false
  first : Bool := true
deriving DecidableEq, Repr

/-- The two stamps one end of a tide exchange took (R368), in picoseconds of its tide count: transmit and receive. -/
structure TideStamps where
  tx : Nat
  rx : Nat
deriving DecidableEq, Repr

/-- A debug unlock token (R484), with the outcome of its signature check. -/
structure DebugToken where
  header : Nat := 0xDB61
  keySlot : Nat := 0
  scope : Nat := 0
  serial : Nat := 0
  nonce : Nat := 0
  reservedZero : Bool := true
  sigOk : Bool := false
deriving DecidableEq, Repr

/-- A host address access that may fail: the buffer a command names (R439, HOST_ACCESS of R440); `cause` is 0 when it
works, otherwise a cause of R221. -/
structure HostBuf where
  addr : Nat := 0
  len : Nat := 0
  cause : Nat := 0
deriving DecidableEq, Repr

/-- How a register access reaches the device: the host through BAR0 at a byte offset (R423), or a requester with a
source id at a control-space global address (R285, R287); for the debug port, to which R161 gives no source id, KIND 2 with
INDEX 2,047 stands (log 92). -/
inductive RegPath where
  | bar0 (offset : Nat)
  | control (src addr : Nat)
deriving DecidableEq, Repr

/-- What the lands say when PWRGD rises: the level of STRAP_FCLK[1:0] (R502), and that VAUX has stayed in range since power was lost
(R501). -/
structure PowerLands where
  strap : Nat
  vauxKept : Bool
deriving DecidableEq, Repr

/-- What a refresh met: the cycles that requests of its bank waited for it, and that its bank had a request (R176). -/
structure RefreshWait where
  waited : Nat
  busy : Bool
deriving DecidableEq, Repr

/-- A lane of an output port of the router at (gx, gy) (R231, R233), and what the link check shows of its next unit where that came in by
the router's edge link (R226). -/
structure OutLane where
  gx : Nat
  gy : Nat
  out : Nat
  lane : Nat
  edge : LinkCheck := .good
deriving DecidableEq, Repr

/-- A WR at its target; with `later`, brine admits it and performs it at a later arrival of the same packet (R174). -/
structure WrArrival where
  k : Packet
  later : Bool
deriving DecidableEq, Repr

/-- A multicast write, with what the link check finds of its replicas (R226, R244). -/
structure McWrArrival where
  k : Packet
  checks : List ReplicaCheck
deriving DecidableEq, Repr

/-- What one microsecond shows of a region: its regulators' input current in mA, whether the current of an announced burst appears in the
measurement (R380), and the edges of its oscillator in order, as runs (cycles, supply in mV) (R351). -/
structure RegionSample where
  region : Nat
  current : Nat := 0
  burst : Bool := false
  cycles : List (Nat × Nat) := []
deriving DecidableEq, Repr

/-- What one microsecond of a field's current loop shows beside the field's current: each of its regions (R379), the cycles of the bund
oscillator in order, as runs (cycles, tenths of a percent by which the supply falls short of the target) (R351), and the bund clock's
average period (R350, R371). -/
structure LoopSample where
  regions : List RegionSample := []
  bund : List (Nat × Nat) := []
  bundPeriod : Nat := 500
deriving DecidableEq, Repr

/-- Further samples of VCORE in one interval of the minimum-voltage log, as (mV, tide count) (R381). -/
structure DroopSamples where
  more : List (Nat × Nat) := []
deriving DecidableEq, Repr

/-- The measurements of R373 over one millisecond: of each rail its voltage in mV and its mean current in mA; VIN's current is given
field by field. -/
structure RailSample where
  vin : Nat
  fields : List Nat
  vsd : Nat × Nat := (0, 0)
  vlq : Nat × Nat := (0, 0)
  vhq : Nat × Nat := (0, 0)
  vaux : Nat × Nat := (0, 0)
deriving DecidableEq, Repr

/-- A region's two junction sensors, in 1/16 °C (R384). -/
structure SensorPair where
  a : Int
  b : Int
deriving DecidableEq, Repr

/-- The energy of one shared domain in one millisecond, in µJ, and the units, haul units or command slots of each job in it (R394). -/
structure DomainEnergy where
  uj : Nat
  units : List (Nat × Nat) := []
deriving DecidableEq, Repr

/-- What discovery finds (R412): the density code each populated site reports, the routers that did not answer the probe with their
identity, and the logical pans that did not. -/
structure Discovery where
  densities : List (Nat × Nat) := []
  routers : List Nat := []
  pans : List Nat := []
deriving DecidableEq, Repr

/-- The commands and events of the part, one constructor per row of spec/opcode_table.json, in the table's order.
`p` is a physical pan position f × 135 + py × 15 + px, 0 to 1,619 (R285). -/
inductive Instr where
  -- power, reset and bring-up
  | pwrgdRelease (lands : PowerLands) (resetNLow : Bool) (selfTestOk : Bool)
  | pwrgdFall
  | resetNRelease (lowNs : Nat) (selfTestOk : Bool)
  | perstNAssert (lowNs : Nat) (selfTestOk : Bool)
  | pcieHotReset (selfTestOk : Bool)
  | pllLockLoss
  | firmwareSelect
  | firmwareBodyCheck
  | factoryMapCheck (record : List Byte)
  | assayListCheck (torn : List Nat)
  | assayComplete (found : AssayFound)
  | assayListUpdate
  | cellarAssayPass (ch : Nat)
  | cellarFillDone
  | brineFillDone
  | portTrained (port : Nat) (goodLanes : Nat) (peerDevice peerPort : Nat)
  | peerTimeout (port : Nat)
  | topologyAgreement (found : Discovery) (hostPtm : Option Nat) (parentTide : Option Nat)
  | configRequestRetry
  | arbCommit
  | idleReserveFail (field : Nat)
  -- pan sequencer commands
  | go (p : Nat)
  | stop (p : Nat)
  | faultClear (p : Nat)
  | semClear (p mask : Nat)
  | semNotify (p sem n : Nat)
  -- bundle issue, by the operation in one slot
  | fnop (p : Nat)
  | wfeed (p : Nat)
  | hload (p : Nat)
  | tend (p : Nat)
  | dnop (p : Nat)
  | dout (p : Nat)
  | drld (p : Nat)
  | dwait (p : Nat)
  | rnop (p : Nat)
  | rld (p : Nat)
  | rst (p : Nat)
  | radds (p : Nat)
  | rsubs (p : Nat)
  | rmin (p : Nat)
  | rmax (p : Nat)
  | rmsh (p : Nat)
  | rshrv (p : Nat)
  | rbc (p : Nat)
  | rqset (p : Nat)
  | rredq (p : Nat)
  | rfold (p : Nat)
  | rdiv (p : Nat)
  | rexp2 (p : Nat)
  | rsig (p : Nat)
  | rpack (p : Nat)
  | rbnd (p : Nat)
  | rxmax (p : Nat)
  | rssq (p : Nat)
  | rnvar (p : Nat)
  | rrsq (p : Nat)
  | rnpack (p : Nat)
  | mnop (p : Nat)
  | lset (p : Nat)
  | loop (p : Nat)
  | jmp (p : Nat)
  | spin (p : Nat)
  | halt (p : Nat)
  | agld (p : Nat)
  | tile (p : Nat)
  | notice (p : Nat)
  | swait (p : Nat)
  | ssig (p : Nat)
  | notify (p : Nat)
  | fence (p : Nat)
  | wopen (p : Nat)
  | wclose (p : Nat)
  | hstart (p : Nat)
  | done (p : Nat)
  -- sequencer, lattice and drain events
  | swaitResume (p : Nat)
  | waitTimeout (p : Nat)
  | fenceComplete (p : Nat)
  | chainRendezvous (region : Nat)
  | chainTimeout (region : Nat)
  | dwaitRelease (p : Nat)
  | westFeedBegin (p : Nat)
  | northLoadBegin (p : Nat)
  | heldColumnWrite (p : Nat) (obs : List WordObs)
  | westSlotIssue (p : Nat) (obs : List WordObs)
  | burstHoldEnd (p : Nat)
  | entryUpdate (p col : Nat)
  | drainEntry (p : Nat)
  | drldGrain (p : Nat)
  | doutComplete (p : Nat)
  | feedLost (p tag : Nat)
  -- pan store
  | narrowAccess (p bank : Nat) (obs : List WordObs)
  | starvation (p bank : Nat)
  | correctionWriteback (p : Nat)
  | poisonRewrite (p : Nat)
  | ceTableClear (u : MemUnit)
  | ovfLogClear (p : Nat)
  | bankSleep (p mask : Nat)
  | bankDrained (p bank : Nat)
  | bankSleepBound (p bank : Nat)
  | bankWake (p mask : Nat)
  | bankFillDone (p : Nat)
  | storeFillDone (p : Nat)
  | patrolScrub (p : Nat) (obs : List WordObs)
  | winClose (p mask : Nat)
  | debugAccess (p addr : Nat) (write : Option Nat)
  -- brine and cellar
  | sleep (slice : Nat) (fromHakar : Bool)
  | sliceDrained (slice : Nat)
  | sliceSleepBound (slice : Nat)
  | wake (slice : Nat)
  | sliceFillDone (slice : Nat)
  | sliceFail (slice code : Nat)
  | standInSlice (slice : Nat)
  | refresh (slice bank row : Nat) (wait : RefreshWait)
  | refreshIntervalChange (field : Nat) (temp16 : Int)
  | sliceScrub (slice : Nat) (obs : List WordObs)
  | cellarScrub (ch : Nat) (obs : List WordObs)
  | cellarChannelFail (ch code : Nat)
  | mr4Read (ch value : Nat)
  | wck2dqTracking (ch : Nat)
  -- haul engines
  | start (c : HaulId)
  | pause (c : HaulId)
  | rdData (k : Packet)
  | hostReadCompletion (ch tag : Nat) (good : Bool) (data : List Byte)
  | wrAck (k : Packet)
  | haulFlushComplete (ch : Nat)
  | haulError (k : Packet)
  | haulTimeout (src tag : Nat)
  -- bund network and operations at their targets
  | packetForward (at_ : OutLane) (check : LinkCheck) (waited : Bool)
  | routerFail (gx gy : Nat)
  | rowDeadSet (gx gy : Nat)
  | rd (k : Packet) (obs : List WordObs)
  | wr (a : WrArrival)
  | mcWr (a : McWrArrival)
  | busWr (k : Packet)
  | wrAckCombine (src tag : Nat)
  | urgWr (k : Packet)
  | atomic (k : Packet)
  | atomicData (k : Packet)
  | reduce (k : Packet)
  | reduceAck (k : Packet)
  | commit (k : Packet)
  | commitBounce (k : Packet)
  | commitResend
  | arrive (slot input : Nat)
  | barrier (k : Packet)
  -- Finron links
  | headerUnitReceive (port : Nat) (h : FinHeader) (fec : Fec)
  | payloadUnitReceive (port : Nat) (fec : Fec) (bytes : List Byte)
  | linkIdle (port ack crvc crcnt : Nat)
  | linkNak (port ack : Nat)
  | linkLane (port map codeword : Nat)
  | laneJudge (port lane : Nat) (lost : Bool)
  | linkReplayTimer (port : Nat)
  | creditReturn (port vc : Nat)
  | packetTransmit (k : Packet)
  -- jobs, steps and replay
  | stepDispatch (job : Nat)
  | sharesDone (device : Nat) (c : CommitRecord)
  | stepCommit (job : Nat)
  | sharesDoneResend (job : Nat)
  | shareReplay (device : Nat) (c : CommitRecord)
  | replayAck (device : Nat) (c : CommitRecord)
  | shareReplayResend (job : Nat)
  | faultRecordReceive
  | replayQuiesced (job : Nat)
  | replayResume (job : Nat)
  | memberFailure (job device : Nat)
  | zeroisation (job : Nat)
  | zeroisationDone (job : Nat)
  -- clocks
  | gradeRequest (grade : Nat)
  | gradeChange
  | vcoreRise
  | vcoreFall
  | tideResync
  | tideExchange (port : Nat) (stamps : TideStamps)
  | tideStampMessage (port : Nat) (mine peer : TideStamps)
  | ptmMeasure (hostTime : Nat)
  | tideHoldover
  | tideParentReselect
  -- power
  | powerEvaluation (rails : RailSample)
  | fastCurrentLoop (field milliAmps : Nat) (loop : LoopSample)
  | loadNoticeArrival (region : Nat)
  | peakEnd (region : Nat)
  | minvInterval (region mv sampleTide : Nat) (samples : DroopSamples)
  | thermalSample (region : Nat) (sensors : SensorPair)
  | restDeadline (region : Nat)
  | regionWake (region : Nat)
  | wakeAdmit (field : Nat)
  | wakeAdmitTimeout (field : Nat)
  | wakeRampDone (field : Nat)
  | wakeRegulated (field : Nat)
  | phaseFail (domain phase : Nat)
  | budgetReport (watts interval : Nat)
  | budgetReassign
  | budgetLimitReceive (m : BudgetMsg)
  | energyCharge (regions : List (Nat × Nat)) (shared : List DomainEnergy) (device : Nat)
  -- host interface
  | doorbell (slot : Nat)
  | imageLoad (c : Cmd) (buf : HostBuf) (img : Image)
  | jobCreate (c : Cmd) (regions jobId brineMib cellarMib lead : Nat)
  | place (c : Cmd) (seed : Nat) (rpt : HostBuf)
  | run (c : Cmd) (first count : Nat)
  | step (c : Cmd) (number : Nat)
  | kill (c : Cmd)
  | dump (c : Cmd) (area index offset : Nat) (buf : HostBuf)
  | lotAlloc (c : Cmd) (kind sizeMib : Nat)
  | lotFree (c : Cmd) (addr : Nat)
  | powerPolicy (c : Cmd) (limit window gradeMax : Nat)
  | budgetJoin (c : Cmd) (group total keeper : Nat) (buf : HostBuf) (members : List BudgetMember)
  | energyQuery (c : Cmd)
  | gaugeConfig (c : Cmd) (g : Nat) (buf : HostBuf) (desc : GaugeDesc)
  | gaugeRead (c : Cmd) (g : Nat) (buf : HostBuf)
  | faultRead (c : Cmd) (fromSeq : Nat) (buf : HostBuf) (max : Nat)
  | assayReport (c : Cmd) (buf : HostBuf)
  | aliasSet (c : Cmd) (buf : HostBuf) (table : List Nat)
  | fwUpdate (c : Cmd) (buf : HostBuf) (img : FwImage)
  | attest (c : Cmd) (nonce : Nat) (buf : HostBuf)
  | transfer (c : Cmd) (src dst count ctrl vector : Nat)
  | atomicCmd (c : Cmd) (addr aop low : Nat) (a b : Nat)
  | resume (c : Cmd) (number : Nat)
  | tagQuery (c : Cmd) (tags : List Nat)
  | ringEnable (log2E : Nat)
  | ringHeadWrite (value : Nat)
  | apertureWrite (hi : Bool) (value : Nat)
  | bar2Write (offset : Nat) (data : List Byte)
  | bar2Read (offset len tag : Nat)
  | intCoalesceExpiry
  | heartbeat
  | coreTakeover
  -- gauges, faults and the board
  | gaugeEvent (g : Nat) (value : Int) (time : Nat)
  | levelSample (g : Nat) (value : Int)
  | windowClose (g : Nat)
  | faultMirror
  | deviceFatal (f : FaultRec)
  | diffOffset (value : Nat)
  | diffData
  -- security
  | dbgChallenge (nonce : Nat)
  | dbgToken (t : DebugToken)
  | debugZeroiseDone
  | nonceExpiry
  | getVersion
  | getCapabilities
  | negotiateAlgorithms
  | challenge (nonce : Nat)
  | getMeasurements (index : Nat)
  | spdmUnsupportedRequest (code : Nat)
  | entropyTestFail
  -- registers and the remaining events
  | registerWrite (path : RegPath) (value : Nat)
  | rcRead (path : RegPath)
  | internalCheckFail (p unit : Nat)
  | regionClockFail (region : Nat)
  | reservedOpcode (p : Nat)
  | atomicRetry
  | bar2ReadTimeout (tag : Nat)
  | vectorHoldoffExpiry (vector : Nat)
  | vectorUnmask (vector : Nat)
  | rfm (ch : Nat)
  | perBankRefresh (ch bank : Nat)
  | quiesceTimeLimit (job : Nat)
deriving DecidableEq, Repr

end Sys2Proof
end

