-- ==== Sys2Proof/Config.lean ====
section
/-! DEFINITION. What the manual leaves to the part: values with no body, so that nothing can be proved of them. -/

namespace Sys2Proof

/-- A value the manual leaves open, the n-th drawn; the caller takes it at the width it needs (log 10). -/
opaque Config.freeValue : Nat → Nat

/-- Whether the n-th low of RESET_N or PERST_N that lasts between 500 ns and 1 µs begins a warm bring-up: R398 and
R503 state neither (log 11). -/
opaque Config.shortReset : Nat → Bool

/-- The identity public key of R473, which Thamente publishes (log 12). -/
opaque Config.identityKey : Nat

/-- A measurement of R481 over bytes whose content the manual does not give in full: its index and what is known of them (log 12). -/
opaque Config.measurement : Nat → List Nat → Nat

/-- DEVICE_SEED of the OTP, which never leaves the key store (R472, R473; log 12). -/
opaque Config.deviceSeed : Nat

/-- The ASEQ at which the job atomic source of a spare starts: the C_ASEQ that the lead recorded for the failed device, by job id and step
(R344; log 62). -/
opaque Config.recordedAseq : Nat → Nat → Nat

/-- A bundle of the zeroing program that Hakar loads (R346), of which the manual gives only the effect (log 117). -/
opaque Config.zeroingProgram : List Bundle

/-- The n-th signature or tag the module makes (FIPS 205, SP 800-185; R473, R480): keys no interface shows (log 12). -/
opaque Config.signature : Nat → Nat

end Sys2Proof
end

