-- ==== Sys2Proof/Machine/State.lean ====
section
/-! DEFINITION. The state of one Miomar M12: every register, queue, memory, mode and pin the manual gives it, and
the queue of waiting commands. Each field's docstring ends with (width; rule; value in State.reset). A value marked
with a log number is the model's own (notes/assumptions). -/

namespace Sys2Proof.Machine
open Sys2Proof

/-! ### Pan sequencer (chapter 4) -/

/-- The five sequencer states (R101, SEQ_STATUS [31:29]). -/
inductive SeqMode where
  | stopped
  | running
  | waiting
  | halted
  | faulted
deriving DecidableEq, Repr

/-- The tile context (R100, R116); `mode` is MODE of the tile descriptor, `copy` the COPY bit of the TILE. -/
structure TileCtx where
  mode : Nat
  b : Int
  len : Nat
  window : Bool
  wag : Nat
  nag : Nat
  dag : Nat
  ddesc : Nat
  chained : Bool
  copy : Bool
deriving DecidableEq, Repr

/-- What a WAITING sequencer waits for (R101): SWAIT with semaphore and count, FENCE with the number of the latest write issued
before it (R130), or the chain rendezvous. -/
inductive Wait where
  | none
  | swait (sem n : Nat)
  | fence (upTo : Nat)
  | rendezvous (t : TileCtx)
deriving DecidableEq, Repr

/-- An address generator (R131, R132), with its two streams and its position within a wrap. -/
structure Ag where
  loaded : Bool := false
  brine : Bool := false
  estart : Int := 0
  xstart : Int := 0
  estride : Int := 0
  xstride : Int := 0
  estep : Int := 0
  xstep : Int := 0
  count : Nat := 65536
  idx : Nat := 0
  ecur : Int := 0
  xcur : Int := 0
deriving DecidableEq, Repr

/-- A WFEED run (R111): its number in issue order, its slot fields, the generators, product mode and chaining its bundle named,
the chained slot number of its first slot (R93, R94), the next slot to issue, the slots whose brine reads have been issued (R113),
and the data that has returned, elements at key 2 × slot and exponents at 2 × slot + 1, each with its mark. -/
structure WestRun where
  id : Nat
  copy : Bool
  start : Bool
  last : Bool
  zero : Bool
  h : Nat
  w : Nat
  n : Nat
  wag : Nat
  mode : Nat
  nag : Nat := 0
  chained : Bool := false
  chainNo : Nat := 0
  next : Nat := 0
  issued : Nat := 0
  arrived : Sparse (List Byte × Bool) := []
deriving DecidableEq, Repr

/-- An entry of the feed order (R109): a WFEED run, whether it is the first entered after a TILE (R112), and the cycle from
which its feeder may begin it; or TEND. -/
inductive FeedEntry where
  | run (r : WestRun) (opens : Bool) (readyAt : Nat)
  | tend (readyAt : Nat)
deriving DecidableEq, Repr

/-- An entry of the north order: an HLOAD (R108) with its number in issue order and the cycle from which the feeder may
begin it (R109). -/
structure NorthEntry where
  id : Nat
  copy : Bool
  dp : Bool
  readyAt : Nat
deriving DecidableEq, Repr

/-- Drain parameters of a descriptor (R53), with the multiplier and bias vectors read under it. -/
structure DrainParams where
  reload : Bool := false
  biasEn : Bool := false
  mulEn : Bool := false
  fmt : Nat := 1
  esIn : Int := 0
  esOut : Int := 0
  emin : Int := 0
  emax : Int := 0
  eb : Int := 0
  muls : List Int := []
  biases : List Int := []
deriving DecidableEq, Repr

/-- An entry of the drain assignments: a DOUT (R120), or a DRLD (R121) with its descriptor's parameters once the drain has begun it;
`left` counts entries or grains to write. -/
inductive DrainEntry where
  | dout (left dag : Nat) (sig : Bool) (sem : Nat)
  | drld (left sag dag ddesc : Nat) (params : Option DrainParams)
deriving DecidableEq, Repr

/-- A rake vector register: 32 bytes as sixteen I16 lanes, and its lane tag (R100, R123); a grain loaded by RLD with
IMM[3] keeps its exponent here too; no other register has one. -/
structure VReg where
  lanes : List Int := List.replicate 16 0
  tag : Nat := 0xFFFF
  exponent : Option Int := none
deriving DecidableEq, Repr

/-- A rake result in flight (R100, R106, R123): its register (0 to 15 V, 16 to 19 Q), the cycle from which it can be read, and its
value. -/
structure RakeResult where
  reg : Nat
  at_ : Nat
  v : VReg := {}
  q : Int := 0
deriving DecidableEq, Repr

/-- An RLD that waits for its bank (R124): its number, destination, W, IMM, generator and addresses. -/
structure RakeLoad where
  id : Nat
  vd : Nat
  w : Bool
  imm : Nat
  ag : Nat
  ea : Nat
  xa : Nat
deriving DecidableEq, Repr

/-- A fault as the sequencer records it (FAULT_CODE, FAULT_PC, FAULT_TIDE of R140). -/
structure FaultReg where
  code : Nat := 0
  cls : Nat := 0
  detail : Nat := 0
  async : Bool := false
  slot : Nat := 0
  pc : Nat := 0
  tide : Nat := 0
deriving DecidableEq, Repr

/-- Pan sequencer state (R100, R140). -/
structure Seq where
  /-- Sequencer state (3 bits of SEQ_STATUS; R101; STOPPED). -/
  mode : SeqMode := .stopped
  /-- What a WAITING sequencer waits for (implied by R101; R128, R130, R117; none). -/
  wait : Wait := .none
  /-- Cycles the current wait has lasted (32 bits; R129; 0). -/
  waited : Nat := 0
  /-- PC (13 bits; R100; 0). -/
  pc : Nat := 0
  /-- SEQ_ENTRY (13 bits; R140; 0). -/
  entry : Nat := 0
  /-- PROG_LEN (14 bits; R140; 0). -/
  progLen : Nat := 0
  /-- Program store, 8,192 bundles (128 bits each; R99; zero bundles, log 2). -/
  program : Sparse Bundle := []
  /-- FAULT_CODE, FAULT_PC, FAULT_TIDE (R140; 0). -/
  fault : FaultReg := {}
  /-- WAIT_LIMIT (32 bits; R140; 0x0100_0000). -/
  waitLimit : Nat := 0x01000000
  /-- SEM[0..15] (16 bits each; R100, R140; 0). -/
  sems : Sparse Nat := []
  /-- NTT[0..15] (64 bits each; R140; 0). -/
  ntt : Sparse W64 := []
  /-- LC[0..7] (16 bits each, 65,536 held after LSET 0; R100, R126; 0). -/
  lcs : Sparse Nat := []
  /-- AG0 to AG3 (R100, R131; not loaded). -/
  ags : Sparse Ag := []
  /-- Tile context (R100; none). -/
  tile : Option TileCtx := none
  /-- A TILE has taken effect since GO (R114; false). -/
  tileSeen : Bool := false
  /-- TILE_OPEN (1 bit of SEQ_STATUS; R112; 0). -/
  tileOpen : Bool := false
  /-- WAG and NAG of the open tile, when it is chained (R117; none). -/
  openPair : List Nat := []
  /-- A TILE has taken effect and no WFEED has entered the feed order since: the next one opens a tile (R112; false). -/
  tileArmed : Bool := false
  /-- Number of the next WFEED or HLOAD in issue order (implied by R77, R78; 0). -/
  feedSeq : Nat := 0
  /-- Feed order, at most 4 (R100; empty). -/
  feedq : List FeedEntry := []
  /-- North order, at most 2 (R100; empty). -/
  northq : List NorthEntry := []
  /-- Drain assignments, at most 4 (R100; empty). -/
  drainq : List DrainEntry := []
  /-- V0 to V15 (256 bits and a 16-bit tag each; R100; zero, tags all ones). -/
  v : Sparse VReg := []
  /-- Q0 to Q3 (64 bits each; R100; 0). -/
  q : Sparse Int := []
  /-- Rake bounds EMIN_OUT and EMAX_OUT (8 bits each; R100; −128, +127). -/
  emin : Int := -128
  emax : Int := 127
  /-- Row lane count (17 bits; R125; 0). -/
  rowLanes : Nat := 0
  /-- The row that RQSET with IMM 1 began has shown a valid lane, and has shown lanes and no valid one (implied by R61; false). -/
  rowAny : Bool := false
  rowNone : Bool := false
  /-- Rake results in flight (R100, R106, R123; none). -/
  pend : List RakeResult := []
  /-- RLDs that wait for their bank (R124; none). -/
  loads : List RakeLoad := []
  /-- Number of the next RLD that waits (implied by R124; 0). -/
  nextLoad : Nat := 0
  /-- The port 0x6 reads that the bundle at the PC waited for have been served (R142, R146; false). -/
  descServed : Bool := false
  /-- Region cycles the pan has passed (implied by R105, R148, R134; 0, log 4). -/
  cycle : Nat := 0
  /-- Cycle of the latest GO (R148; 0). -/
  goCycle : Nat := 0
  /-- First cycle in which the next bundle may issue (R105; 0). -/
  nextIssue : Nat := 0
  /-- Region cycle counted as stalled, in which the bundle does not issue (R106; none). -/
  stalledAt : Option Nat := none
  /-- Cycle of the latest NOTICE since GO (R134; none). -/
  notice : Option Nat := none
  /-- Cycle of the latest valid west slot since GO (R134; none). -/
  lastValid : Option Nat := none
  /-- A burst held until this cycle (R135; none). -/
  hold : Option Nat := none
  /-- The burst hold just ended, so the burst starts (R135; false). -/
  holdDone : Bool := false
  /-- Chained slot number of the next chained WFEED (implied by R93, R94; 0). -/
  chainNext : Nat := 0
  /-- A chain peer has faulted in this cycle: class, code and logical column of the fault the chain takes (R139; none). -/
  peerStop : Option (Nat × Nat × Nat) := none
  /-- Region cycle of the latest fault (R137; 0). -/
  faultCycle : Nat := 0
  /-- The share for which DONE has been issued since GO (16 bits; R325; none). -/
  doneShare : Option Nat := none
  /-- A GO held until the whole-store fill ends (R159; false). -/
  heldGo : Bool := false
deriving DecidableEq, Repr

/-! ### Lattice and drain (chapters 2 and 3) -/

/-- One column of one held entry: its reduction elements and one exponent per grain (R75, R76). -/
structure HeldCol where
  elems : List Int := []
  exps : List Int := []
deriving DecidableEq, Repr

/-- A held copy (R75): ready when a load since GO has written it in full, and its contents; column j of held entry e is at key
64 × e + j. -/
structure HeldCopy where
  ready : Bool := false
  /-- The cycle in which the last write has taken effect, once `ready`. -/
  readyFrom : Nat := 0
  mode : Nat := 0
  b : Int := 0
  len : Nat := 1
  window : Bool := false
  cols : Sparse HeldCol := []
  drain : Option DrainParams := none
deriving DecidableEq, Repr

/-- The north feeder's load in progress (R76): its number, copy and DP, the tile context it captured when it began (R110), the next
column write, the columns whose brine reads have been issued and the data that has returned, as in `WestRun` (R512), the
columns written, the parameter cycles done and the parameters they have read. The slots issued before the load goes on use
the copy as it was (R77), so the copy takes these contents when the load ends. -/
structure NorthLoad where
  id : Nat
  copy : Bool
  dp : Bool
  nag : Nat
  mode : Nat := 1
  b : Int := 0
  len : Nat := 1
  window : Bool := false
  ddesc : Nat := 0
  next : Nat := 0
  issued : Nat := 0
  arrived : Sparse (List Byte × Bool) := []
  cols : Sparse HeldCol := []
  phase : Nat := 0
  drain : DrainParams := {}
  bytes : List Byte := []
  /-- The region cycle of its latest load cycle (R73; none). -/
  lastCycle : Option Nat := none
deriving DecidableEq, Repr

/-- What one column makes of a slot: the sum, the overflow flag and the clamped grains (R83, R51). -/
structure ColSum where
  sum : Int := 0
  flag : Bool := false
  clamps : Nat := 0
deriving DecidableEq, Repr

/-- A valid slot in flight (R79, R80): its control fields, what each column makes of it, the cycle it was issued, its
chained slot number (R93), and the columns whose sums have reached the south edge. `marked` is not carried: consumption of a mark stops the pan (R158). -/
structure FlightSlot where
  seq : Nat
  copy : Bool
  start : Bool
  last : Bool
  h : Nat
  w : Nat
  window : Bool
  len : Nat
  b : Int
  issued : Nat
  chain : Option Nat := none
  drain : Option DrainParams
  cols : List ColSum
  done : List Nat := []
deriving DecidableEq, Repr

/-- One column's accumulator entry (R84): its 72-bit sum, its sticky flag, the base exponent recorded at START (none before a START
and once the drain has read the entry), and the copy named by the slot whose LAST marked it complete (none while unmarked). -/
structure AccCol where
  sum : Int := 0
  flag : Bool := false
  b : Option Int := none
  copy : Option Bool := none
deriving DecidableEq, Repr

/-- One number's entries of the 64 columns (R84): whether all have marked it complete and the drain has not read it, with the
base exponent and the captured drain parameters of the slot that completed it (R86, R118). -/
structure AccEntry where
  cols : Sparse AccCol := []
  complete : Bool := false
  b : Int := 0
  drain : Option DrainParams := none
deriving DecidableEq, Repr

/-- A write of the drain on its way to the store (R87): the cycle in which it is made, its address and its bytes with their mark; or the
gathered bytes of a partial exponent word, each with its place in the word (R143); and the semaphore that its assignment then owes an
increment (R120). -/
structure DrainWrite where
  at_ : Nat
  addr : Nat
  bytes : List Byte := []
  mark : Bool := false
  part : List (Nat × Nat) := []
  sem : Option Nat := none
deriving DecidableEq, Repr

/-- Lattice and drain state of a pan (R75, R79, R84, R98, R143). -/
structure Lat where
  /-- Held copies 0 and 1 (R75; not loaded). -/
  copies : Sparse HeldCopy := []
  /-- North-feeder load in progress (LOADING of R98; none). -/
  load : Option NorthLoad := none
  /-- Cycle from which the north feeder may begin its next load (R109; 0). -/
  northFree : Nat := 0
  /-- Cycle from which the west feeder may begin its next entry (R109; 0). -/
  westFree : Nat := 0
  /-- West run in progress (R111; none). -/
  run : Option WestRun := none
  /-- Valid slots in flight, oldest first (R79, LAT_STATUS [7:0]; none). -/
  flight : List FlightSlot := []
  /-- Accumulator file, 256 entries per column (R84; empty). -/
  acc : Sparse AccEntry := []
  /-- Complete entries in the order they became complete, not yet read (R85, ENTRIES_PENDING; none). -/
  completeq : List Nat := []
  /-- First cycle in which the drain may read its next entry or grain (R85; 0). -/
  drainFrom : Nat := 0
  /-- Exponent combine buffer: address of the 64-bit word and the bytes gathered (R143; empty). -/
  expWord : Option (Nat × List (Nat × Nat)) := none
  /-- Writes of the drain on their way to the store, each made in its cycle (R87, R97; none). -/
  pipe : List DrainWrite := []
  /-- CHAINED (1 bit of LAT_STATUS; R98; 0). -/
  chained : Bool := false
  /-- Chained slots decided by pan 0 and not yet taken here: slot number and decision (R94; none). -/
  decisions : List (Nat × Bool) := []
  /-- Sums received over the chain link: chained slot number, column, sum and flag (R93; none). -/
  chainIn : List (Nat × Nat × Int × Bool) := []
  /-- Number of the next slot issued, which names it in flight (implied by R79; 0). -/
  nextSeq : Nat := 0
  /-- A semaphore increment a finished DOUT assignment still owes (R120; none). -/
  owed : List Nat := []
  /-- Wide accesses of this and later cycles: cycle, port code and unit (R147, R148; none). -/
  wide : List (Nat × Nat × Nat) := []
  /-- The port 0x6 reads that a DRLD waited for have been served (R121, R146; false). -/
  descServed : Bool := false
deriving DecidableEq, Repr

/-! ### Pan store (chapter 5) -/

/-- Bank states (BANK_STATE_LO of R171). -/
inductive BankMode where
  | awake
  | draining
  | asleep
  | filling
deriving DecidableEq, Repr

/-- A sluice window (R162): base, length, source match and mask. -/
structure Window where
  base : Nat
  len : Nat
  srcMatch : Nat
  srcMask : Nat
deriving DecidableEq, Repr

/-- An entry of a correctable table (R154, R193): address, syndrome, count, latest tide count, HOT record written (R456). -/
structure CeEntry where
  addr : Nat
  syndrome : Nat
  count : Nat
  tide : Nat
  hot : Bool := false
deriving DecidableEq, Repr

/-- What a narrow request serves (R142): a unit of an access whose response is owed, by the access's number; descriptor reads
of the sequencer or of a DRLD (port 0x6); an RLD, by its number, or a rake write (0x8); the patrol scrub, a correction
write-back or a poison rewrite of a word (0xF). -/
inductive NarrowUse where
  | reply (id : Nat)
  | sequencer
  | reload
  | rakeLoad (id : Nat)
  | rakeWrite
  | scrub
  | fixup (word : Nat)
  | rewrite (word : Nat)
deriving DecidableEq, Repr

/-- A narrow request waiting for its bank (R142, R146): port code, first address and bytes within one unit, the
marked data of a write or none for a read, what it serves, and when it arrived. -/
structure Narrow where
  port : Nat
  bank : Nat
  addr : Nat
  len : Nat
  write : Option (List Byte)
  marked : Bool := false
  use : NarrowUse := .reply 0
  since : Nat := 0
deriving DecidableEq, Repr

/-- A bit error that stands in a stored word until a write or a write-back reaches it (R151): the word's index within its memory,
its address, its syndrome, and whether it is uncorrectable. -/
structure WordErr where
  word : Nat
  addr : Nat
  syndrome : Nat
  uncorrectable : Bool
deriving DecidableEq, Repr

/-- A read or write admitted and not yet performed in full: the response it is owed, its first byte, and the units left
(R165, R166, R293). -/
structure Pending where
  id : Nat
  ack : Packet
  base : Nat
  left : Nat
deriving DecidableEq, Repr

/-- Pan store state (R144 to R171). -/
structure Store where
  /-- FILL_BUSY (1 bit; R171; 0). -/
  fillBusy : Bool := false
  /-- SCRUB_POS (17 bits; R171; 0). -/
  scrubPos : Nat := 0
  /-- SCRUB_PASS (32 bits; R171; 0). -/
  scrubPass : Nat := 0
  /-- SWZ_ROW[0..4] (12 bits each; R171; 1 << k). -/
  swz : List Nat := [1, 2, 4, 8, 16]
  /-- Own state of each bank (2 bits each of BANK_STATE; R171; awake). -/
  banks : Sparse BankMode := []
  /-- Outstanding-write counter of each bank (R167; 0). -/
  outstanding : Sparse Nat := []
  /-- Banks whose sleep is held until their fill ends (R167; none). -/
  heldSleep : List Nat := []
  /-- Draining banks whose wake takes effect at asleep (R168; none). -/
  heldWake : List Nat := []
  /-- Woken banks in the order in which they fill (R159; none). -/
  fillq : List Nat := []
  /-- Tide count of step 1 of each draining bank's sleep (R167; none). -/
  drainSince : Sparse Nat := []
  /-- Sluice windows 0 to 15 (WIN_BASE to WIN_MASK; R171; closed). -/
  windows : List (Nat × Window) := []
  /-- WOPEN and WCLOSE issued and not yet in force: cycle, window, contents (R163; none). -/
  winPend : List (Nat × Nat × Option Window) := []
  /-- Correctable table, 8 entries by index (R154, R171; empty). -/
  ce : List (Nat × CeEntry) := []
  /-- UE_LAST_ADDR (VALID and 20 bits; R171; not valid). -/
  ueLast : Option Nat := none
  /-- CONFLICT_INFO and CONFLICT_CYCLE (R148; 0). -/
  conflict : Nat × Nat × Nat × Nat := (0, 0, 0, 0)
  /-- STARVE_INFO: port code and bank (R150; 0). -/
  starve : Nat × Nat := (0, 0)
  /-- LAST_REJECT cause and address, LAST_REJECT_SRC (R165; 0). -/
  lastReject : Nat × Nat × Nat := (0, 0, 0)
  /-- Words that hold the poison pattern, by word index within the store, rising (R157; none). -/
  poison : List Nat := []
  /-- Waiting narrow requests, oldest first (R146; none). -/
  narrow : List Narrow := []
  /-- Admitted reads and writes in progress (R165, R166; none). -/
  writes : List Pending := []
  /-- Identity of the next admitted write (implied by R165; 1). -/
  nextWrite : Nat := 1
  /-- Bit errors that stand in stored words (R151; none). -/
  errs : List WordErr := []
  /-- Banks a narrow access occupies: bank and the last cycle of it (R146, R147; none). -/
  busy : List (Nat × Nat) := []
  /-- The last cycle in which each narrow port is taken (R142; none). -/
  served : Sparse Nat := []
  /-- Tide count of the latest scrub visit (R160; 0). -/
  scrubAt : Nat := 0
deriving DecidableEq, Repr

/-! ### Haul channels (chapter 7) -/

/-- Haul channel states (STATUS [31:29] of R202). -/
inductive HaulMode where
  | idle
  | running
  | pausing
  | paused
  | done
  | stopping
  | error
deriving DecidableEq, Repr

/-- A haul channel (R202) and its transfer in progress. -/
structure Haul where
  /-- SRC (64 bits; R202; 0). -/
  src : Nat := 0
  /-- DST (64 bits; R202; 0). -/
  dst : Nat := 0
  /-- COUNT (32 bits; R202; 0). -/
  count : Nat := 0
  /-- CTRL [25:0], START and PAUSE not stored (R202; 0). -/
  ctrl : Nat := 0
  /-- STATE (3 bits; R202; idle). -/
  mode : HaulMode := .idle
  /-- SIDE (1 bit; R202; 0). -/
  side : Nat := 0
  /-- CAUSE (8 bits; R202; 0). -/
  cause : Nat := 0
  /-- FAIL_ADDR (64 bits; R202; 0). -/
  failAddr : Nat := 0
  /-- Offset of the earliest failure of the transfer, from its first byte (R220; none). -/
  failOff : Option Nat := none
  /-- Source bytes asked for since START (implied by R210, R218; 0). -/
  readPos : Nat := 0
  /-- Source bytes returned and not yet written: offset, bytes, mark (R211; none). -/
  buffer : List (Nat × List Byte × Bool) := []
  /-- Destination bytes issued since START (R211; 0). -/
  writePos : Nat := 0
  /-- Writes issued and not acknowledged (R214, R216; 0). -/
  unacked : Nat := 0
  /-- Read units issued and not returned (R214; 0). -/
  unread : Nat := 0
  /-- Host writes await the flush read (R216; false). -/
  flushing : Bool := false
  /-- READ_UNIT_COUNT, WRITE_UNIT_COUNT, ERROR_COUNT (32 bits each, RC; R202; 0). -/
  readUnits : Nat := 0
  writeUnits : Nat := 0
  errors : Nat := 0
  /-- The host command this channel serves, by tag (R442; none). -/
  cmd : Option Nat := none
deriving DecidableEq, Repr

/-! ### One pan -/

/-- The pan at one physical position: sequencer, lattice, store, four haul channels, and its counters. -/
structure Pan where
  seq : Seq := {}
  lat : Lat := {}
  store : Store := {}
  /-- Pan haul channels 0 to 3 (R200; idle). -/
  haul : Sparse Haul := []
  /-- RC counters of the sequencer, lattice, arithmetic and pan store blocks by the numbers of `PanCtr` (32 bits each; R67, R98, R140, R171; 0). -/
  ctr : Sparse Nat := []
  /-- OVF_LOG entries in order, at most 8: element index and address (R67, R68; empty). -/
  ovfLog : List (Nat × Nat) := []
  /-- Sequencer and lattice as they stood before the fault of this cycle, for the other faults of the cycle (R137; none). -/
  before : Option (Seq × Lat) := none
deriving DecidableEq, Repr

/-! ### Brine and cellar (chapter 6) -/

/-- Slice states (SLICE_STATE of R197). -/
inductive SliceMode where
  | awake
  | draining
  | asleep
  | filling
  | failed
  | bad
deriving DecidableEq, Repr

/-- A piece of a write admitted at a slice and not yet performed (R174, R185): the number of the request it belongs to, its place among the
request's pieces (R183), and its unit parts, each with its first byte within the slice, its bytes and its mark. -/
structure SliceWrite where
  id : Nat
  piece : Nat
  parts : List (Nat × List Byte × Bool)
deriving DecidableEq, Repr

/-- A brine slice (R197). -/
structure Slice where
  /-- SLICE_STATE (3 bits; R197; awake, log 3). -/
  mode : SliceMode := .awake
  /-- Spare columns and rows in use (8 bits each; R197; 0, log 3). -/
  spareCols : Nat := 0
  spareRows : Nat := 0
  /-- Admitted writes not yet performed, in arrival order; their number is OUTSTANDING (8 bits; R174, R185, R197; none). -/
  queue : List SliceWrite := []
  /-- Tide count of step 1 of a sleep in progress (R185; 0). -/
  drainSince : Nat := 0
  /-- SCRUB_POS (19 bits; R197; 0). -/
  scrubPos : Nat := 0
  /-- Tide count of the latest scrub visit (R195; 0). -/
  scrubAt : Nat := 0
  /-- SCRUB_PASS (32 bits; R197; 0). -/
  scrubPass : Nat := 0
  /-- RC counters by the numbers of `MemCtr` (32 bits each; R197; 0). -/
  ctr : Sparse Nat := []
  /-- UE_LAST_ADDR (VALID and 20 bits; R197; not valid). -/
  ueLast : Option Nat := none
  /-- Correctable table, 16 entries (R193; empty). -/
  ce : List (Nat × CeEntry) := []
  /-- Tide counts of new uncorrectable codewords within the last second (R187; none). -/
  ueTides : List Nat := []
  /-- Codewords holding the poison pattern, by index within the slice, rising (R194; none). -/
  poison : List Nat := []
  /-- Errors that stand in stored codewords (R173, R193; none). -/
  errs : List WordErr := []
  /-- Tide count at which each row was refreshed since the latest fill, at key 2,048 × bank + row (R176; none). -/
  refreshed : Sparse Nat := []
  /-- Tide count of the latest fill, which counts as every row's refresh (R196; 0). -/
  filledAt : Nat := 0
  /-- How often each bank's next refresh has been postponed, 0 to 8 (R176; 0). -/
  postponed : Sparse Nat := []
deriving DecidableEq, Repr

/-- Cellar channel states (CH_STATE of R198). -/
inductive ChanMode where
  | active
  | training
  | filling
  | unpopulated
  | failed
deriving DecidableEq, Repr

/-- A cellar channel (R198). -/
structure Chan where
  /-- CH_STATE (3 bits; R198; active, log 3). -/
  mode : ChanMode := .active
  /-- CH_STATE data rate (14 bits; R198; 9,600, log 3). -/
  rate : Nat := 9600
  /-- SCRUB_POS_LO (32 bits; R198; 0). -/
  scrubPos : Nat := 0
  /-- Tide count of the latest scrub visit (R195; 0). -/
  scrubAt : Nat := 0
  /-- SCRUB_PASS (32 bits; R198; 0). -/
  scrubPass : Nat := 0
  /-- RC counters by the numbers of `MemCtr` (32 bits each; R198; 0). -/
  ctr : Sparse Nat := []
  /-- UE_LAST (VALID and word address [34:3]; R198; not valid). -/
  ueLast : Option Nat := none
  /-- Correctable table, 16 entries (R193; empty). -/
  ce : List (Nat × CeEntry) := []
  /-- Tide counts of new uncorrectable words within the last second (R192; none). -/
  ueTides : List Nat := []
  /-- Words holding the poison pattern, by word index within the channel, rising (R194; none). -/
  poison : List Nat := []
  /-- Errors that stand in stored words (R151, R193; none). -/
  errs : List WordErr := []
  /-- Check bursts held by the write-back check cache, by number of 64-byte bursts from channel address 0, most recently used
  first, at most 1,024 (R190; none). -/
  cache : List Nat := []
  /-- Latest MR4 value, which sets the refresh rate (R191; 0, log 2). -/
  mr4 : Nat := 0
  /-- Bank refreshed latest by per-bank refresh (R191; 0, log 2). -/
  refreshBank : Nat := 0
  /-- WCK2DQ trackings performed (R191; 0). -/
  trackings : Nat := 0
deriving DecidableEq, Repr

/-- A lot-table entry (R180): near with its extents, or even with its base and length. -/
inductive Lot where
  | near (job n count first : Nat)
  | even (job base len : Nat)
deriving DecidableEq, Repr

/-- A cellar lot (R189): first linear address, bytes and owning job. -/
structure CellarLot where
  base : Nat
  bytes : Nat
  job : Nat
deriving DecidableEq, Repr

/-- A brine write some of whose pieces are admitted and not yet performed (R183, R293): its number, its packet, the cause of the first
piece rejected (0 none), and the pieces left. -/
structure BrineWrite where
  id : Nat
  k : Packet
  cause : Nat
  left : Nat
deriving DecidableEq, Repr

/-- The device's memory as a whole (R199). -/
structure MemDev where
  /-- N of SPREAD_INFO (11 bits; R199; 1,620, log 3). -/
  n : Nat := 1620
  /-- M of SPREAD_INFO (11 bits; R199; 541). -/
  m : Nat := 541
  /-- EZ_BASE and EZ_LEN in 64 KiB units (9 and 10 bits; R199; 320 and 192, log 5). -/
  ezBase : Nat := 320
  ezLen : Nat := 192
  /-- Slices failed during the epoch (16 bits; R199; 0). -/
  slicesFailed : Nat := 0
  /-- Slices bad at assay (11 bits; R199; 0, log 3). -/
  slicesBad : Nat := 0
  /-- CELLAR_SITES (24 bits; R199; all, log 3). -/
  sites : Nat := 0xFFFFFF
  /-- CELLAR_CFG rate and capacity code (14 and 4 bits; R199; 9,600 and 96 GB, log 3). -/
  rate : Nat := 9600
  capacity : Nat := 4
  /-- CELLAR_FILL_BUSY and BRINE_FILL_BUSY (R199; 0). -/
  cellarFill : Bool := false
  brineFill : Bool := false
  /-- SPREAD entries that differ from (i, 0): slice id and DISP (R199; none). -/
  spread : List (Nat × Nat × Int) := []
  /-- LOT[l]; an unlisted lot is free (64 bits each; R199, R180; free). -/
  lots : List (Nat × Lot) := []
  /-- EXT[x] (16 bits each; R199; 0). -/
  ext : Sparse Nat := []
  /-- Cellar lots, which Hakar allocates (R189; none). -/
  cellarLots : List CellarLot := []
  /-- Lots that LOT_ALLOC allocated, by lot id (R446; none). -/
  allocated : List Nat := []
  /-- Brine writes in progress (R183, R293; none). -/
  writing : List BrineWrite := []
  /-- Number of the next of them (implied by R183; 0). -/
  nextWriting : Nat := 0
deriving DecidableEq, Repr


/-! ### Topology (chapter 1) -/

/-- A translation entry RTT[y] (R33, R509): state 0 active, 1 fenced, 2 carried by the reserve, 3 absent. -/
structure Rtt where
  state : Nat
  spare : Nat
  assayRow : Nat
  row : Nat
deriving DecidableEq, Repr

/-- One field of the topology block (R33). -/
structure Topo where
  /-- FIELD_INFO good regions (4 bits; R33; 9, log 3). -/
  goodRows : Nat := 9
  /-- RESERVE state (3 bits; R33; 0 available, log 3). -/
  resState : Nat := 0
  /-- RESERVE spare column (4 bits; R33; 14, log 3). -/
  resSpare : Nat := 14
  /-- RESERVE logical row carried (3 bits; R33; 0). -/
  resCarried : Nat := 0
  /-- RESERVE physical row (4 bits; R33; 8, log 3). -/
  resRow : Nat := 8
  /-- PHYS_STATE, one number 0 to 3 per physical row (2 bits each; R33; rows 0 to 7 carrying, row 8 reserve, log 3). -/
  phys : List Nat := [0, 0, 0, 0, 0, 0, 0, 0, 1]
  /-- RTT[0..7] (R33; row y active with spare column 14, log 3). -/
  rtt : List Rtt := (List.range 8).map fun y => ⟨0, 14, y, y⟩
  /-- Spare column of each physical row (implied by R18, R21; 14, log 3). -/
  spares : List Nat := List.replicate 9 14
  /-- PAN_PASS[0..8] (15 bits each; R33; all ones, log 3). -/
  panPass : List Nat := List.replicate 9 0x7FFF
deriving DecidableEq, Repr

/-! ### Bund network (chapter 8) -/

/-- A router (R253). SKIP and LOGICAL are derived from the states of its neighbours and from the topology. -/
structure Router where
  /-- RTR_STATE (3 bits; R253; good, log 3): 0 good, 1 failed at assay, 2 failed during the epoch. -/
  state : Nat := 0
  /-- SEAM_SPARES (four bytes; R253; 0, log 3). -/
  seamSpares : Nat := 0
  /-- RC counters by the numbers of `RtrCtr` (32 bits each; R253; 0). -/
  ctr : Sparse Nat := []
  /-- Tide counts of the uncorrectable events of the link into each input port within the last second (R226; none). -/
  ueTides : Sparse (List Nat) := []
  /-- Bund cycle (twice the tide count) from which the next urgent unit may be injected (R235; 0). -/
  urgentNext : Nat := 0
  /-- The packet in the middle of which each output lane stands, at key 2 × output port + lane: its number in the network
  (R233; none). -/
  held : Sparse (Option Nat) := []
  /-- The input buffer granted latest on each output lane and channel, at key 4 × (2 × output port + lane) + channel: 2 × input port,
  plus 1 for the detour network (R233; none). -/
  granted : Sparse (Option Nat) := []
deriving DecidableEq, Repr

/-- A group entry (R254). -/
structure Group where
  valid : Bool := false
  bus : Bool := false
  job : Nat := 0
  fields : Nat := 0
  /-- Rectangles (GX0, GX1, GY0, GY1). -/
  rects : List (Nat × Nat × Nat × Nat) := []
deriving DecidableEq, Repr

/-- A router on the tree of a multicast write (R244): its coordinates, and the replica that serves it, by the column the replica is
for, or 60 for the part along the injecting row. -/
structure Branch where
  trunk : Nat
  gx : Nat
  gy : Nat
deriving DecidableEq, Repr

/-- A group write whose responses are being combined (R246): its source, tag and group address, the injecting router, whether it took
the broadcast bus, its units, the members that have not answered, the rejections seen as (gy, gx, cause), and the links of
its tree over which no response has gone upstream, each from a router to the one before it. -/
structure Combine where
  src : Nat
  tag : Nat
  addr : Nat
  gx : Nat
  gy : Nat
  bus : Bool := false
  units : Nat := 1
  waiting : List (Nat × Nat) := []
  causes : List (Nat × Nat × Nat) := []
  links : List (Branch × Branch) := []
deriving DecidableEq, Repr

/-- Where a unit of a packet stands (R231): in an input buffer of a router, of the detour network or not; `seq` orders the units of a
buffer by arrival. Input and output ports are numbered 0 to 3 mesh east, west, north, south; 4 to 7 skip, in the same order; 8
local; 9 edge. -/
structure UnitAt where
  gx : Nat
  gy : Nat
  port : Nat
  detour : Bool := false
  seq : Nat := 0
deriving DecidableEq, Repr

/-- A packet in the network (R228): its number, its header and data, the router that injected it, the bund cycle from which it may
leave it (R235), and its units in order, none for one that has left by the local or edge port of its destination. -/
structure Transit where
  id : Nat
  k : Packet
  ox : Nat
  oy : Nat
  start : Nat := 0
  units : List (Option UnitAt) := []
deriving DecidableEq, Repr

/-- The network block (R254) and the packets in the network. -/
structure Net where
  /-- Routers by index gy × 60 + gx (R253; good). -/
  routers : Sparse Router := []
  /-- ROW_DEAD of the routers of row gy, bit gx (60 bits; R253; 0, log 3). -/
  rowDead : Sparse Nat := []
  /-- NET_STATUS: failed this epoch and failed at assay (11 bits each; R254; 0). -/
  failedEpoch : Nat := 0
  failedAssay : Nat := 0
  /-- Mesh skip links that failed at assay, by class 0x5 index (R405; none, log 3). -/
  badSkips : List Nat := []
  /-- URGENT_GAP (6 bits; R254; 8). -/
  urgentGap : Nat := 8
  /-- Group table (R254; invalid). -/
  groups : Sparse Group := []
  /-- Packets in the network and at their targets, in order of injection (R228, R231; none). -/
  flight : List Transit := []
  /-- Number of the next packet injected (implied by R232; 0). -/
  nextPacket : Nat := 0
  /-- How many units have moved into a buffer (implied by R231; 0). -/
  moved : Nat := 0
  /-- The collective unit's packets for Finron's bulk channel, oldest first (R311; none). -/
  bulk : List Packet := []
  /-- Group writes whose responses are being combined (R246; none). -/
  combine : List Combine := []
  /-- Last granted position of each field's broadcast bus (R248; 0, log 2). -/
  busGrant : Sparse Nat := []
deriving DecidableEq, Repr

/-- Who waits for a response (R229 TAG): a haul channel, a pan's feeder, a BAR2 read or write, an atomic command, the root's
result write of a slot, the router of a stopped pan, which absorbs the acknowledgement of an old write (R339), the flush read of a
haul channel (R216), the collective unit for a chunk sent to its parent (R311), or no one, for a request given up (R222). -/
inductive Requester where
  | haul (c : HaulId)
  | feeder (pos : Nat) (north : Bool)
  | bar2 (tag : Nat)
  | atomic
  | rootWrite (slot : Nat)
  | absorbed (pos : Nat)
  | haulFlush (c : HaulId)
  | collective
  | expired
deriving DecidableEq, Repr

/-- A request without its response yet: source id, tag, requester, first address, bytes, offset within the transfer,
whether it is a write, its issue tide count (R222), its number in order of issue (R130), and whether it is a non-posted request to the
host (R422). -/
structure Outst where
  src : Nat
  tag : Nat
  who : Requester
  addr : Nat
  len : Nat
  off : Nat
  write : Bool
  issued : Nat
  serial : Nat := 0
  host : Bool := false
deriving DecidableEq, Repr

/-! ### Finron (chapters 9 and 10) -/

/-- A Finron port (R279) and its two link ends. -/
structure Port where
  /-- PORT_STATE (3 bits; R279; 0 disabled, log 3): 1 training, 2 up, 3 up on fewer lanes, 4 down. -/
  state : Nat := 0
  /-- Usable physical lanes (9 bits; R279; all nine, log 3). -/
  usable : Nat := 0x1FF
  /-- Tide count at which training began (R411; none). -/
  trainFrom : Option Nat := none
  /-- SPARE_IN_USE (1 bit; R279; 0, log 3). -/
  spareUsed : Bool := false
  /-- LANE_MAP, logical lane i at place i, 15 when dropped (4 bits each; R279; lane i, log 3). -/
  laneMap : List Nat := [0, 1, 2, 3, 4, 5, 6, 7]
  /-- A lane map received and the codeword from which it applies (R262, R265; none). -/
  mapFrom : Nat := 0
  /-- PORT_CTL ENABLE (1 bit; R279; 1). -/
  enable : Bool := true
  /-- PEER: device and port (R279; not valid). -/
  peer : Option (Nat × Nat) := none
  /-- RC counters by the numbers of `PortCtr` (32 bits each; R279; 0). -/
  ctr : Sparse Nat := []
  /-- SEQ of the next sequenced packet sent (12 bits; R264; 1, log 2). -/
  txSeq : Nat := 1
  /-- SEQ expected next from the peer (12 bits; R266; 1, log 2). -/
  rxSeq : Nat := 1
  /-- A sequenced header failed and the receiver discards until it is resent (R266; false). -/
  nak : Bool := false
  /-- Slots in use here by packets received and not yet passed on, per virtual channel and class, key 4 × vc + class (R268; 0). -/
  pool : Sparse Nat := []
  /-- Slots sent so far, and the count at each channel's latest grant (R270; 0). -/
  slotsSent : Nat := 0
  grants : Sparse Nat := []
  /-- Corrected symbols of the last millisecond: physical lane, tide count, symbols (R262; none). -/
  corr : List (Nat × Nat × Nat) := []
  /-- Physical lanes that have delivered an uncorrectable codeword (R262; none). -/
  uncorr : List Nat := []
  /-- Replay buffer: sequence number, header, payload, tide count when sent (R267; empty). -/
  replay : List (Nat × FinHeader × List Byte × Nat) := []
  /-- Slots in use at the receiver per virtual channel and class, key 4 × vc + class (R268, R269; 0). -/
  used : Sparse Nat := []
  /-- Running freed-slot count received per virtual channel (R269; 0). -/
  freedSeen : Sparse Nat := []
  /-- Slots freed here and not yet reported, and the running count, per virtual channel (R269; 0). -/
  unreported : Sparse Nat := []
  freed : Sparse Nat := []
  /-- The packets whose payload units are arriving, the one that pre-empted the others first: header, bytes, marks, and whether the
  receiver discards it (R260, R266, R270; none). -/
  arriving : List (FinHeader × List Byte × List Bool × Bool) := []
  /-- The traffic of this port during the step in progress, as a job mask (R263; 0). -/
  jobs : Nat := 0
deriving DecidableEq, Repr

/-- A requantisation table entry (R280). -/
structure ReqEntry where
  base : Nat
  anyDev : Bool
  len : Nat
deriving DecidableEq, Repr

/-- A ROUTE entry (R280): express hop and port, and the position of the device. -/
structure Route where
  exp : Option Nat := none
  x : Nat
  y : Nat
  z : Nat
deriving DecidableEq, Repr

/-- The Finron block (R280) and the ports. -/
structure Finron where
  /-- Ports P0 to P15 (R279; disabled, log 3). -/
  ports : Sparse Port := []
  /-- DOMAIN_DIMS DX, DY, DZ (5, 4 and 4 bits, less one; R280; 1, 1, 1). -/
  dx : Nat := 1
  dy : Nat := 1
  dz : Nat := 1
  /-- SELF_POS (VALID and 13 bits; R280; not valid). -/
  selfPos : Option (Nat × Nat × Nat) := none
  /-- REQ_BASE, REQ_CTL, REQ_LEN [0..15] (R280; not valid). -/
  req : List (Nat × ReqEntry) := []
  /-- POS_STATE, four bits per position (R280; 0). -/
  posState : Sparse Nat := []
  /-- ROUTE[d]; an unlisted device has no valid entry (R280; 0). -/
  route : List (Nat × Route) := []
  /-- Packets that wait at an output port: port, header, payload, and the port and class key whose receive pool holds them
  meanwhile (R268, R269; none). -/
  held : List (Nat × FinHeader × List Byte × Option (Nat × Nat)) := []
  /-- Packets sent, oldest first: port, header, payload (R267, R273; none). -/
  sent : List (Nat × FinHeader × List Byte) := []
  /-- Link-control headers sent, oldest first: port and header (R265; none). -/
  control : List (Nat × FinHeader) := []
deriving DecidableEq, Repr

/-- An atomic record (R297): source, highest number, numbers performed with value and mark, tide count of last use. -/
structure AtomicRec where
  src : Nat
  high : Nat
  done : List (Nat × Nat × Bool) := []
  used : Nat := 0
deriving DecidableEq, Repr

/-- One chunk of a collective slot (R310): sixteen accumulators, input bits, whether a marked unit was taken in. -/
structure Chunk where
  acc : List Int := List.replicate 16 0
  seen : List Nat := []
  marked : Bool := false
deriving DecidableEq, Repr

/-- A collective slot (R315). -/
structure Slot where
  valid : Bool := false
  rop : Nat := 0
  root : Bool := false
  chunks : Nat := 1
  job : Nat := 0
  gen : Nat := 0
  parent : Nat := 0
  parentInput : Nat := 0
  /-- SLOT_STATUS: 0 idle, 1 collecting, 2 complete, 3 released. -/
  status : Nat := 0
  complete : Nat := 0
  sat : Nat := 0
  dups : Nat := 0
  expect : List Nat := []
  dst : Nat := 0
  notes : List Nat := []
  data : Sparse Chunk := []
  /-- Barrier inputs arrived (R314). -/
  arrived : List Nat := []
  /-- Device of each child input that has arrived (implied by R314; none). -/
  children : List (Nat × Nat) := []
  /-- Root result writes not yet acknowledged (R312). -/
  unacked : Nat := 0
deriving DecidableEq, Repr

/-- The services block (R315) and the atomic unit. -/
structure Services where
  /-- IDENT: VALID and device id (R315; 0 valid, log 3). -/
  ident : Option Nat := some 0
  /-- HOME_ID (13 bits; R315; 0, log 3). -/
  homeId : Nat := 0
  /-- ATOMIC_COUNT, ATOMIC_DUP_COUNT, ATOMIC_REFUSE_COUNT, COMMIT_REFUSE_COUNT by `SvcCtr` (32 bits each, RC; R315; 0). -/
  ctr : Sparse Nat := []
  /-- COMMIT_IN queue, at most 64: sending device and record (R300; empty). -/
  commitIn : List (Nat × CommitRecord) := []
  /-- COMMIT_BOUNCE queue, at most 64: device it was sent to, record, tide count (R300; empty). -/
  bounced : List (Nat × CommitRecord × Nat) := []
  /-- ALIAS[0..63]: device id and position (R315; not valid). -/
  aliases : List (Nat × Nat × Nat) := []
  /-- COMMITs that wait for the writes issued before them, with the number of the latest of those (R300; none). -/
  commits : List (Packet × Nat) := []
  /-- Collective slots 0 to 63 (R315; invalid). -/
  slots : Sparse Slot := []
  /-- Atomic records, at most 256 (R297; none). -/
  records : List AtomicRec := []
  /-- ASEQ of each control-complex haul channel, the number of its next atomic (24 bits; R297, R330; 0, log 2). -/
  aseq : Sparse Nat := []
deriving DecidableEq, Repr

/-! ### Jobs (chapter 11) -/

/-- Job states (R319); an absent job is ENDED, its slot free. -/
inductive JobMode where
  | created
  | placed
  | running
  | replaying
  | held
  | ending
deriving DecidableEq, Repr

/-- A lot entry of a tally record (R329). -/
structure TallyLot where
  addr : Nat
  kind : Nat
  gen : Nat
  aux : Nat
deriving DecidableEq, Repr

/-- A tally record (R329): STATE 1 written, 2 dispatched, 3 replaying, 4 committed, 5 abandoned. -/
structure Tally where
  state : Nat
  step : Nat
  layer : Nat := 0
  /-- Program section index. -/
  psec : Nat := 0
  placeVer : Nat := 0
  shares : Nat := 0
  sharesDone : Nat := 0
  aseq : Nat := 0
  atomics : Nat := 0
  dispatched : Nat := 0
  committed : Nat := 0
  replays : Nat := 0
  inputs : List TallyLot := []
  output : Option TallyLot := none
  arith : List Nat := [0, 0, 0, 0, 0, 0]
deriving DecidableEq, Repr

/-- Progress of one share of the step in flight: the logical columns whose pans sent DONE with the counters kept (R332), and its runs. -/
structure ShareRun where
  share : Nat
  /-- The number of the share's first atomic (R331). -/
  aseq : Nat := 0
  /-- GO has been sent for the current run. -/
  started : Bool := false
  donePans : List (Nat × List Nat) := []
  runs : Nat := 1
deriving DecidableEq, Repr

/-- Where a replay stands (R339): phase, closure shares, physical regions to replace, tide count of its start, the shares of
the step before that run again first, and the haul channels whose transfer is reissued after them (R340). -/
structure Replay where
  phase : Nat
  shares : List Nat
  fence : List Nat
  since : Nat
  /-- The tally's step the prior shares belong to, and their runs. -/
  priorStep : Nat := 0
  prior : List ShareRun := []
  reissue : List Nat := []
  /-- Shares of other devices that the union of the closures joins, as (device, share) (R337, R342). -/
  remote : List (Nat × Nat) := []
deriving DecidableEq, Repr

/-- Where a tensor of a placed job lives: lots by generation (one for a fixed tensor), a cellar copy, a size. -/
structure Placed where
  tensor : Nat
  kind : Nat
  lots : List Nat
  home : Nat := 0x7F
  copy : Nat := 0
deriving DecidableEq, Repr

/-- A job in its slot (R317 to R347). -/
structure Job where
  mode : JobMode := .created
  /-- Granted logical regions (R317). -/
  regions : List Nat := []
  jobId : Nat := 0
  brineMib : Nat := 0
  cellarMib : Nat := 0
  lead : Nat := 8191
  retain : Bool := false
  created : Nat := 0
  image : Option Image := none
  seed : Nat := 0
  /-- Report buffer of the latest PLACE (R323). -/
  report : HostBuf := {}
  placeVer : Nat := 0
  /-- JRT: state 1 active or 2 absent, by job region (R323). -/
  jrt : List Nat := []
  /-- Job region of (layer, share) where it differs from the layer sweep (R324). -/
  moved : List ((Nat × Nat) × Nat) := []
  placed : List Placed := []
  groups : List Nat := []
  slots : List Nat := []
  cellar : List CellarLot := []
  /-- Tally records, at most eight, newest first (R329). -/
  tally : List Tally := []
  /-- Share runs of the step in flight. -/
  runs : List ShareRun := []
  replay : Option Replay := none
  /-- How often each share of a step committed has run, as (step, share, runs) (R338; none). -/
  ranBefore : List (Nat × Nat × Nat) := []
  /-- Fault records that came after the commit decision and wait for the next step that uses their region (R335; none). -/
  later : List FaultRec := []
  /-- The RUN, STEP or RESUME in force: tag, opcode, steps left (none: without limit), (R438). -/
  order : Option (Nat × Nat × Option Nat) := none
  /-- The next step to dispatch and whether one is in flight (R325). -/
  nextStep : Nat := 0
  inFlight : Bool := false
  /-- KILL held for a phase boundary or graceful end: tag and whether graceful (R342, R445). -/
  killed : Option (Nat × Bool) := none
  /-- Devices whose SHARES_DONE for the step the lead holds, with C_ASEQ (R333). -/
  membersDone : List (Nat × Nat) := []
  /-- The C_ASEQ of each member at the last committed step, which the lead keeps (R333, R344). -/
  memberAseq : List (Nat × Nat) := []
  /-- Tide count when SHARES_DONE was last sent, while unanswered (R334). -/
  doneSent : Option Nat := none
  /-- STEP_COMMIT for the step in flight has arrived or been decided (R325). -/
  commitHere : Bool := false
  /-- SHARE_REPLAY records sent and unanswered: device, record, tide count (R334). -/
  replaySent : List (Nat × CommitRecord × Nat) := []
  /-- SHARE_REPLAY records acted on: device and record (R334). -/
  replaySeen : List (Nat × CommitRecord) := []
  /-- How many SHARE_REPLAY records the step has sent as new requests to (device, share) (R333). -/
  replayCount : List ((Nat × Nat) × Nat) := []
  /-- End reason and code of a job that is ending, and the tag its end entry carries (R345, R445). -/
  ending : Option (Nat × Nat × Nat) := none
  /-- The opcode of the command whose tag that is, 0 when none (R433; 0). -/
  endingOp : Nat := 0
  /-- DUMP or KILL has released the residue (R347). -/
  released : Bool := false
  /-- Zeroisation has begun (R346). -/
  zeroing : Bool := false
  /-- Sequences masked after poison (R341). -/
  masked : List Nat := []
  /-- Energy charged to regions and shared, µJ, and last tide count charged (R394). -/
  regionUj : Nat := 0
  sharedUj : Nat := 0
  chargedTo : Nat := 0
deriving DecidableEq, Repr

/-! ### Clocks and power (chapters 12 and 13) -/

/-- REGION_CLK states (R371) and REGION_PWR states (R395). -/
inductive RegClk where
  | running
  | stopped
  | gated
deriving DecidableEq, Repr

/-- REGION_PWR states (R395). -/
inductive RegPwr where
  | running
  | rested
  | waking
  | gated
deriving DecidableEq, Repr

/-- A minimum-voltage log entry (R381, R395). -/
structure MinvEntry where
  off : Bool := false
  stretch : Nat := 0
  grade : Nat := 0
  mv : Nat := 0
  tide : Nat := 0
deriving DecidableEq, Repr

/-- A physical region (R371, R395). -/
structure Region where
  /-- REGION_CLK state (3 bits; R371; running, reserve rows stopped, log 3). -/
  clk : RegClk := .running
  /-- REGION_CLK grade (4 bits; R371; 12). -/
  grade : Nat := 12
  /-- STRETCH_COUNT (32 bits, RC; R371; 0). -/
  stretch : Nat := 0
  /-- REGION_PWR state (3 bits; R395; running, log 3). -/
  pwr : RegPwr := .running
  /-- Its regulators are in standby, as an idle reserve's are (R25, R382; false, reserve rows true, log 3). -/
  standby : Bool := false
  /-- Fenced at its router ports (R27; false). -/
  fenced : Bool := false
  /-- Tide count of the fault for which the region is to be replaced (R30; none). -/
  failedAt : Option Nat := none
  /-- Failed phases (12 bits; R395; 0, log 3). -/
  phases : Nat := 0
  /-- LIMITED (1 bit; R395; 0). -/
  limited : Bool := false
  /-- Thermal level and phase level (R378; 0). -/
  thermal : Nat := 0
  phaseLevel : Nat := 0
  /-- REGION_TEMP (16 bits signed, 1/16 °C; R395; 0). -/
  temp : Int := 0
  /-- Tide count since which every sample has read 105 °C or more (R384; none). -/
  hotSince : Option Nat := none
  /-- Tide count since which every sample has read below 95 °C (R385; none). -/
  coolSince : Option Nat := none
  /-- Has read below 100 °C since it last read 105 °C or more (R468; true). -/
  wasCool : Bool := true
  /-- Rest in progress, waiting for DONE since this tide count (R385; none). -/
  restSince : Option Nat := none
  /-- A rest has no share left to wait for and gates once every draining bank is asleep (R170, R385; false). -/
  restGate : Bool := false
  /-- REGION_CURRENT (16 bits, 10 mA; R395; 0). -/
  current : Nat := 0
  /-- MINV_ALL (10 bits, RC; R395; 0x3FF). -/
  minvAll : Nat := 0x3FF
  /-- THROTTLE_CYCLE_COUNT (32 bits, RC; R395; 0). -/
  throttled : Nat := 0
  /-- MINV_HEAD (4 bits; R395; 0). -/
  minvHead : Nat := 0
  /-- MINV_LOG ring of 16 (R395; 0). -/
  minv : Sparse MinvEntry := []
  /-- At peak under a load notice, and out of light-load mode with the 10 mV pre-bias (R380; false). -/
  peak : Bool := false
  /-- The oscillator's stretch level, 0 to 3, and the highest since the latest log entry (R351, R381; 0). -/
  level : Nat := 0
  highLevel : Nat := 0
  /-- Withheld edges owed, in 64ths: the throttle level gathers at each edge (R377; 0). -/
  owedEdges : Nat := 0
  /-- The oscillator has run since the latest log entry (R381; false). -/
  ran : Bool := false
  /-- Just started, so that the throttle level is the device cap level alone (R382; false). -/
  fresh : Bool := false
  /-- Notices on their way to the region's regulators (R136; 0). -/
  notices : Nat := 0
  /-- Tide count of the latest notice's arrival (R380; none). -/
  peakFrom : Option Nat := none
  /-- Steps of 1 µs below the limit of R376 since the phase level last fell (R379; 0). -/
  below : Nat := 0
deriving DecidableEq, Repr

/-- Stages of a wake (R382). -/
inductive WakeStage where
  | waiting
  | ramp
  | regulate
  | fill
deriving DecidableEq, Repr

/-- Power and clock state of a field (R371, R379, R382, R395). -/
structure FieldPwr where
  /-- Field level of the fast current loop (R379; 0). -/
  level : Nat := 0
  /-- FIELD_CURRENT (16 bits, 10 mA; R395; 0). -/
  current : Nat := 0
  /-- Steps below 253 A since the level last fell, of 1 µs each (R379; 0). -/
  below : Nat := 0
  /-- Wake requests in order: request tide count and physical region (R382; none). -/
  queue : List (Nat × Nat) := []
  /-- The wake in progress: region, stage, slow ramp, tide count of the stage (FIELD_WAKE; R395; none). -/
  wake : Option (Nat × WakeStage × Bool × Nat) := none
  /-- Tide count of the request of the wake in progress, and the microseconds its ramp has paused (R382, R383; 0). -/
  wakeAsked : Nat := 0
  paused : Nat := 0
  /-- The bund oscillator's stretch level, 0 to 7 (R351; 0). -/
  bundLevel : Nat := 0
  /-- BUND_STRETCH_COUNT (32 bits, RC; R371; 0). -/
  bundStretch : Nat := 0
  /-- BUND_PERIOD (16 bits, ps; R371; 500). -/
  bundPeriod : Nat := 500
  /-- Brine die above its refresh threshold, so the interval is 256 µs (R176; false). -/
  brineHot : Bool := false
  /-- Tide count at which a region of the field was last rested (R384; none). -/
  lastRest : Option Nat := none
deriving DecidableEq, Repr

/-- The clock block (R371) and the tide count. -/
structure Clock where
  /-- GRADE_NOW (4 bits; R371; 12). -/
  grade : Nat := 12
  /-- Pending target and slot (GRADE_CTL, GRADE_SLOT; R371; none). -/
  pending : Option Nat := none
  /-- Held target (R371; none). -/
  held : Option Nat := none
  /-- GRADE_SLOT (64 bits; R371; 0). -/
  slot : Nat := 0
  /-- GRADE_CHANGE_COUNT (32 bits, RC; R371; 0). -/
  changes : Nat := 0
  /-- Slot of the latest change that landed, and whether it was a rise (R360, R382; none). -/
  landed : Option (Nat × Bool) := none
  /-- Changes landed, newest first: slot and the grade before it, of the latest 2 ms (R360, R381; none). -/
  landings : List (Nat × Nat) := []
  /-- VCORE target of the regulators, as a grade (R360, R375; 12). -/
  vcore : Nat := 12
  /-- The tide count (64 bits; R365; 0, log 6). -/
  tide : Nat := 0
  /-- Replicas of the tide count by bund domain: difference from the master (R366; 0). -/
  replica : Sparse Int := []
  /-- Steering remainder, in parts per billion of an increment (R366; 0). -/
  frac : Int := 0
  /-- TIDE_STATUS LOCKED, MASTER, PTM_VALID (R371; 1, 1, 0, log 3). -/
  locked : Bool := true
  master : Bool := true
  ptmValid : Bool := false
  /-- TIDE_STATUS parent (13 bits; R371; 8,191). -/
  parent : Nat := 8191
  /-- The first port of the pair toward the parent (R367; none). -/
  parentPort : Option Nat := none
  /-- Without a parent since the latest exchange with one (R370; false). -/
  holdover : Bool := false
  /-- TIDE_NOW_HI as latched (32 bits; R371; 0). -/
  nowHi : Nat := 0
  /-- TIDE_PARENT_OFFSET (32 bits signed, ps; R371; 0). -/
  offset : Int := 0
  /-- TIDE_RATE (32 bits signed, ppb; R371; 0). -/
  rate : Int := 0
  /-- PTM_OFFSET (64 bits signed; R371; 0). -/
  ptmOffset : Int := 0
  /-- TIDE_RELOCK_COUNT (32 bits, RC; R371; 0). -/
  relocks : Nat := 0
  /-- Stamps taken of the exchange in progress, by port (R368; none). -/
  stamps : List (Nat × TideStamps) := []
  /-- Stamps sent to a peer's Hakar, by port, newest last (R368; none). -/
  stampsSent : List (Nat × TideStamps) := []
deriving DecidableEq, Repr

/-- The budget this device belongs to or keeps (R390, R392, R395). -/
structure Budget where
  /-- BUDGET MEMBER, KEEPER, keeper id and group id (R395; 0). -/
  joined : Bool := false
  keeper : Bool := false
  keeperId : Nat := 0
  group : Nat := 0
  total : Nat := 0
  /-- Bounds and limit of each member, as the keeper assigns: device, lower, upper, limit (R390; none). -/
  members : List (Nat × Nat × Nat × Nat) := []
  /-- Latest report of each member: device, slack, tide count (R392; none). -/
  reports : List (Nat × Nat × Nat) := []
  /-- BUDGET_BOUNDS (R395; 0). -/
  lower : Nat := 0
  upper : Nat := 0
  /-- BUDGET_SLACK (16 bits; R395; 0). -/
  slack : Nat := 0
  /-- B_SEQ of the next message (32 bits; R391; 0, log 2). -/
  seq : Nat := 0
  /-- Messages sent, newest last: the device each goes to, and the message (R391, R392; none). -/
  sent : List (Nat × BudgetMsg) := []
  /-- Tide counts without work since the latest report (R391; 0). -/
  idle : Nat := 0
deriving DecidableEq, Repr

/-- The power block (R395). -/
structure Power where
  /-- PWR_LIMIT host and effective (16 bits each; R395; 5,000). -/
  hostLimit : Nat := 5000
  limit : Nat := 5000
  /-- A limit received and not yet applied (R392; none). -/
  newLimit : Option Nat := none
  /-- PWR_WINDOW (13 bits; R395; 2,000). -/
  window : Nat := 2000
  /-- 1 ms powers held by the window, newest first (R387; none). -/
  samples : List Nat := []
  /-- Region temperatures read in the latest 100 µs, with their tide counts (R468; none). -/
  temps : List (Nat × Int) := []
  /-- PWR_NOW average and latest (16 bits each; R395; 0). -/
  avg : Nat := 0
  now : Nat := 0
  /-- PWR_STATUS cap, GRADE_MAX, over (R395; 0, 12, 0). -/
  cap : Nat := 0
  gradeMax : Nat := 12
  overs : Nat := 0
  /-- CAP_EVENT_COUNT, EXCURSION_COUNT, REST_COUNT, WAKE_SLOW_COUNT (32 bits, RC; R395; 0). -/
  capEvents : Nat := 0
  excursions : Nat := 0
  rests : Nat := 0
  slowWakes : Nat := 0
  /-- Device account, µJ (64 bits; R395; 0). -/
  devUj : Nat := 0
  /-- DEV_ENERGY_HI and JOB_ENERGY_HI[j] as latched (32 bits; R395; 0). -/
  devHi : Nat := 0
  jobHi : Sparse Nat := []
  budget : Budget := {}
  /-- Currents of VSD, VLQ, VHQ and VAUX as last measured, in mA (R373; 0). -/
  rails : List Nat := [0, 0, 0, 0]
  /-- Failed phases of the bund, brine and control domains 108 to 135 (6 bits each; R374; 0, log 3). -/
  domPhases : Sparse Nat := []
  /-- The domains 136 to 158 that are gated, rising: cellar PHY groups with no populated channel and the Finron ports not expected
  (R35, R36; 143 to 158, log 3). -/
  gated : List Nat := (List.range 16).map (· + 143)
deriving DecidableEq, Repr

/-! ### Bring-up (chapter 14) -/

/-- BOOT_STATUS [31:29] (R418). -/
inductive BootState where
  | inProgress
  | ready
  | notReady
  | refused
  | fatal
deriving DecidableEq, Repr

/-- A difference record (R414): cause mask, epoch and entries (class, expected, found, detail, index). -/
structure DiffRec where
  cause : Nat := 0
  epoch : Nat := 0
  entries : List (Nat × Nat × Nat × Nat × Nat) := []
deriving DecidableEq, Repr

/-- The factory map's 1,280 bytes by their fields (R403): bitmaps, phases by domain, lanes by port, chain skip links by region, and FM_DIGEST. -/
structure FactoryMap where
  /-- Format version, stepping and VCORE trim in mV of FM_HDR. -/
  version : Nat := 1
  stepping : Nat := 0xA1
  trim : Nat := 0
  /-- FM_SERIAL. -/
  serial : Nat := 0
  /-- PAN_BAD, RTR_BAD and SLICE_BAD. -/
  panBad : Nat := 0
  rtrBad : Nat := 0
  sliceBad : Nat := 0
  /-- PHASE_BAD[d], LANE_BAD[n] and CSKIP_BAD[r]; a place beyond the list holds 0. -/
  phaseBad : List Nat := []
  laneBad : List Nat := []
  cskipBad : List Nat := []
  /-- FM_DIGEST; the default is that of the other defaults. -/
  digest : Nat := 0xb8b849e642b7371863db5b81f4065e1b
deriving DecidableEq, Repr

/-- The bring-up block (R418) and what bring-up works with. -/
structure Boot where
  /-- BOOT_STATUS state (3 bits; R418; in progress). -/
  state : BootState := .inProgress
  /-- BOOT_STATUS phase (4 bits; R418; 0). -/
  phase : Nat := 0
  /-- BOOT_STATUS WARM and QUICK (R418; 0). -/
  warm : Bool := false
  quick : Bool := false
  /-- BOOT_CAUSE (10 bits; R418; 0). -/
  cause : Nat := 0
  /-- BOOT_READY (64 bits; R418; 0). -/
  readyTide : Nat := 0
  /-- LIST_USED (15 bits; R418; 0). -/
  listUsed : Nat := 0
  /-- Latest difference record (R414; none written). -/
  diff : DiffRec := {}
  /-- DIFF_OFFSET (32 bits, over I3C; R468; 0, log 2). -/
  diffOffset : Nat := 0
  /-- An assay has completed since PWRGD last rose (R404; true). -/
  assayed : Bool := true
  /-- Cold bring-up holds at the start of phase 1 until RESET_N rises (R503; false). -/
  heldReset : Bool := false
  /-- STRAP_FCLK as sampled (2 bits; R502; 0, log 2). -/
  strap : Nat := 0
  /-- Causes found so far by this bring-up (R401, R403, R407; 0). -/
  found : Nat := 0
  /-- The board configuration record in the boot flash (R400, R401; full cellar, no domain, log 3). -/
  bcrFlash : List Byte := [0, 1, 0xC5, 0xB0, 0xFF, 0xFF, 0xFF, 0, 4, 0x58, 2, 0] ++ List.replicate 48 0 ++ [0x65, 0x43, 0x65, 0x0A]
  /-- The board configuration record read (R401; full cellar, no domain, log 3). -/
  bcr : Bcr := {}
  /-- Factory map, in fuses (R403; no bad unit, log 3). -/
  fuses : FactoryMap := {}
  /-- Assay list in the boot flash (R406; empty, log 3). -/
  list : List AssayRecord := []
  /-- Records of the list that verified (R407; empty). -/
  verified : List AssayRecord := []
  /-- Units bad for the epoch (R405; none, log 3). -/
  bad : List UnitRef := []
  /-- Physical regions whose oscillator, and those whose direct chain links, failed this assay (R23; none, log 3). -/
  badOsc : List Nat := []
  badChain : List Nat := []
  /-- Spare columns and rows that the repair analysis of this assay assigned: slice, columns, rows (R172, R405; none, log 3). -/
  repairs : List (Nat × Nat × Nat) := []
  /-- Units this assay failed that no mark names (R405; none). -/
  fresh : List UnitRef := []
  /-- EPOCH (32 bits; R33; 1, log 3). -/
  epoch : Nat := 1
  /-- EPOCH_FLAGS FIRST and RENUMBERED (R33; 1 and 1, log 3). -/
  first : Bool := true
  renumbered : Bool := true
  /-- FENCE_COUNT (16 bits; R33; 0). -/
  fences : Nat := 0
  /-- First READY with this image is still to be acted on (R478; false). -/
  commitDue : Bool := false
deriving DecidableEq, Repr

/-! ### Host interface (chapter 15) -/

/-- A completion entry (R433), without PHASE, which its index gives; payload words at 0x10 + 4i. -/
structure Entry where
  dup : Bool := false
  jobValid : Bool := false
  kind : Nat := 1
  opcode : Nat := 0
  status : Nat := 0
  job : Nat := 0
  info : Nat := 0
  tag : Nat := 0
  payload : List Nat := []
deriving DecidableEq, Repr

/-- A command the journal holds in progress (R432): tag, digest, opcode, job, repeats rung meanwhile. -/
structure Journal where
  tag : Nat
  digest : Nat
  opcode : Nat
  job : Nat := 0xFF
  repeats : Nat := 0
deriving DecidableEq, Repr

/-- An ATOMIC command whose atomic has no answer yet, or was refused and waits to be resent (R444, R297). -/
structure AtomicWait where
  tag : Nat
  job : Nat
  addr : Nat
  aop : Nat
  w64 : Bool
  a : Nat
  b : Nat
  aseq : Nat
  /-- The latest answer was a refusal. -/
  refused : Bool := false
  /-- Tide counts of the first and of the latest sending. -/
  first : Nat
  sent : Nat
deriving DecidableEq, Repr

/-- A TRANSFER that waits for a free channel (R442): its tag and parameters (R439). -/
structure Transfer where
  tag : Nat
  src : Nat
  dst : Nat
  count : Nat
  modes : Nat
  vector : Nat
deriving DecidableEq, Repr

/-- A BAR2 read in progress (R429): the host's request tag, its first global address, the bytes, when it was issued, and the
bytes returned by offset. -/
structure Bar2Read where
  tag : Nat
  addr : Nat
  len : Nat
  since : Nat
  got : Sparse (List Byte) := []
deriving DecidableEq, Repr

/-- The configuration space of the one physical function (R420): the values of its header and of its capabilities. -/
structure ConfigSpace where
  vendor : Nat := 0x1F3D
  device : Nat := 0x0012
  /-- Revision ID: the stepping (R1). -/
  revision : Nat := 0xA1
  classCode : Nat := 0x120000
  functions : Nat := 1
  /-- BAR0 and BAR2: bytes, 64-bit, prefetchable. -/
  bar0 : Nat × Bool × Bool := (32 * 2 ^ 20, true, false)
  bar2 : Nat × Bool × Bool := (64 * 2 ^ 30, true, true)
  maxPayload : Nat := 512
  maxReadRequest : Nat := 4096
  tagBits : Nat := 14
  functionLevelReset : Bool := false
  msixVectors : Nat := 256
  advancedErrorReporting : Bool := true
  ptmRequester : Bool := true
  ptmResponder : Bool := false
  doeMailboxes : Nat := 1
deriving DecidableEq, Repr

/-- The host interface (R424), the command journal (R432) and the completion ring (R433). -/
structure HostIf where
  /-- HIF_STATUS LEAD_CORE (2 bits; R424; 0). -/
  lead : Nat := 0
  /-- HIF_STATUS TAKING (1 bit; R424; 0). -/
  taking : Bool := false
  /-- RING_BASE (64 bits, [11:0] zero; R424; 0). -/
  ringBase : Nat := 0
  /-- RING_CTL ENABLE and log2 E (R424; 0 and 6). -/
  ringOn : Bool := false
  ringLog : Nat := 6
  /-- RING_TAIL and RING_HEAD (32 bits each; R424; 0). -/
  tail : Nat := 0
  head : Nat := 0
  /-- INT_COALESCE (10 bits; R424; 0). -/
  coalesce : Nat := 0
  /-- Coalescing began with an entry written at this tide count (R437; none). -/
  coalesceFrom : Option Nat := none
  /-- SLOT_BUSY (64 bits; R424; 0). -/
  busy : List Nat := []
  /-- APERTURE base (64 bits; R424; 0). -/
  aperture : Nat := 0
  /-- APERTURE_ERR_COUNT, DOORBELL_IGNORED_COUNT, RING_HEAD_ERR_COUNT (32 bits, RC; R424; 0). -/
  apertureErr : Nat := 0
  doorbellIgnored : Nat := 0
  headErr : Nat := 0
  /-- TAKEOVER_COUNT (32 bits; R424; 0). -/
  takeovers : Nat := 0
  /-- Completions held, oldest first (HELD_COMPLETIONS; R424; none). -/
  heldEntries : List Entry := []
  /-- Entries written, by index, while their index is not below RING_HEAD (R447; none). -/
  written : List (Nat × Entry) := []
  /-- Commands in progress (R432; none). -/
  journal : List Journal := []
  /-- Recorded completions of the 4,096 latest commands: tag, digest, entry (R432; none). -/
  completed : List (Nat × Nat × Entry) := []
  /-- Doorbells held until READY or NOT_READY (R441; none). -/
  heldBells : List Nat := []
  /-- Tide count of the latest heartbeat (R447; 0). -/
  heartbeat : Nat := 0
  /-- Standby cores, lowest first (R447; 1, 2, 3). -/
  standby : List Nat := [1, 2, 3]
  /-- A Hakar core runs (R449; true). -/
  coreRuns : Bool := true
  /-- Vectors whose MSI-X table entry is unmasked (R426; none, log 8). -/
  unmasked : List Nat := []
  /-- Pending bits (256 bits; R426; 0). -/
  pendingBits : List Nat := []
  /-- MSI-X Enable and Function Mask of the MSI-X capability (R426; 1 and 0, log 8). -/
  msixEnable : Bool := true
  functionMask : Bool := false
  /-- MSI-X table dwords by index (R423; 0, log 8). -/
  msixTable : Sparse Nat := []
  /-- MSI-X messages sent, oldest first (R426; none). -/
  messages : List Nat := []
  /-- BAR2 reads in progress (R429; none). -/
  bar2Reads : List Bar2Read := []
  /-- BAR2 reads completed to the host: tag, and the bytes or none for Completer Abort (R429; none). -/
  bar2Done : List (Nat × Option (List Byte)) := []
  /-- Configuration requests answered with Retry Status (R417; 0). -/
  configRetries : Nat := 0
  /-- The configuration space (R420). -/
  config : ConfigSpace := {}
  /-- Configuration reads answered, oldest first: byte offset and dword (R420; none). -/
  configReads : List (Nat × Nat) := []
  /-- ATOMIC commands waiting for a refused atomic: the command tag and what it sends (R444; none). -/
  atomics : List AtomicWait := []
  /-- TRANSFER commands that wait for a free channel, oldest first (R442; none). -/
  transfers : List Transfer := []
deriving DecidableEq, Repr

/-! ### Faults and gauges (chapter 16) -/

/-- A mirrored record: F_SEQ, record, REPEAT (R453, R454). -/
structure LogRec where
  seq : Nat
  record : FaultRec
  repeats : Nat := 0
deriving DecidableEq, Repr

/-- The fault log and its block (R469). -/
structure Faults where
  /-- Reports units have made and Hakar has not received (R137, R455; none). -/
  reports : List FaultRec := []
  /-- Records Hakar received and has not mirrored (R453; none). -/
  unmirrored : List FaultRec := []
  /-- Fault log, newest first, at most 8,192 (R453; empty). -/
  log : List LogRec := []
  /-- FAULT_NEXT (64 bits; R469; 1). -/
  next : Nat := 1
  /-- FAULT_NEXT_HI and FAULT_OLDEST_HI as latched (32 bits; R469; 0). -/
  nextHi : Nat := 0
  oldestHi : Nat := 0
  /-- CLASS_COUNT[0..7] (32 bits each, RC; R469; 0). -/
  classes : Sparse Nat := []
  /-- LOG_LOST_COUNT, GAUGE_LATE_COUNT (32 bits, RC; R469; 0). -/
  lost : Nat := 0
  late : Nat := 0
  /-- Highest number a FAULT_READ has returned (implied by R466; 0). -/
  readTo : Nat := 0
  /-- FATAL_STATUS and FATAL_RECORD: the first device-fatal record (R467, R469; none). -/
  fatal : Option LogRec := none
  /-- Vectors signalled within the last 100 µs: vector and tide count (R466; none). -/
  holdoff : List (Nat × Nat) := []
  /-- Vectors whose shared message is owed when their spacing ends (R466; none). -/
  owed : List Nat := []
  /-- FATAL_N and THERMTRIP_N asserted (R467, R384; deasserted). -/
  fatalN : Bool := false
  thermtripN : Bool := false
  /-- I3C in-band interrupts not yet accepted, merged by data byte (R468; none). -/
  ibi : List Nat := []
deriving DecidableEq, Repr

/-- A gauge window or snapshot (R461, R465). -/
structure Snapshot where
  source : Nat := 0
  kind : Nat := 0
  index : Nat := 0
  partialWin : Bool := false
  lowHit : Bool := false
  highHit : Bool := false
  start : Nat := 0
  stop : Nat := 0
  count : Nat := 0
  sum : Int := 0
  min : Int := 0
  max : Int := 0
  minTide : Nat := 0
  maxTide : Nat := 0
  bins : Sparse Nat := []
deriving DecidableEq, Repr

/-- A gauge (R458, R469): its descriptor, the tide count from which it counts, its open windows and its ring of eight. -/
structure Gauge where
  enabled : Bool := false
  desc : GaugeDesc := {}
  /-- The tide count from which the configuration counts (R464). -/
  began : Nat := 0
  /-- The start of the oldest window not yet closed (R461). -/
  since : Nat := 0
  /-- Open windows by number: the current one and the previous one until it closes (R461). -/
  opens : List (Nat × Snapshot) := []
  /-- Snapshots, oldest first, at most eight (R461). -/
  ring : List Snapshot := []
deriving DecidableEq, Repr

/-! ### Security (chapter 17) -/

/-- What the module, the debug instructions and the debug port answer (R169, R483, R485, R488). -/
inductive Answer where
  /-- DBG_CHALLENGE: serial number and nonce. -/
  | nonce (serial value : Nat)
  /-- DBG_TOKEN: 0 accepted, 1 signature or key, 2 serial number or nonce, 3 busy, 4 entropy. -/
  | token (status : Nat)
  /-- GET_VERSION: SPDM major and minor. -/
  | version (major minor : Nat)
  /-- GET_CAPABILITIES: CHAL_CAP, signed MEAS_CAP, PUB_KEY_ID_CAP, and no session, key exchange or PSK. -/
  | capabilities (chal signedMeas pubKeyId sessions : Bool)
  /-- NEGOTIATE_ALGORITHMS: base and measurement hash are TPM_ALG_SHA3_512; vendor id and algorithm id of the signature. -/
  | algorithms (hash : String) (vendor algorithm : Nat)
  /-- CHALLENGE: the requester's nonce, the module's, the measurements' bytes and the signature. -/
  | challenge (theirs ours : Nat) (meas : List (List Byte)) (signature : Nat)
  /-- GET_MEASUREMENTS: blocks by index, the module's nonce and the signature. -/
  | measurements (blocks : List (Nat × List Byte)) (ours signature : Nat)
  /-- A debug access to a pan store: the word read, and 0 done, 1 asleep, 2 marked, 3 refused (R169). -/
  | debug (word status : Nat)
  /-- The SPDM errors UnsupportedRequest and Unspecified. -/
  | unsupportedRequest
  | unspecified
deriving DecidableEq, Repr

/-- The security subsystem (R470 to R489). -/
structure Security where
  /-- OTP VKD[0] and VKD[1] (256 bits each; R472; 0, log 7). -/
  vkd0 : Nat := 0
  vkd1 : Nat := 0
  /-- OTP KEY_REVOKE (2 bits; R472; 0, log 7). -/
  revoke : Nat := 0
  /-- OTP ARB count of set bits (0 to 64; R472; 0, log 7). -/
  arb : Nat := 0
  /-- Firmware slots 0 and 1 of the boot flash; none without a valid H_MAGIC (R475; slot 0 holds an image, log 7). -/
  slot0 : Option FwImage := some { sigOk := true }
  slot1 : Option FwImage := none
  /-- The slot whose body is being checked or runs (R477; 0, log 7). -/
  chosen : Option Nat := some 0
  /-- Slots whose body has failed in this boot (R477; none). -/
  failed : List Nat := []
  /-- The running image occupies this slot (R482 A_STATE; 0, log 7). -/
  running : Option Nat := some 0
  /-- Self-tests passed, so the module offers service (R471; true). -/
  service : Bool := true
  /-- Entropy source failed (R488; false). -/
  entropyFailed : Bool := false
  /-- Debug scope in force (8 bits; R482, R484; 0). -/
  scope : Nat := 0
  /-- Scope of an accepted token while memories are zeroised (R486; none). -/
  unlocking : Option Nat := none
  /-- Nonce and tide count of its issue (R485; none). -/
  nonce : Option (Nat × Nat) := none
  /-- Latest DBG_TOKEN status returned (R485; none). -/
  tokenStatus : Option Nat := none
  /-- DOE and JTAG answers, oldest first (R483, R485; none). -/
  answers : List Answer := []
  /-- Attestation responses signed (R480, R482; 0). -/
  signed : Nat := 0
deriving DecidableEq, Repr

/-! ### The device -/

/-- The whole device. -/
structure State where
  /-- Commands waiting, first in first out (model's queue; empty). -/
  pending : List Instr := []
  /-- The device is powered: PWRGD is high and no PLL has lost lock (R4, R397, R505; true, log 3). -/
  powered : Bool := true
  boot : Boot := {}
  /-- Topology block per field 0 to 11 (R33). -/
  topo : Sparse Topo := []
  /-- Physical regions 0 to 107 (R371, R395; the reserve row of each field has its clock stopped, log 3). -/
  regions : Sparse Region := (List.range 12).map fun f => (9 * f + 8, { clk := .stopped, standby := true })
  fields : Sparse FieldPwr := []
  /-- Pans by physical position. -/
  pans : Sparse Pan := []
  /-- Control-complex haul channels 0 to 31 (R200, R202; idle). -/
  cc : Sparse Haul := []
  slices : Sparse Slice := []
  chans : Sparse Chan := []
  memdev : MemDev := {}
  net : Net := {}
  fin : Finron := {}
  svc : Services := {}
  /-- Jobs by slot; an absent slot is free (R317; all free). -/
  jobs : List (Nat × Job) := []
  /-- The device's brine tally lot: by job slot, the mirror of the tally records (R329; none). -/
  mirror : List (Nat × List Tally) := []
  clock : Clock := {}
  power : Power := {}
  hif : HostIf := {}
  faults : Faults := {}
  /-- Gauges 0 to 63 (R469; disabled). -/
  gauges : Sparse Gauge := []
  sec : Security := {}
  /-- Requests without a response (R222, R229; none). -/
  outs : List Outst := []
  /-- Number of the latest request issued (implied by R130, R299; 0). -/
  issuedOuts : Nat := 0
  /-- Pan stores: position × 2^23 + byte (R141; zeros, R159). -/
  storeMem : Mem := []
  /-- Brine: slice × 2^25 + byte (R172; zeros, R196). -/
  brineMem : Mem := []
  /-- Cellar: linear address (R189; zeros, R196). -/
  cellarMem : Mem := []
  /-- Host memory as the device has written it (R433, R216; zeros, log 9). -/
  hostMem : Mem := []
  /-- Command slots: 256 × slot + byte (R430; zeros, log 2). -/
  slotMem : Mem := []
  /-- How many free values the device has drawn: the model's own counter (0, log 10). -/
  draws : Nat := 0
deriving DecidableEq, Repr

/-- The device when it releases its sequencers at the end of bring-up (R10): every register at the value its Reset
column gives, and at the value the log names where the column says "assay" or gives none. -/
def State.reset : State := {}

/-- Why the device answers no next state: the manual gives the device no such stop, so the type has no constructor and no
command raises one. An error of the manual is an effect on the state: a fault record, a status, an answer. -/
inductive Fault where
deriving DecidableEq, Repr

/-- Why the model gives a command no meaning. -/
inductive Refusal where
  /-- The command has no meaning in this model yet. Raised by Dispatch only. Safe: nothing is claimed of it. -/
  | notModelled (mnemonic : String)
deriving DecidableEq, Repr

end Sys2Proof.Machine
end

