-- ==== Sys2Proof/Machine/Bits.lean ====
section
/-! DEFINITION. Bit fields, sign extension, byte order, sparse maps and memories: the plain operations every block uses. -/

namespace Sys2Proof.Machine
open Sys2Proof

/-! ### Numbers -/

/-- Bits hi to lo of a number (R6). -/
def bits (v hi lo : Nat) : Nat := (v >>> lo) % 2 ^ (hi + 1 - lo)

/-- Bit i of a number. -/
def bit (v i : Nat) : Bool := v.testBit i

/-- A flag as a register bit. -/
def flag (b : Bool) (i : Nat) : Nat := if b then 2 ^ i else 0

/-- A number put at bit `lo` of a field of `w` bits. -/
def field (v w lo : Nat) : Nat := (v % 2 ^ w) <<< lo

/-- The two's-complement value of the low w bits of a number (R45). -/
def signed (w v : Nat) : Int :=
  let u := v % 2 ^ w
  if 2 * u < 2 ^ w then (u : Int) else (u : Int) - (2 ^ w : Nat)

/-- The w-bit two's-complement word of an integer. -/
def unsigned (w : Nat) (x : Int) : Nat := (x % ((2 ^ w : Nat) : Int)).toNat

/-- An integer brought into a range. -/
def clampInt (lo hi x : Int) : Int := if x < lo then lo else if hi < x then hi else x

/-- The range of a w-bit two's-complement integer. -/
def satInt (w : Nat) (x : Int) : Int := clampInt (-((2 ^ (w - 1) : Nat) : Int)) (((2 ^ (w - 1) : Nat) : Int) - 1) x

/-- A counter that stops at 0xFFFF_FFFF (R67, R98, R140). -/
def satCount (n k : Nat) : Nat := min 0xFFFFFFFF (n + k)

/-- The low 32 bits of a register pair. -/
def lo32 (v : Nat) : Nat := v % 2 ^ 32

/-- The high 32 bits of a register pair. -/
def hi32 (v : Nat) : Nat := (v >>> 32) % 2 ^ 32

/-- A 64-bit value with its low half replaced. -/
def setLo (v x : Nat) : Nat := (v >>> 32) <<< 32 + x % 2 ^ 32

/-- A 64-bit value with its high half replaced. -/
def setHi (v x : Nat) : Nat := (x % 2 ^ 32) <<< 32 + v % 2 ^ 32

/-- The place of each set bit below n. -/
def bitList (n v : Nat) : List Nat := (List.range n).filter fun i => v.testBit i

/-- A mask with the listed bits set. -/
def maskOf : List Nat → Nat
  | [] => 0
  | i :: is => 2 ^ i ||| maskOf is

/-- ⌈log₂ n⌉, with 0 for n ≤ 1 (R48). -/
def ceilLog2 (n : Nat) : Nat := if n ≤ 1 then 0 else Nat.log2 (n - 1) + 1

/-- Floor of the square root by n halvings of the search interval. -/
def isqrtAux (x : Nat) : Nat → Nat → Nat
  | 0, r => r
  | k + 1, r => if (r + 2 ^ k) * (r + 2 ^ k) ≤ x then isqrtAux x k (r + 2 ^ k) else isqrtAux x k r

/-! ### Lists of numbers as sets -/

/-- Put a number into a rising list. -/
def insertRising (k : Nat) : List Nat → List Nat
  | [] => [k]
  | x :: xs => if k < x then k :: x :: xs else if k = x then x :: xs else x :: insertRising k xs

/-- Put a number at the end of a list unless it is there. -/
def addOnce (k : Nat) (l : List Nat) : List Nat := if l.contains k then l else l ++ [k]

/-- Replace the i-th element of a list. -/
def setAt {α : Type} (l : List α) (i : Nat) (x : α) : List α := l.set i x

/-! ### Sparse maps -/

/-- What a key holds; `d` is what an unlisted key reads as. -/
def look {α : Type} (d : α) : Sparse α → Nat → α
  | [], _ => d
  | (k, v) :: m, a => if a = k then v else look d m a

/-- Put a value at a key, in rising order. -/
def put {α : Type} (k : Nat) (v : α) : Sparse α → Sparse α
  | [] => [(k, v)]
  | (k', v') :: m => if k < k' then (k, v) :: (k', v') :: m else if k = k' then (k, v) :: m else (k', v') :: put k v m

/-- Take a key out. -/
def drop {α : Type} (k : Nat) (m : Sparse α) : Sparse α := m.filter fun e => e.1 != k

/-- Change what a key holds. -/
def upd {α : Type} (d : α) (k : Nat) (f : α → α) (m : Sparse α) : Sparse α := put k (f (look d m k)) m

/-- What a key holds, if it is listed. -/
def find? {α : Type} : Sparse α → Nat → Option α
  | [], _ => none
  | (k, v) :: m, a => if a = k then some v else find? m a

/-- Add to a saturating counter of a block. -/
def bump (m : Sparse Nat) (k n : Nat) : Sparse Nat := if n = 0 then m else upd 0 k (fun c => satCount c n) m

/-! ### Memories -/

/-- One byte; an unlisted byte reads 0 (R159, R196: the fills write zeros). -/
def readByte : Mem → Nat → Byte
  | [], _ => 0
  | (k, v) :: m, a => if a = k then v else readByte m a

/-- Write one byte, keeping addresses rising and no zero listed. -/
def writeByte (a : Nat) (b : Byte) : Mem → Mem
  | [] => if b = 0 then [] else [(a, b)]
  | (k, v) :: m =>
    if a < k then (if b = 0 then (k, v) :: m else (a, b) :: (k, v) :: m)
    else if a = k then (if b = 0 then m else (a, b) :: m)
    else (k, v) :: writeByte a b m

/-- n bytes from an address up. -/
def readBytes (m : Mem) (a : Nat) : Nat → List Byte
  | 0 => []
  | n + 1 => readByte m a :: readBytes m (a + 1) n

/-- Write bytes from an address up. -/
def writeBytes (m : Mem) (a : Nat) : List Byte → Mem
  | [] => m
  | b :: bs => writeBytes (writeByte a b m) (a + 1) bs

/-- Zero the bytes from lo up to but not including hi. -/
def clearRange (lo hi : Nat) (m : Mem) : Mem := m.filter fun e => e.1 < lo || hi ≤ e.1

/-- The canonical form of a memory: addresses strictly rising, every listed byte other than 0, keys above `lo`. -/
def Memory.wfFrom : Option Nat → Mem → Bool
  | _, [] => true
  | lo, (k, v) :: m => (match lo with | none => true | some l => decide (l < k)) && decide (v ≠ 0) && Memory.wfFrom (some k) m

/-- The canonical form of a memory. -/
def Memory.wf (m : Mem) : Bool := Memory.wfFrom none m

/-- The number a run of bytes spells, little-endian (R6). -/
def leNat : List Byte → Nat
  | [] => 0
  | b :: bs => b.toNat + 256 * leNat bs

/-- The n bytes of a number, little-endian. -/
def leBytes (v : Nat) : Nat → List Byte
  | 0 => []
  | n + 1 => BitVec.ofNat 8 v :: leBytes (v / 256) n

/-- n bytes at an address as a number. -/
def readLE (m : Mem) (a n : Nat) : Nat := leNat (readBytes m a n)

/-- Cut a list into runs of n, at most `k` of them. -/
def chunksOf {α : Type} (n : Nat) : Nat → List α → List (List α)
  | 0, _ => []
  | k + 1, l => l.take n :: chunksOf n k (l.drop n)

/-- Sum of a list of integers. -/
def sumInt (l : List Int) : Int := l.foldl (· + ·) 0

/-- Sum of a list of naturals. -/
def sumNat (l : List Nat) : Nat := l.foldl (· + ·) 0

/-- The greatest of a list of naturals, 0 for none. -/
def maxNat (l : List Nat) : Nat := l.foldl max 0

/-- One step of CRC-32C, bits least significant first. -/
def crcStep (c : Nat) : Nat := if c % 2 = 1 then (c / 2) ^^^ 0x82F63B78 else c / 2

/-- One byte of CRC-32C. -/
def crcByte (c : Nat) (b : Byte) : Nat := (List.range 8).foldl (fun x _ => crcStep x) (c ^^^ b.toNat)

/-- The CRC-32C of RFC 3720 (R264, R401). -/
def crc32c (bs : List Byte) : Nat := bs.foldl crcByte 0xFFFFFFFF ^^^ 0xFFFFFFFF

end Sys2Proof.Machine
end

