-- ==== Sys2Proof/Machine/Arith.lean ====
section
/-! DEFINITION. Grain-scaled integer arithmetic (chapter 2): formats, alignment, the drain's conversion of one output grain,
and the rake's fixed-point functions. -/

namespace Sys2Proof.Machine
open Sys2Proof

/-- align(y, d) of R54: y × 2^d, or the floor of y / 2^(−d). -/
def align (y d : Int) : Int := if 0 ≤ d then y * 2 ^ d.toNat else y / 2 ^ (-d).toNat

/-- rhe(t, k) of R54 for k ≥ 1: t / 2^k to the nearest integer, ties to the even one. -/
def roundHalfEven (t : Int) (k : Nat) : Int :=
  let q := t / 2 ^ k
  let r := t % 2 ^ k
  if r * 2 < 2 ^ k then q else if 2 ^ k < r * 2 then q + 1 else if q % 2 = 0 then q else q + 1

/-- The shift of step 3 of R54 and of R56: rounded for a positive count, exact otherwise. A count above 256 leaves
nothing of a 96-bit value, and a count below −256 nothing that is not clamped afterwards. -/
def shiftRound (t k : Int) : Int :=
  if 256 < k then 0 else if 0 < k then roundHalfEven t k.toNat else t * 2 ^ (min 256 (-k).toNat)

/-- The bit length of a magnitude: 2^(n−1) ≤ m < 2^n (R54). -/
def bitLength (m : Nat) : Nat := if m = 0 then 0 else Nat.log2 m + 1

/-- The magnitude exponent P of a product mode (R47): 1 is BS8 × BS8, 2 BS4 × BS8, 3 BS4 × BS4. -/
def productBits (mode : Nat) : Nat := if mode = 1 then 19 else if mode = 2 then 15 else 11

/-- The base exponent of a tile (R48), from K, the two EMAX fields and the product mode. -/
def baseExponent (mode k : Nat) (emaxW emaxA : Int) : Int :=
  emaxW + emaxA - min 34 (46 - (productBits mode : Int) - (ceilLog2 (k / 32) : Int))

/-- The elements of a grain in memory order: BS8 bytes, or BS4 nibbles with the even element low (R38, R41). -/
def bs8Elems (bs : List Byte) : List Int := bs.map fun b => signed 8 b.toNat

/-- BS4 elements, two a byte (R41). -/
def bs4Elems : List Byte → List Int
  | [] => []
  | b :: bs => signed 4 b.toNat :: signed 4 (b.toNat / 16) :: bs4Elems bs

/-- The bytes of BS8 elements. -/
def bs8Bytes (es : List Int) : List Byte := es.map fun e => BitVec.ofNat 8 (unsigned 8 e)

/-- The bytes of BS4 elements, the even element in the low nibble (R41). -/
def bs4Bytes : List Int → List Byte
  | a :: b :: es => BitVec.ofNat 8 (unsigned 4 a + 16 * unsigned 4 b) :: bs4Bytes es
  | [a] => [BitVec.ofNat 8 (unsigned 4 a)]
  | [] => []

/-- Words of w bytes as signed integers (R45). -/
def intsOf (w n : Nat) (bs : List Byte) : List Int := (chunksOf w n bs).map fun c => signed (8 * w) (leNat c)

/-- Signed integers as words of w bytes. -/
def intBytes (w : Nat) : List Int → List Byte
  | [] => []
  | x :: xs => leBytes (unsigned (8 * w) x) w ++ intBytes w xs

/-- The exact partial of a grain (R47). -/
def dot : List Int → List Int → Int
  | w :: ws, a :: xs => w * a + dot ws xs
  | _, _ => 0

/-- One grain's contribution under R49 and R51: the shifted partial, and whether the high clamp flagged it. -/
def alignPartial (p ew ea b : Int) : Int × Bool :=
  let c := ew + ea - b
  let s := clampInt (-24) 34 c
  (align p s, decide (34 < c) && decide (p ≠ 0))

/-- The sum a column makes of a slot's grains (R83): grains of `g` elements of held and streamed data. -/
def columnSum (g : Nat) (b : Int) : List Int → List Int → List Int → List Int → ColSum → ColSum
  | ew :: ews, ea :: eas, hs, as, acc =>
    let r := alignPartial (dot (hs.take g) (as.take g)) ew ea b
    columnSum g b ews eas (hs.drop g) (as.drop g)
      { sum := acc.sum + r.1, flag := acc.flag || r.2, clamps := acc.clamps + (if r.2 then 1 else 0) }
  | _, _, _, _, acc => acc

/-- The value an accumulator presents to the drain (R50) and its flag there (R51). -/
def presented (sum : Int) (sticky : Bool) : Int × Bool :=
  let v := satInt 48 sum
  (v, sticky || decide (v ≠ sum))

/-- What the conversion of one output grain gives: element values, exponent (none for I32), and what it counts (R58). -/
structure DrainOut where
  elems : List Int := []
  exponent : Option Int := none
  sats : Nat := 0
  high : Bool := false
  low : Bool := false
deriving DecidableEq, Repr

/-- qb of R54. -/
def quantBits (fmt : Nat) : Nat := if fmt = 2 then 3 else 7

/-- The grain exponent of step 1 of R54 before its clamp, for a nonzero largest magnitude. -/
def grainExponent (b : Int) (m qb : Nat) : Int := b + (bitLength m : Int) - (qb : Int)

/-- t of R54 for one output. -/
def drainTerm (d : DrainParams) (b : Int) (v : Int) (ch : Nat) : Int :=
  v * (if d.mulEn then d.muls.getD ch 0 else 16384) + (if d.biasEn then align (d.biases.getD ch 0) (d.eb - b + 14) else 0)

/-- The sign of R54: +1 for zero. -/
def signOf (v : Int) : Int := if v < 0 then -1 else 1

/-- The bias alignment lies outside R55's range. -/
def biasOutOfRange (d : DrainParams) (b : Int) : Bool :=
  d.biasEn && (decide (d.eb - b + 14 < -63) || decide (48 < d.eb - b + 14))

/-- One element of a BS8 or BS4 output grain under R54: the value written and whether R58 counts it. -/
def drainElem (d : DrainParams) (b e : Int) (qb : Nat) (v : Int) (f : Bool) (ch : Nat) : Int × Bool :=
  let top : Int := ((2 ^ qb : Nat) : Int) - 1
  if f then (signOf v * top, false)
  else
    let x := shiftRound (drainTerm d b v ch) (e - b + 14)
    (clampInt (-top) top x, decide (top + 1 < x) || decide (x < -(top + 1)))

/-- One element of I32 output under R56. -/
def drainElem32 (d : DrainParams) (b : Int) (v : Int) (f : Bool) (ch : Nat) : Int × Bool :=
  if f then ((if v < 0 then -2147483648 else 2147483647), false)
  else
    let x := shiftRound (drainTerm d b v ch) (d.esOut - b + 14)
    (satInt 32 x, decide (satInt 32 x ≠ x))

/-- Convert one output grain (R54 to R56). `ch0` is ch of its first output. With EMIN_OUT above EMAX_OUT the manual does not say which
bound the clamp gives: the model tests the low bound first, so a value below EMIN_OUT gives EMIN_OUT and any other EMAX_OUT (DESIGN
CHOICE, log 91). -/
def drainGrain (d : DrainParams) (b : Int) (ch0 : Nat) (vs : List Int) (fs : List Bool) : DrainOut :=
  let rows := (List.range vs.length).map fun j => (vs.getD j 0, fs.getD j false, ch0 + j)
  if d.fmt = 3 then
    let os := rows.map fun r => drainElem32 d b r.1 r.2.1 r.2.2
    { elems := os.map (·.1), sats := (os.filter (·.2)).length }
  else
    let qb := quantBits d.fmt
    let m := maxNat (vs.map Int.natAbs)
    let e0 := grainExponent b m qb
    let e := if m = 0 then d.emin else clampInt d.emin d.emax e0
    let os := rows.map fun r => drainElem d b e qb r.1 r.2.1 r.2.2
    { elems := os.map (·.1), exponent := some e, sats := (os.filter (·.2)).length
      high := decide (m ≠ 0) && decide (d.emax < e0), low := decide (m ≠ 0) && decide (e0 < d.emin) }

/-- The bytes a drained grain's elements occupy in memory (R41, R46). -/
def grainBytes (fmt : Nat) (es : List Int) : List Byte :=
  if fmt = 1 then bs8Bytes es else if fmt = 2 then bs4Bytes es else intBytes 4 es

/-- A signed byte as an exponent. -/
def expByte (e : Int) : Byte := BitVec.ofNat 8 (unsigned 8 e)

/-! ### Softmax (R60) -/

/-- The exponent table tb[0..64] of R60: round(2^14 × 2^(−k/64)). -/
def expTable : List Int :=
  [16384, 16208, 16033, 15860, 15689, 15520, 15353, 15188, 15024, 14862, 14702, 14544, 14387, 14232, 14079, 13927,
   13777, 13629, 13482, 13337, 13193, 13051, 12910, 12771, 12634, 12498, 12363, 12230, 12098, 11968, 11839, 11711,
   11585, 11460, 11337, 11215, 11094, 10975, 10856, 10739, 10624, 10509, 10396, 10284, 10173, 10064, 9955, 9848,
   9742, 9637, 9533, 9431, 9329, 9228, 9129, 9031, 8933, 8837, 8742, 8648, 8555, 8463, 8371, 8281] ++
  [8192]

/-- ex of R60 from u (Q6.10) (R60, REXP2 of R123). -/
def expOf (u : Int) : Int :=
  let a := (u / 1024).toNat
  let bf := (u % 1024).toNat
  let kk := bf / 16
  let j : Int := (bf % 16 : Nat)
  let f := expTable.getD kk 0 - ((expTable.getD kk 0 - expTable.getD (kk + 1) 0) * j) / 16
  f / 2 ^ a

/-! ### Normalisation (R63) -/

/-- s of rsqrt: the power of four that brings vv into [2^30, 2^32). -/
def rsqrtShift (vv : Nat) : Int := (31 - (Nat.log2 vv : Int)) / 2

/-- rsqrt(vv) of R63: (rm, re), with rm the largest integer whose square times vn stays below 2^92. -/
def rsqrt (vv : Int) : Int × Int :=
  if vv ≤ 0 then (0, 0)
  else
    let v := vv.toNat
    let s := rsqrtShift v
    -- rm² × vv × 4^s < 2^92, brought to whole numbers for either sign of s
    let num := if 0 ≤ s then 2 ^ 92 else 2 ^ (92 + 2 * (-s).toNat)
    let den := if 0 ≤ s then v * 4 ^ s.toNat else v
    ((isqrtAux ((num - 1) / den) 33 0 : Nat), s - 46)

/-- A 64-bit reduction value saturated, and whether it was (R123). -/
def sat64 (x : Int) : Int × Bool := (satInt 64 x, decide (satInt 64 x ≠ x))

/-- align(y, d) saturated to 64 bits, and whether it was (R63, R123): the shifts within RSSQ and RNVAR. -/
def alignSat (y d : Int) : Int × Bool := sat64 (align y (clampInt (-192) 192 d))

/-! ### Sigmoid (R510) -/

/-- The sigmoid table sg[0..256] of R510: 2^14 × σ(−16 + i/8), rounded. -/
def sigTable : List Int :=
  [0, 0, 0, 0, 0, 0, 0, 0, 0, 0, 0, 0, 0, 0, 0, 0,
   0, 0, 0, 0, 0, 0, 0, 0, 0, 0, 0, 0, 0, 0, 0, 0,
   0, 0, 0, 0, 0, 0, 0, 0, 0, 0, 0, 0, 0, 1, 1, 1,
   1, 1, 1, 1, 1, 1, 2, 2, 2, 2, 3, 3, 3, 4, 4, 5] ++
  [5, 6, 7, 8, 9, 10, 12, 13, 15, 17, 19, 22, 25, 28, 32, 36,
   41, 46, 52, 59, 67, 76, 86, 97, 110, 124, 141, 159, 180, 204, 230, 261,
   295, 333, 376, 425, 480, 542, 612, 690, 777, 875, 984, 1107, 1243, 1394, 1562, 1748,
   1953, 2178, 2426, 2695, 2989, 3307, 3649, 4015, 4406, 4820, 5256, 5712, 6186, 6674, 7173, 7681] ++
  [8192, 8703, 9211, 9710, 10198, 10672, 11128, 11564, 11978, 12369, 12735, 13077, 13395, 13689, 13958, 14206,
   14431, 14636, 14822, 14990, 15141, 15277, 15400, 15509, 15607, 15694, 15772, 15842, 15904, 15959, 16008, 16051,
   16089, 16123, 16154, 16180, 16204, 16225, 16243, 16260, 16274, 16287, 16298, 16308, 16317, 16325, 16332, 16338,
   16343, 16348, 16352, 16356, 16359, 16362, 16365, 16367, 16369, 16371, 16372, 16374, 16375, 16376, 16377, 16378] ++
  [16379, 16379, 16380, 16380, 16381, 16381, 16381, 16382, 16382, 16382, 16382, 16383, 16383, 16383, 16383, 16383,
   16383, 16383, 16383, 16383, 16384, 16384, 16384, 16384, 16384, 16384, 16384, 16384, 16384, 16384, 16384, 16384,
   16384, 16384, 16384, 16384, 16384, 16384, 16384, 16384, 16384, 16384, 16384, 16384, 16384, 16384, 16384, 16384,
   16384, 16384, 16384, 16384, 16384, 16384, 16384, 16384, 16384, 16384, 16384, 16384, 16384, 16384, 16384, 16384] ++
  [16384]

/-- The sigmoid of a Q5.10 lane (R510). -/
def sigmoidOf (x : Int) : Int :=
  if x < -16384 then 0
  else if 16384 ≤ x then 16384
  else
    let i := ((x + 16384) / 128).toNat
    let j := (x + 16384) % 128
    sigTable.getD i 0 + ((sigTable.getD (i + 1) 0 - sigTable.getD i 0) * j) / 128

end Sys2Proof.Machine
end

