-- ==== Sys2Proof/Machine/Flags.lean ====
section
/-! DEFINITION. The codes of the manual: fault codes and classes, causes, operation codes, unit classes, record types, and
the numbers under which each block keeps its counters. -/

namespace Sys2Proof.Machine
open Sys2Proof

/-! ### Causes (R221) -/
namespace Cause
abbrev cfg : Nat := 0x01
abbrev addr : Nat := 0x02
abbrev windowFault : Nat := 0x03
abbrev bankAsleep : Nat := 0x04
abbrev lotFault : Nat := 0x05
abbrev sliceFailed : Nat := 0x06
abbrev timeout : Nat := 0x07
abbrev poisonToHost : Nat := 0x08
abbrev hostRead : Nat := 0x09
abbrev refused : Nat := 0x0A
end Cause

/-! ### Bund operations (R230) -/
namespace Op
abbrev rd : Nat := 0x01
abbrev wr : Nat := 0x02
abbrev atomic : Nat := 0x03
abbrev mcWr : Nat := 0x04
abbrev busWr : Nat := 0x05
abbrev reduce : Nat := 0x06
abbrev urgWr : Nat := 0x10
abbrev commit : Nat := 0x11
abbrev barrier : Nat := 0x12
abbrev rdData : Nat := 0x21
abbrev wrAck : Nat := 0x22
abbrev atomicData : Nat := 0x23
abbrev reduceAck : Nat := 0x26
end Op

/-! ### Pan fault codes (R138) -/
namespace PanCode
abbrev illegalOp : Nat := 0x01
abbrev pcRange : Nat := 0x02
abbrev agFault : Nat := 0x03
abbrev semOverflow : Nat := 0x05
abbrev waitTimeout : Nat := 0x06
abbrev tileK : Nat := 0x10
abbrev drainBias : Nat := 0x11
abbrev entryCopy : Nat := 0x12
abbrev chainBrine : Nat := 0x13
abbrev chainMismatch : Nat := 0x14
abbrev chainTimeout : Nat := 0x15
abbrev drainDesc : Nat := 0x16
abbrev tileState : Nat := 0x17
abbrev rakeRow : Nat := 0x18
abbrev chainPeer : Nat := 0x19
abbrev bankConflict : Nat := 0x20
abbrev starvation : Nat := 0x21
abbrev poison : Nat := 0x30
abbrev hwCheck : Nat := 0x31
abbrev feedReject : Nat := 0x32
abbrev feedLost : Nat := 0x33
end PanCode

/-- The class of a pan fault code (R138): 1 H, 2 R, 3 P. CHAIN_PEER takes its class from the stopping pan. -/
def panClass (code : Nat) : Nat :=
  if code = PanCode.hwCheck then 1
  else if [PanCode.waitTimeout, PanCode.chainTimeout, PanCode.starvation, PanCode.poison, PanCode.feedLost].contains code
  then 2 else 3

/-- The record class of a pan fault's class (R452): H 4, R 3, P 6. -/
def recordClass (cls : Nat) : Nat := if cls = 1 then 4 else if cls = 2 then 3 else 6

/-! ### Record types (R452) -/
namespace RecType
abbrev panFault : Nat := 0x01
abbrev memCe : Nat := 0x02
abbrev memUe : Nat := 0x03
abbrev haulStop : Nat := 0x04
abbrev link : Nat := 0x05
abbrev router : Nat := 0x06
abbrev slice : Nat := 0x07
abbrev power : Nat := 0x08
abbrev thermal : Nat := 0x09
abbrev hostAccess : Nat := 0x0A
abbrev hakar : Nat := 0x0B
abbrev cellar : Nat := 0x0C
abbrev edge : Nat := 0x0D
abbrev gauge : Nat := 0x10
abbrev lost : Nat := 0x1F
end RecType

/-! ### Unit classes (R402) -/
namespace UnitCls
abbrev fieldC : Nat := 0x1
abbrev pan : Nat := 0x2
abbrev router : Nat := 0x3
abbrev chainSkip : Nat := 0x4
abbrev meshSkip : Nat := 0x5
abbrev seam : Nat := 0x6
abbrev phase : Nat := 0x7
abbrev slice : Nat := 0x8
abbrev channel : Nat := 0x9
abbrev lane : Nat := 0xA
abbrev domain : Nat := 0xB
abbrev peer : Nat := 0xC
abbrev site : Nat := 0xD
end UnitCls

/-! ### Counter numbers of a pan (R67, R98, R140, R171): the offset of each within its block, plus the block's number × 0x1000 -/
namespace PanCtr
abbrev accOvf : Nat := 0x1000
abbrev clampHigh : Nat := 0x1004
abbrev drainSat : Nat := 0x1008
abbrev expHigh : Nat := 0x100C
abbrev expLow : Nat := 0x1010
abbrev rakeSat : Nat := 0x1014
abbrev validSlot : Nat := 0x2004
abbrev bubbleDry : Nat := 0x2008
abbrev bubbleLate : Nat := 0x200C
abbrev bubbleHeld : Nat := 0x2010
abbrev bubbleDrain : Nat := 0x2014
abbrev bubbleChain : Nat := 0x2018
abbrev heldWait : Nat := 0x201C
abbrev heldLate : Nat := 0x2024
abbrev bundle : Nat := 0x3028
abbrev hazard : Nat := 0x302C
abbrev waitCycle : Nat := 0x3030
abbrev noticeStall : Nat := 0x3034
abbrev noticeInsert : Nat := 0x3038
abbrev ce : Nat := 0x4040
abbrev ceLost : Nat := 0x4044
abbrev ue : Nat := 0x4048
abbrev poisonRead : Nat := 0x404C
abbrev windowReject : Nat := 0x4050
abbrev asleepReject : Nat := 0x4054
abbrev asleepLocal : Nat := 0x4058
abbrev rmw : Nat := 0x405C
end PanCtr

/-- The six arithmetic counters in the order of R67. -/
def arithCtrs : List Nat := [0x1000, 0x1004, 0x1008, 0x100C, 0x1010, 0x1014]

end Sys2Proof.Machine
end

