-- ==== Sys2Proof/Machine/Ops.lean ====
section
/-! DEFINITION. The named operations over the state: reading and changing one unit's part of it, the topology's translation,
free values, fault reports, and the taking of a pan fault (R137). -/

namespace Sys2Proof.Machine
open Sys2Proof

/-! ### Outcomes -/

/-- What every command of a powered device does: `f`, when its operands name units the device has. While the
package is unpowered nothing changes (R4), and a command that names a unit the device does not have reaches none, so nothing
changes then either (DESIGN CHOICE, log 68). -/
def act (ok : Bool) (f : State → State) (s : State) : Host.Outcome State Fault Refusal :=
  .next (if ok && s.powered then f s else s)

/-! ### Reading and changing parts -/

/-- The pan at a physical position. -/
def State.pan (s : State) (p : Nat) : Pan := look {} s.pans p
/-- Change the pan at a physical position. -/
def State.modPan (s : State) (p : Nat) (f : Pan → Pan) : State := { s with pans := upd {} p f s.pans }
/-- Change a pan's sequencer. -/
def State.modSeq (s : State) (p : Nat) (f : Seq → Seq) : State := s.modPan p fun x => { x with seq := f x.seq }
/-- Change a pan's lattice. -/
def State.modLat (s : State) (p : Nat) (f : Lat → Lat) : State := s.modPan p fun x => { x with lat := f x.lat }
/-- Change a pan's store block. -/
def State.modStore (s : State) (p : Nat) (f : Store → Store) : State := s.modPan p fun x => { x with store := f x.store }
/-- Count in a pan's block. -/
def State.bumpPan (s : State) (p ctr n : Nat) : State :=
  if n = 0 then s else s.modPan p fun x => { x with ctr := bump x.ctr ctr n }
def State.slice (s : State) (i : Nat) : Slice := look {} s.slices i
def State.modSlice (s : State) (i : Nat) (f : Slice → Slice) : State := { s with slices := upd {} i f s.slices }
def State.chan (s : State) (i : Nat) : Chan := look {} s.chans i
def State.modChan (s : State) (i : Nat) (f : Chan → Chan) : State := { s with chans := upd {} i f s.chans }
def State.region (s : State) (r : Nat) : Region := look {} s.regions r
def State.modRegion (s : State) (r : Nat) (f : Region → Region) : State := { s with regions := upd {} r f s.regions }
def State.fieldPwr (s : State) (f : Nat) : FieldPwr := look {} s.fields f
def State.modField (s : State) (i : Nat) (f : FieldPwr → FieldPwr) : State := { s with fields := upd {} i f s.fields }
def State.topoOf (s : State) (f : Nat) : Topo := look {} s.topo f
def State.modTopo (s : State) (i : Nat) (f : Topo → Topo) : State := { s with topo := upd {} i f s.topo }
def State.router (s : State) (gx gy : Nat) : Router := look {} s.net.routers (gy * 60 + gx)
def State.modRouter (s : State) (gx gy : Nat) (f : Router → Router) : State :=
  { s with net := { s.net with routers := upd {} (gy * 60 + gx) f s.net.routers } }
/-- Count in a router's block. -/
def State.bumpRouter (s : State) (gx gy ctr n : Nat) : State :=
  s.modRouter gx gy fun r => { r with ctr := bump r.ctr ctr n }
def State.port (s : State) (n : Nat) : Port := look {} s.fin.ports n
def State.modPort (s : State) (n : Nat) (f : Port → Port) : State :=
  { s with fin := { s.fin with ports := upd {} n f s.fin.ports } }
def State.bumpPort (s : State) (n ctr k : Nat) : State := s.modPort n fun p => { p with ctr := bump p.ctr ctr k }
def State.bumpSlice (s : State) (i ctr k : Nat) : State :=
  if k = 0 then s else s.modSlice i fun x => { x with ctr := bump x.ctr ctr k }
def State.bumpChan (s : State) (i ctr k : Nat) : State :=
  if k = 0 then s else s.modChan i fun x => { x with ctr := bump x.ctr ctr k }
def State.slot (s : State) (g : Nat) : Slot := look {} s.svc.slots g
def State.modSlot (s : State) (g : Nat) (f : Slot → Slot) : State :=
  { s with svc := { s.svc with slots := upd {} g f s.svc.slots } }
def State.bumpSvc (s : State) (ctr k : Nat) : State := { s with svc := { s.svc with ctr := bump s.svc.ctr ctr k } }
def State.gauge (s : State) (g : Nat) : Gauge := look {} s.gauges g
def State.modGauge (s : State) (i : Nat) (f : Gauge → Gauge) : State := { s with gauges := upd {} i f s.gauges }
/-- The job in a slot, if the slot is taken (R317). -/
def State.job? (s : State) (j : Nat) : Option Job := find? s.jobs j
def State.setJob (s : State) (j : Nat) (x : Job) : State := { s with jobs := put j x s.jobs }
/-- Change the job in a slot, if the slot is taken. -/
def State.modJob (s : State) (j : Nat) (f : Job → Job) : State :=
  match s.job? j with | none => s | some x => s.setJob j (f x)
def State.modHif (s : State) (f : HostIf → HostIf) : State := { s with hif := f s.hif }
def State.modNet (s : State) (f : Net → Net) : State := { s with net := f s.net }
def State.modFaults (s : State) (f : Faults → Faults) : State := { s with faults := f s.faults }
def State.modClock (s : State) (f : Clock → Clock) : State := { s with clock := f s.clock }
def State.modPower (s : State) (f : Power → Power) : State := { s with power := f s.power }
def State.modBoot (s : State) (f : Boot → Boot) : State := { s with boot := f s.boot }
def State.modMem (s : State) (f : MemDev → MemDev) : State := { s with memdev := f s.memdev }
def State.modSec (s : State) (f : Security → Security) : State := { s with sec := f s.sec }

/-- The tide count now (R365). -/
def State.now (s : State) : Nat := s.clock.tide

/-- A haul channel. -/
def State.haul (s : State) : HaulId → Haul
  | .pan p c => look {} (s.pan p).haul c
  | .cc c => look {} s.cc c

/-- Change a haul channel. -/
def State.modHaul (s : State) (h : HaulId) (f : Haul → Haul) : State :=
  match h with
  | .pan p c => s.modPan p fun x => { x with haul := upd {} c f x.haul }
  | .cc c => { s with cc := upd {} c f s.cc }

/-! ### Free values -/

/-- A free value of the manual, and the state that has drawn it (log 10). -/
def State.draw (s : State) : Nat × State := (Config.freeValue s.draws, { s with draws := s.draws + 1 })

/-! ### Places (R12 to R18, R285) -/

/-- The physical region of a pan position: f × 9 + py (R15). -/
def regionOf (p : Nat) : Nat := p / 15
/-- The field of a pan position. -/
def fieldOf (p : Nat) : Nat := p / 135
/-- The physical row of a pan position. -/
def rowOf (p : Nat) : Nat := p % 135 / 15
/-- The physical column of a pan position. -/
def colOf (p : Nat) : Nat := p % 15
/-- Mesh coordinate gx of a pan position (R16). -/
def meshX (p : Nat) : Nat := fieldOf p % 4 * 15 + colOf p
/-- Mesh coordinate gy of a pan position (R16). -/
def meshY (p : Nat) : Nat := fieldOf p / 4 * 9 + rowOf p
/-- The pan position at mesh coordinates. -/
def posAt (gx gy : Nat) : Nat := (gy / 9 * 4 + gx / 15) * 135 + gy % 9 * 15 + gx % 15

/-- The spare column of a physical row (R21). -/
def State.spareCol (s : State) (f py : Nat) : Nat := (s.topoOf f).spares.getD py 14

/-- The pan at this position is the spare of its region (R22). -/
def State.isSpare (s : State) (p : Nat) : Bool := s.spareCol (fieldOf p) (rowOf p) == colOf p

/-- The logical row a physical row carries, with the translation's state active, in takeover or carried (R33). -/
def State.logicalRow (s : State) (f py : Nat) : Option Nat :=
  (List.range 8).find? fun y =>
    match (s.topoOf f).rtt[y]? with
    | some e => e.row == py && (e.state == 0 || e.state == 2)
    | none => false

/-- The logical pan id of a position, when it carries one (R17, R18). -/
def State.logicalPan (s : State) (p : Nat) : Option Nat :=
  let f := fieldOf p
  let sc := s.spareCol f (rowOf p)
  match s.logicalRow f (rowOf p) with
  | some y => if colOf p = sc then none
              else some (f * 112 + y * 14 + (if colOf p < sc then colOf p else colOf p - 1))
  | none => none

/-- The position of a logical pan (R18), or none when its row is absent (R284). -/
def State.panPos (s : State) (l : Nat) : Option Nat :=
  if 1343 < l then none
  else
    let f := l / 112
    let y := l % 112 / 14
    let x := l % 14
    match (s.topoOf f).rtt[y]? with
    | some e => if e.state = 3 then none else some (f * 135 + e.row * 15 + (if x < e.spare then x else x + 1))
    | none => none

/-- The logical region f × 8 + y that a physical region carries. -/
def State.logicalRegion (s : State) (r : Nat) : Option Nat := (s.logicalRow (r / 9) (r % 9)).map fun y => r / 9 * 8 + y

/-- The physical region that carries a logical region, or none when it is absent. -/
def State.physRegion (s : State) (l : Nat) : Option Nat :=
  match (s.topoOf (l / 8)).rtt[l % 8]? with
  | some e => if e.state = 3 then none else some (l / 8 * 9 + e.row)
  | none => none

/-- The region's pans are switched off or cut off: gated, rested, waking or fenced (R170, R284). -/
def State.regionDown (s : State) (r : Nat) : Bool := (s.region r).fenced || (s.region r).pwr != .running

/-- The region has power and its clock runs. -/
def State.clocked (s : State) (r : Nat) : Bool := !s.regionDown r && (s.region r).clk == .running

/-- The pan's sequencer, lattice and store work: its region has power and clock, and it is not a spare, which is held with its
sequencer stopped and its lattice clock gated (R22). -/
def State.panWorks (s : State) (p : Nat) : Bool := s.clocked (regionOf p) && !s.isSpare p

/-- The 15 positions of a physical region. -/
def regionPans (r : Nat) : List Nat := (List.range 15).map fun x => 15 * r + x

/-- The logical pans of a physical region in logical column order, each with its logical column. -/
def State.chainPans (s : State) (r : Nat) : List (Nat × Nat) :=
  let l := (regionPans r).filter fun p => !s.isSpare p
  l.zipIdx.map fun e => (e.1, e.2)

/-- The device id this device answers to (R288), 8,191 while none is valid. -/
def State.deviceId (s : State) : Nat := s.svc.ident.getD 8191

/-- Apply a change at each of a list of keys. -/
def foldState {α : Type} (l : List α) (f : State → α → State) (s : State) : State := l.foldl f s

/-! ### Jobs a unit concerns -/

/-- The slots of the jobs whose grant holds a logical region. -/
def State.jobsOfRegion (s : State) (l : Nat) : List Nat :=
  (s.jobs.filter fun e => e.2.regions.contains l).map (·.1)

/-- F_JOBS of a fault in a physical region. -/
def State.jobMask (s : State) (r : Nat) : Nat :=
  match s.logicalRegion r with | some l => maskOf (s.jobsOfRegion l) | none => 0

/-- F_JOBS naming every job. -/
def State.allJobs (s : State) : Nat := maskOf (s.jobs.map (·.1))

/-! ### Fault reports -/

/-- The tide count as a field's replica shows it (R366). -/
def State.fieldNow (s : State) (f : Nat) : Nat := ((s.now : Int) + look 0 s.clock.replica f).toNat

/-- The tide count that a pan reads. -/
def State.panNow (s : State) (p : Nat) : Nat := s.fieldNow (fieldOf p)

/-- The field whose bund domain a record's unit reads the tide count from; none for units that read the master (R366). -/
def recordField (r : FaultRec) : Option Nat :=
  if r.unitCls = UnitCls.pan || r.unitCls = UnitCls.slice then some (fieldOf r.unitIdx)
  else if r.unitCls = UnitCls.router then some (fieldOf (posAt (r.unitIdx % 60) (r.unitIdx / 60)))
  else if r.unitCls = UnitCls.domain && r.unitIdx < 108 then some (r.unitIdx / 9)
  else none

/-- The tide count that the unit of a record stamps it with. -/
def State.stampOf (s : State) (r : FaultRec) : Nat := match recordField r with | some f => s.fieldNow f | none => s.now

/-- A unit reports a fault to Hakar: the record takes the tide count and the epoch (R451). -/
def report (r : FaultRec) (s : State) : State :=
  s.modFaults fun f => { f with reports := f.reports ++ [{ r with tide := s.stampOf r, epoch := s.boot.epoch }] }

/-- Put an in-band interrupt byte among those not yet accepted, merged (R468). -/
def ibi (b : Nat) (s : State) : State := s.modFaults fun f => { f with ibi := addOnce b f.ibi }

/-- A correctable error recorded in a table of `size` entries (R154, R193, R456): the table, whether the word found it
full, and the record to write: none, a new entry, or HOT. -/
def ceRecord (size : Nat) (addr syn tide : Nat) (t : List (Nat × CeEntry)) : List (Nat × CeEntry) × Bool × Option Bool :=
  match t.find? fun e => e.2.addr == addr with
  | some (i, e) =>
    let c := min 65535 (e.count + 1)
    let nowHot := decide (256 ≤ c) && !e.hot
    (put i { e with syndrome := syn, count := c, tide := tide, hot := e.hot || nowHot } t, false,
      if nowHot then some true else none)
  | none =>
    match (List.range size).find? fun i => (find? t i).isNone with
    | some i => (put i { addr := addr, syndrome := syn, count := 1, tide := tide } t, false, some false)
    | none => (t, true, none)

/-! ### Haul channels under a fault -/

/-- PAUSE as it reaches a channel (R204, R218): a running channel issues no further read; with nothing outstanding and
every byte read already written it is paused at once. -/
def pauseHaul (h : Haul) : Haul :=
  if h.mode != .running then h
  else if h.unread = 0 && h.unacked = 0 && h.buffer.isEmpty then
    { h with mode := .paused
             src := if bit h.ctrl 22 then h.src else h.src + h.writePos
             dst := if bit h.ctrl 23 then h.dst else h.dst + h.writePos
             count := h.count - h.writePos, readPos := 0, writePos := 0 }
  else { h with mode := .pausing }

/-! ### Taking a pan fault -/

/-- A narrow request that serves a sequencer's or drain's descriptor or an RLD is withdrawn with the work it served (R137). -/
def NarrowUse.ofWork : NarrowUse → Bool
  | .sequencer | .reload | .rakeLoad _ => true
  | _ => false

/-- Discard the queues, the rake results in flight and the lattice (R97, R102, R137 step 2). The discarded reads' responses find
no requester. -/
def discardWork (x : Pan) : Pan :=
  { x with seq := { x.seq with feedq := [], northq := [], drainq := [], pend := [], loads := [], descServed := false, wait := .none
                               waited := 0, tileOpen := false, openPair := [], tileArmed := false, hold := none, holdDone := false
                               peerStop := none }
           lat := { wide := x.lat.wide.filter fun e => decide (e.1 ≤ x.seq.cycle), nextSeq := x.lat.nextSeq }
           store := { x.store with narrow := x.store.narrow.filter fun r => !r.use.ofWork } }

/-- The requests that answer to a test are given up; a response that still comes finds no requester (R137, R220, R222). -/
def expire (f : Outst → Bool) (s : State) : State :=
  { s with outs := s.outs.map fun o => if f o then { o with who := .expired } else o }

/-- A request of a pan's feeders. -/
def Outst.ofFeeder (p : Nat) (o : Outst) : Bool := match o.who with | .feeder q _ => q == p | _ => false

/-- A class and code that R137 keeps before another: the higher class (H 1, R 2, P 3), then the lower code. -/
def outranks (a b : Nat × Nat) : Bool := decide (a.1 < b.1) || (a.1 == b.1 && decide (a.2 < b.2))

/-- The record of a pan fault (R137, R450). A spare carries no logical work, so its fault names no job (R22). -/
def panRecord (p : Nat) (f : FaultReg) (s : State) : FaultRec :=
  { type := RecType.panFault, cls := recordClass f.cls, code := f.code, unitCls := UnitCls.pan, unitIdx := p
    addr := flag f.async 15 + field f.slot 2 13 + f.pc % 8192, detail := f.detail
    jobs := if s.isSpare p then 0 else s.jobMask (regionOf p) }

/-- The reports of a pan's recorded fault, changed. -/
def modPanReports (p : Nat) (f : FaultRec → FaultRec) (s : State) : State :=
  let q := (s.pan p).seq
  s.modFaults fun l =>
    { l with reports := l.reports.map fun r =>
        if r.type == RecType.panFault && r.unitIdx == p && r.tide == q.fault.tide && r.code == q.fault.code then f r else r }

/-- The pan's record of this cycle and its report are replaced (R137). -/
def replaceFault (p : Nat) (f : FaultReg) (s : State) : State :=
  (modPanReports p (fun r => { panRecord p f s with tide := r.tide, epoch := r.epoch }) s).modSeq p fun q => { q with fault := f }

/-- The pan has recorded a fault in its present cycle. -/
def Pan.faultsNow (x : Pan) (now : Nat) : Bool :=
  x.seq.mode == .faulted && x.seq.faultCycle == x.seq.cycle && x.seq.fault.tide == now

/-- A fault that arises in the cycle in which the pan faulted replaces the record of one it outranks, and its report (R137); a
chain peer's own fault replaces CHAIN_PEER (R139). One that arises later is not recorded. -/
def sameCycleFault (p : Nat) (f : FaultReg) (s : State) : State :=
  let x := s.pan p
  if x.faultsNow (s.panNow p) && (x.seq.fault.code == PanCode.chainPeer || outranks (f.cls, f.code) (x.seq.fault.cls, x.seq.fault.code)) then
    replaceFault p f s
  else s

/-- One pan takes a pan fault (R137) with its class. `slot` is none for an asynchronous fault. -/
def panFaultOne (p code cls detail : Nat) (slot : Option Nat) (pc : Nat) (s : State) : State :=
  let f : FaultReg := { code := code, cls := cls, detail := detail % 65536, async := slot.isNone,
                        slot := slot.getD 0, pc := pc, tide := s.panNow p }
  if (s.pan p).seq.mode = .faulted then sameCycleFault p f s
  else
    let s1 := s.modPan p fun x =>
      let y := discardWork x
      { y with seq := { y.seq with mode := .faulted, fault := f, faultCycle := y.seq.cycle }
               before := some (x.seq, x.lat)
               haul := y.haul.map fun e => (e.1, pauseHaul e.2) }
    report (panRecord p f s) (expire (Outst.ofFeeder p) s1)

/-- The logical column of a position. -/
def State.logicalCol (s : State) (p : Nat) : Nat :=
  let sc := s.spareCol (fieldOf p) (rowOf p)
  if colOf p < sc then colOf p else colOf p - 1

/-- The pan runs a chained schedule (R98): its tile is chained, or a chained run is queued, in progress or in flight; a TILE that
issues later leaves those chained (R118). CHAINED stays 1 after the tile has closed and its slots have left, while the tile context
is chained: the manual does not say when it drops (DESIGN CHOICE, log 106). -/
def Pan.chainedNow (x : Pan) : Bool :=
  x.lat.chained || x.lat.run.any (·.chained) || (x.seq.feedq.any fun e => match e with | .run r _ _ => r.chained | .tend _ => false) ||
  x.lat.flight.any fun f => f.chain.isSome

/-- The pan ran a chained schedule when the fault of its present cycle arose. -/
def Pan.chainedAtFault (x : Pan) (now : Nat) : Bool :=
  x.faultsNow now && x.before.any fun b => ({ seq := b.1, lat := b.2 } : Pan).chainedNow

/-- The region runs a chained schedule, which covers all its logical pans (R92). -/
def State.regionChained (s : State) (r : Nat) : Bool := (regionPans r).any fun q => (s.pan q).chainedNow

/-- The fault a chain takes among those of one cycle (R137, R139): class, code and logical column; of two with one class and code the
first the model meets (DESIGN CHOICE, log 106). -/
def chainTakes (old : Option (Nat × Nat × Nat)) (new : Nat × Nat × Nat) : Nat × Nat × Nat :=
  match old with
  | some k => if outranks (new.1, new.2.1) (k.1, k.2.1) then new else k
  | none => new

/-- A logical pan of a chained region is stopped by the fault the chain takes: its class, code and logical column (R96, R139). A
pan still in the cycle of that fault stops when the cycle ends, and records its own code if it faults first; a pan that recorded
CHAIN_PEER for a lesser fault of this cycle records it for this one; and Hakar does not act for a lesser fault of this cycle. -/
def stopPeer (cycle : Nat) (new : Nat × Nat × Nat) (s : State) (q : Nat) : State :=
  let x := s.pan q
  let k := chainTakes x.seq.peerStop new
  let keep (t : State) : State := t.modSeq q fun y => { y with peerStop := some k }
  if x.seq.mode = .faulted then
    if !x.faultsNow (s.panNow q) then s
    else if x.seq.fault.code == PanCode.chainPeer then keep (replaceFault q { x.seq.fault with cls := k.1, detail := k.2.2 } s)
    else if outranks (k.1, k.2.1) (x.seq.fault.cls, x.seq.fault.code) then keep (modPanReports q (fun r => { r with passive := true }) s)
    else keep s
  else if x.seq.cycle = cycle && s.panWorks q then keep s
  else keep (panFaultOne q PanCode.chainPeer k.1 k.2.2 none x.seq.pc s)

/-- A pan fault, and CHAIN_PEER in the other logical pans of a chained schedule (R96, R139). -/
def panFault (p code detail : Nat) (slot : Option Nat) (s : State) : State :=
  let x := s.pan p
  let cls := panClass code
  let s1 := panFaultOne p code cls detail slot x.seq.pc s
  let recorded := x.seq.mode != .faulted || (s1.pan p).seq.fault != x.seq.fault
  if recorded && (s.regionChained (regionOf p) || x.chainedAtFault (s.panNow p)) && !s.isSpare p then
    let own := (cls, code, s.logicalCol p)
    let kept := chainTakes x.seq.peerStop own
    let s2 := if kept = own then s1 else modPanReports p (fun r => { r with passive := true }) s1
    foldState ((regionPans (regionOf p)).filter fun k => k != p && !s.isSpare k) (stopPeer x.seq.cycle kept)
      (s2.modSeq p fun q => { q with peerStop := some kept })
  else s1

/-- What a unit of a pan does in a cycle. In the cycle in which the pan has faulted its other faults still arise, from the work as it
stood before, and only the record can change (R137). -/
def inCycle (p : Nat) (f : State → State) (s : State) : State :=
  let x := s.pan p
  match x.before with
  | none => f s
  | some b =>
    if x.faultsNow (s.panNow p) then
      let g := ((f (s.modPan p fun y => { y with seq := b.1, lat := b.2, before := none })).pan p).seq
      if g.mode = .faulted && g.fault.tide = s.panNow p then
        panFault p g.fault.code g.fault.detail (if g.fault.async then none else some g.fault.slot) s
      else s
    else f s

/-! ### Semaphores (R128, R129) -/

/-- Add to a semaphore from any source but SSIG: it stops at 65,535, and a RUNNING or WAITING sequencer stops with
SEM_OVERFLOW asynchronously (R129). -/
def semAdd (p sem n : Nat) (s : State) : State :=
  let x := s.pan p
  let v := look 0 x.seq.sems sem + n
  let s1 := s.modSeq p fun q => { q with sems := put sem (min 65535 v) q.sems }
  if 65535 < v && (x.seq.mode == .running || x.seq.mode == .waiting) then panFault p PanCode.semOverflow sem none s1
  else s1

end Sys2Proof.Machine
end

