-- ==== Sys2Proof/Machine/Operands.lean ====
section
/-! DEFINITION. Operand forms: global addresses and what they name, source ids, lot and cellar translation, packets and their
routes on the die and over Finron, and the four slots of a bundle. -/

namespace Sys2Proof.Machine
open Sys2Proof

/-! ### Global addresses (R281) -/

/-- DEVICE of a global address. -/
def addrDevice (a : Nat) : Nat := bits a 62 50
/-- SPACE of a global address: 0 pan store, 1 brine, 2 cellar, 3 control. -/
def addrSpace (a : Nat) : Nat := bits a 49 48
/-- OFFSET of a global address. -/
def addrOffset (a : Nat) : Nat := a % 2 ^ 48
/-- The address names this device (R282). -/
def State.isOwn (s : State) (a : Nat) : Bool := addrDevice a == 8191 || addrDevice a == s.deviceId
/-- A global address from its parts. -/
def mkAddr (dev space off : Nat) : Nat := dev <<< 50 + space <<< 48 + off

/-- Pan store space (R283): direct, group or reduction form, or a form or reserved bit that is refused. -/
inductive PanForm where
  | direct (logical byte : Nat)
  | group (g byte : Nat)
  | reduction (rid input off : Nat)
  | bad
deriving DecidableEq, Repr

/-- The form of a pan store offset (R283). -/
def panForm (off : Nat) : PanForm :=
  match bits off 47 46 with
  | 0 => if bits off 45 34 = 0 then .direct (bits off 33 23) (bits off 22 0) else .bad
  | 1 => if bits off 45 29 = 0 then .group (bits off 28 23) (bits off 22 0) else .bad
  | 2 => if bits off 45 37 = 0 && bits off 23 14 = 0 then .reduction (bits off 36 31) (bits off 30 24) (bits off 13 0)
         else .bad
  | _ => .bad

/-- A SEM_NOTIFY register's global address (R140, R285). -/
def semNotifyAddr (dev logical sem : Nat) : Nat := mkAddr dev 3 (logical * 0x2000000 + 0x80 + 4 * sem)

/-! ### Source ids (R161) -/

def srcDevice (x : Nat) : Nat := bits x 27 15
/-- KIND: 0 pan, 1 control-complex channel, 2 Hakar core; others reserved. -/
def srcKind (x : Nat) : Nat := bits x 14 11
def srcIndex (x : Nat) : Nat := x % 2048
def mkSrc (dev kind idx : Nat) : Nat := dev <<< 15 + kind <<< 11 + idx

/-- The source id of a haul channel's writes (R201). -/
def State.haulSrc (s : State) : HaulId → Nat
  | .pan p _ => mkSrc s.deviceId 0 ((s.logicalPan p).getD 2047)
  | .cc c => mkSrc s.deviceId 1 c

/-- The source id of the lead Hakar core. -/
def State.hakarSrc (s : State) : Nat := mkSrc s.deviceId 2 s.hif.lead

/-- A source id of a Hakar core. -/
def isHakar (src : Nat) : Bool := srcKind src == 2 && decide (srcIndex src ≤ 3)

/-- One of the device's own Hakar cores. -/
def State.ownHakar (s : State) (src : Nat) : Bool := srcDevice src == s.deviceId && isHakar src

/-- A Hakar core or control-complex channel of this device (R164 rule 3, R287). -/
def State.ownControl (s : State) (src : Nat) : Bool :=
  s.ownHakar src || (srcDevice src == s.deviceId && srcKind src == 1 && decide (srcIndex src < 32))

/-- The source that stands for the device's debug port, to which R161 gives none (log 92). -/
def State.debugSrc (s : State) : Nat := mkSrc s.deviceId 2 2047

/-- An access of the debug port, which debug unlock has opened (R484). -/
def State.debugOpen (s : State) (src : Nat) : Bool := src == s.debugSrc && bit s.sec.scope 1

/-! ### Brine and cellar places -/

/-- Where a run of bytes lies: piece by piece, the slice (or channel), the byte within it, and the length. -/
abbrev Pieces := List (Nat × Nat × Nat)

/-- Entry i of the spread table. -/
def State.spreadEntry (s : State) (i : Nat) : Nat × Int :=
  match s.memdev.spread.find? fun e => e.1 == i with | some e => e.2 | none => (i, 0)

/-- Translate one lot offset to a slice and byte (R181, R182), with the bytes left in its extent or chunk. -/
def State.lotPlace (s : State) (lot o : Nat) : Option (Nat × Nat × Nat) :=
  match s.memdev.lots.find? fun e => e.1 == lot with
  | none => none
  | some (_, .near _ n count first) =>
    let size := 2 ^ (20 + n)
    let e := o / size
    if count ≤ e then none
    else
      let x := look 0 s.memdev.ext (first + e)
      some (bits x 15 5, (x % 32) * 2 ^ 20 + o % size, size - o % size)
  | some (_, .even _ base len) =>
    let nn := s.memdev.n
    let c := o / 256
    let q := c / nn
    if nn = 0 || len * 256 ≤ q then none
    else
      let i := (s.memdev.m * (c % nn) + 97 * q) % nn
      let e := s.spreadEntry i
      some (e.1, ((s.memdev.ezBase * 65536 + base * 65536 + q * 256 + o % 256 : Nat) + e.2 * 65536 : Int).toNat, 256 - o % 256)

/-- The pieces of a request in lot space, in offset order (R183); none when any byte has no place. `fuel` bounds the pieces. -/
def State.lotPieces (s : State) (lot : Nat) : Nat → Nat → Nat → Option Pieces
  | 0, _, _ => some []
  | fuel + 1, o, n =>
    match s.lotPlace lot o with
    | none => none
    | some (sl, b, left) =>
      if n ≤ left then some [(sl, b, n)]
      else match s.lotPieces lot fuel (o + left) (n - left) with
        | none => none
        | some ps => some ((sl, b, left) :: ps)

/-- The pieces of a brine request, or the cause of its rejection (R178, R183). Slice space is open to Hakar cores and the
debug port. -/
def State.brinePieces (s : State) (src off n : Nat) : Except Nat Pieces :=
  let m := max 1 n
  if bit off 47 then
    if (isHakar src || s.debugOpen src) && bits off 46 36 < 1620 && bits off 35 25 == 0 &&
        decide (off % 2 ^ 25 + m ≤ 2 ^ 25) then .ok [(bits off 46 36, off % 2 ^ 25, n)]
    else .error Cause.lotFault
  else match s.lotPieces (bits off 46 36) 5 (off % 2 ^ 36) m with
    | none => .error Cause.lotFault
    | some ps => .ok (if n = 0 then ps.map fun e => (e.1, e.2.1, 0) else ps)

/-- The populated cellar channels in the order of cseq (R189): increasing k, then increasing group g. -/
def State.cseq (s : State) : List Nat :=
  ((List.range 16).map fun k => (List.range 6).map fun g => 16 * g + k).flatten.filter fun ch => bit s.memdev.sites (ch / 4)

/-- Bytes of a package capacity code per channel (R188, R199): 8, 16, 20 or 24 GB. -/
def channelBytes (code : Nat) : Nat :=
  (if code = 1 then 8 else if code = 2 then 16 else if code = 3 then 20 else 24) * 1000000000

/-- Usable cellar bytes (R190): seven eighths of the populated channels. -/
def State.cellarUsable (s : State) : Nat := s.cseq.length * (channelBytes s.memdev.capacity * 7 / 8)

/-- The channel and the channel data address of a linear address (R189). -/
def State.cellarPlace (s : State) (a : Nat) : Nat × Nat :=
  let cs := s.cseq
  let c := a / 256
  if cs.length = 0 then (0, 0) else (cs.getD (c % cs.length) 0, c / cs.length * 256 + a % 256)

/-! ### Routes on the die (R227, R237 to R239) -/

/-- A router has failed, at assay or since. -/
def State.routerFailed (s : State) (gx gy : Nat) : Bool := (s.router gx gy).state != 0

/-- The router of an attachment pair that serves an address, by bit 6 (R227). -/
def pairRouter (r0 r1 : Nat × Nat) (a : Nat) : Nat × Nat := if bit a 6 then r1 else r0

/-- The attachment router of Finron port n for an address (R227). -/
def finronRouter (n a : Nat) : Nat × Nat :=
  if n < 8 then pairRouter (7 * n + 3, 0) (7 * n + 4, 0) a
  else pairRouter (7 * (n - 8) + 3, 26) (7 * (n - 8) + 4, 26) a

/-- The attachment router of a cellar PHY group for an address (R227). -/
def cellarRouter (g a : Nat) : Nat × Nat :=
  match g with
  | 0 => pairRouter (0, 3) (0, 4) a
  | 1 => pairRouter (0, 9) (0, 10) a
  | 2 => pairRouter (0, 19) (0, 20) a
  | 3 => pairRouter (59, 3) (59, 4) a
  | 4 => pairRouter (59, 13) (59, 14) a
  | _ => pairRouter (59, 22) (59, 23) a

/-- An attachment continues through its other router when the one an address names has failed (R227): `f` is the attachment's
router of an address. -/
def State.working (s : State) (f : Nat → Nat × Nat) (a : Nat) : Nat × Nat :=
  let r := f a
  if s.routerFailed r.1 r.2 then f (if bit a 6 then 0 else 64) else r

/-- The control complex's router (R227). -/
def controlRouter : Nat × Nat := (0, 13)
/-- The PCI Express port's router (R227). -/
def pcieRouter : Nat × Nat := (0, 14)

/-! ### Routes over Finron (R271 to R274) -/

/-- Position number x + DX × (y + DY × z). -/
def State.posNumber (s : State) (x y z : Nat) : Nat := x + s.fin.dx * (y + s.fin.dy * z)

/-- The four POS_STATE bits of a position (R280). -/
def State.posState (s : State) (x y z : Nat) : Nat := look 0 s.fin.posState (s.posNumber x y z)

/-- ROUTE of a device id: the entry Hakar wrote. -/
def State.routeOf (s : State) (d : Nat) : Option Route := (s.fin.route.find? fun e => e.1 == d).map (·.2)

/-- The positions a leg passes, its start first: `n` links in a ring of size `d`, + or −. -/
def legPath (d start : Nat) (plus : Bool) : Nat → List Nat
  | 0 => [start]
  | n + 1 => start :: legPath d (if plus then (start + 1) % d else (start + d - 1) % d) plus n

/-- Links a leg takes in a direction. -/
def legLinks (d a b : Nat) (plus : Bool) : Nat := if plus then (b + d - a) % d else (a + d - b) % d

/-- An arc of a leg is usable (R273): no broken segment and no dead position strictly between its ends. `st` gives the
POS_STATE bits at a ring place, `segBit` the bit of the + segment of this dimension. -/
def arcOk (st : Nat → Nat) (segBit d a b : Nat) (plus : Bool) : Bool :=
  let path := legPath d a plus (legLinks d a b plus)
  (path.dropLast.all fun p => !bit (st (if plus then p else (p + d - 1) % d)) segBit) &&
  (path.drop 1 |>.dropLast).all fun p => !bit (st p) 3

/-- The direction of a leg (R273): the shorter way, + on a tie, the other arc where that one is blocked; none when both are. -/
def legDir (st : Nat → Nat) (segBit d a b : Nat) : Option Bool :=
  if a = b then some true
  else
    let plus := decide (legLinks d a b true ≤ legLinks d a b false)
    if arcOk st segBit d a b plus then some plus
    else if arcOk st segBit d a b (!plus) then some (!plus) else none

/-- A route: detour order, the directions of X, Y and Z as DIRS (R264), and the role of the first port. -/
structure Path where
  detour : Bool
  dirs : Nat
  first : Nat
deriving DecidableEq, Repr

/-- The direction code of R256 of a dimension's port: X 0 and 1, Y 2 and 3, Z 4 and 5. -/
def roleOf (dim : Nat) (plus : Bool) : Nat := 2 * dim + (if plus then 0 else 1)

/-- The detour order Z, Y, X under the same rules. -/
def State.detourRoute (s : State) (a b : Nat × Nat × Nat) : Option Path :=
  let dx := s.fin.dx; let dy := s.fin.dy; let dz := s.fin.dz
  let pz := legDir (fun p => s.posState a.1 a.2.1 p) 2 dz a.2.2 b.2.2
  let py := legDir (fun p => s.posState a.1 p b.2.2) 1 dy a.2.1 b.2.1
  let px := legDir (fun p => s.posState p b.2.1 b.2.2) 0 dx a.1 b.1
  let turn1 := a.2.2 != b.2.2 && (a.2.1 != b.2.1 || a.1 != b.1) && bit (s.posState a.1 a.2.1 b.2.2) 3
  let turn2 := a.2.1 != b.2.1 && a.1 != b.1 && bit (s.posState a.1 b.2.1 b.2.2) 3
  match px, py, pz with
  | some x, some y, some z =>
    if turn1 || turn2 then none
    else
      let f := if a.2.2 != b.2.2 then (2, z) else if a.2.1 != b.2.1 then (1, y) else (0, x)
      some { detour := true, dirs := flag (!x) 0 + flag (!y) 1 + flag (!z) 2, first := roleOf f.1 f.2 }
  | _, _, _ => none

/-- The route from one position to another (R273): X, Y, Z, or by the detour order Z, Y, X; none when both are blocked. -/
def State.route (s : State) (a b : Nat × Nat × Nat) : Option Path :=
  let dx := s.fin.dx; let dy := s.fin.dy; let dz := s.fin.dz
  let px := legDir (fun p => s.posState p a.2.1 a.2.2) 0 dx a.1 b.1
  let py := legDir (fun p => s.posState b.1 p a.2.2) 1 dy a.2.1 b.2.1
  let pz := legDir (fun p => s.posState b.1 b.2.1 p) 2 dz a.2.2 b.2.2
  let turn1 := a.1 != b.1 && (a.2.1 != b.2.1 || a.2.2 != b.2.2) && bit (s.posState b.1 a.2.1 a.2.2) 3
  let turn2 := a.2.1 != b.2.1 && a.2.2 != b.2.2 && bit (s.posState b.1 b.2.1 a.2.2) 3
  let mk (det : Bool) (x y z : Bool) (dim : Nat) (p : Bool) : Path :=
    { detour := det, dirs := flag (!x) 0 + flag (!y) 1 + flag (!z) 2, first := roleOf dim p }
  let firstOf (x y z : Bool) : Nat × Bool :=
    if a.1 != b.1 then (0, x) else if a.2.1 != b.2.1 then (1, y) else (2, z)
  match px, py, pz with
  | some x, some y, some z =>
    if turn1 || turn2 then s.detourRoute a b
    else let f := firstOf x y z; some (mk false x y z f.1 f.2)
  | _, _, _ => s.detourRoute a b

/-- The first port of a role's pair (R256). -/
def firstPort (role : Nat) : Nat := if role % 2 = 0 then role / 2 * 2 else 8 + role / 2 * 2

/-- The port of express Ek (R256). -/
def expressPort (k : Nat) : Nat := [6, 7, 14, 15].getD k 6

/-- A port carries traffic. -/
def State.portUp (s : State) (n : Nat) : Bool := (s.port n).state == 2 || (s.port n).state == 3

/-- The port of a pair for a source and destination device (R272); none when both are down. -/
def State.pairPort (s : State) (role src dst : Nat) : Option Nat :=
  let p0 := firstPort role + (if (bit src 0 ^^ bit src 15 ^^ bit dst 0) then 1 else 0)
  let p1 := if p0 % 2 = 0 then p0 + 1 else p0 - 1
  if s.portUp p0 then some p0 else if s.portUp p1 then some p1 else none

/-- How the injecting device sends to a device (R273, R274): the port, DIRS, DETOUR and EXP; none when no route reaches it. -/
def State.egress (s : State) (src dst : Nat) : Option (Nat × Nat × Bool × Bool) :=
  match s.fin.selfPos, s.routeOf dst with
  | some me, some r =>
    match r.exp with
    | some e => if s.portUp (expressPort e) then some (expressPort e, 0, false, true) else none
    | none =>
      match s.route me (r.x, r.y, r.z) with
      | none => none
      | some p => (s.pairPort p.first src dst).map fun n => (n, p.dirs, p.detour, false)
  | _, _ => none

/-! ### Packets (R228 to R232) -/

/-- Units of a packet (R228). -/
def Packet.units (k : Packet) (carried : Nat) : Nat := max 1 ((k.addr % 64 + carried + 63) / 64)

/-- Data bytes a packet carries: a read request carries none (R230). -/
def Packet.carried (k : Packet) : Nat := if k.op = Op.rd then 0 else k.bytes

/-- The virtual channel of an operation (R230). -/
def opChannel (op : Nat) : Option Nat :=
  if [0x01, 0x02, 0x03, 0x04, 0x05, 0x06].contains op then some 1
  else if [0x10, 0x11, 0x12].contains op then some 0
  else if [0x21, 0x22, 0x23, 0x26].contains op then some 2 else none

/-- BYTES within the limits of the operation, which for a response depend on its STATUS (R230). -/
def bytesOk (k : Packet) : Bool :=
  let n := k.bytes
  if k.op = Op.rd then decide (1 ≤ n ∧ n ≤ 512)
  else if k.op = Op.wr ∨ k.op = Op.mcWr ∨ k.op = Op.busWr then decide (n ≤ 512)
  else if k.op = Op.atomic then decide (4 ≤ n ∧ n ≤ 16)
  else if k.op = Op.reduce then decide (4 ≤ n ∧ n ≤ 512)
  else if k.op = Op.urgWr then decide (4 ≤ n ∧ k.addr % 64 + n ≤ 64)
  else if k.op = Op.commit ∨ k.op = Op.barrier then decide (k.addr % 64 + n ≤ 64)
  else if k.op = Op.rdData then (if k.status = 0 then decide (1 ≤ n ∧ n ≤ 512) else n == 0)
  else if k.op = Op.wrAck then n == 0
  else if k.op = Op.atomicData then (if k.status = 0 then decide (4 ≤ n ∧ n ≤ 16) else n == 0)
  else decide (n ≤ 8)

/-- A request's STATUS is 0, SRC's KIND is one of R161, and coordinates lie on the mesh (R229). -/
def fieldsOk (k : Packet) : Bool :=
  decide (k.dgx < 60) && decide (k.dgy < 27) && decide (k.sgx < 60) && decide (k.sgy < 27) && decide (srcKind k.src ≤ 2) &&
  decide (k.status ≤ 0x0A) && (decide (0x20 ≤ k.op) || k.status == 0)

/-- The router a control-space address stands at (R285). -/
def State.controlAt (s : State) (off : Nat) : Nat × Nat :=
  let area := bits off 47 40
  let o := off % 2 ^ 40
  if area = 0 then
    match s.panPos (o / 0x2000000) with | some p => (meshX p, meshY p) | none => controlRouter
  else if area = 1 then (meshX (o / 0x2000000), meshY (o / 0x2000000))
  else if area = 2 then (meshX (o / 0x400), meshY (o / 0x400))
  else if area = 3 then s.working (cellarRouter (o / 0x400 / 16)) off
  else if area = 5 then (o / 0x100 % 60, o / 0x100 / 60)
  else controlRouter

/-- The destination router of a request address. -/
def State.destOf (s : State) (src a : Nat) : Nat × Nat :=
  if !s.isOwn a then
    match s.egress src (addrDevice a) with | some e => s.working (finronRouter e.1) a | none => controlRouter
  else match addrSpace a with
    | 0 => match panForm (addrOffset a) with
      | .direct l _ => (match s.panPos l with | some p => (meshX p, meshY p) | none => controlRouter)
      | .group _ _ => (0, 0)
      | _ => controlRouter
    | 1 => match s.brinePieces src (addrOffset a) 1 with
      | .ok ((sl, _, _) :: _) => (meshX sl, meshY sl)
      | _ => controlRouter
    | 2 => s.working (cellarRouter ((s.cellarPlace (addrOffset a)).1 / 16)) a
    | _ => s.controlAt (addrOffset a)

/-- Router counters (R253) by offset. -/
abbrev rtrUrgent : Nat := 0x020
abbrev rtrRequest : Nat := 0x024
abbrev rtrResponse : Nat := 0x028
abbrev rtrPreempt : Nat := 0x02C
abbrev rtrDetour : Nat := 0x030
abbrev rtrLinkCe : Nat := 0x034
abbrev rtrLinkUe : Nat := 0x038
abbrev rtrDiscard : Nat := 0x03C
abbrev rtrThrottle : Nat := 0x040
abbrev rtrReplica : Nat := 0x044
abbrev rtrBus : Nat := 0x048

/-- ROW_DEAD of row gy names column gx (R239, R253). -/
def State.rowDeadBit (s : State) (gy gx : Nat) : Bool := bit (look 0 s.net.rowDead gy) gx

/-- Bund cycles, of half a nanosecond (log 13). -/
def State.bundNow (s : State) : Nat := 2 * s.now

/-- An urgent injection under URGENT_GAP (R235): it counts when it waits, and the next may follow one gap after it. -/
def urgentGate (gx gy : Nat) (s : State) : State :=
  let r := s.router gx gy
  if s.bundNow < r.urgentNext then
    s.modRouter gx gy fun r => { r with ctr := bump r.ctr rtrThrottle 1, urgentNext := r.urgentNext + s.net.urgentGap }
  else s.modRouter gx gy fun r => { r with urgentNext := s.bundNow + s.net.urgentGap }

/-- A group write, which goes to its members and to no one router (R229). -/
def Packet.isMulti (k : Packet) : Bool := k.op == Op.mcWr || k.op == Op.busWr

/-- A target that stands at a router's local port: a pan store, a brine slice, or a pan's or slice's registers. -/
def State.targetLocal (s : State) (k : Packet) : Bool :=
  s.isOwn k.addr && !([Op.atomic, Op.atomicData, Op.reduce, Op.reduceAck].contains k.op) &&
  (addrSpace k.addr ≤ 1 || (addrSpace k.addr == 3 && decide (bits (addrOffset k.addr) 47 40 ≤ 2)))

/-- A router that the attachment table names, which alone has an edge port (R224, R227). -/
def hasEdge (gx gy : Nat) : Bool :=
  (gx == 0 && (gy == 13 || gy == 14)) || ((List.range 16).any fun n => (gx, gy) == finronRouter n 0 || (gx, gy) == finronRouter n 64) ||
  (List.range 6).any fun g => (gx, gy) == cellarRouter g 0 || (gx, gy) == cellarRouter g 64

/-- The port of router (gx, gy), local (8) or edge (9), by which a packet leaves the network at its destination (`arrives`) or enters
it (R224, R227): a router's own registers, and the answer to a request that it turns away, pass by its local port where it has no edge
port. -/
def State.diePort (s : State) (gx gy : Nat) (k : Packet) (arrives : Bool) : Nat :=
  let requester := decide (0x20 ≤ k.op) == arrives
  if !hasEdge gx gy || (if requester then srcKind k.src == 0 && srcDevice k.src == s.deviceId else s.targetLocal k) then 8 else 9

/-- Put a packet into the network at a router (R232, R235, R239): its units wait in the injecting router's local or edge port. Of those that
wait by an edge port the port's buffer holds the first 4, or 16 (R231), and the attached unit the rest, which no register shows. -/
def inject (gx gy dgx dgy : Nat) (k : Packet) (s : State) : State :=
  let det := !(Packet.isMulti k) && s.rowDeadBit gy dgx && dgx != gx
  let k1 : Packet := { k with gx := gx, gy := gy, dgx := dgx, dgy := dgy, detour := det, onDetour := false
                              lane := (k.src % 2 + dgx % 2 + dgy % 2) % 2 }
  let start := if k.vc = 0 then max s.bundNow (s.router gx gy).urgentNext else s.bundNow
  let s1 := if k.vc = 0 then urgentGate gx gy s else s
  let s2 := if det then s1.bumpRouter gx gy rtrDetour 1 else s1
  let units := Packet.units k1 (Packet.carried k1)
  let port := s.diePort gx gy k1 false
  s2.modNet fun n =>
    { n with
      flight := n.flight ++ [{ id := n.nextPacket, k := k1, ox := gx, oy := gy, start := start
                               units := (List.range units).map fun i =>
                                 some { gx := gx, gy := gy, port := port, seq := n.moved + i } }]
      nextPacket := n.nextPacket + 1, moved := n.moved + units }

/-- The operation that answers a request (R230). -/
def answerOp (op : Nat) : Nat :=
  if op = Op.rd then Op.rdData else if op = Op.atomic then Op.atomicData else if op = Op.reduce then Op.reduceAck else Op.wrAck

/-- Send a request from a router: its own coordinates are SGX and SGY. A request whose address has bit 63 set (R281), or that no route
reaches (R273, R282), is answered with ADDR at once. -/
def sendFrom (gx gy : Nat) (k : Packet) (s : State) : State :=
  if bit k.addr 63 || (!s.isOwn k.addr && (s.egress k.src (addrDevice k.addr)).isNone) then
    if k.vc = 0 then s
    else inject gx gy gx gy { k with op := answerOp k.op
                                     vc := 2, bytes := 0, status := Cause.addr, sgx := gx, sgy := gy, data := [], marks := [] } s
  else
    -- the atomic unit and the collective unit stand with the control complex (R296, R308)
    let d := if s.isOwn k.addr && (k.op == Op.atomic || k.op == Op.reduce) then controlRouter else s.destOf k.src k.addr
    inject gx gy d.1 d.2 { k with sgx := gx, sgy := gy } s

/-- A request the device has given up (R222). -/
def Outst.isExpired (o : Outst) : Bool := match o.who with | .expired => true | _ => false

/-- The least tag a source has no request out under (R229): one that a request given up does not hold, while there is one, so that
a late response is not taken for a new request's (R222). -/
def State.freeTag (s : State) (src : Nat) : Nat :=
  match (List.range 4096).find? fun t => !s.outs.any fun o => o.src == src && o.tag == t with
  | some t => t
  | none => ((List.range 4096).find? fun t => !s.outs.any fun o => o.src == src && o.tag == t && !o.isExpired).getD 0

/-- A response leaves router (gx, gy). A member's answer to a group write goes to the router it branches from, which holds it (R246); any
other goes back to the router that injected the request (R229). -/
def sendBack (gx gy : Nat) (k : Packet) (s : State) : State :=
  let mine (c : Combine) : Bool :=
    k.op == Op.wrAck && c.src == k.src && c.tag == k.tag && c.addr == k.addr && c.waiting.contains (gx, gy)
  let answered (c : Combine) : Combine :=
    { c with waiting := c.waiting.erase (gx, gy), causes := if k.status = 0 then c.causes else c.causes ++ [(gy, gx, k.status)] }
  if s.net.combine.any mine then
    s.modNet fun n => { n with combine := n.combine.map fun c => if mine c then answered c else c }
  else inject gx gy k.sgx k.sgy k s

/-- The response to a request (R229). -/
def respond (gx gy : Nat) (k : Packet) (op status : Nat) (data : List Byte) (marks : List Bool) (s : State) : State :=
  sendBack gx gy
    { op := op, vc := 2, addr := k.addr, src := k.src, tag := k.tag, bytes := data.length, status := status
      sgx := k.sgx, sgy := k.sgy, data := data, marks := marks } s

/-- A request is out without its response (R222); it takes the next number in order of issue (R130, R299), and its tag from a
request given up, if one held it. -/
def addOut (o : Outst) (s : State) : State :=
  { s with issuedOuts := s.issuedOuts + 1
           outs := (s.outs.filter fun e => !(e.isExpired && e.src == o.src && e.tag == o.tag)) ++ [{ o with serial := s.issuedOuts + 1 }] }

/-! ### Bundle slots (R103 to R126) -/

/-- The feed slot (R108). -/
inductive FeedOp where
  | nop
  | wfeed (copy start last zero : Bool) (h w n : Nat)
  | hload (copy dp : Bool)
  | tend
  | reserved
deriving DecidableEq, Repr

/-- The feed slot of a bundle. -/
def feedSlot (v : Nat) : FeedOp :=
  match bits v 31 28 with
  | 0 => if bits v 27 0 = 0 then .nop else .reserved
  | 1 => if bits v 3 0 = 0 then .wfeed (bit v 27) (bit v 26) (bit v 25) (bit v 24) (bits v 23 20) (bits v 19 12) (bits v 11 4 + 1)
         else .reserved
  | 2 => if bits v 25 0 = 0 then .hload (bit v 27) (bit v 26) else .reserved
  | 3 => if bits v 27 0 = 0 then .tend else .reserved
  | _ => .reserved

/-- The drain slot (R119). -/
inductive DrainOp where
  | nop
  | dout (sig : Bool) (sem n : Nat)
  | drld (sag dag n desc : Nat)
  | dwait
  | reserved
deriving DecidableEq, Repr

/-- The drain slot of a bundle. -/
def drainSlot (v : Nat) : DrainOp :=
  match bits v 31 28 with
  | 0 => if bits v 27 0 = 0 then .nop else .reserved
  | 1 => if bits v 14 0 = 0 then .dout (bit v 27) (bits v 26 23) (bits v 22 15 + 1) else .reserved
  | 2 => .drld (bits v 27 26) (bits v 25 24) (bits v 23 16 + 1) (bits v 15 0 * 128)
  | 3 => if bits v 27 0 = 0 then .dwait else .reserved
  | _ => .reserved

/-- The rake slot's fields (R123). -/
structure RakeOp where
  rop : Nat
  w : Bool
  vd : Nat
  va : Nat
  vb : Nat
  imm : Nat
deriving DecidableEq, Repr

/-- The rake slot of a bundle. -/
def rakeSlot (v : Nat) : RakeOp :=
  { rop := bits v 31 26, w := bit v 25, vd := bits v 24 21, va := bits v 20 17, vb := bits v 16 13, imm := bits v 12 0 }

/-- IMM read as 13-bit two's complement (R123). -/
def RakeOp.simm (r : RakeOp) : Int := signed 13 r.imm

/-- A reserved opcode or value of the rake slot (R123). -/
def RakeOp.isReserved (r : RakeOp) : Bool :=
  decide (0x16 < r.rop) ||
  (r.rop == 0x10 && r.va == 15) || (r.rop == 0x16 && r.vb == 15) ||
  (r.rop == 0x0E && !r.w) || (r.rop == 0x0F && r.w) ||
  (r.rop == 0x0D && decide (63 < r.imm)) ||
  (r.rop == 0x07 && (decide (r.simm < -63) || decide (63 < r.simm))) ||
  (r.rop == 0x01 && bit r.imm 2 && bit r.imm 3) ||
  ((r.rop == 0x10 || r.rop == 0x16) && bit r.vd 3)

/-- The move/sync slot (R126). -/
inductive MoveOp where
  | nop
  | lset (lc v : Nat)
  | loop (lc target : Nat)
  | jmp (target : Nat)
  | spin (n : Nat)
  | halt
  | agld (ag desc : Nat)
  | tile (copy : Bool) (desc : Nat)
  | notice
  | swait (sem n : Nat)
  | ssig (sem n : Nat)
  | notify (t n : Nat)
  | fence
  | wopen (w desc : Nat)
  | wclose (w : Nat)
  | hstart (ch desc : Nat)
  | done (share : Nat)
  | reserved
deriving DecidableEq, Repr

/-- The move/sync slot of a bundle. -/
def moveSlot (v : Nat) : MoveOp :=
  let z (hi lo : Nat) (m : MoveOp) : MoveOp := if bits v hi lo = 0 then m else .reserved
  match bits v 31 27 with
  | 0x00 => z 26 0 .nop
  | 0x01 => z 23 16 (.lset (bits v 26 24) (if bits v 15 0 = 0 then 65536 else bits v 15 0))
  | 0x02 => z 23 13 (.loop (bits v 26 24) (bits v 12 0))
  | 0x03 => z 26 13 (.jmp (bits v 12 0))
  | 0x04 => z 26 16 (.spin (bits v 15 0))
  | 0x05 => z 26 0 .halt
  | 0x06 => z 24 17 (.agld (bits v 26 25) (bits v 16 0 * 64))
  | 0x07 => z 25 17 (.tile (bit v 26) (bits v 16 0 * 64))
  | 0x08 => z 26 0 .notice
  | 0x09 => z 22 16 (.swait (bits v 26 23) (bits v 15 0))
  | 0x0A => z 22 16 (.ssig (bits v 26 23) (bits v 15 0))
  | 0x0B => z 22 16 (.notify (bits v 26 23) (bits v 15 0))
  | 0x0C => z 26 0 .fence
  | 0x0D => z 22 17 (.wopen (bits v 26 23) (bits v 16 0 * 64))
  | 0x0E => z 22 0 (.wclose (bits v 26 23))
  | 0x0F => z 24 17 (.hstart (bits v 26 25) (bits v 16 0 * 64))
  | 0x10 => z 26 16 (.done (bits v 15 0))
  | _ => .reserved

/-- The four slots of a bundle (R103). -/
def slotsOf (b : Bundle) : FeedOp × DrainOp × RakeOp × MoveOp :=
  let v := b.toNat
  (feedSlot (bits v 31 0), drainSlot (bits v 63 32), rakeSlot (bits v 95 64), moveSlot (bits v 127 96))

end Sys2Proof.Machine
end

