-- ==== Sys2Proof/Machine/Ring.lean ====
section
/-! DEFINITION. The completion ring, the command journal and the MSI-X vectors (R426, R432 to R437). -/

namespace Sys2Proof.Machine
open Sys2Proof

/-! ### Completion codes (R440) -/
namespace Status
abbrev success : Nat := 0x00
abbrev badOpcode : Nat := 0x01
abbrev badField : Nat := 0x02
abbrev notReady : Nat := 0x03
abbrev tagReuse : Nat := 0x04
abbrev badState : Nat := 0x05
abbrev noSlot : Nat := 0x06
abbrev noRegions : Nat := 0x07
abbrev noMemory : Nat := 0x08
abbrev noTable : Nat := 0x09
abbrev imageDigest : Nat := 0x0A
abbrev imageHeader : Nat := 0x0B
abbrev imageGraph : Nat := 0x0C
abbrev imageStepping : Nat := 0x0D
abbrev hostAccess : Nat := 0x0E
abbrev haul : Nat := 0x0F
abbrev notRetained : Nat := 0x10
abbrev budgetMember : Nat := 0x11
abbrev aborted : Nat := 0x12
abbrev auth : Nat := 0x13
abbrev unknownTag : Nat := 0x14
abbrev bufferShort : Nat := 0x15
abbrev atomicBusy : Nat := 0x16
end Status

/-- The two 32-bit words of a 64-bit payload value. -/
def words64 (v : Nat) : List Nat := [lo32 v, hi32 v]

/-- A vector's messages may go out: neither its own mask nor the Function Mask holds it (R426, PCI Express). -/
def HostIf.vectorOpen (h : HostIf) (v : Nat) : Bool := h.unmasked.contains v && !h.functionMask

/-- Signal an MSI-X vector (R426): a message, or the pending bit while the vector is masked; nothing while MSI-X is not enabled. -/
def signalVector (v : Nat) (s : State) : State :=
  s.modHif fun h =>
    if !h.msixEnable then h
    else if h.vectorOpen v then { h with messages := h.messages ++ [v] }
    else { h with pendingBits := insertRising v h.pendingBits }

/-- E, the ring's entry count (R424). -/
def HostIf.entries (h : HostIf) : Nat := 2 ^ h.ringLog

/-- Entries written and not released by the host. -/
def HostIf.used (h : HostIf) : Nat := (h.tail + 2 ^ 32 - h.head) % 2 ^ 32

/-- The device may write an entry (R436). -/
def HostIf.room (h : HostIf) : Bool := h.ringOn && decide (h.used < h.entries)

/-- C_HDR of an entry with its PHASE (R433). -/
def entryHeader (phase : Bool) (e : Entry) : Nat :=
  flag phase 31 + flag e.dup 30 + flag e.jobValid 29 + field e.kind 4 24 + field e.opcode 8 16 + field e.status 8 8 +
    (if e.jobValid then e.job % 16 else 0)

/-- Bytes 0x04 to 0x3F of an entry (R433). -/
def entryBody (e : Entry) : List Byte :=
  leBytes e.info 4 ++ leBytes e.tag 8 ++ ((List.range 12).map fun i => leBytes (e.payload.getD i 0) 4).flatten

/-- PHASE of ring index i (R433). -/
def phaseOf (h : HostIf) (i : Nat) : Bool := i / h.entries % 2 == 0

/-- Write an entry's bytes at a ring index: the body, then C_HDR (R434). -/
def putEntry (i : Nat) (e : Entry) (s : State) : State :=
  let a := s.hif.ringBase + 64 * (i % s.hif.entries)
  { s with hostMem := writeBytes (writeBytes s.hostMem (a + 4) (entryBody e)) a
                        (leBytes (entryHeader (phaseOf s.hif i) e) 4) }

/-- Vector 0 after a C_HDR (R437): at once, or after INT_COALESCE from the first entry since the last message; while the vector is
masked a new entry sets the pending bit at once, whose message covers what was being coalesced. -/
def ringSignal (s : State) : State :=
  if s.hif.coalesce = 0 || !s.hif.vectorOpen 0 then signalVector 0 (s.modHif fun h => { h with coalesceFrom := none })
  else s.modHif fun h => { h with coalesceFrom := some (h.coalesceFrom.getD s.now) }

/-- Write an entry at RING_TAIL (R434, R436, R437). -/
def writeEntry (e : Entry) (s : State) : State :=
  let i := s.hif.tail
  ringSignal ((putEntry i e s).modHif fun h =>
    { h with tail := (h.tail + 1) % 2 ^ 32, written := h.written ++ [(i, e)] })

/-- COMPLETION_ENTRY_WRITE (R434, R436): the entry is written, or held in order behind those already held. -/
def postEntry (e : Entry) (s : State) : State :=
  if s.hif.heldEntries.isEmpty && s.hif.room then writeEntry e s
  else s.modHif fun h => { h with heldEntries := h.heldEntries ++ [e] }

/-- Held entries are written in order while there is room (R436). -/
def flushHeld : Nat → State → State
  | 0, s => s
  | n + 1, s =>
    match s.hif.heldEntries with
    | [] => s
    | e :: es => if s.hif.room then flushHeld n (writeEntry e (s.modHif fun h => { h with heldEntries := es })) else s

/-- The device takes doorbells (R424 TAKING, R436). -/
def State.takes (s : State) : Bool := s.hif.taking && decide (s.hif.heldEntries.length < 4096)

/-- The completion entry of a command (R433, kind 0x1). -/
def commandEntry (tag opcode job status info : Nat) (payload : List Nat) : Entry :=
  { jobValid := decide (job < 16), kind := 1, opcode := opcode, status := status, job := job, info := info, tag := tag
    payload := payload }

/-- Record the completion of a tag among the 4,096 latest (R432). -/
def recordCompletion (tag digest : Nat) (e : Entry) (h : HostIf) : HostIf :=
  { h with completed := ((tag, digest, e) :: h.completed.filter fun c => c.1 != tag).take 4096 }

/-- A command completes: its journal entry becomes its recorded completion, the entry is written, and once more with DUP
for each time its slot was rung again meanwhile (R432). -/
def finishTag (tag : Nat) (e : Entry) (s : State) : State :=
  match s.hif.journal.find? fun j => j.tag == tag with
  | none => postEntry e (s.modHif (recordCompletion tag 0 e))
  | some j =>
    let s1 := s.modHif fun h => recordCompletion tag j.digest e { h with journal := h.journal.filter fun k => k.tag != tag }
    (List.replicate j.repeats ()).foldl (fun t _ => postEntry { e with dup := true } t) (postEntry e s1)

/-- A command with header c completes (R439, R440). -/
def finish (c : Cmd) (opcode status info : Nat) (payload : List Nat) (s : State) : State :=
  finishTag c.tag (commandEntry c.tag opcode c.job status info payload) s

/-- A command answered with nothing but its STATUS. -/
def finishWith (c : Cmd) (opcode status : Nat) (s : State) : State := finish c opcode status 0 [] s

end Sys2Proof.Machine
end

