-- ==== Sys2Proof/Machine/Shake.lean ====
section
/-! DEFINITION. SHAKE256 and SHA3-512 (FIPS 202), which R321, R403, R408, R432 and R481 name, and KMAC256 (SP 800-185; R406, R473, R474). -/

namespace Sys2Proof.Machine
open Sys2Proof

/-- A 64-bit lane rotated left. -/
def rotl64 (v n : Nat) : Nat := ((v <<< n) ||| (v >>> (64 - n))) % 2 ^ 64

/-- The round constants of Keccak-f[1600]. -/
def keccakRounds : List Nat :=
  [0x0000000000000001, 0x0000000000008082, 0x800000000000808A, 0x8000000080008000, 0x000000000000808B, 0x0000000080000001,
   0x8000000080008081, 0x8000000000008009, 0x000000000000008A, 0x0000000000000088, 0x0000000080008009, 0x000000008000000A] ++
  [0x000000008000808B, 0x800000000000008B, 0x8000000000008089, 0x8000000000008003, 0x8000000000008002, 0x8000000000000080,
   0x000000000000800A, 0x800000008000000A, 0x8000000080008081, 0x8000000000008080, 0x0000000080000001, 0x8000000080008008]

/-- Rotation offsets of lane x + 5y. -/
def keccakOffsets : List Nat :=
  [0, 1, 62, 28, 27, 36, 44, 6, 55, 20, 3, 10, 43, 25, 39, 41, 45, 15, 21, 8, 18, 2, 61, 56, 14]

/-- One round on 25 lanes, lane x + 5y at place x + 5y. -/
def keccakRound (a : List Nat) (rc : Nat) : List Nat :=
  let at_ (l : List Nat) (i : Nat) : Nat := l.getD i 0
  let c := (List.range 5).map fun x => at_ a x ^^^ at_ a (x + 5) ^^^ at_ a (x + 10) ^^^ at_ a (x + 15) ^^^ at_ a (x + 20)
  let d := (List.range 5).map fun x => at_ c ((x + 4) % 5) ^^^ rotl64 (at_ c ((x + 1) % 5)) 1
  let t := (List.range 25).map fun i => rotl64 (at_ a i ^^^ at_ d (i % 5)) (at_ keccakOffsets i)
  -- lane (x, y) moves to (y, 2x + 3y): lane (u, v) comes from (u + 3v, u)
  let b := (List.range 25).map fun i => at_ t ((i % 5 + 3 * (i / 5)) % 5 + 5 * (i % 5))
  let e := (List.range 25).map fun i =>
    at_ b i ^^^ ((2 ^ 64 - 1 - at_ b ((i + 1) % 5 + i / 5 * 5)) &&& at_ b ((i + 2) % 5 + i / 5 * 5))
  match e with
  | x :: xs => (x ^^^ rc) :: xs
  | [] => []

/-- Keccak-f[1600]. -/
def keccakF (a : List Nat) : List Nat := keccakRounds.foldl keccakRound a

/-- Absorb one block of `n` lanes. -/
def absorb (n : Nat) (a : List Nat) (block : List Byte) : List Nat :=
  keccakF (a.zipIdx.map fun e => if e.2 < n then e.1 ^^^ leNat ((block.drop (8 * e.2)).take 8) else e.1)

/-- A message padded to blocks of `rate` bytes: the suffix, zeros, and 0x80 in the last byte of the last block. -/
def keccakPad (rate suffix : Nat) (m : List Byte) : List Byte :=
  let r := rate - m.length % rate
  if r = 1 then m ++ [BitVec.ofNat 8 (suffix + 0x80)] else m ++ [BitVec.ofNat 8 suffix] ++ List.replicate (r - 2) 0 ++ [0x80]

/-- The lanes after a message has been absorbed. -/
def sponge (rate suffix : Nat) (m : List Byte) : List Nat :=
  let p := keccakPad rate suffix m
  (chunksOf rate (p.length / rate) p).foldl (absorb (rate / 8)) (List.replicate 25 0)

/-- The first 136 bytes of SHAKE256's output: all that the device's rules use. -/
def shake256 (m : List Byte) : List Byte := (((sponge 136 0x1F m).take 17).map fun v => leBytes v 8).flatten

/-- SHA3-512. -/
def sha3_512 (m : List Byte) : List Byte := (((sponge 72 0x06 m).take 8).map fun v => leBytes v 8).flatten

/-! ### KMAC256 (SP 800-185) -/

/-- A length below 65,536 with its number of bytes before it (left_encode) or after it (right_encode). -/
def leftEncode (n : Nat) : List Byte := if n < 256 then [1, BitVec.ofNat 8 n] else [2, BitVec.ofNat 8 (n / 256), BitVec.ofNat 8 n]
def rightEncode (n : Nat) : List Byte := if n < 256 then [BitVec.ofNat 8 n, 1] else [BitVec.ofNat 8 (n / 256), BitVec.ofNat 8 n, 2]

/-- encode_string. -/
def encodeString (s : List Byte) : List Byte := leftEncode (8 * s.length) ++ s

/-- bytepad to the rate of 136 bytes. -/
def bytePad (x : List Byte) : List Byte :=
  let p := leftEncode 136 ++ x
  p ++ List.replicate ((136 - p.length % 136) % 136) 0

/-- The bytes of an ASCII string. -/
def asciiBytes (s : String) : List Byte := s.toList.map fun c => BitVec.ofNat 8 c.toNat

/-- KMAC256 of a message under a key, with a customisation string: the first `n` bytes, at most 136. -/
def kmac256 (key : List Byte) (custom : String) (m : List Byte) (n : Nat) : List Byte :=
  let x := bytePad (encodeString key) ++ m ++ rightEncode (8 * n)
  (((sponge 136 0x04 (bytePad (encodeString (asciiBytes "KMAC") ++ encodeString (asciiBytes custom)) ++ x)).take 17).map fun v => leBytes v 8).flatten.take n

end Sys2Proof.Machine
end

