-- ==== Sys2Proof/Machine/Bell.lean ====
section
/-! DEFINITION. The doorbell and the completion ring's host side (R424, R425, R430 to R432, R436, R437, R441). -/

namespace Sys2Proof.Machine
open Sys2Proof

/-- FLAGS a command defines (R439): JOB_CREATE, KILL, DUMP, BUDGET_JOIN and ALIAS_SET have bit 0. -/
def flagsOf (opcode : Nat) : Nat := if [0x02, 0x06, 0x07, 0x0B, 0x11].contains opcode then 1 else 0

/-- The first reserved or out-of-range field of a command header (R430, R440 BAD_FIELD). -/
def badHeader (w0 w1 tag : Nat) : Option Nat :=
  let job := bits w0 23 16
  let fl := bits w0 7 0
  if bits w0 15 8 ≠ 0 ∨ (16 ≤ job ∧ job ≠ 255) ∨ flagsOf (bits w0 31 24) < fl then some 0
  else if w1 ≠ 0 then some 4
  else if tag = 0 then some 8
  else none

/-- The digest of a command's 256 bytes: the first 256 bits of SHAKE256 (R432). -/
def slotDigest (bs : List Byte) : Nat := leNat ((shake256 bs).take 32)

/-- The commands a device that is not ready performs, with ENERGY_QUERY when it is device-fatal (R441). -/
def servedUnready (fatal : Bool) (op : Nat) : Bool :=
  [0x0E, 0x0F, 0x10, 0x12, 0x13, 0x17].contains op || (fatal && op == 0x0C)

/-- The device performs a command now, by R441. State.reset stands at the end of bring-up (log 1). -/
def State.serves (s : State) (op : Nat) : Bool :=
  match s.boot.state with
  | .ready => true
  | .notReady => servedUnready false op
  | .fatal => servedUnready true op
  | .inProgress => s.boot.phase == 0
  | .refused => false

/-- The device copies a rung slot into the journal and clears its busy bit (R430 to R432). -/
def takeSlot (slot : Nat) (s : State) : State :=
  let bs := readBytes s.slotMem (256 * slot) 256
  let w (o n : Nat) : Nat := leNat ((bs.drop o).take n)
  let w0 := w 0 4
  let tag := w 8 8
  let op := bits w0 31 24
  let job := bits w0 23 16
  let dg := slotDigest bs
  let s1 := s.modHif fun h => { h with busy := h.busy.filter fun b => b != slot }
  match s1.hif.journal.find? (fun j => j.tag == tag), s1.hif.completed.find? (fun c => c.1 == tag) with
  | some j, _ =>
    if j.digest = dg then s1.modHif fun h =>
      { h with journal := h.journal.map fun k => if k.tag = tag then { k with repeats := k.repeats + 1 } else k }
    else postEntry (commandEntry tag op job Status.tagReuse 0 []) s1
  | none, some c =>
    if c.2.1 = dg then postEntry { c.2.2 with dup := true } s1
    else postEntry (commandEntry tag op job Status.tagReuse 0 []) s1
  | none, none =>
    let s2 := s1.modHif fun h => { h with journal := h.journal ++ [{ tag := tag, digest := dg, opcode := op, job := job }] }
    if op = 0 ∨ 0x17 < op then finishTag tag (commandEntry tag op job Status.badOpcode 0 []) s2
    else if !s.serves op then finishTag tag (commandEntry tag op job Status.notReady 0 []) s2
    else match badHeader w0 (w 4 4) tag with
      | some o => finishTag tag (commandEntry tag op job Status.badField o []) s2
      | none => s2

/-- DOORBELL (R430, R436, R441, R449). -/
def doorbell (slot : Nat) (s : State) : State :=
  let ignored := s.modHif fun h => { h with doorbellIgnored := satCount h.doorbellIgnored 1 }
  let hold := s.modHif fun h => { h with busy := insertRising slot h.busy, heldBells := h.heldBells ++ [slot] }
  if s.hif.busy.contains slot then ignored
  else if s.boot.state = .inProgress then hold
  else if !s.takes then ignored
  else if !s.hif.coreRuns then hold
  else takeSlot slot s

def execDoorbell (slot : Nat) : State → Host.Outcome State Fault Refusal := act (decide (slot < 64)) (doorbell slot)

/-- Doorbells held are answered in order (R441, R449). -/
def takeHeldBells (s : State) : State :=
  foldState s.hif.heldBells (fun t b => takeSlot b t) (s.modHif fun h => { h with heldBells := [] })

/-- RING_CTL (R425): the size only while ENABLE is 0, and only from 6 to 16 (DESIGN CHOICE, log 103); setting ENABLE zeroes the indexes and held entries are written. -/
def ringCtl (enable : Bool) (log2E : Nat) (s : State) : State :=
  let s1 := s.modHif fun h => if h.ringOn || decide (log2E < 6) || decide (16 < log2E) then h else { h with ringLog := log2E }
  if enable && !s.hif.ringOn then
    let s2 := s1.modHif fun h => { h with ringOn := true, tail := 0, head := 0, written := [] }
    flushHeld s2.hif.heldEntries.length s2
  else s1.modHif fun h => { h with ringOn := enable }

/-- RING_ENABLE. -/
def execRingEnable (log2E : Nat) : State → Host.Outcome State Fault Refusal :=
  act (decide (6 ≤ log2E) && decide (log2E ≤ 16)) (ringCtl true log2E)

/-- RING_HEAD (R436): forward and never past the tail; entries are released and held ones written. -/
def ringHead (v : Nat) (s : State) : State :=
  let h := s.hif
  if (v + 2 ^ 32 - h.head) % 2 ^ 32 ≤ (h.tail + 2 ^ 32 - h.head) % 2 ^ 32 then
    let s1 := s.modHif fun h =>
      { h with head := v, written := h.written.filter fun e => decide ((e.1 + 2 ^ 32 - v) % 2 ^ 32 < (h.tail + 2 ^ 32 - v) % 2 ^ 32) }
    flushHeld s1.hif.heldEntries.length s1
  else s.modHif fun h => { h with headErr := satCount h.headErr 1 }

/-- RING_HEAD_WRITE. -/
def execRingHeadWrite (v : Nat) : State → Host.Outcome State Fault Refusal := act (decide (v < 2 ^ 32)) (ringHead v)

/-- APERTURE_LO or APERTURE_HI (R424, R427). -/
def apertureWrite (hi : Bool) (v : Nat) (s : State) : State :=
  s.modHif fun h => { h with aperture := if hi then setHi h.aperture (v % 2 ^ 31) else setLo h.aperture (v % 2 ^ 32 / 2 ^ 30 * 2 ^ 30) }

/-- APERTURE_WRITE. -/
def execApertureWrite (hi : Bool) (v : Nat) : State → Host.Outcome State Fault Refusal :=
  act (decide (v < 2 ^ 32)) (apertureWrite hi v)

/-- INT_COALESCE_EXPIRY (R437). -/
def execIntCoalesceExpiry : State → Host.Outcome State Fault Refusal :=
  act true fun s =>
    match s.hif.coalesceFrom with
    | some t => if t + 1000 * s.hif.coalesce ≤ s.now then signalVector 0 (s.modHif fun h => { h with coalesceFrom := none }) else s
    | none => s

/-- VECTOR_UNMASK (R426): the host clears a vector's mask, and a pending message is sent. -/
def vectorUnmask (v : Nat) (s : State) : State :=
  s.modHif fun h =>
    let h1 := { h with unmasked := insertRising v h.unmasked, msixTable := put (4 * v + 3) 0 h.msixTable }
    if h1.pendingBits.contains v && h1.msixEnable && !h1.functionMask then { h1 with pendingBits := h1.pendingBits.filter fun b => b != v, messages := h1.messages ++ [v] } else h1

def execVectorUnmask (v : Nat) : State → Host.Outcome State Fault Refusal := act (decide (v < 256)) (vectorUnmask v)

/-- A write to an MSI-X table dword. -/
def msixWrite (o v : Nat) (s : State) : State :=
  let i := o / 4
  if i % 4 = 3 then
    if bit v 0 then s.modHif fun h => { h with unmasked := h.unmasked.filter fun b => b != i / 4, msixTable := put i 1 h.msixTable }
    else vectorUnmask (i / 4) s
  else s.modHif fun h => { h with msixTable := put i (v % 2 ^ 32) h.msixTable }

/-- A host write to a command slot (R430): ignored while the slot is busy. -/
def slotWrite (o : Nat) (bs : List Byte) (s : State) : State :=
  if s.hif.busy.contains (o / 256) then s else { s with slotMem := writeBytes s.slotMem o bs }

end Sys2Proof.Machine
end

