-- ==== Sys2Proof/Machine/Collect.lean ====
section
/-! DEFINITION. The collective unit (R308 to R314) and the sending of commit marks and commit records (R300, R333). -/

namespace Sys2Proof.Machine
open Sys2Proof

/-! ### Commit marks and records -/

/-- A write of a source that it issued no later than number `upTo` has no acknowledgement yet, given up or not (R299, R303). -/
def State.unackedUpTo (s : State) (src upTo : Nat) : Bool :=
  s.outs.any fun o => o.write && o.src == src && o.who != .collective && decide (o.serial ≤ upTo)

/-- Inject a COMMIT, or keep it until every write that its source issued before it is acknowledged (R300). -/
def injectCommit (k : Packet) (s : State) : State :=
  if s.unackedUpTo k.src s.issuedOuts then
    { s with svc := { s.svc with commits := s.svc.commits ++ [(k, s.issuedOuts)] } }
  else sendFrom controlRouter.1 controlRouter.2 k s

/-- The COMMITs whose earlier writes are all acknowledged are injected, in order (R300). -/
def releaseCommits (s : State) : State :=
  let ready (e : Packet × Nat) : Bool := !s.unackedUpTo e.1.src e.2
  foldState (s.svc.commits.filter ready) (fun t e => sendFrom controlRouter.1 controlRouter.2 e.1 t)
    { s with svc := { s.svc with commits := s.svc.commits.filter fun e => !ready e } }

/-- Send a COMMIT of n to a SEM_NOTIFY register (R300). -/
def sendCommit (addr n : Nat) (s : State) : State :=
  injectCommit
    { op := Op.commit, vc := 0, addr := addr, src := s.hakarSrc, bytes := 4, data := leBytes n 4 } s

/-- COMMIT of n = 1 to each nonzero target (R312, R314). -/
def sendNotes (notes : List Nat) (s : State) : State := foldState (notes.filter fun a => a != 0) (fun t a => sendCommit a 1 t) s

/-- Offset of a services block register in control space (R285). -/
def servicesOff (o : Nat) : Nat := 9 * 2 ^ 40 + o

/-- A commit record's 16 bytes (R333). -/
def commitBytes (c : CommitRecord) : List Byte :=
  leBytes (field c.kind 4 28 + field c.replay 12 16 + c.share % 65536) 4 ++ leBytes c.jobId 4 ++ leBytes c.step 4 ++
    leBytes (c.aseq % 2 ^ 24) 4

/-- A commit record from its bytes. -/
def commitOf (b : List Byte) : CommitRecord :=
  let w (i : Nat) : Nat := leNat ((b.drop (4 * i)).take 4)
  { kind := bits (w 0) 31 28, replay := bits (w 0) 27 16, share := bits (w 0) 15 0, jobId := w 1, step := w 2, aseq := bits (w 3) 23 0 }

/-- Send a commit record to a device's COMMIT_IN (R300, R333). -/
def sendRecord (dev : Nat) (c : CommitRecord) (s : State) : State :=
  injectCommit
    { op := Op.commit, vc := 0, addr := mkAddr dev 3 (servicesOff 0x20), src := s.hakarSrc, bytes := 16, data := commitBytes c } s

/-! ### Reductions (R308 to R312) -/

/-- Counters of the services block by offset (R315). -/
abbrev svcAtomic : Nat := 0x08
abbrev svcAtomicDup : Nat := 0x0C
abbrev svcAtomicRefuse : Nat := 0x10
abbrev svcCommitRefuse : Nat := 0x18

/-- Combine two vectors of a chunk: sum, minimum or maximum (R310). -/
def combineChunk (rop : Nat) (a b : List Int) : List Int :=
  List.zipWith (fun x y => if rop = 0 then x + y else if rop = 1 then (if x ≤ y then x else y) else (if x ≤ y then y else x)) a b

/-- Every expected input is among those seen. -/
def allSeen (expect seen : List Nat) : Bool := expect.all fun i => seen.contains i

/-- A packet leaves for another device beside the crossbar, in the bulk channel (R311); one that no route reaches is answered with ADDR
(R273). -/
def bulkOut (k : Packet) (s : State) : State :=
  let k1 : Packet := { k with sgx := controlRouter.1, sgy := controlRouter.2 }
  if (s.egress k.src (addrDevice k.addr)).isNone then respond controlRouter.1 controlRouter.2 k1 Op.reduceAck Cause.addr [] [] s
  else s.modNet fun n => { n with bulk := n.bulk ++ [k1] }

/-- REDUCE_CHUNK_TO_PARENT (R311). -/
def chunkToParent (g ci : Nat) (s : State) : State :=
  let x := s.slot g
  let c : Chunk := look {} x.data ci
  let tag := s.freeTag s.hakarSrc
  let addr := mkAddr x.parent 0 (2 ^ 47 + g * 2 ^ 31 + x.parentInput * 2 ^ 24 + 64 * ci)
  bulkOut { op := Op.reduce, vc := 3, src := s.hakarSrc, tag := tag, bytes := 128, addr := addr
            data := (c.acc.map fun v => leBytes (unsigned 64 v) 8).flatten, marks := [c.marked, c.marked] }
    (addOut { src := s.hakarSrc, tag := tag, who := .collective, addr := addr, len := 128, off := 0, write := true, issued := s.now } s)

/-- One write of the root's result, awaited as this slot's. -/
def rootWrite (g addr : Nat) (bs : List Byte) (marks : List Bool) (s : State) : State :=
  let src := s.hakarSrc
  let tag := s.freeTag src
  let s1 := (addOut { src := src, tag := tag, who := .rootWrite g, addr := addr, len := bs.length, off := 0, write := true
                      issued := s.now } s).modSlot g fun x => { x with unacked := x.unacked + 1 }
  sendFrom controlRouter.1 controlRouter.2
    { op := Op.wr, vc := 1, addr := addr, src := src, tag := tag, bytes := bs.length, data := bs, marks := marks } s1

/-- ROOT_RESULT_WRITE (R312 steps 1 and 2). -/
def rootResult (g : Nat) (s : State) : State :=
  let x := s.slot g
  let cs := (List.range x.chunks).map fun i => look ({} : Chunk) x.data i
  let sat := sumNat (cs.map fun c => (c.acc.filter fun v => satInt 32 v != v).length)
  let s1 := s.modSlot g fun x => { x with sat := sat }
  let vec := cs.map fun c => ((c.acc.map fun v => leBytes (unsigned 32 (satInt 32 v)) 4).flatten, c.marked)
  let s2 := foldState ((chunksOf 8 ((x.chunks + 7) / 8) vec).zipIdx) (fun t e =>
    rootWrite g (x.dst + 512 * e.2) (e.1.map (·.1)).flatten (e.1.map (·.2)) t) s1
  rootWrite g (x.dst + 64 * x.chunks) (leBytes (sat + field x.gen 16 32 + flag (decide (0 < sat)) 63) 8) [false] s2

/-- ROOT_COMMIT (R312 step 3): a result write of the root is acknowledged. -/
def rootAck (g : Nat) (s : State) : State :=
  let s1 := s.modSlot g fun x => { x with unacked := x.unacked - 1 }
  if (s1.slot g).unacked = 0 then sendNotes (s1.slot g).notes s1 else s1

/-- A chunk contribution is taken in (R310). -/
def takeChunk (g ci input : Nat) (vals : List Int) (marked : Bool) (s : State) : State :=
  let x := s.slot g
  let c : Chunk := look {} x.data ci
  if c.seen.contains input then s.modSlot g fun x => { x with dups := satCount x.dups 1 }
  else
    let was := allSeen x.expect c.seen && !c.seen.isEmpty
    let c1 : Chunk := { acc := if c.seen.isEmpty then vals else combineChunk x.rop c.acc vals
                        seen := insertRising input c.seen, marked := c.marked || marked }
    let now := allSeen x.expect c1.seen
    let fresh := now && !was
    let s1 := s.modSlot g fun x =>
      { x with data := put ci c1 x.data, complete := if fresh then x.complete + 1 else x.complete
               status := if fresh && decide (x.chunks ≤ x.complete + 1) then 2 else (if x.status = 0 then 1 else x.status) }
    if !fresh then s1
    else
      let s2 := if x.root then s1 else chunkToParent g ci s1
      if x.root && decide (x.chunks ≤ x.complete + 1) then rootResult g s2 else s2

/-- The chunks of a REDUCE packet: local contributors send I32, child devices I64 (R309, R311). -/
def reduceChunks (input off : Nat) (k : Packet) : List (Nat × List Int × Bool) :=
  if input < 64 then
    (List.range (k.bytes / 64)).map fun i =>
      (off / 64 + i, intsOf 4 16 ((k.data.drop (64 * i)).take 64), k.marks.getD i false)
  else [(off / 64, intsOf 8 16 k.data, k.marks.any id)]

/-- The write covers whole chunks of a valid reduction slot within its length (R309). -/
def reduceOk (x : Slot) (input off : Nat) (k : Packet) : Bool :=
  x.valid && x.rop != 3 && off % 64 == 0 &&
  (if input < 64 then k.bytes % 64 == 0 && decide (0 < k.bytes) && decide (off + k.bytes ≤ 64 * x.chunks)
   else k.bytes == 128 && decide (off + 64 ≤ 64 * x.chunks))

/-! ### Barriers (R314) -/

/-- A BARRIER packet's payload. -/
def barrierWord (release : Bool) (input g gen : Nat) : Nat := flag release 31 + field input 7 24 + field g 6 16 + gen % 65536

/-- Send a BARRIER to a device's ARRIVE register. -/
def sendBarrier (dev : Nat) (release : Bool) (input g gen : Nat) (s : State) : State :=
  sendFrom controlRouter.1 controlRouter.2
    { op := Op.barrier, vc := 0, addr := mkAddr dev 3 (servicesOff 0x14), src := s.hakarSrc, bytes := 4
      data := leBytes (barrierWord release input g gen) 4 } s

/-- The slot is released: its child inputs' devices and its targets are told (R314). -/
def releaseSlot (g : Nat) (s : State) : State :=
  let x := s.slot g
  let s1 := s.modSlot g fun x => { x with status := 3 }
  sendNotes x.notes (foldState (x.children.filter fun e => x.expect.contains e.1)
    (fun t e => sendBarrier e.2 true 0 g x.gen t) s1)

/-- An arrival at a barrier slot from an input (R314); `dev` is the child device of an input from 64 up. -/
def barrierArrive (g input : Nat) (dev : Option Nat) (s : State) : State :=
  let x := s.slot g
  if !x.valid || x.rop != 3 then s
  else if x.arrived.contains input then s.modSlot g fun x => { x with dups := satCount x.dups 1 }
  else
    let s1 := s.modSlot g fun x =>
      { x with arrived := insertRising input x.arrived, status := if x.status = 0 then 1 else x.status
               children := match dev with | some d => x.children ++ [(input, d)] | none => x.children }
    if allSeen x.expect x.arrived || !allSeen x.expect (insertRising input x.arrived) then s1
    else
      let s2 := s1.modSlot g fun x => { x with status := 2 }
      if x.root then releaseSlot g s2 else sendBarrier x.parent false x.parentInput g x.gen s2

/-- ARRIVE (R314): a local participant. -/
def execArrive (slot input : Nat) : State → Host.Outcome State Fault Refusal :=
  act (decide (slot < 64) && decide (input < 64)) (barrierArrive slot input none)

/-- A BARRIER packet at its target, which ADDR names as this device's ARRIVE register. An arrival of an older generation is discarded and counted, a
newer one refused. -/
def barrierTarget (k : Packet) (s : State) : State :=
  let w := leNat (k.data.take 4)
  let g := bits w 21 16
  let x := s.slot g
  let d := (bits w 15 0 + 65536 - x.gen % 65536) % 65536
  if !s.isOwn k.addr || !x.valid || x.rop != 3 || addrSpace k.addr != 3 || addrOffset k.addr != servicesOff 0x14 || k.bytes != 4 then s
  else if bit w 31 then (if d = 0 && x.status != 3 then releaseSlot g s else s)
  else if d = 0 then barrierArrive g (bits w 30 24) (some (srcDevice k.src)) s
  else if 32768 ≤ d then s.modSlot g fun x => { x with dups := satCount x.dups 1 }
  else s

end Sys2Proof.Machine
end

