-- ==== Sys2Proof/Machine/Brine.lean ====
section
/-! DEFINITION. Brine slices and the cellar (chapter 6): reads and writes at a place, marks and error tables, sleep, failure, scrub,
refresh, and the commands of that chapter but STAND_IN_SLICE, which ends jobs and is in Replay.lean. -/

namespace Sys2Proof.Machine
open Sys2Proof

/-! ### Counters of a slice and of a channel, by register offset (R197, R198) -/

abbrev sliceCe : Nat := 0x014
abbrev sliceCeLost : Nat := 0x018
abbrev sliceUe : Nat := 0x01C
abbrev slicePoison : Nat := 0x020
abbrev sliceReject : Nat := 0x024
abbrev sliceWait : Nat := 0x028
abbrev sliceRmw : Nat := 0x02C
abbrev chanCe : Nat := 0x00C
abbrev chanCeLost : Nat := 0x010
abbrev chanUe : Nat := 0x014
abbrev chanPoison : Nat := 0x018
abbrev chanRmw : Nat := 0x01C
abbrev chanRfm : Nat := 0x020
abbrev chanMiss : Nat := 0x024

/-! ### Owners -/

/-- A lot holds bytes in a slice (R187): a near lot with an extent there, or any even lot. -/
def State.lotInSlice (s : State) (sl : Nat) : Lot → Bool
  | .near _ _ count first => (List.range count).any fun e => bits (look 0 s.memdev.ext (first + e)) 15 5 == sl
  | .even _ _ _ => true

/-- The job slot that owns a lot (R180). -/
def Lot.job : Lot → Nat
  | .near j _ _ _ => j
  | .even j _ _ => j

/-- The jobs that own a lot with bytes in a slice. -/
def State.sliceJobs (s : State) (sl : Nat) : List Nat :=
  (s.memdev.lots.filter fun e => s.lotInSlice sl e.2).foldl (fun l e => addOnce e.2.job l) []

/-- The jobs that own a cellar lot holding a linear address. -/
def State.cellarJobs (s : State) (a : Nat) : List Nat :=
  (s.memdev.cellarLots.filter fun l => decide (l.base ≤ a) && decide (a < l.base + l.bytes)).foldl (fun l e => addOnce e.job l) []

/-! ### Slices: access (R173, R175, R183, R194) -/

/-- The key of a brine byte in `brineMem`. -/
def brineKey (sl b : Nat) : Nat := sl * 2 ^ 25 + b

/-- Why a slice rejects a request, if it does (R183, R185, R186, R187). A slice found bad at assay answers like one that failed in the
epoch, the only one R183 names (DESIGN CHOICE, log 109). -/
def sliceCause : SliceMode → Option Nat
  | .awake => none
  | .draining | .asleep | .filling => some Cause.bankAsleep
  | .failed | .bad => some Cause.sliceFailed

/-- Split a run of bytes at unit boundaries. -/
def unitParts : Nat → Nat → Nat → List (Nat × Nat)
  | 0, _, _ => []
  | f + 1, a, n => if n = 0 then [] else let k := min n (64 - a % 64); (a, k) :: unitParts f (a + k) (n - k)

/-- The codewords a run of bytes within a unit touches, each with whether it is covered in full (R173). -/
def codewords (b n : Nat) : List (Nat × Bool) :=
  (List.range ((b + n + 31) / 32 - b / 32)).map fun i =>
    let w := b / 32 + i
    (w, decide (b ≤ 32 * w) && decide (32 * w + 32 ≤ b + n))

/-- Marks after a write: a marked unit is written with the poison pattern, a whole codeword replaces it, a partial one
keeps it (R194, R153, R157). -/
def marksAfter (marked : Bool) (ws : List (Nat × Bool)) (poison : List Nat) : List Nat :=
  ws.foldl (fun l w => if marked then insertRising w.1 l else if w.2 then l.erase w.1 else l) poison

/-- Where unit u of a slice lies (R172): bank, row and row position. -/
def unitBank (u : Nat) : Nat := bits u 7 4
def unitRow (u : Nat) : Nat := bits u 18 8
def unitColumn (u : Nat) : Nat := bits u 3 0

/-- What a slice's decoder observed in a codeword (R193, R194): `o.addr` is slice × 2^25 + byte. -/
def brineObserve (o : WordObs) (s : State) : State :=
  let sl := o.addr / 2 ^ 25
  let a := o.addr % 2 ^ 25 / 32 * 32
  let x := s.slice sl
  if o.uncorrectable then
    let s1 := s.modSlice sl fun x => { x with poison := insertRising (a / 32) x.poison }
    if o.syndrome = 0x0F0F0000 then s1
    else
      let s2 := (s1.bumpSlice sl sliceUe 1).modSlice sl fun x =>
        { x with ueLast := some a, ueTides := (x.ueTides.filter fun t => decide (s.now < t + 1000000000)) ++ [s.now] }
      report { type := RecType.memUe, cls := 2, code := 1, unitCls := UnitCls.slice, unitIdx := sl, addr := a
               detail := o.syndrome % 65536, jobs := maskOf (s.sliceJobs sl) } s2
  else
    let (t, lost, rec_) := ceRecord 16 a o.syndrome s.now x.ce
    let s1 := ((s.bumpSlice sl sliceCe 1).bumpSlice sl sliceCeLost (if lost then 1 else 0)).modSlice sl fun x => { x with ce := t }
    match rec_ with
    | none => s1
    | some hot => report { type := RecType.memCe, cls := 1, code := 1, unitCls := UnitCls.slice, unitIdx := sl, addr := a
                           detail := flag hot 31 + o.syndrome % 65536, jobs := maskOf (s.sliceJobs sl) } s1

/-- A bit error comes to stand in a codeword (R173): `o.addr` is slice × 2^25 + byte. -/
def brineFlip (s : State) (o : WordObs) : State :=
  let a := o.addr % 2 ^ 25 / 32 * 32
  s.modSlice (o.addr / 2 ^ 25) fun x =>
    { x with errs := (x.errs.filter fun e => e.word != a / 32) ++
               [{ word := a / 32, addr := o.addr / 2 ^ 25 * 2 ^ 25 + a, syndrome := o.syndrome, uncorrectable := o.uncorrectable }] }

/-- A read decodes both codewords of a unit (R173): the errors that stand there are corrected and written back, or found
uncorrectable and rewritten with the poison pattern. -/
def brineDecode (sl b : Nat) (s : State) : State :=
  let found := (s.slice sl).errs.filter fun e => e.word / 2 == b / 64
  foldState found (fun t e => brineObserve { addr := e.addr, syndrome := e.syndrome, uncorrectable := e.uncorrectable } t)
    (s.modSlice sl fun x => { x with errs := x.errs.filter fun e => e.word / 2 != b / 64 })

/-- A unit of a slice reads marked (R194). -/
def brineMarked (x : Slice) (b : Nat) : Bool := x.poison.contains (b / 64 * 2) || x.poison.contains (b / 64 * 2 + 1)

/-- Read bytes within one unit of a slice and its mark. -/
def brineReadUnit (sl b n : Nat) (s0 : State) : List Byte × Bool × State :=
  let s := brineDecode sl b s0
  let m := brineMarked (s.slice sl) b
  (readBytes s.brineMem (brineKey sl b) n, m, s.bumpSlice sl slicePoison (if m then 1 else 0))

/-- Write bytes within one unit of a slice. A write that covers part of a codeword reads the unit first (R173, R175), and RMW_COUNT takes
one for each such unit, of which R175 does not say what it counts by (DESIGN CHOICE, log 109); an error that stands in a codeword
covered in full is gone with it. -/
def brineWriteUnit (sl b : Nat) (bs : List Byte) (marked : Bool) (s0 : State) : State :=
  let ws := codewords b bs.length
  let rmw := ws.any fun w => !w.2
  let s := if rmw then brineDecode sl b s0 else s0
  let s1 := { s with brineMem := writeBytes s.brineMem (brineKey sl b) bs }.modSlice sl fun x =>
    { x with poison := marksAfter marked ws x.poison, errs := x.errs.filter fun e => !ws.any fun w => w.1 == e.word }
  s1.bumpSlice sl sliceRmw (if rmw then 1 else 0)

/-! ### Writes admitted and not yet performed (R174, R183, R185, R293) -/

/-- One unit part of a write: the slice, the byte, the bytes and the mark of its unit. -/
def brineWriteParts (sl : Nat) (parts : List (Nat × List Byte × Bool)) (s : State) : State :=
  foldState parts (fun t u => brineWriteUnit sl u.1 u.2.1 u.2.2 t) s

/-- A piece of a write has been performed: with the last, the write is answered (R183, R293). -/
def pieceDone (id : Nat) (s : State) : State :=
  match s.memdev.writing.find? fun w => w.id == id with
  | none => s
  | some w =>
    if w.left ≤ 1 then
      let r := s.destOf w.k.src w.k.addr
      respond r.1 r.2 w.k Op.wrAck w.cause [] [] (s.modMem fun d => { d with writing := d.writing.filter fun v => v.id != id })
    else s.modMem fun d => { d with writing := d.writing.map fun v => if v.id = id then { v with left := v.left - 1 } else v }

/-- The pieces of an admitted write that wait, each with its slice. -/
def State.piecesOf (s : State) (id : Nat) : List (Nat × SliceWrite) :=
  s.slices.flatMap fun e => (e.2.queue.filter fun w => w.id == id).map fun w => (e.1, w)

/-- A waiting piece is performed. -/
def performPiece (s : State) (e : Nat × SliceWrite) : State :=
  pieceDone e.2.id (brineWriteParts e.1 e.2.parts (s.modSlice e.1 fun x => { x with queue := x.queue.erase e.2 }))

/-- The pieces of an admitted write are performed in offset order (R183). -/
def performOne (s : State) (id : Nat) : State :=
  let ps := s.piecesOf id
  let order := (List.range (ps.foldl (fun m e => max m (e.2.piece + 1)) 0)).flatMap fun i => ps.filter fun e => e.2.piece == i
  foldState order performPiece s

/-- The writes that stand in a slice before one of some writes. -/
def aheadIn (ids : List Nat) (q : List SliceWrite) : List Nat :=
  ((q.reverse.dropWhile fun w => !ids.contains w.id).map (·.id)).reverse

/-- The admitted writes that go before some writes or are they: a slice serves requests in arrival order (R174), and a write's
pieces go together. -/
def writesAhead (s : State) : Nat → List Nat → List Nat
  | 0, ids => ids
  | n + 1, ids =>
    let more := (s.slices.flatMap fun e => aheadIn ids e.2.queue).foldl (fun l i => addOnce i l) ids
    if more.length = ids.length then ids else writesAhead s n more

/-- Some admitted writes are performed, with those that go before them, in the order of their admission (R174, R183). -/
def performAll (ids : List Nat) (s : State) : State :=
  let go := writesAhead s s.memdev.writing.length ids
  foldState ((s.memdev.writing.map (·.id)).filter fun i => go.contains i) performOne s

/-- A slice serves requests in arrival order (R174): what it has admitted is performed before a request that follows. -/
def settleSlice (sl : Nat) (s : State) : State :=
  if (s.slice sl).queue.isEmpty then s else performAll ((s.slice sl).queue.map (·.id)) s

/-- A write of the device's own work within one unit of a slice, after what the slice has admitted. -/
def sliceWrite (sl b : Nat) (bs : List Byte) (marked : Bool) (s : State) : State := brineWriteUnit sl b bs marked (settleSlice sl s)

/-- A write of the k-th number has been admitted and is not performed yet. -/
def State.writingOf (s : State) (k : Packet) : Option BrineWrite := s.memdev.writing.find? fun w => w.k == k

/-- An admitted write is performed, with those that go before it in its slices. -/
def performWrite (id : Nat) (s : State) : State := performAll [id] s

/-- Admitted writes are lost with their slice: their senders get no answer. -/
def loseQueue (sl : Nat) (s : State) : State :=
  let ids := (s.slice sl).queue.map (·.id)
  (s.modSlice sl fun x => { x with queue := [] }).modMem fun d => { d with writing := d.writing.filter fun w => !ids.contains w.id }

/-- The observations that lie in a run of keys. -/
def obsIn (lo hi : Nat) (obs : List WordObs) : List WordObs := obs.filter fun o => decide (lo ≤ o.addr) && decide (o.addr < hi)

/-- The unit parts of a piece of a write whose bytes begin `off` bytes into a request at address a. -/
def partsOf (a off b : Nat) (bs : List Byte) (marks : List Bool) : List (Nat × List Byte × Bool) :=
  (unitParts (bs.length / 64 + 2) b bs.length).map fun u =>
    (u.1, (bs.drop (u.1 - b)).take u.2, marks.getD ((a % 64 + off + (u.1 - b)) / 64) false)

/-- A write's pieces in offset order, each decided at its slice (R183): the cause of the first one rejected. -/
def brineWrite (a off : Nat) (bs : List Byte) (marks : List Bool) : Pieces → State → Nat × State
  | [], s => (0, s)
  | (sl, b, n) :: ps, s =>
    match sliceCause (s.slice sl).mode with
    | some c =>
      let r := brineWrite a (off + n) (bs.drop n) marks ps (s.bumpSlice sl sliceReject 1)
      (c, r.2)
    | none => brineWrite a (off + n) (bs.drop n) marks ps (brineWriteParts sl (partsOf a off b (bs.take n) marks) (settleSlice sl s))

/-- A write's pieces are admitted at their slices and wait there (R174, R183, R185): the cause of the first one rejected, and how many
are admitted. -/
def brineAdmit (id a piece off : Nat) (bs : List Byte) (marks : List Bool) : Pieces → State → Nat × Nat × State
  | [], s => (0, 0, s)
  | (sl, b, n) :: ps, s =>
    match sliceCause (s.slice sl).mode with
    | some c =>
      let r := brineAdmit id a (piece + 1) (off + n) (bs.drop n) marks ps (s.bumpSlice sl sliceReject 1)
      (c, r.2.1, r.2.2)
    | none =>
      let r := brineAdmit id a (piece + 1) (off + n) (bs.drop n) marks ps
        (s.modSlice sl fun x => { x with queue := x.queue ++ [{ id := id, piece := piece, parts := partsOf a off b (bs.take n) marks }] })
      (r.1, r.2.1 + 1, r.2.2)

/-- A write is admitted and not yet performed, but for its pieces that are rejected. -/
def brineAdmitted (k : Packet) (ps : Pieces) (s : State) : State :=
  let id := s.memdev.nextWriting
  let (c, n, s1) := brineAdmit id k.addr 0 0 k.data k.marks ps (s.modMem fun d => { d with nextWriting := id + 1 })
  if n = 0 then let r := s1.destOf k.src k.addr; respond r.1 r.2 k Op.wrAck c [] [] s1
  else s1.modMem fun d => { d with writing := d.writing ++ [{ id := id, k := k, cause := c, left := n }] }

/-- The units of one piece of a read, of a slice that has performed what it admitted before: bytes and marks. -/
def brineReadPiece (sl : Nat) : List (Nat × Nat) → State → List Byte × List Bool × State
  | [], s => ([], [], s)
  | (b, n) :: us, s =>
    let (bs, m, s1) := brineReadUnit sl b n (settleSlice sl s)
    let (bs2, ms, s2) := brineReadPiece sl us s1
    (bs ++ bs2, m :: ms, s2)

/-- A read's pieces in offset order: the cause of the first one rejected, the bytes and the marks (R183, R292). -/
def brineRead : Pieces → State → Nat × List Byte × List Bool × State
  | [], s => (0, [], [], s)
  | (sl, b, n) :: ps, s =>
    match sliceCause (s.slice sl).mode with
    | some c =>
      let r := brineRead ps (s.bumpSlice sl sliceReject 1)
      (c, r.2.1, r.2.2.1, r.2.2.2)
    | none =>
      let (bs, ms, s1) := brineReadPiece sl (unitParts (n / 64 + 2) b n) s
      let r := brineRead ps s1
      (r.1, bs ++ r.2.1, ms ++ r.2.2.1, r.2.2.2)

/-! ### Slice states (R185 to R187, R196) -/

/-- A slice's contents are lost. -/
def clearSlice (sl : Nat) (s : State) : State :=
  { s with brineMem := clearRange (sl * 2 ^ 25) ((sl + 1) * 2 ^ 25) s.brineMem }.modSlice sl fun x => { x with poison := [], errs := [] }

/-- The refresh keys, 2,048 × bank + row, of the rows that lie in a range of a slice in full (R172, R176). -/
def rowsIn (lo hi : Nat) : List Nat :=
  (List.range (hi / 16384 - (lo + 16383) / 16384)).flatMap fun i =>
    (List.range 16).map fun b => 2048 * b + ((lo + 16383) / 16384 + i)

/-- A range of a slice, from unit to unit, is filled with zeros and valid check bits, which counts as the refresh of its rows (R196): no
mark and no error is left there. -/
def fillRange (sl lo hi : Nat) (s : State) : State :=
  { s with brineMem := clearRange (brineKey sl lo) (brineKey sl hi) s.brineMem }.modSlice sl fun x =>
    { x with refreshed := (rowsIn lo hi).foldl (fun m k => put k s.now m) x.refreshed
             poison := x.poison.filter fun w => decide (32 * w < lo) || decide (hi ≤ 32 * w)
             errs := x.errs.filter fun e => decide (32 * e.word < lo) || decide (hi ≤ 32 * e.word) }

/-- A filled slice: awake, with no poison or standing error, and each row's fill counted as that row's refresh (R196). -/
def filledSlice (now : Nat) (x : Slice) : Slice :=
  { x with mode := .awake, poison := [], errs := [], refreshed := [], filledAt := now, postponed := [] }

/-- A slice has been filled, row by row (R186, R196). -/
def fillSlice (sl : Nat) (s : State) : State :=
  (clearSlice sl s).modSlice sl (filledSlice s.now)

/-- A slice is awake before an extent in it is used: one that is asleep or filling is woken and filled first (R186, R187). The
time of the fill is left out (log 75). A slice that drains is filled and awake at once too, with its admitted writes still queued, where
R186 speaks of asleep slices alone (DESIGN CHOICE, log 109). -/
def wakeFor (sl : Nat) (s : State) : State := if (s.slice sl).mode = .awake then s else fillSlice sl s

/-- A slice holds bytes of a live lot. -/
def State.sliceUsed (s : State) (sl : Nat) : Bool := s.memdev.lots.any fun e => s.lotInSlice sl e.2

/-- SLEEP (R185): Hakar alone, for a slice that no lot needs. -/
def sliceSleep (sl : Nat) (fromHakar : Bool) (s : State) : State :=
  if fromHakar && !s.sliceUsed sl && (s.slice sl).mode == .awake then
    s.modSlice sl fun x => { x with mode := .draining, drainSince := s.now }
  else s

def execSleep (sl : Nat) (fromHakar : Bool) : State → Host.Outcome State Fault Refusal :=
  act (decide (sl < 1620)) (sliceSleep sl fromHakar)

/-- SLICE_DRAINED (R185 steps 2 and 3). -/
def sliceDrained (sl : Nat) (s : State) : State :=
  if (s.slice sl).mode = .draining && (s.slice sl).queue.isEmpty then
    (clearSlice sl s).modSlice sl fun x => { x with mode := .asleep }
  else s

def execSliceDrained (sl : Nat) : State → Host.Outcome State Fault Refusal := act (decide (sl < 1620)) (sliceDrained sl)

/-- A slice fails (R187): contents lost, every request rejected, the owning jobs told. F_ADDR names the stand-in, which
Hakar has yet to choose: none. -/
def failSlice (sl code : Nat) (s : State) : State :=
  let m := (s.slice sl).mode
  if m = .failed || m = .bad then s
  else
    let s1 := (clearSlice sl (loseQueue sl s)).modSlice sl fun x => { x with mode := .failed }
    let s2 := s1.modMem fun d => { d with slicesFailed := min 65535 (d.slicesFailed + 1) }
    report { type := RecType.slice, cls := 5, code := code, unitCls := UnitCls.slice, unitIdx := sl, addr := 0xFFFF
             jobs := maskOf (s.sliceJobs sl) } s2

/-- SLICE_SLEEP_BOUND (R185): 64 µs after step 1 OUTSTANDING is not zero. -/
def sliceSleepBound (sl : Nat) (s : State) : State :=
  let x := s.slice sl
  if x.mode = .draining && !x.queue.isEmpty && decide (x.drainSince + 64000 ≤ s.now) then failSlice sl 2 s else s

def execSliceSleepBound (sl : Nat) : State → Host.Outcome State Fault Refusal := act (decide (sl < 1620)) (sliceSleepBound sl)

/-- WAKE (R186): an asleep slice begins its fill. -/
def sliceWake (sl : Nat) (s : State) : State :=
  if (s.slice sl).mode = .asleep then (clearSlice sl s).modSlice sl fun x => { x with mode := .filling } else s

def execWake (sl : Nat) : State → Host.Outcome State Fault Refusal := act (decide (sl < 1620)) (sliceWake sl)

/-- SLICE_FILL_DONE (R186, R196). -/
def sliceFillDone (sl : Nat) (s : State) : State :=
  if (s.slice sl).mode = .filling then fillSlice sl s else s

def execSliceFillDone (sl : Nat) : State → Host.Outcome State Fault Refusal := act (decide (sl < 1620)) (sliceFillDone sl)

/-- SLICE_FAIL (R187): code 0 an internal check, code 1 more than 64 new uncorrectable codewords within 1 s. -/
def sliceFail (sl code : Nat) (s : State) : State :=
  let recent := ((s.slice sl).ueTides.filter fun t => decide (s.now < t + 1000000000)).length
  if code = 1 && decide (recent ≤ 64) then s else failSlice sl code s

def execSliceFail (sl code : Nat) : State → Host.Outcome State Fault Refusal :=
  act (decide (sl < 1620) && decide (code < 2)) (sliceFail sl code)

/-- The refresh interval of a slice's field, in nanoseconds (R176). -/
def State.refreshNs (s : State) (sl : Nat) : Nat := if (s.fieldPwr (sl / 135)).brineHot then 256000 else 512000

/-- A row has yet to be refreshed in the refresh interval in progress, the intervals being counted from tide count 0 (log 95). -/
def State.refreshDue (s : State) (sl bank row : Nat) : Bool :=
  let x := s.slice sl
  let i := s.refreshNs sl
  decide (look x.filledAt x.refreshed (2048 * bank + row) < s.now / i * i)

/-- REFRESH (R176): one row of a bank, due in this interval, and the requests that waited for it. While the bank has requests without a
gap (`busy`) the refresh is postponed, up to eight times, and then forced. An asleep or failed slice does not refresh. -/
def refreshRow (sl bank row waited : Nat) (busy : Bool) (s : State) : State :=
  let x := s.slice sl
  if (x.mode = .awake || x.mode = .draining || x.mode = .filling) && s.refreshDue sl bank row then
    if busy && decide (look 0 x.postponed bank < 8) then s.modSlice sl fun x => { x with postponed := upd 0 bank (· + 1) x.postponed }
    else (s.modSlice sl fun x => { x with refreshed := put (2048 * bank + row) s.now x.refreshed
                                          postponed := put bank 0 x.postponed }).bumpSlice sl sliceWait waited
  else s

def execRefresh (sl bank row : Nat) (w : RefreshWait) : State → Host.Outcome State Fault Refusal :=
  act (decide (sl < 1620) && decide (bank < 16) && decide (row < 2048)) (refreshRow sl bank row w.waited w.busy)

/-- REFRESH_INTERVAL_CHANGE (R176): 256 µs above 85 °C, 512 µs again at 80 °C. -/
def refreshInterval (f : Nat) (temp16 : Int) (s : State) : State :=
  s.modField f fun x =>
    { x with brineHot := if 85 * 16 < temp16 then true else if temp16 ≤ 80 * 16 then false else x.brineHot }

def execRefreshIntervalChange (f : Nat) (temp16 : Int) : State → Host.Outcome State Fault Refusal :=
  act (decide (f < 12)) (refreshInterval f temp16)

/-- SLICE_SCRUB (R195): one unit every 80 ms; asleep, filling and failed slices are skipped. -/
def sliceScrub (sl : Nat) (obs : List WordObs) (s0 : State) : State :=
  let s := obs.foldl brineFlip s0
  let x := s.slice sl
  if (x.mode = .awake || x.mode = .draining) && decide (x.scrubAt + 80000000 ≤ s.now) then
    let s1 := brineDecode sl (64 * x.scrubPos) s
    let s2 := s1.bumpSlice sl slicePoison (if brineMarked (s1.slice sl) (64 * x.scrubPos) then 1 else 0)
    s2.modSlice sl fun y =>
      if x.scrubPos = 524287 then { y with scrubPos := 0, scrubPass := satCount y.scrubPass 1, scrubAt := s.now }
      else { y with scrubPos := x.scrubPos + 1, scrubAt := s.now }
  else s

def execSliceScrub (sl : Nat) (obs : List WordObs) : State → Host.Outcome State Fault Refusal :=
  act (decide (sl < 1620)) (sliceScrub sl obs)

/-! ### Cellar: access (R189, R190, R194) -/

/-- The check base of a channel: seven eighths of its capacity (R190). -/
def State.checkBase (s : State) : Nat := channelBytes s.memdev.capacity * 7 / 8

/-- Where the check byte of data word w lies (R190). -/
def State.checkByte (s : State) (w : Nat) : Nat := s.checkBase + w

/-- The check burst of data unit v, as the number of its 64 bytes within the channel (R190). -/
def State.checkBurst (s : State) (v : Nat) : Nat := s.checkByte (8 * v) / 64

/-- A channel's check burst is used: a hit moves to the front of the cache, a miss is counted (R190). -/
def touchCheck (ch v : Nat) (s : State) : State :=
  let b := s.checkBurst v
  let hit := (s.chan ch).cache.contains b
  (s.modChan ch fun c => { c with cache := (b :: c.cache.erase b).take 1024 }).bumpChan ch chanMiss (if hit then 0 else 1)

/-- The words a run of bytes of a channel touches, each with whether it is covered in full. -/
def wordsIn (cha n : Nat) : List (Nat × Bool) :=
  (List.range ((cha + n + 7) / 8 - cha / 8)).map fun i =>
    let w := cha / 8 + i
    (w, decide (cha ≤ 8 * w) && decide (8 * w + 8 ≤ cha + n))

/-- The linear address of a channel data address. -/
def State.cellarLinear (s : State) (ch cha : Nat) : Nat :=
  let cs := s.cseq
  (cha / 256 * cs.length + cs.findIdx (· == ch)) * 256 + cha % 256

/-- What a channel's decoder observed in a word (R193, R194). -/
def cellarObserve (ch cha syndrome : Nat) (ue : Bool) (s : State) : State :=
  let a := cha / 8 * 8
  let c := s.chan ch
  let owners := maskOf (s.cellarJobs (s.cellarLinear ch a))
  if ue then
    let s1 := s.modChan ch fun c => { c with poison := insertRising (a / 8) c.poison }
    if syndrome = 0x03 then s1
    else
      let s2 := (s1.bumpChan ch chanUe 1).modChan ch fun c =>
        { c with ueLast := some a, ueTides := (c.ueTides.filter fun t => decide (s.now < t + 1000000000)) ++ [s.now] }
      report { type := RecType.memUe, cls := 2, code := 2, unitCls := UnitCls.channel, unitIdx := ch, addr := a
               detail := syndrome % 65536, jobs := owners } s2
  else
    let (t, lost, rec_) := ceRecord 16 a syndrome s.now c.ce
    let s1 := ((s.bumpChan ch chanCe 1).bumpChan ch chanCeLost (if lost then 1 else 0)).modChan ch fun c => { c with ce := t }
    match rec_ with
    | none => s1
    | some hot => report { type := RecType.memCe, cls := 1, code := 2, unitCls := UnitCls.channel, unitIdx := ch, addr := a
                           detail := flag hot 31 + syndrome % 65536, jobs := owners } s1

/-- A bit error comes to stand in a word of a channel (R151, R193). -/
def cellarFlip (ch cha : Nat) (o : WordObs) (s : State) : State :=
  s.modChan ch fun c =>
    { c with errs := (c.errs.filter fun e => e.word != cha / 8) ++
               [{ word := cha / 8, addr := cha / 8 * 8, syndrome := o.syndrome, uncorrectable := o.uncorrectable }] }

/-- The same, for observations whose addresses are linear. -/
def cellarFlips (obs : List WordObs) (s : State) : State :=
  foldState obs (fun t o => let q := t.cellarPlace o.addr; cellarFlip q.1 q.2 o t) s

/-- A read decodes the words of a data unit (R190, R193): the errors that stand there are corrected and written back, or found
uncorrectable and rewritten with the poison pattern. -/
def cellarDecode (ch cha : Nat) (s : State) : State :=
  let found := (s.chan ch).errs.filter fun e => e.word / 8 == cha / 64
  foldState found (fun t e => cellarObserve ch e.addr e.syndrome e.uncorrectable t)
    (s.modChan ch fun c => { c with errs := c.errs.filter fun e => e.word / 8 != cha / 64 })

/-- A unit of a channel reads marked. -/
def cellarMarked (c : Chan) (cha : Nat) : Bool := c.poison.any fun w => w / 8 == cha / 64

/-- Read bytes within one unit at a linear address, and the unit's mark. -/
def cellarReadUnit (a n : Nat) (s0 : State) : List Byte × Bool × State :=
  let (ch, cha) := s0.cellarPlace a
  let s := cellarDecode ch cha s0
  let m := cellarMarked (s.chan ch) cha
  (readBytes s.cellarMem a n, m, (touchCheck ch (cha / 64) s).bumpChan ch chanPoison (if m then 1 else 0))

/-- Write bytes within one unit at a linear address. A write that covers part of a word reads the unit first (R153, R190). -/
def cellarWriteUnit (a : Nat) (bs : List Byte) (marked : Bool) (s0 : State) : State :=
  let (ch, cha) := s0.cellarPlace a
  let ws := wordsIn cha bs.length
  let rmw := ws.any fun w => !w.2
  let s := if rmw then cellarDecode ch cha s0 else s0
  let s1 := touchCheck ch (cha / 64) { s with cellarMem := writeBytes s.cellarMem a bs }
  (s1.modChan ch fun c =>
    { c with poison := marksAfter marked ws c.poison
             errs := c.errs.filter fun e => !ws.any fun w => w.1 == e.word }).bumpChan ch chanRmw (if rmw then 1 else 0)

/-- A cellar write within the usable capacity. -/
def cellarWrite (a : Nat) (bs : List Byte) (marks : List Bool) (s : State) : State :=
  foldState (partsOf a 0 a bs marks) (fun t u => cellarWriteUnit u.1 u.2.1 u.2.2 t) s

/-- The units of a cellar read. -/
def cellarRead : List (Nat × Nat) → State → List Byte × List Bool × State
  | [], s => ([], [], s)
  | (a, n) :: us, s =>
    let (bs, m, s1) := cellarReadUnit a n s
    let (bs2, ms, s2) := cellarRead us s1
    (bs ++ bs2, m :: ms, s2)

/-! ### Channel commands (R191, R192, R195) -/

/-- Data units of a channel: those below its check base (R190). -/
def State.chanUnits (s : State) : Nat := s.checkBase / 64

/-- CELLAR_SCRUB (R195): one data unit every 240 µs; the observations name channel data addresses. The read goes past the check cache
and leaves CHECK_MISS_COUNT alone, on which the manual is silent (DESIGN CHOICE, log 109). -/
def cellarScrub (ch : Nat) (obs : List WordObs) (s0 : State) : State :=
  let s := foldState obs (fun t o => cellarFlip ch o.addr o t) s0
  let c := s.chan ch
  if c.mode = .active && decide (c.scrubAt + 240000 ≤ s.now) then
    let u := c.scrubPos
    let s1 := cellarDecode ch (64 * u) s
    (s1.bumpChan ch chanPoison (if cellarMarked (s1.chan ch) (64 * u) then 1 else 0)).modChan ch fun c =>
      if s.chanUnits ≤ u + 1 then { c with scrubPos := 0, scrubPass := satCount c.scrubPass 1, scrubAt := s.now }
      else { c with scrubPos := u + 1, scrubAt := s.now }
  else s

def execCellarScrub (ch : Nat) (obs : List WordObs) : State → Host.Outcome State Fault Refusal :=
  act (decide (ch < 96)) (cellarScrub ch obs)

/-- CELLAR_CHANNEL_FAIL (R192): training lost (code 0), or more than 64 new uncorrectable words within 1 s (code 1). -/
def channelFail (ch code : Nat) (s : State) : State :=
  let recent := ((s.chan ch).ueTides.filter fun t => decide (s.now < t + 1000000000)).length
  if (s.chan ch).mode != .active || (code = 1 && decide (recent ≤ 64)) then s
  else
    report { type := RecType.cellar, cls := 7, code := code, unitCls := UnitCls.channel, unitIdx := ch, detail := ch, jobs := s.allJobs }
      (s.modChan ch fun c => { c with mode := .failed })

def execCellarChannelFail (ch code : Nat) : State → Host.Outcome State Fault Refusal :=
  act (decide (ch < 96) && decide (code < 2)) (channelFail ch code)

/-- A populated channel after training. -/
def Chan.runs (c : Chan) : Bool := c.mode == .active || c.mode == .filling

/-- MR4_READ (R191): MR4 sets the refresh rate. -/
def execMr4Read (ch value : Nat) : State → Host.Outcome State Fault Refusal :=
  act (decide (ch < 96) && decide (value < 256)) fun s =>
    if (s.chan ch).runs then s.modChan ch fun c => { c with mr4 := value } else s

/-- WCK2DQ_TRACKING (R191). -/
def execWck2dqTracking (ch : Nat) : State → Host.Outcome State Fault Refusal :=
  act (decide (ch < 96)) fun s => if (s.chan ch).runs then s.modChan ch fun c => { c with trackings := c.trackings + 1 } else s

/-- RFM (R191). -/
def execRfm (ch : Nat) : State → Host.Outcome State Fault Refusal :=
  act (decide (ch < 96)) fun s => if (s.chan ch).runs then s.bumpChan ch chanRfm 1 else s

/-- PER_BANK_REFRESH (R191). -/
def execPerBankRefresh (ch bank : Nat) : State → Host.Outcome State Fault Refusal :=
  act (decide (ch < 96) && decide (bank < 16)) fun s => if (s.chan ch).runs then s.modChan ch fun c => { c with refreshBank := bank } else s

end Sys2Proof.Machine
end

