-- ==== Sys2Proof/Machine/Feed.lean ====
section
/-! DEFINITION. Address generators (R131 to R133), and what the feeders and the drain will do in this cycle and the next ones: which
slots and columns wait and for what (R76 to R78, R89 to R94, R134, R135), and the wide accesses they present (R147). -/

namespace Sys2Proof.Machine
open Sys2Proof

/-! ### Units of the pan store (R141, R142) -/

/-- Split a run of bytes at unit boundaries: first address and length of each part. -/
def splitUnits : Nat → Nat → Nat → List (Nat × Nat)
  | 0, _, _ => []
  | f + 1, a, n =>
    if n = 0 then []
    else
      let k := min n (64 - a % 64)
      (a, k) :: splitUnits f (a + k) (n - k)

/-- The parts of a run of n bytes, one per unit. -/
def unitsOf (a n : Nat) : List (Nat × Nat) := splitUnits (n / 64 + 2) a n

/-- The units a run of bytes touches. -/
def unitNumbers (a n : Nat) : List Nat := (unitsOf a n).map fun u => u.1 / 64

/-! ### Descriptors of the drain (R53, R122) -/

/-- The parameters of a drain descriptor's 32 bytes. -/
def drainOf (d : List Byte) : DrainParams :=
  let w (o n : Nat) : Nat := leNat ((d.drop o).take n)
  let c := w 0 4
  { reload := bit c 10, biasEn := bit c 9, mulEn := bit c 8, fmt := bits c 7 0, esIn := signed 16 (w 6 2), esOut := signed 16 (w 4 2)
    emin := signed 8 (w 0xB 1), emax := signed 8 (w 0xA 1), eb := signed 16 (w 8 2) }

/-- A reserved OUT_FMT (R53). -/
def fmtReserved (d : List Byte) : Bool := let f := leNat (d.take 1); !(f == 1 || f == 2 || f == 3)

/-- A nonzero reserved field or a misaligned vector address of a drain descriptor (R53, R122). -/
def drainBroken (d : List Byte) : Bool :=
  let w (o n : Nat) : Nat := leNat ((d.drop o).take n)
  decide (bits (w 0 4) 31 11 ≠ 0) || decide (bits (w 0xC 4) 31 23 ≠ 0) || decide (bits (w 0x10 4) 31 23 ≠ 0) ||
  decide (w 0x14 12 ≠ 0) || (bit (w 0 4) 8 && decide (w 0xC 4 % 2 ≠ 0)) || (bit (w 0 4) 9 && decide (w 0x10 4 % 4 ≠ 0))

/-- Where a descriptor's vectors lie, `n` entries of each (R53): multipliers of 2 bytes, biases of 4. -/
def vectorRuns (d : List Byte) (n : Nat) : List (Nat × Nat) :=
  let w (o k : Nat) : Nat := leNat ((d.drop o).take k)
  let pr := drainOf d
  (if pr.mulEn then [(w 0xC 4, 2 * n)] else []) ++ (if pr.biasEn then [(w 0x10 4, 4 * n)] else [])

/-- Parameters with the bytes of their vectors, multipliers before biases, `n` entries of each. -/
def withVectors (pr : DrainParams) (n : Nat) (bs : List Byte) : DrainParams :=
  let m := if pr.mulEn then 2 * n else 0
  { pr with muls := if pr.mulEn then intsOf 2 n bs else [], biases := if pr.biasEn then intsOf 4 n (bs.drop m) else [] }

/-- The reads of a load's drain parameters after the descriptor, one for each cycle (R76): the multipliers in one, the biases in two. -/
def paramReads (d : List Byte) : List (Nat × Nat) :=
  (vectorRuns d 64).flatMap fun r => if r.2 = 256 then [(r.1, 128), (r.1 + 128, 128)] else [r]

/-! ### Address generators -/

/-- An address plus a signed step, in the 64 bits of ESTART and XSTART (R131). -/
def stepAddr (a d : Int) : Int := (a + d) % 2 ^ 64

/-- One use of a generator (R132): the pair it gives, and the generator advanced. -/
def useAg (g : Ag) : (Int × Int) × Ag :=
  let i := g.idx + 1
  if i = g.count then
    let e := stepAddr g.estart g.estep
    let x := stepAddr g.xstart g.xstep
    ((g.ecur, g.xcur), { g with idx := 0, estart := e, xstart := x, ecur := e, xcur := x })
  else ((g.ecur, g.xcur), { g with idx := i, ecur := stepAddr g.ecur g.estride, xcur := stepAddr g.xcur g.xstride })

/-- The units that use generators, in DETAIL of AG_FAULT (R138). -/
abbrev unitWest : Nat := 0
abbrev unitNorth : Nat := 1
abbrev unitDrain : Nat := 2
abbrev unitRake : Nat := 3

/-- A local access lies inside the pan store (R133). -/
def localIn (a : Int) (n : Nat) : Bool := n == 0 || (decide (0 ≤ a) && decide (a + n ≤ 2 ^ 23))

/-- DETAIL of AG_FAULT (R138). -/
def agDetail (ag unit why : Nat) : Nat := field ag 2 14 + field unit 2 12 + why

/-- Whether a use of generator `ag` by a unit is sound (R133): its element and exponent accesses of `en` and `xn` bytes. -/
def agCheck (q : Seq) (ag unit : Nat) (en xn : Nat) : Option Nat :=
  let g := look {} q.ags ag
  if !g.loaded then some (agDetail ag unit 2)
  else if g.brine && decide (2 ≤ unit) then some (agDetail ag unit 1)
  else if !g.brine && !(localIn g.ecur en && localIn g.xcur xn) then some (agDetail ag unit 0)
  else none

/-- Advance a generator of a sequencer. -/
def stepAg (ag : Nat) (q : Seq) : Seq := { q with ags := put ag (useAg (look {} q.ags ag)).2 q.ags }

/-- The address generator a 64-byte descriptor loads, or none for a reserved value (R131). -/
def agOf (d : List Byte) : Option Ag :=
  let w (o n : Nat) : Nat := leNat ((d.drop o).take n)
  let c := w 0x20 4
  if bits c 31 18 ≠ 0 || w 0x24 28 ≠ 0 || decide (1 < bits c 17 16) then none
  else
    let n := bits c 15 0
    some { loaded := true, brine := bits c 17 16 == 1, estart := w 0 8, xstart := w 8 8, estride := signed 32 (w 0x10 4)
           xstride := signed 32 (w 0x14 4), estep := signed 32 (w 0x18 4), xstep := signed 32 (w 0x1C 4)
           count := if n = 0 then 65536 else n, idx := 0, ecur := w 0 8, xcur := w 8 8 }

/-! ### Shapes of the product modes (R73) -/

/-- Grains per pass. -/
def modeGrains (mode : Nat) : Nat := if mode = 1 then 2 else if mode = 2 then 4 else 8
/-- Bytes of a streamed vector. -/
def westBytes (mode : Nat) : Nat := if mode = 1 then 64 else 128
/-- Bytes of a held column. -/
def heldBytes (mode : Nat) : Nat := if mode = 3 then 128 else 64
/-- Elements of a streamed vector. -/
def westElems (mode : Nat) (bs : List Byte) : List Int := if mode = 3 then bs4Elems bs else bs8Elems bs
/-- Elements of a held column. -/
def heldElems (mode : Nat) (bs : List Byte) : List Int := if mode = 1 then bs8Elems bs else bs4Elems bs
/-- Exponents as signed bytes. -/
def expElems (bs : List Byte) : List Int := bs.map fun b => signed 8 b.toNat

/-! ### Runs and loads (R77, R78, R94, R109) -/

/-- The runs of a pan in feed order, the one in progress first. -/
def feedRuns (x : Pan) : List WestRun :=
  x.lat.run.toList ++ x.seq.feedq.filterMap fun e => match e with | .run r _ _ => some r | .tend _ => none

/-- The generator of a run is in brine mode. -/
def runBrine (q : Seq) (r : WestRun) : Bool := !r.zero && (look {} q.ags r.wag).loaded && (look {} q.ags r.wag).brine

/-- The held copy a bit names. -/
def copyOf (l : Lat) (c : Bool) : HeldCopy := look {} l.copies (if c then 1 else 0)
/-- A load into a copy that the program issued before run `id` is in progress or queued (R77, R78). -/
def loadBefore (x : Pan) (copy : Bool) (id : Nat) : Bool :=
  (x.lat.load.any fun l => l.copy == copy && decide (l.id < id)) || (x.seq.northq.any fun e => e.copy == copy && decide (e.id < id))

/-- An earlier valid slot of copy X has yet to issue, or has not reached cell (63, j) in this cycle (R77). -/
def heldBlocked (x : Pan) (ld : NorthLoad) (j : Nat) : Bool :=
  ((feedRuns x).any fun r => r.copy == ld.copy && decide (r.id < ld.id)) ||
  (x.lat.flight.any fun f => f.copy == ld.copy && decide (x.seq.cycle < f.issued + 64 + j))

/-- A generator after `k` uses. -/
def useTimes (ag : Nat) : Nat → Seq → Seq
  | 0, q => q
  | k + 1, q => useTimes ag k (stepAg ag q)

/-- The column writes of one load cycle (R73). -/
def heldPer (mode : Nat) : Nat := if mode = 3 then 1 else 2

/-! ### Columns of a slot (R81, R82) -/

/-- The held entry column j uses for a slot. -/
def colHeld (window : Bool) (len h j : Nat) : Nat := if window then (h + j) % len else h
/-- The accumulator entry column j uses for a slot. -/
def colEntry (window : Bool) (len h w j : Nat) : Nat := if window then (w + (h + j) / len) % 256 else w
/-- START applies to column j. -/
def colStart (window start : Bool) (len h j : Nat) : Bool := start && (!window || colHeld window len h j == 0)
/-- LAST applies to column j. -/
def colLast (window last : Bool) (len h j : Nat) : Bool := last && (!window || colHeld window len h j == len - 1)

/-! ### What holds a slot (R78, R89, R91, R94, R135) -/

/-- The logical column of a pan that issues a chained run, none when the run is unchained. -/
def runCol (s : State) (p : Nat) (r : WestRun) : Option Nat := if r.chained then some (s.logicalCol p) else none

/-- Entries the DOUT assignments cover. -/
def assignedEntries (l : List DrainEntry) : Nat := sumNat (l.map fun d => match d with | .dout n _ _ _ => n | .drld .. => 0)

/-- How many cycles from now the drain reads a complete entry, as its assignments stand: after each entry before it, one cycle for each
or two where the output is I32 (R85); none while no assignment covers it. -/
def drainReadIn (x : Pan) (ei : Nat) : Option Nat :=
  let before := x.lat.completeq.takeWhile fun e => e != ei
  let cost (e : Nat) : Nat := if (look ({} : AccEntry) x.lat.acc e).drain.any fun d => d.fmt == 3 then 2 else 1
  if before.length < assignedEntries x.seq.drainq then some (x.lat.drainFrom - x.seq.cycle + sumNat (before.map cost)) else none

/-- An entry is complete and the drain will not have read it `lead` cycles from now; with no lead, it is complete now. -/
def entryHeld (x : Pan) (ei : Nat) (lead : Option Nat) : Bool :=
  (look ({} : AccEntry) x.lat.acc ei).complete &&
    (match lead, drainReadIn x ei with | some l, some n => decide (l < n) | _, _ => true)

/-- A slot issued now would apply START to an entry that the drain has not read by then (R89): column j's START comes `lead` + j cycles
later, and a complete entry whose read falls no later is no bar, as the third condition of R91 has it (DEDUCED, log 89). In a chain,
with no lead, the entry must be free in pan 13 when pan 0 decides (R94). `x` is the pan that holds the entries. -/
def startBlocked (x : Pan) (lead : Option Nat) (window start : Bool) (len h w : Nat) : Bool :=
  (if window then List.range 64 else [0]).any fun j =>
    colStart window start len h j && entryHeld x (colEntry window len h w j) (lead.map (· + j))

/-- The copy has not been written in full by the loads the program issued before run `id` (R78). -/
def notReady (x : Pan) (copy : Bool) (id : Nat) : Bool :=
  let c := copyOf x.lat copy
  !c.ready || decide (x.seq.cycle < c.readyFrom) || loadBefore x copy id

/-- The copy that a pan's chained slot number k names is loaded (R94): that of the run that holds the slot, or, while the pan's feed
order does not hold it yet, the copy itself with no load under way. -/
def chainLoaded (x : Pan) (copy : Bool) (k : Nat) : Bool :=
  match (feedRuns x).find? fun r => r.chained && decide (r.chainNo ≤ k) && decide (k < r.chainNo + r.n) with
  | some r => !notReady x r.copy r.id
  | none => !notReady x copy x.seq.feedSeq

/-- The held phase and entry base of slot i of a run (R111). -/
def slotPhase (c : HeldCopy) (r : WestRun) : Nat × Nat :=
  if c.window then ((r.h + r.next) % c.len, (r.w + (r.h + r.next) / c.len) % 256) else (r.h, (r.w + r.next) % 256)

/-- The burst of R134 would start with a valid slot in this cycle. -/
def isBurst (q : Seq) : Bool := match q.lastValid with | none => true | some l => decide (l + 1024 < q.cycle)

/-- What the notice rule makes of a burst (R135): none lets it start, otherwise the sequencer that holds it and whether a
notice was inserted. -/
def noticeRule (q : Seq) : Option (Seq × Bool) :=
  if !isBurst q || q.holdDone then none
  else match q.notice with
    | some n =>
      if n + 256 ≤ q.cycle ∧ q.cycle ≤ n + 4096 then none
      else if q.cycle < n + 256 ∧ n < q.cycle then some ({ q with hold := some (n + 256) }, false)
      else some ({ q with notice := some q.cycle, hold := some (q.cycle + 256) }, true)
    | none => some ({ q with notice := some q.cycle, hold := some (q.cycle + 256) }, true)

/-- The first DRLD assignment. -/
def firstDrld : List DrainEntry → Option (Nat × Nat × Nat × Nat × Option DrainParams)
  | [] => none
  | .drld n a g d pr :: _ => some (n, a, g, d, pr)
  | _ :: rest => firstDrld rest

/-- The copy of the next slot of a run is loaded: in the pan (R78), and in pan 0 of a chain in all 14 (R94). -/
def slotLoaded (p : Nat) (r : WestRun) (s : State) : Bool :=
  !notReady (s.pan p) r.copy r.id &&
  (runCol s p r != some 0 || (s.chainPans (regionOf p)).all fun e => chainLoaded (s.pan e.1) r.copy (r.chainNo + r.next))

/-- The next slot of a run would apply START to an entry that is not free (R89, R94): in a chain, one of pan 13 as the chain control line
reports it, here without lag (R94 allows one of up to 16 cycles; DESIGN CHOICE, log 106). -/
def slotBlocked (p : Nat) (r : WestRun) (s : State) : Bool :=
  let c := copyOf (s.pan p).lat r.copy
  let hw := slotPhase c r
  if runCol s p r = some 0 then
    startBlocked (s.pan (((s.chainPans (regionOf p)).getLast?.map (·.1)).getD p)) none c.window r.start c.len hw.1 hw.2
  else startBlocked (s.pan p) (some 65) c.window r.start c.len hw.1 hw.2

/-- The next slot's held phase lies in its copy (R114). -/
def slotPhaseOk (x : Pan) (r : WestRun) : Bool :=
  let c := copyOf x.lat r.copy
  c.window || decide ((slotPhase c r).1 < c.len)

/-- The number of a run's next slot in the chained schedule. -/
def slotNo (r : WestRun) : Nat := r.chainNo + r.next

/-! ### Presented accesses (R147) -/

/-- The port and units of an access. -/
def portUnits (port a n : Nat) : List (Nat × Nat) := (unitNumbers a n).map fun u => (port, u)

/-- The product mode in which a run's slots are read: that of its copy (R73), as the copy or the load in progress has it; while the load is
still queued, that of the tile context its WFEED named (DESIGN CHOICE, log 107). -/
def runMode (x : Pan) (r : WestRun) : Nat :=
  match x.lat.load with
  | some ld => if ld.copy = r.copy ∧ ld.id < r.id then ld.mode else if loadBefore x r.copy r.id then r.mode else
      if (copyOf x.lat r.copy).ready then (copyOf x.lat r.copy).mode else r.mode
  | none => if loadBefore x r.copy r.id || !(copyOf x.lat r.copy).ready then r.mode else (copyOf x.lat r.copy).mode

/-- A run takes its data from pan store through a loaded generator. -/
def runLocal (q : Seq) (r : WestRun) : Bool := !r.zero && (look {} q.ags r.wag).loaded && !(look {} q.ags r.wag).brine

/-- The units one slot of a run touches through the west feeder's ports. -/
def slotUnits (q : Seq) (r : WestRun) (mode : Nat) : List (Nat × Nat) :=
  let g := look {} q.ags r.wag
  if runLocal q r && (agCheck q r.wag unitWest (westBytes mode) (modeGrains mode)).isNone then
    portUnits 0 g.ecur.toNat (westBytes mode) ++ portUnits 1 g.xcur.toNat (modeGrains mode)
  else []

/-- The accesses the west feeder makes in this cycle, when nothing holds the next slot of its run. -/
def westNow (p : Nat) (s : State) : List (Nat × Nat) :=
  let x := s.pan p
  match x.seq.hold, x.lat.run with
  | none, some r =>
    let follow := (runCol s p r).any (· != 0)
    let decided := !follow || x.lat.decisions.head? == some (slotNo r, true)
    if decided && slotLoaded p r s && slotPhaseOk x r && (follow || (!slotBlocked p r s && (noticeRule x.seq).isNone)) then
      slotUnits x.seq r (runMode x r)
    else []
  | _, _ => []

/-- The accesses of the west feeder's next `n` slots. -/
def westSoon (x : Pan) (n : Nat) : List (Nat × Nat) :=
  ((((feedRuns x).flatMap fun r => List.replicate (min n (r.n - r.next)) r).take n).foldl
    (fun (acc : List (Nat × Nat) × Seq) r =>
      (acc.1 ++ slotUnits acc.2 r (runMode x r), if runLocal acc.2 r then stepAg r.wag acc.2 else acc.2)) ([], x.seq)).1

/-- The accesses of the next `n` columns of the load in progress. -/
def columnUnits (x : Pan) (ld : NorthLoad) (n : Nat) : List (Nat × Nat) :=
  if (look ({} : Ag) x.seq.ags ld.nag).brine then []
  else (List.range (min n (64 * ld.len - ld.next))).flatMap fun k =>
    let q := useTimes ld.nag k x.seq
    let g := look ({} : Ag) q.ags ld.nag
    if (agCheck q ld.nag unitNorth (heldBytes ld.mode) (modeGrains ld.mode)).isNone then
      portUnits 2 g.ecur.toNat (heldBytes ld.mode) ++ portUnits 3 g.xcur.toNat (modeGrains ld.mode)
    else []

/-- The accesses of the next `n` cycles of the load in progress: its columns, then its drain parameters (R76). -/
def northSoon (x : Pan) (n : Nat) : List (Nat × Nat) :=
  match x.lat.load with
  | none => []
  | some ld =>
    if ld.next = 64 * ld.len then
      let r := if ld.phase = 0 then (ld.ddesc, 32) else (paramReads (ld.bytes.take 32)).getD (ld.phase - 1) (0, 0)
      portUnits 2 r.1 r.2
    else columnUnits x ld (n * heldPer ld.mode)

/-- The accesses the north feeder makes in this cycle, when it has not made them and no slot holds them (R77). -/
def northNow (x : Pan) : List (Nat × Nat) :=
  match x.lat.load with
  | none => []
  | some ld =>
    if ld.lastCycle = some x.seq.cycle then []
    else if ld.next = 64 * ld.len then northSoon x 1
    else
      let j := ld.next % 64
      if heldBlocked x ld j || heldBlocked x ld (j + heldPer ld.mode - 1) then [] else northSoon x 1

/-- The drain's reads of the next `n` grains of the reload it has begun. -/
def reloadSoon (x : Pan) (n : Nat) : List (Nat × Nat) :=
  match firstDrld x.seq.drainq with
  | some (m, sag, _, _, some _) =>
    (List.range (min n m)).flatMap fun k => portUnits 4 (look ({} : Ag) (useTimes sag k x.seq).ags sag).ecur.toNat 128
  | _ => []

/-- The wide accesses presented for the cycle `d` from now, beside those already registered (R147). -/
def presentedWide (p d : Nat) (s : State) : List (Nat × Nat) :=
  let x := s.pan p
  if d = 0 then westNow p s ++ northNow x else westSoon x (d + 1) ++ northSoon x (d + 1) ++ reloadSoon x (d + 1)

end Sys2Proof.Machine
end

