-- ==== Sys2Proof/Machine/Store.lean ====
section
/-! DEFINITION. Pan store and sluice windows (chapter 5): bank mapping, protection, wide and narrow accesses, windows, bank sleep,
fill and scrub, and the commands of that chapter. -/

namespace Sys2Proof.Machine
open Sys2Proof

/-! ### Mapping (R141, R144) -/

/-- Parity of the low 12 bits. -/
def parity12 (v : Nat) : Bool := (List.range 12).foldl (fun b i => b ^^ v.testBit i) false

/-- The bank of a pan store byte address under a swizzle (R144). -/
def bankOf (swz : List Nat) (a : Nat) : Nat :=
  let u := a / 64
  let r := u / 32 % 4096
  maskOf ((List.range 5).filter fun k => u.testBit k ^^ parity12 (r &&& swz.getD k 0))

/-- Where a byte lies: bank × 256 KiB, row × 64, byte. -/
def placeOf (swz : List Nat) (a : Nat) : Nat := bankOf swz a * 2 ^ 18 + a / 2048 % 4096 * 64 + a % 64

/-- The key of a pan store byte in `storeMem`. -/
def storeKey (p : Nat) (swz : List Nat) (a : Nat) : Nat := p * 2 ^ 23 + placeOf swz a

/-- The region wakes and its stores fill (R170, R382). -/
def State.wakeFills (s : State) (p : Nat) : Bool :=
  (s.pan p).store.fillBusy && (s.region (regionOf p)).pwr == .waking && !(s.region (regionOf p)).fenced

/-- The state of a bank as its router treats it (R22, R159, R170). -/
def State.bankMode (s : State) (p b : Nat) : BankMode :=
  if s.isSpare p || (s.regionDown (regionOf p) && !s.wakeFills p) then .asleep
  else if (s.pan p).store.fillBusy then .filling
  else look .awake (s.pan p).store.banks b

/-- The bank of an address of a pan. -/
def State.bankAt (s : State) (p a : Nat) : Nat := bankOf (s.pan p).store.swz a

/-! ### Words and marks (R151 to R158) -/

/-- Physical word index of a byte. -/
def wordKey (swz : List Nat) (a : Nat) : Nat := placeOf swz a / 8

/-- Some word of the unit reads uncorrectable (R155): it carries poison, or an uncorrectable error stands in it. -/
def unitMarked (st : Store) (a : Nat) : Bool :=
  let w := wordKey st.swz (a / 64 * 64)
  (st.poison.any fun x => decide (w ≤ x) && decide (x < w + 8)) ||
  st.errs.any fun e => e.uncorrectable && decide (w ≤ e.word) && decide (e.word < w + 8)

/-- The words of some bytes have an error standing in them, as an observation of the outside gives it (R151); a syndrome of 0x03
is poison (R156). -/
def storeFlip (p : Nat) (s : State) (o : WordObs) : State :=
  let a := o.addr / 8 * 8 % 2 ^ 23
  s.modStore p fun st =>
    let w := wordKey st.swz a
    if o.uncorrectable && o.syndrome == 0x03 then { st with poison := insertRising w st.poison }
    else { st with errs := (st.errs.filter fun e => e.word != w) ++
                    [{ word := w, addr := a, syndrome := o.syndrome, uncorrectable := o.uncorrectable }] }

/-- Bit errors come to stand in words of a pan's store. -/
def storeFlips (p : Nat) (obs : List WordObs) (s : State) : State := obs.foldl (storeFlip p) s

/-- A store request of port 0xF for one word, unless one like it waits (R152, R156). -/
def askWord (use : NarrowUse) (e : WordErr) (cycle : Nat) (st : Store) : Store :=
  if st.narrow.any fun r => r.use == use then st
  else { st with narrow := st.narrow ++ [{ port := 0xF, bank := e.word / 2 ^ 15, addr := e.addr, len := 8, write := none
                                           use := use, since := cycle }] }

/-- A read decodes a word in which an error stands (R151): a corrected error is counted, queued for write-back and entered in the
table (R152, R154, R456); a new uncorrectable one is counted, logged, reported and queued for its rewrite (R156). -/
def storeDecode (p : Nat) (s : State) (e : WordErr) : State :=
  let st := (s.pan p).store
  let c := (s.pan p).seq.cycle
  if e.uncorrectable then
    let s2 := (s.bumpPan p PanCtr.ue 1).modStore p fun st => askWord (.rewrite e.word) e c { st with ueLast := some e.addr }
    report { type := RecType.memUe, cls := 2, unitCls := UnitCls.pan, unitIdx := p, addr := e.addr
             detail := e.syndrome % 65536, jobs := s.jobMask (regionOf p) } s2
  else
    let (t, lost, rec_) := ceRecord 8 e.addr e.syndrome s.now st.ce
    let s1 := ((s.bumpPan p PanCtr.ce 1).bumpPan p PanCtr.ceLost (if lost then 1 else 0)).modStore p fun st =>
      askWord (.fixup e.word) e c { st with ce := t }
    match rec_ with
    | none => s1
    | some hot => report { type := RecType.memCe, cls := 1, unitCls := UnitCls.pan, unitIdx := p, addr := e.addr
                           detail := flag hot 31 + e.syndrome % 65536, jobs := s.jobMask (regionOf p) } s1

/-- The errors that stand in the words of a unit. -/
def unitErrs (st : Store) (a : Nat) : List WordErr :=
  let w := wordKey st.swz (a / 64 * 64)
  st.errs.filter fun e => decide (w ≤ e.word) && decide (e.word < w + 8)

/-- A read decodes every word of a unit it touches (R151). -/
def decodeUnit (p a : Nat) (s : State) : State := (unitErrs (s.pan p).store a).foldl (storeDecode p) s

/-- The words of a unit part, each with whether the part covers it in full. -/
def partWords (swz : List Nat) (a n : Nat) : List (Nat × Bool) :=
  let w0 := a / 8
  (List.range ((a + n + 7) / 8 - w0)).map fun i =>
    let wa := 8 * (w0 + i)
    (wordKey swz wa, decide (a ≤ wa) && decide (wa + 8 ≤ a + n))

/-- The marks of a store after a write of a unit part (R153, R157): `bad` says which words read uncorrectable, which a
read-modify-write keeps poisoned. -/
def writeMarks (marked : Bool) (bad : Nat → Bool) (ws : List (Nat × Bool)) (poison : List Nat) : List Nat :=
  ws.foldl (fun l w => if marked || (!w.2 && bad w.1) then insertRising w.1 l else if w.2 then l.erase w.1 else l) poison

/-- A port 0xF request for one of some words. -/
def NarrowUse.ofWords (ws : List (Nat × Bool)) : NarrowUse → Bool
  | .fixup w | .rewrite w => ws.any fun x => x.1 == w
  | _ => false

/-- Write bytes within one unit of a pan store, with their mark: partial words are read-modify-writes, whose read decodes the
unit (R151, R153, R157), the errors that stood in the written words are gone, and their queued write-backs and rewrites are
cancelled (R152). -/
def storeWrite (p a : Nat) (bs : List Byte) (marked : Bool) (s : State) : State :=
  let swz := (s.pan p).store.swz
  let ws := partWords swz a bs.length
  let rmw := ws.any fun w => !w.2
  let s0 := if rmw then (decodeUnit p a s).bumpPan p PanCtr.rmw 1 else s
  let s1 := s0.modStore p fun st =>
    let bad (w : Nat) : Bool := st.errs.any fun e => e.uncorrectable && e.word == w
    { st with poison := writeMarks marked bad ws st.poison
              errs := st.errs.filter fun e => !ws.any fun x => x.1 == e.word
              narrow := st.narrow.filter fun r => !r.use.ofWords ws }
  { s1 with storeMem := writeBytes s1.storeMem (storeKey p swz a) bs }

/-- Read bytes within one unit of a pan store and the unit's mark; every word of the unit is decoded (R151, R155). -/
def storeRead (p a n : Nat) (s : State) : List Byte × Bool × State :=
  let st := (s.pan p).store
  let m := unitMarked st a
  let s1 := decodeUnit p a s
  (readBytes s.storeMem (storeKey p st.swz a) n, m, if m then s1.bumpPan p PanCtr.poisonRead 1 else s1)

/-- A feeder, drain or rake read of bytes that may cross units; a unit of a bank that is not awake reads zero and
marked (R169). A descriptor or header read through port 0x6 meets such a bank alike, though the rule names the feeders, the drain and
the rake (DEDUCED, log 123). -/
def localRead (p a n : Nat) (s : State) : List Byte × Bool × State :=
  (unitsOf a n).foldl (fun acc u =>
    let (bs, m, t) := acc
    if t.bankMode p (t.bankAt p u.1) = .awake then
      let (b, k, t1) := storeRead p u.1 u.2 t
      (bs ++ b, m || k, t1)
    else (bs ++ List.replicate u.2 0, true, t.bumpPan p PanCtr.asleepLocal 1)) ([], false, s)

/-- The bytes of a run as a local read delivers them, zeros for a bank that is not awake (R169). -/
def localBytes (p a n : Nat) (s : State) : List Byte :=
  (unitsOf a n).flatMap fun u =>
    if s.bankMode p (s.bankAt p u.1) = .awake then readBytes s.storeMem (storeKey p (s.pan p).store.swz u.1) u.2 else List.replicate u.2 0

/-- The reads of one wide port in one cycle: accesses to one unit merge into one (R142). The bytes of each run, whether a unit was
marked, and the state. -/
def portReads (p : Nat) (runs : List (Nat × Nat)) (s : State) : List (List Byte) × Bool × State :=
  let us := (runs.flatMap fun r => unitNumbers r.1 r.2).foldl (fun l u => if l.contains u then l else l ++ [u]) []
  let out := us.foldl (fun (acc : Bool × State) u =>
    if acc.2.bankMode p (acc.2.bankAt p (64 * u)) = .awake then
      let (_, m, t) := storeRead p (64 * u) 64 acc.2
      (acc.1 || m, t)
    else (true, acc.2.bumpPan p PanCtr.asleepLocal 1)) (false, s)
  (runs.map fun r => localBytes p r.1 r.2 s, out)

/-- A drain or rake write that may cross units; a unit of a bank that is not awake is not written (R169). -/
def localWrite (p a : Nat) (bs : List Byte) (marked : Bool) (s : State) : State :=
  ((unitsOf a bs.length).foldl (fun acc u =>
    let (rest, t) := acc
    if t.bankMode p (t.bankAt p u.1) = .awake then (rest.drop u.2, storeWrite p u.1 (rest.take u.2) marked t)
    else (rest.drop u.2, t.bumpPan p PanCtr.asleepLocal 1)) (bs, s)).2

/-! ### Wide accesses and conflicts (R142, R147, R148) -/

/-- The wide accesses, port and unit, that fall in a cycle. -/
def wideAt (x : Pan) (c : Nat) : List (Nat × Nat) := (x.lat.wide.filter fun e => e.1 == c).map (·.2)

/-- The wide accesses already made in the pan's current cycle. -/
def wideNow (x : Pan) : List (Nat × Nat) := wideAt x x.seq.cycle

/-- Find the first conflict among wide accesses: the two port codes and the bank. -/
def findConflict (swz : List Nat) : List (Nat × Nat) → Option (Nat × Nat × Nat)
  | [] => none
  | (po, u) :: rest =>
    match rest.find? fun e => bankOf swz (64 * e.2) == bankOf swz (64 * u) with
    | some e => some (min po e.1, max po e.1, bankOf swz (64 * u))
    | none => findConflict swz rest

/-- Make wide accesses in the cycle `d` from now: (port, address, bytes). Accesses of one port to one unit merge (R142). A
conflict stops the pan and none takes place (R148); the Bool says whether they took place. The west feeder's slot ends the cycle, so
the other ports meet its access as it is presented. -/
def wideAccessAt (p d : Nat) (reqs : List (Nat × Nat × Nat)) (s : State) : Bool × State :=
  let x := s.pan p
  let c := x.seq.cycle + d
  let new0 := reqs.flatMap fun r => portUnits r.1 r.2.1 r.2.2
  let west := if d = 0 && new0.all fun e => decide (2 ≤ e.1) then westNow p s else []
  let old := wideAt x c
  let new := new0.foldl (fun l e => if l.contains e || old.contains e then l else l ++ [e]) []
  match findConflict x.store.swz (old ++ new ++ west) with
  | some k =>
    let s1 := s.modStore p fun st => { st with conflict := (k.1, k.2.1, k.2.2, c - x.seq.goCycle) }
    (false, panFault p PanCode.bankConflict k.2.2 none s1)
  | none => (true, s.modLat p fun l =>
      { l with wide := (l.wide.filter fun e => decide (x.seq.cycle ≤ e.1)) ++ new.map fun e => (c, e) })

/-- Make wide accesses of the current cycle. -/
def wideAccess (p : Nat) (reqs : List (Nat × Nat × Nat)) (s : State) : Bool × State := wideAccessAt p 0 reqs s

/-- The three cycles, from `d` on, of a read-modify-write of the drain's exponent port (R147); the Bool says whether no conflict
arose. -/
def wideRmw (p d a n : Nat) (s : State) : Bool × State :=
  let (k0, s0) := wideAccessAt p d [(5, a, n)] s
  if !k0 then (false, s0)
  else
    let (k1, s1) := wideAccessAt p (d + 1) [(5, a, n)] s0
    if !k1 then (false, s1) else wideAccessAt p (d + 2) [(5, a, n)] s1

/-! ### Remote requests at a pan store (R164 to R166) -/

/-- The banks a run of bytes touches; a run of no bytes is checked as one byte (R164). -/
def State.banksOf (s : State) (p a n : Nat) : List Nat := (unitNumbers a (max 1 n)).map fun u => s.bankAt p (64 * u)

/-- An open window admits a write (R164 rule 4). -/
def windowAdmits (w : Window) (src a n : Nat) : Bool :=
  ((src ^^^ w.srcMatch) &&& w.srcMask) == 0 && decide (w.base ≤ a) && decide (a + max 1 n ≤ w.base + w.len)

/-- The router's decision on a remote write (R164): none admits it, otherwise the cause. -/
def State.admits (s : State) (p src a n : Nat) : Option Nat :=
  let bs := (s.banksOf p a n).map fun b => s.bankMode p b
  let m := (s.pan p).seq.mode
  if bs.contains .asleep || bs.contains .filling then some Cause.bankAsleep
  else if bs.contains .draining then some Cause.windowFault
  else if s.ownControl src && (m == .stopped || m == .halted || m == .faulted) then none
  else if (s.pan p).store.windows.any fun w => windowAdmits w.2 src a n then none
  else some Cause.windowFault

/-- A rejection's counts and registers (R165). -/
def recordReject (p src a cause : Nat) (s : State) : State :=
  (s.bumpPan p (if cause = Cause.bankAsleep then PanCtr.asleepReject else PanCtr.windowReject) 1).modStore p fun st =>
    { st with lastReject := (if cause = Cause.bankAsleep then 2 else 1, a, src) }

/-- Queue a read or write at a pan store port, one narrow request per unit (R142); its response goes out when the last
unit is performed. `data` is none for a read. -/
def enqueue (p port a n : Nat) (data : Option (List Byte)) (marks : List Bool) (ack : Packet) (s : State) : State :=
  let us := unitsOf a n
  s.modPan p fun x =>
    let id := x.store.nextWrite
    let reqs := us.zipIdx.map fun e =>
      ({ port := port, bank := bankOf x.store.swz e.1.1, addr := e.1.1, len := e.1.2
         write := data.map fun d => (d.drop (e.1.1 - a)).take e.1.2
         marked := marks.getD e.2 false, use := .reply id, since := x.seq.cycle } : Narrow)
    let outst := if data.isSome then reqs.foldl (fun m r => upd 0 r.bank (fun c => c + 1) m) x.store.outstanding
                 else x.store.outstanding
    { x with store := { x.store with
        nextWrite := id + 1, narrow := x.store.narrow ++ reqs, outstanding := outst
        writes := x.store.writes ++ [{ id := id, ack := ack, base := a, left := us.length }] } }

/-- A response packet of a request, as the unit that performs it will send it. -/
def ackOf (k : Packet) (op : Nat) (n : Nat) : Packet :=
  { op := op, vc := 2, addr := k.addr, src := k.src, tag := k.tag, bytes := n, sgx := k.sgx, sgy := k.sgy
    data := List.replicate n 0, marks := List.replicate (unitsOf k.addr n).length false }

/-- A remote write reaches a pan store (R164, R165). -/
def panStoreWrite (p a : Nat) (k : Packet) (s : State) : State :=
  match s.admits p k.src a k.bytes with
  | some c => respond (meshX p) (meshY p) k Op.wrAck c [] [] (recordReject p k.src a c s)
  | none =>
    if k.bytes = 0 then respond (meshX p) (meshY p) k Op.wrAck 0 [] [] s
    else enqueue p 0xD a k.bytes (some k.data) k.marks (ackOf k Op.wrAck 0) s

/-- A remote read reaches a pan store (R166). -/
def panStoreRead (p a : Nat) (k : Packet) (s : State) : State :=
  let bs := (s.banksOf p a k.bytes).map fun b => s.bankMode p b
  if bs.contains .asleep || bs.contains .filling then
    respond (meshX p) (meshY p) k Op.rdData Cause.bankAsleep [] [] (recordReject p k.src a Cause.bankAsleep s)
  else enqueue p 0xD a k.bytes none [] (ackOf k Op.rdData k.bytes) s

/-- A pan's own haul channel writes its store through its port; a rejection counts (R166, R167 step 2, R171). -/
def haulStoreWrite (p ch a : Nat) (k : Packet) (s : State) : State :=
  let bs := (s.banksOf p a k.bytes).map fun b => s.bankMode p b
  if bs.all (· == .awake) then enqueue p (9 + ch) a k.bytes (some k.data) k.marks (ackOf k Op.wrAck 0) s
  else respond (meshX p) (meshY p) k Op.wrAck Cause.bankAsleep [] [] (s.bumpPan p PanCtr.asleepReject 1)

/-- A pan's own haul channel reads its store through its port. -/
def haulStoreRead (p ch a : Nat) (k : Packet) (s : State) : State :=
  let bs := (s.banksOf p a k.bytes).map fun b => s.bankMode p b
  if bs.contains .asleep || bs.contains .filling then
    respond (meshX p) (meshY p) k Op.rdData Cause.bankAsleep [] [] (s.bumpPan p PanCtr.asleepReject 1)
  else enqueue p (9 + ch) a k.bytes none [] (ackOf k Op.rdData k.bytes) s

/-! ### Serving narrow requests (R146, R147, R150) -/

/-- The older of two requests; of equal age, the lower port code. -/
def narrowBefore (a b : Narrow) : Bool := decide (a.since < b.since) || (a.since == b.since && decide (a.port < b.port))

/-- A 0xD write takes its turn among the admitted writes (R165: the sluice performs them in the order of admission); every other
request is in turn. -/
def inTurn (l : List Narrow) (r : Narrow) : Bool :=
  !(r.port == 0xD && r.write.isSome) || (l.find? fun o => o.port == 0xD && o.write.isSome) == some r

/-- The request a bank serves next (R146). -/
def nextNarrow (bank : Nat) (l : List Narrow) : Option Narrow :=
  (l.filter fun r => r.bank == bank && inTurn l r).foldl (fun o r =>
    match o with | none => some r | some q => if narrowBefore r q then some r else some q) none

/-- A wide access of the cycle `d` from now, made or presented, holds the bank. -/
def wideHolds (p d bank : Nat) (s : State) : Bool :=
  let x := s.pan p
  (wideAt x (x.seq.cycle + d) ++ presentedWide p d s).any fun e => bankOf x.store.swz (64 * e.2) == bank

/-- A wide access of the cycle `d` from now, or a narrow access under way then, holds the bank (R146, R147). -/
def bankHeld (p d bank : Nat) (s : State) : Bool :=
  wideHolds p d bank s || (s.pan p).store.busy.any fun e => e.1 == bank && decide ((s.pan p).seq.cycle + d ≤ e.2)

/-- A write that covers part of a 64-bit word (R147, R153). -/
def partWrite (swz : List Nat) (a n : Nat) : Bool := (partWords swz a n).any fun w => !w.2

/-- The bank can grant a narrow access in the cycle `d` from now: it is free, and for a read-modify-write the two cycles after are free
of wide accesses presented to it (R146, R147). -/
def bankGrants (p d bank : Nat) (rmw : Bool) (s : State) : Bool :=
  !bankHeld p d bank s && (!rmw || (!wideHolds p (d + 1) bank s && !wideHolds p (d + 2) bank s))

/-- A narrow port has an access to make in this cycle already (R142: one unit in a cycle); a clock that runs for the scrub's visit alone
counts no cycles (R160). -/
def portTaken (p port : Nat) (s : State) : Bool :=
  let x := s.pan p
  s.clocked (regionOf p) && match find? x.store.served port with | some c => decide (x.seq.cycle ≤ c) | none => false

/-- A narrow access takes its bank in the cycle `d` from now, and a read-modify-write for two more (R147). -/
def occupy (d bank : Nat) (rmw : Bool) (x : Pan) : Pan :=
  let c := x.seq.cycle
  { x with store := { x.store with
      busy := (x.store.busy.filter fun e => decide (c ≤ e.2)) ++ [(bank, c + d + if rmw then 2 else 0)] } }

/-- A narrow port is taken for this cycle and the `d` cycles after. -/
def takePort (port d : Nat) (x : Pan) : Pan :=
  { x with store := { x.store with served := put port (x.seq.cycle + d) x.store.served } }

/-- The parts of runs of bytes, one for each unit, of those that lie in awake banks; a unit of another bank is answered without the
bank (R169), and accesses to one unit merge (R142). -/
def State.awakeUnits (s : State) (p : Nat) (runs : List (Nat × Nat)) : List (Nat × Nat) :=
  (((runs.flatMap fun r => unitsOf r.1 r.2).filter fun u => s.bankMode p (s.bankAt p u.1) = .awake).foldl
    (fun l u => if l.any fun v => v.1 / 64 == u.1 / 64 then l else l ++ [u]) [])

/-- A port can make the accesses of the runs from this cycle on, one unit in each cycle (R142): its banks would grant them, and no older
request waits for those banks or that port (R146). -/
def State.narrowFree (s : State) (p port : Nat) (runs : List (Nat × Nat)) (write : Bool) : Bool :=
  let x := s.pan p
  !portTaken p port s && !(x.store.narrow.any fun r => r.port == port) &&
  (s.awakeUnits p runs).zipIdx.all fun e =>
    let b := bankOf x.store.swz e.1.1
    bankGrants p e.2 b (write && partWrite x.store.swz e.1.1 e.1.2) s && !(x.store.narrow.any fun r => r.bank == b)

/-- The awake banks of runs of bytes and the port are taken by the narrow accesses to them. -/
def occupyRuns (p port : Nat) (runs : List (Nat × Nat)) (write : Bool) (s : State) : State :=
  let us := s.awakeUnits p runs
  (us.zipIdx.foldl (fun t e =>
    t.modPan p (occupy e.2 (t.bankAt p e.1.1) (write && partWrite (t.pan p).store.swz e.1.1 e.1.2))) s).modPan p
      fun x => if us.isEmpty then x else takePort port (us.length - 1) x

/-- Queue a pan unit's own narrow requests for the awake banks of a run of bytes: reads of `n` bytes, or writes of `data` (R142). -/
def ask (p port a n : Nat) (data : Option (List Byte)) (use : NarrowUse) (s : State) : State :=
  (unitsOf a n).foldl (fun t u =>
    let b := t.bankAt p u.1
    if t.bankMode p b = .awake then
      t.modStore p fun st =>
        { st with narrow := st.narrow ++ [{ port := port, bank := b, addr := u.1, len := u.2
                                            write := data.map fun d => (d.drop (u.1 - a)).take u.2
                                            use := use, since := (t.pan p).seq.cycle }]
                  outstanding := if data.isSome then upd 0 b (fun c => c + 1) st.outstanding else st.outstanding }
    else if data.isSome then t.bumpPan p PanCtr.asleepLocal 1 else t) s

/-- Put bytes into a list at a place. -/
def patch (l : List Byte) (at_ : Nat) (bs : List Byte) : List Byte := l.take at_ ++ bs ++ l.drop (at_ + bs.length)

/-- A unit of an admitted access has been performed: its part of the response, and the response itself after the last
unit (R165, R293). -/
def unitDone (p id : Nat) (r : Narrow) (bs : List Byte) (m : Bool) (s : State) : State :=
  match (s.pan p).store.writes.find? fun w => w.id == id with
  | none => s
  | some w =>
    let ack := if r.write.isNone then
        { w.ack with data := patch w.ack.data (r.addr - w.base) bs
                     marks := setAt w.ack.marks (r.addr / 64 - w.base / 64) m }
      else w.ack
    if w.left ≤ 1 then
      let s1 := s.modStore p fun st => { st with writes := st.writes.filter fun v => v.id != id }
      if ack.op = 0 then s1.modSec fun c => { c with answers := c.answers ++ [.debug (leNat ack.data) (if m then 2 else 0)] }
      else sendBack (meshX p) (meshY p) ack s1
    else s.modStore p fun st =>
      { st with writes := st.writes.map fun v => if v.id = id then { v with ack := ack, left := v.left - 1 } else v }

/-- The lane tag a mask of bytes gives (RLD with IMM[2]). -/
def tagOf (w : Bool) (bs : List Byte) : Nat :=
  let v := leNat bs
  if w then maskOf ((List.range 16).filter fun i => v.testBit (i / 2)) else v % 65536

/-- What RLD loads from the bytes at its element and exponent addresses (R123). -/
def loadedReg (w : Bool) (imm : Nat) (bs xs : List Byte) : VReg :=
  { lanes := intsOf 2 16 bs, tag := if bit imm 2 then tagOf w xs else 0xFFFF
    exponent := if bit imm 3 then some (signed 8 (xs.getD 0 0).toNat) else none }

/-- Bytes an RLD reads at its exponent address (R123). -/
def loadExpBytes (w : Bool) (imm : Nat) : Nat := if bit imm 2 then (if w then 1 else 2) else if bit imm 3 then 1 else 0

/-- An RLD that waited has been served in full (R124): its register can be read two cycles later, and a marked unit stops the pan, now
asynchronously (R137, R158). -/
def finishLoad (p id : Nat) (s : State) : State :=
  match (s.pan p).seq.loads.find? fun l => l.id == id with
  | none => s
  | some l =>
    let (bs, m, s1) := localRead p l.ea 32 s
    let (xs, k, s2) := localRead p l.xa (loadExpBytes l.w l.imm) s1
    let s3 := s2.modSeq p fun q => { q with loads := q.loads.filter fun e => e.id != id }
    if m || k then panFault p PanCode.poison 2 none s3
    else s3.modSeq p fun q => { q with pend := q.pend ++ [{ reg := l.vd, at_ := q.cycle + 2, v := loadedReg l.w l.imm bs xs }] }

/-- What a served request does. Descriptor reads decode their units when the bundle or the reload that waited for them takes them. -/
def serveUse (p : Nat) (r : Narrow) (s : State) : State :=
  let rest := (s.pan p).store.narrow
  match r.use with
  | .reply id =>
    (match r.write with
     | some bs => unitDone p id r [] false (storeWrite p r.addr bs r.marked s)
     | none => let (bs, m, t) := storeRead p r.addr r.len s; unitDone p id r bs m t)
  | .rakeWrite => storeWrite p r.addr (r.write.getD []) r.marked s
  | .sequencer => if rest.any fun o => o.use == r.use then s else s.modSeq p fun q => { q with descServed := true }
  | .reload => if rest.any fun o => o.use == r.use then s else s.modLat p fun l => { l with descServed := true }
  | .rakeLoad id => if rest.any fun o => o.use == r.use then s else finishLoad p id s
  | .scrub => (storeRead p r.addr r.len s).2.2
  | .fixup w => s.modStore p fun st => { st with errs := st.errs.filter fun e => e.word != w }
  | .rewrite w => s.modStore p fun st => { st with errs := st.errs.filter fun e => e.word != w, poison := insertRising w st.poison }

/-- A request leaves the queue to be performed. -/
def takeRequest (r : Narrow) (st : Store) : Store :=
  { st with narrow := st.narrow.erase r
            outstanding := if r.write.isSome then upd 0 r.bank (fun c => c - 1) st.outstanding else st.outstanding }

/-- The sluice accesses that wait are performed in the order of their admission (R165). -/
def settleStore (p : Nat) : Nat → State → State
  | 0, s => s
  | n + 1, s =>
    match (s.pan p).store.narrow.find? fun r => r.port == 0xD with
    | none => s
    | some r => settleStore p n (serveUse p r (s.modStore p (takeRequest r)))

/-- An access through the sluice port that its command performs whole: those admitted before it go first (R165), and it holds its banks
and the port from this cycle on, one unit in a cycle (R142). The cycles in which it waits for a bank pass within the command
(DESIGN CHOICE, log 110). -/
def sluiceAccess (p a n : Nat) (write : Bool) (s : State) : State :=
  occupyRuns p 0xD [(a, n)] write (settleStore p (s.pan p).store.narrow.length s)

/-- A request that its bank grants now: in a region whose clock runs, and for the scrub's port in any (R160). -/
def grantNow (p : Nat) (r : Narrow) (s : State) : Bool :=
  (s.clocked (regionOf p) || r.port == 0xF) && !portTaken p r.port s &&
  bankGrants p 0 r.bank (r.write.isSome && partWrite (s.pan p).store.swz r.addr r.len) s

/-- NARROW_ACCESS (R142, R146, R147): a bank that nothing holds in this cycle serves its oldest narrow request. A read that waited
while its bank drained is served after the bank has gated too, as the unmarked zeros the bank then holds: the manual is silent on
it (DESIGN CHOICE, log 79). -/
def narrowServe (p bank : Nat) (obs : List WordObs) (s : State) : State :=
  let s0 := storeFlips p obs s
  match nextNarrow bank (s0.pan p).store.narrow with
  | none => s0
  | some r =>
    if !grantNow p r s0 then s0
    else
      serveUse p r (s0.modPan p fun x =>
        let y := takePort r.port 0 (occupy 0 bank (r.write.isSome && partWrite x.store.swz r.addr r.len) x)
        { y with store := takeRequest r y.store })

/-- NARROW_ACCESS. -/
def execNarrowAccess (p bank : Nat) (obs : List WordObs) : State → Host.Outcome State Fault Refusal :=
  act (decide (p < 1620) && decide (bank < 32)) (narrowServe p bank obs)

/-- STARVATION (R150): a narrow request of the bank has waited more than 4,096 cycles; the pan stops and the store then
serves it, the read of a stopped unit with no one to take its data. -/
def starve (p bank : Nat) (s : State) : State :=
  let x := s.pan p
  match nextNarrow bank x.store.narrow with
  | none => s
  | some r =>
    if x.seq.cycle ≤ r.since + 4096 then s
    else
      let s1 := s.modStore p fun st => { st with starve := (r.port, bank) }
      let s2 := panFault p PanCode.starvation bank none s1
      let r1 := if r.use.ofWork then { r with use := .scrub } else r
      narrowServe p bank [] ((s2.modLat p fun l => { l with wide := [] }).modStore p fun st =>
        { st with busy := [], served := [], narrow := if st.narrow.contains r1 then st.narrow else r1 :: st.narrow })

def execStarvation (p bank : Nat) : State → Host.Outcome State Fault Refusal :=
  act (decide (p < 1620) && decide (bank < 32)) (starve p bank)

/-- Serve the oldest waiting request of a kind, when its bank would serve it next (R146). -/
def serveKind (p : Nat) (kind : NarrowUse → Bool) (s : State) : State :=
  match (s.pan p).store.narrow.find? fun r => kind r.use with
  | none => s
  | some r => if nextNarrow r.bank (s.pan p).store.narrow = some r then narrowServe p r.bank [] s else s

/-- A correction write-back. -/
def NarrowUse.isFixup : NarrowUse → Bool
  | .fixup _ => true
  | _ => false

/-- A poison rewrite. -/
def NarrowUse.isRewrite : NarrowUse → Bool
  | .rewrite _ => true
  | _ => false

/-- CORRECTION_WRITEBACK (R152): the oldest queued correction is written back, when its bank serves it. -/
def execCorrectionWriteback (p : Nat) : State → Host.Outcome State Fault Refusal :=
  act (decide (p < 1620)) (serveKind p NarrowUse.isFixup)

/-- POISON_REWRITE (R156): the oldest queued word is rewritten with its data and the poison pattern, when its bank serves it. -/
def execPoisonRewrite (p : Nat) : State → Host.Outcome State Fault Refusal :=
  act (decide (p < 1620)) (serveKind p NarrowUse.isRewrite)

/-- CE_TABLE_CLEAR (R154, R193): the table is emptied, which re-arms its records (R456). -/
def execCeTableClear (u : MemUnit) : State → Host.Outcome State Fault Refusal :=
  match u with
  | .pan p => act (decide (p < 1620)) fun s => s.modStore p fun st => { st with ce := [] }
  | .slice i => act (decide (i < 1620)) fun s => s.modSlice i fun x => { x with ce := [] }
  | .channel c => act (decide (c < 96)) fun s => s.modChan c fun x => { x with ce := [] }

/-- OVF_LOG_CLEAR (R67). -/
def execOvfLogClear (p : Nat) : State → Host.Outcome State Fault Refusal :=
  act (decide (p < 1620)) fun s => s.modPan p fun x => { x with ovfLog := [] }

/-! ### Bank sleep (R167, R168, R170) -/

/-- A window's range holds a unit of the bank. Any 32 units of one row index hold every bank, so the first 64 units decide. -/
def windowHolds (swz : List Nat) (bank : Nat) (w : Window) : Bool :=
  (List.range (min 64 (w.len / 64))).any fun i => bankOf swz (w.base + 64 * i) == bank

/-- Step 1 of a bank's sleep (R167): its windows close, it drains, and a WOPEN not yet in force over it is dropped. -/
def beginBankSleep (b now : Nat) (st : Store) : Store :=
  { st with windows := st.windows.filter fun w => !windowHolds st.swz b w.2
            winPend := st.winPend.map fun e =>
              match e.2.2 with
              | some w => if windowHolds st.swz b w then (e.1, e.2.1, none) else e
              | none => e
            banks := put b .draining st.banks, drainSince := put b now st.drainSince }

/-- BANK_SLEEP for one bank. -/
def sleepBank (p : Nat) (s : State) (b : Nat) : State :=
  match s.bankMode p b with
  | .awake => s.modStore p (beginBankSleep b s.now)
  | .filling => s.modStore p fun st => { st with heldSleep := addOnce b st.heldSleep }
  | _ => s

/-- BANK_SLEEP (R167): ignored while the sequencer is RUNNING or WAITING. -/
def bankSleep (p mask : Nat) (s : State) : State :=
  let m := (s.pan p).seq.mode
  if m == .running || m == .waiting then s else (bitList 32 mask).foldl (sleepBank p) s

def execBankSleep (p mask : Nat) : State → Host.Outcome State Fault Refusal := act (decide (p < 1620)) (bankSleep p mask)

/-- The bytes and marks of a bank are lost (R167 step 4). -/
def loseBank (p b : Nat) (s : State) : State :=
  let k := p * 2 ^ 23 + b * 2 ^ 18
  let s1 := { s with storeMem := clearRange k (k + 2 ^ 18) s.storeMem }
  let out (w : Nat) : Bool := decide (w < b * 2 ^ 15) || decide ((b + 1) * 2 ^ 15 ≤ w)
  s1.modStore p fun st =>
    { st with poison := st.poison.filter out, errs := st.errs.filter fun e => out e.word
              narrow := st.narrow.filter fun r => !((r.use.isFixup || r.use.isRewrite) && r.bank == b) }

/-- A bank reaches asleep; a wake written while it drained takes effect now (R168). -/
def bankAsleepNow (p b : Nat) (s : State) : State :=
  (loseBank p b s).modStore p fun st =>
    if st.heldWake.contains b then
      { st with banks := put b .filling st.banks, fillq := st.fillq ++ [b], heldWake := st.heldWake.erase b }
    else { st with banks := put b .asleep st.banks }

/-- BANK_DRAINED (R167 steps 3 and 4): the outstanding-write counter of a draining bank reads zero. -/
def bankDrained (p b : Nat) (s : State) : State :=
  if s.bankMode p b = .draining && look 0 (s.pan p).store.outstanding b = 0 then bankAsleepNow p b s else s

/-- The accesses with a unit left in some of the banks are discarded without a response (R167, R170). The manual discards the
writes and is silent on a queued read of the bank: the model discards it with them (DESIGN CHOICE, log 79). -/
def dropWrites (bs : List Nat) (st : Store) : Store :=
  let ids := (st.narrow.filter fun r => bs.contains r.bank).filterMap fun r => match r.use with | .reply i => some i | _ => none
  let gone (r : Narrow) : Bool := bs.contains r.bank || (match r.use with | .reply i => ids.contains i | _ => false)
  { st with narrow := st.narrow.filter fun r => !gone r
            writes := st.writes.filter fun w => !ids.contains w.id
            outstanding := (st.narrow.filter fun r => gone r && r.write.isSome).foldl
              (fun m r => upd 0 r.bank (fun c => c - 1) m) st.outstanding }

/-- HW_CHECK of a bank's bound (R167): the pan stops whatever its state, and one already FAULTED is reported, so that its region is
fenced all the same. -/
def boundFault (p : Nat) (s : State) : State :=
  if (s.pan p).seq.mode = .faulted then
    report (panRecord p { code := PanCode.hwCheck, cls := panClass PanCode.hwCheck, detail := 8, async := true, slot := 0
                          pc := (s.pan p).seq.pc, tide := s.panNow p } s) s
  else panFault p PanCode.hwCheck 8 none s

/-- BANK_SLEEP_BOUND (R167): 64 µs after step 1 the counter is not zero. -/
def bankSleepBound (p b : Nat) (s : State) : State :=
  let st := (s.pan p).store
  if s.bankMode p b = .draining && decide (look 0 st.outstanding b ≠ 0) && decide (look 0 st.drainSince b + 64000 ≤ s.now) then
    bankAsleepNow p b ((boundFault p s).modStore p (dropWrites [b]))
  else s

/-- BANK_WAKE for one bank (R168). -/
def wakeBank (p : Nat) (s : State) (b : Nat) : State :=
  match s.bankMode p b with
  | .asleep =>
    if s.isSpare p || s.regionDown (regionOf p) then s
    else s.modStore p fun st => { st with banks := put b .filling st.banks, fillq := addOnce b st.fillq }
  | .draining => s.modStore p fun st => { st with heldWake := addOnce b st.heldWake }
  | .filling => s.modStore p fun st => { st with heldSleep := st.heldSleep.erase b }
  | .awake => s

def execBankWake (p mask : Nat) : State → Host.Outcome State Fault Refusal :=
  act (decide (p < 1620)) fun s => (bitList 32 mask).foldl (wakeBank p) s

/-- BANK_FILL_DONE (R159): the bank whose turn it is has been filled with zeros; a held sleep begins now. -/
def bankFillDone (p : Nat) (s : State) : State :=
  match (s.pan p).store.fillq with
  | [] => s
  | b :: rest =>
    let s1 := (loseBank p b s).modStore p fun st => { st with banks := put b .awake st.banks, fillq := rest }
    if (s1.pan p).store.heldSleep.contains b then
      sleepBank p (s1.modStore p fun st => { st with heldSleep := st.heldSleep.erase b }) b
    else s1

def execBankFillDone (p : Nat) : State → Host.Outcome State Fault Refusal := act (decide (p < 1620)) (bankFillDone p)

/-- A region's stores begin their fill, with all windows closed (R159, R170). -/
def beginStoreFill (p : Nat) (s : State) : State :=
  let k := p * 2 ^ 23
  { s with storeMem := clearRange k (k + 2 ^ 23) s.storeMem }.modStore p fun st =>
    { st with fillBusy := true, banks := [], windows := [], winPend := [], heldSleep := [], heldWake := [], fillq := []
              narrow := [], writes := [], outstanding := [], poison := [], errs := [], busy := [], served := [] }

/-- Gating a region ends what its banks had begun (R170): the outstanding writes are discarded and the contents lost. -/
def gateStore (p : Nat) (s : State) : State :=
  (beginStoreFill p s).modStore p fun st => { st with fillBusy := false }

/-- The scrub's read of a unit is a port 0xF request (R160): read at once when its bank is free, and queued otherwise. -/
def scrubUnit (p u : Nat) (s : State) : State :=
  let b := s.bankAt p (64 * u)
  let r : Narrow := { port := 0xF, bank := b, addr := 64 * u, len := 64, write := none, use := .scrub, since := (s.pan p).seq.cycle }
  if bankGrants p 0 b false s && !portTaken p 0xF s && !((s.pan p).store.narrow.any fun o => o.bank == b || o.port == 0xF) then
    serveUse p r (s.modPan p fun x => takePort 0xF 0 (occupy 0 b false x))
  else s.modStore p fun st => { st with narrow := st.narrow ++ [r] }

/-- PATROL_SCRUB (R160): 655 ms of tide count after the last visit one unit is read, unless its bank sleeps or a fill runs, and the
position moves on; a unit skipped uses its visit, where the manual does not say whether the next follows at once (DESIGN CHOICE,
log 108). -/
def patrolScrub (p : Nat) (obs : List WordObs) (s : State) : State :=
  let s0 := storeFlips p obs s
  let st := (s0.pan p).store
  if s.now < st.scrubAt + 655000000 then s0
  else
    let u := st.scrubPos
    let m := s0.bankMode p (s0.bankAt p (64 * u))
    let s1 := if m = .awake || m = .draining then scrubUnit p u s0 else s0
    s1.modStore p fun st =>
      if u = 131071 then { st with scrubPos := 0, scrubPass := satCount st.scrubPass 1, scrubAt := s.now }
      else { st with scrubPos := u + 1, scrubAt := s.now }

def execPatrolScrub (p : Nat) (obs : List WordObs) : State → Host.Outcome State Fault Refusal :=
  act (decide (p < 1620)) (patrolScrub p obs)

/-- WIN_CLOSE (R163): the named windows close. -/
def winClose (p mask : Nat) (s : State) : State :=
  s.modStore p fun st => { st with windows := st.windows.filter fun w => !bit (mask % 65536) w.1 }

def execWinClose (p mask : Nat) : State → Host.Outcome State Fault Refusal := act (decide (p < 1620)) (winClose p mask)

end Sys2Proof.Machine
end

