-- ==== Sys2Proof/Machine/Haul.lean ====
section
/-! DEFINITION. Haul engines (chapter 7): starting, reading, writing, pausing, completing and stopping a channel, and the
commands of that chapter. -/

namespace Sys2Proof.Machine
open Sys2Proof

def Haul.srcHost (h : Haul) : Bool := bit h.ctrl 24
def Haul.dstHost (h : Haul) : Bool := bit h.ctrl 25
def Haul.dstFixed (h : Haul) : Bool := bit h.ctrl 23
def Haul.srcFixed (h : Haul) : Bool := bit h.ctrl 22
def Haul.noteKind (h : Haul) : Nat := bits h.ctrl 21 20
def Haul.noteIdx (h : Haul) : Nat := bits h.ctrl 7 0

/-- An end in control space (R208). -/
def isControlEnd (host : Bool) (a : Nat) : Bool := !host && addrSpace a == 3

/-- An end that breaks R207 or R208. -/
def endBroken (fixed host : Bool) (a count : Nat) : Bool :=
  (fixed && (decide (a % 64 ≠ 0) || decide (count % 64 ≠ 0))) ||
  (isControlEnd host a && (decide (a % 4 ≠ 0) || decide (count % 4 ≠ 0)))

/-- The check at START (R209): CAUSE, SIDE and FAIL_ADDR of the first condition that holds. -/
def haulCheck (isPan : Bool) (h : Haul) : Option (Nat × Nat × Nat) :=
  let none64 := 2 ^ 64 - 1
  if endBroken h.srcFixed h.srcHost h.src h.count then some (Cause.cfg, 0, h.src)
  else if endBroken h.dstFixed h.dstHost h.dst h.count then some (Cause.cfg, 1, h.dst)
  else if isPan && h.srcHost then some (Cause.cfg, 0, h.src)
  else if isPan && h.dstHost then some (Cause.cfg, 1, h.dst)
  else if h.noteKind = 3 then some (Cause.cfg, 0, none64)
  else if h.noteKind = 2 && !isPan then some (Cause.cfg, 0, none64)
  else if h.noteKind = 1 && !isPan && decide (h.noteIdx < 16) then some (Cause.cfg, 0, none64)
  else if isPan && decide (15 < h.noteIdx) then some (Cause.cfg, 0, none64)
  else if !h.srcHost && bit h.src 63 then some (Cause.addr, 0, h.src)
  else if !h.dstHost && bit h.dst 63 then some (Cause.addr, 1, h.dst)
  else none

def haulIsPan : HaulId → Bool
  | .pan _ _ => true
  | .cc _ => false

/-- Units a channel may have outstanding in each direction (R214). -/
def haulLimit (c : HaulId) : Nat := if (haulIsPan c) then 64 else 128

/-- The router a channel's packets enter at. -/
def haulRouter : HaulId → Nat × Nat
  | .pan p _ => (meshX p, meshY p)
  | .cc _ => controlRouter

/-- The bytes of the transfer that share a source access with offset o: how many are read together (R207, R208, R210). -/
def readSpan (h : Haul) (o : Nat) : Nat :=
  let left := h.count - o
  if h.srcHost then
    if h.srcFixed then min left 64 else min left (min 4096 (4096 - (h.src + o) % 4096))
  else if isControlEnd false h.src then min left 4
  else if h.srcFixed then min left 64
  else min left (64 - (h.src + o) % 64)

/-- The source address of offset o (R207). -/
def srcAt (h : Haul) (o : Nat) : Nat :=
  if h.srcFixed then h.src + (if isControlEnd h.srcHost h.src then o % 64 else 0) else h.src + o
/-- The destination address of offset o (R207). -/
def dstAt (h : Haul) (o : Nat) : Nat := if h.dstFixed then h.dst + o % 64 else h.dst + o

/-- The pan store byte address of the channel's own pan that an address names, if it does (R142, R166). -/
def ownStore (c : HaulId) (s : State) (a : Nat) : Option (Nat × Nat) :=
  match c with
  | .cc _ => none
  | .pan p _ =>
    if s.isOwn a && addrSpace a == 0 then
      match panForm (addrOffset a) with
      | .direct l b => if s.panPos l = some p then some (p, b) else none
      | _ => none
    else none

/-- The number of a channel within its owner. -/
def haulChannel : HaulId → Nat
  | .pan _ c => c
  | .cc c => c

/-- A request enters at a router; a write to the group or reduction form leaves as its own operation (R243, R309). -/
def issueFrom (r : Nat × Nat) (k : Packet) (s : State) : State :=
  if k.op != Op.wr || addrSpace k.addr != 0 || bit k.addr 63 then sendFrom r.1 r.2 k s
  else match panForm (addrOffset k.addr), s.isOwn k.addr with
    | .group g _, true =>
      let e : Group := look {} s.net.groups g
      let k1 := { k with sgx := r.1, sgy := r.2 }
      if !e.valid then respond r.1 r.2 k1 Op.wrAck Cause.addr [] [] s
      else inject r.1 r.2 0 0 { k1 with op := if e.bus then Op.busWr else Op.mcWr } s
    | .reduction _ _ _, _ => sendFrom r.1 r.2 { k with op := Op.reduce } s
    | _, _ => sendFrom r.1 r.2 k s

/-- Issue one request of a channel: it is entered among those without a response (R222) and sent on its way. -/
def haulIssue (c : HaulId) (k : Packet) (off len : Nat) (write : Bool) (s : State) : State :=
  let src := s.haulSrc c
  let tag := s.freeTag src
  let k1 := { k with src := src, tag := tag, sgx := (haulRouter c).1, sgy := (haulRouter c).2 }
  let s1 := addOut { src := src, tag := tag, who := .haul c, addr := k.addr, len := len, off := off
                     write := write, issued := s.now } s
  match ownStore c s k.addr with
  | some (p, b) =>
    if b + k.bytes > 2 ^ 23 then
      respond (haulRouter c).1 (haulRouter c).2 k1 (if write then Op.wrAck else Op.rdData) Cause.addr [] [] s1
    else if write then haulStoreWrite p (haulChannel c) b k1 s1 else haulStoreRead p (haulChannel c) b k1 s1
  | none => issueFrom (haulRouter c) k1 s1

/-- Units an access counts for in READ_UNIT_COUNT or WRITE_UNIT_COUNT: those it is the first access to (R202). -/
def unitsNew (control : Bool) (a o len : Nat) : Nat :=
  if control then (if o = 0 ∨ a % 64 = 0 then 1 else 0) else (a % 64 + len + 63) / 64

/-- Units a source access keeps outstanding (R214). -/
def readUnitsOf (a len : Nat) : Nat := max 1 ((a % 64 + len + 63) / 64)

/-- Non-posted requests to the host that are out: the reads of the control-complex channels and their flushes, those that were given up
among them until their completion comes (R422). -/
def State.hostReads (s : State) : Nat := (s.outs.filter fun o => o.host).length

/-- Issue reads up to the channel's limit (R210, R214), and to the host up to the device's (R422). -/
def haulReads (c : HaulId) : Nat → State → State
  | 0, s => s
  | n + 1, s =>
    let h := s.haul c
    let o := h.readPos
    let len := readSpan h o
    let a := srcAt h o
    let units := readUnitsOf a len
    if h.mode != .running || decide (h.count ≤ h.readPos) || decide (haulLimit c < h.unread + units) || (h.srcHost && decide (1024 ≤ s.hostReads)) then s
    else
      let s1 := s.modHaul c fun h =>
        { h with readPos := h.readPos + len, unread := h.unread + units
                 readUnits := satCount h.readUnits (unitsNew (isControlEnd h.srcHost h.src) a o len) }
      if h.srcHost then
        let src := s.haulSrc c
        haulReads c n (addOut { src := src, tag := s1.freeTag src, who := .haul c, addr := a, len := len
                                off := o, write := false, issued := s.now, host := true } s1)
      else
        let whole := !(isControlEnd false h.src)
        haulReads c n (haulIssue c { op := Op.rd, vc := 1, addr := if whole then a / 64 * 64 else a
                                     bytes := if whole then 64 else 4 } o len false s1)

/-- The source bytes held that continue the destination from `pos`, each with its unit's mark (R211, R212). -/
def runFrom : Nat → Nat → List (Nat × List Byte × Bool) → List (Byte × Bool)
  | 0, _, _ => []
  | f + 1, pos, buf =>
    match buf.find? fun e => decide (e.1 ≤ pos) && decide (pos < e.1 + e.2.1.length) with
    | none => []
    | some e => ((e.2.1.drop (pos - e.1)).map fun b => (b, e.2.2)) ++ runFrom f (e.1 + e.2.1.length) buf

/-- The bytes of the next destination access from offset o. -/
def writeSpan (h : Haul) (o : Nat) : Nat :=
  let left := h.count - o
  if isControlEnd h.dstHost h.dst then min left 4
  else if h.dstFixed then min left 64
  else min left (64 - (h.dst + o) % 64)

/-- The buffered source pieces that reach beyond an offset. -/
def trimBuffer (pos : Nat) (b : List (Nat × List Byte × Bool)) : List (Nat × List Byte × Bool) :=
  b.filter fun e => decide (pos < e.1 + e.2.1.length)

/-- A channel's registers at the end of a transfer or pause: advanced by the bytes written (R218). -/
def settleRegs (h : Haul) : Haul :=
  { h with src := if h.srcFixed then h.src else h.src + h.writePos, dst := if h.dstFixed then h.dst else h.dst + h.writePos
           count := h.count - h.writePos, readPos := 0, writePos := 0, buffer := [], unread := 0, unacked := 0, flushing := false }

/-- A failure of a transfer (R220): the one with the lowest offset is kept, and the channel stops. -/
def haulFailAt (off side cause addr : Nat) (h : Haul) : Haul :=
  if !(h.mode == .running || h.mode == .pausing || h.mode == .stopping) then h else
  let lower := match h.failOff with | some o => decide (off < o) | none => true
  let h1 := if lower then { h with failOff := some off, side := side, cause := cause, failAddr := addr } else h
  if h.mode == .running || h.mode == .pausing then { h1 with mode := .stopping, buffer := [] } else h1

/-- Whether a mark would reach host memory, and otherwise the write of one destination access (R211 to R213). -/
def haulWriteOne (c : HaulId) (h : Haul) (o len : Nat) (run : List (Byte × Bool)) (s : State) : State :=
  let bs := (run.take len).map (·.1)
  let mark := (run.take len).any (·.2)
  let adv := fun (t : State) => t.modHaul c fun h =>
    { h with writePos := o + len, buffer := trimBuffer (o + len) h.buffer, writeUnits := satCount h.writeUnits (unitsNew (isControlEnd h.dstHost h.dst) (dstAt h o) o len) }
  let a := dstAt h o
  if h.dstHost then
    if mark then
      report { type := RecType.haulStop, cls := 2, code := Cause.poisonToHost, unitCls := UnitCls.domain, unitIdx := 132
               addr := a, detail := 2 ^ 16 + (haulChannel c)
               jobs := match h.cmd with
                 | some t => (match s.hif.journal.find? fun j => j.tag == t with
                              | some j => if j.job < 16 then 2 ^ j.job else 0 | none => 0)
                 | none => 0 }
        (s.modHaul c (haulFailAt o 1 Cause.poisonToHost a))
    else adv { s with hostMem := writeBytes s.hostMem a bs }
  else
    haulIssue c { op := Op.wr, vc := 1, addr := a, bytes := len, data := bs, marks := [mark] } o len true
      ((adv s).modHaul c fun h => { h with unacked := h.unacked + 1 })

/-- Issue the writes whose source bytes have returned (R211, R214, R218). -/
def haulWrites (c : HaulId) : Nat → State → State
  | 0, s => s
  | n + 1, s =>
    let h := s.haul c
    if !(h.mode == .running || h.mode == .pausing) || decide ((haulLimit c) ≤ h.unacked) then s
    else
      let o := h.writePos
      let run := runFrom (h.buffer.length + 1) o h.buffer
      let want := writeSpan h o
      if want = 0 || run.isEmpty then s
      else if want ≤ run.length then haulWrites c n (haulWriteOne c h o want run s)
      else if h.mode == .pausing && h.unread = 0 then
        -- control space takes whole 4-byte accesses alone (R208): the bytes short of one are read again on resumption
        if isControlEnd h.dstHost h.dst then s.modHaul c fun h => { h with buffer := [] }
        else haulWrites c n (haulWriteOne c h o run.length run s)
      else s

/-- Enter done: COUNT reaches 0 with every write acknowledged, and the notify goes out (R217). A TRANSFER's completion
entry follows (R439). -/
def haulDone (c : HaulId) (s : State) : State :=
  let h := s.haul c
  let s1 := s.modHaul c fun h => { settleRegs h with mode := .done, cmd := none }
  let s2 := match c, h.noteKind with
    | .pan p _, 1 => semAdd p (h.noteIdx % 16) 1 s1
    | .cc _, 1 => signalVector h.noteIdx s1
    | .pan p _, 2 =>
      let a := (look 0 (s.pan p).seq.ntt (h.noteIdx % 16) : W64).toNat
      sendFrom (meshX p) (meshY p) { op := Op.urgWr, vc := 0, addr := a, src := s.haulSrc c, bytes := 4, data := leBytes 1 4 } s1
    | _, _ => s1
  match h.cmd with
  | none => s2
  | some t => match s.hif.journal.find? fun j => j.tag == t with
    | some j => finishTag t (commandEntry t 0x14 j.job 0 0 []) s2
    | none => s2

/-- HAUL_STOP's class as R336 directs: 3 replays the share, 6 ends the job. An ADDR answer about another device's address is
the answer of R289 (DEDUCED, log 20). -/
def haulStopClass (cause : Nat) (remote : Bool) : Nat :=
  if cause = Cause.bankAsleep ∨ cause = Cause.sliceFailed ∨ cause = Cause.timeout then 3
  else if cause = Cause.addr && remote then 3
  else if cause = Cause.poisonToHost then 2 else 6

/-- The requests of a channel. -/
def Outst.ofHaul (c : HaulId) (o : Outst) : Bool :=
  match o.who with | .haul d => d == c | .haulFlush d => d == c | _ => false

/-- Where the remainder of a failed transfer begins (R220): at the first byte of the unit of the destination, or of the source, that
holds the earliest failing access, but not past the bytes written. -/
def remainderAt (h : Haul) : Nat :=
  let o := h.failOff.getD h.writePos
  let (fixed, a) := if h.side = 1 then (h.dstFixed, h.dst) else (h.srcFixed, h.src)
  min (if fixed then o / 64 * 64 else o - (a + o) % 64) h.writePos

/-- Enter error (R220, R223): the registers describe the remainder from the earliest failure, and reads
still unanswered are given up, so that no late data enters a retry. A TRANSFER stopped by a marked unit keeps its command while
Hakar fetches the unit again (R340). -/
def haulError (c : HaulId) (s0 : State) : State :=
  let s := expire (Outst.ofHaul c) s0
  let h := s.haul c
  let pos := remainderAt h
  let s1 := s.modHaul c fun h =>
    { settleRegs { h with writePos := pos } with
      mode := .error, failOff := none, errors := satCount h.errors 1
      cmd := if h.cause = Cause.poisonToHost then h.cmd else none }
  let s2 := match c with
    | .pan p ch =>
      report { type := RecType.haulStop, cls := haulStopClass h.cause (!s.isOwn h.failAddr), code := h.cause, unitCls := UnitCls.pan, unitIdx := p
               addr := h.failAddr, detail := field h.side 1 16 + ch, jobs := s.jobMask (regionOf p), src := some (s.haulSrc c) } s1
    | .cc _ => s1
  match (if h.cause = Cause.poisonToHost then none else h.cmd) with
  | none => s2
  | some t => match s.hif.journal.find? fun j => j.tag == t with
    | some j => finishTag t (commandEntry t 0x14 j.job Status.haul h.cause (words64 h.failAddr ++ [h.count - pos])) s2
    | none => s2

/-- Whether a write of the channel has no response yet. -/
def State.haulWaits (s : State) (c : HaulId) : Bool := s.outs.any fun o => o.who == .haul c && o.write

/-- The flush read of a host destination (R216): a zero-length read to the last host address written, out like any request, as soon as the
device may have one more non-posted request out (R422). -/
def haulFlush (c : HaulId) (s : State) : State :=
  let h := s.haul c
  let src := s.haulSrc c
  if 1024 ≤ s.hostReads then s
  else
    addOut { src := src, tag := s.freeTag src, who := .haulFlush c, addr := dstAt h (h.writePos - 1), len := 0, off := h.writePos - 1
             write := false, issued := s.now, host := true } (s.modHaul c fun h => { h with flushing := true })

/-- What a channel does when nothing more can be issued: done, paused, or error (R216, R218, R220). -/
def haulSettle (c : HaulId) (s : State) : State :=
  let h := s.haul c
  match h.mode with
  | .running =>
    if h.count ≤ h.writePos && h.unacked = 0 && !h.flushing then
      (if h.dstHost && decide (0 < h.count) then haulFlush c s else haulDone c s)
    else s
  | .pausing =>
    if h.unread = 0 && h.unacked = 0 && h.buffer.isEmpty && !h.flushing then
      if h.dstHost && decide (0 < h.writePos) then haulFlush c s
      else if h.count ≤ h.writePos then haulDone c s
      else s.modHaul c fun h => { settleRegs h with mode := .paused }
    else s
  | .stopping => if s.haulWaits c || h.flushing then s else haulError c s
  | _ => s

/-- How many destination accesses a channel's buffered bytes can make: none writes less than 4 bytes but the transfer's ends. -/
def bufferedWrites (h : Haul) : Nat := sumNat (h.buffer.map fun e => e.2.1.length / 4 + 1) + 2

/-- Let a channel go on: reads, writes, then its state (R214). -/
def haulRun (c : HaulId) (s : State) : State :=
  let s1 := haulReads c 128 s
  haulSettle c (haulWrites c (bufferedWrites (s1.haul c)) s1)

/-- START (R204, R209, R217); whatever an earlier transfer still awaits is given up. -/
def haulStart (c : HaulId) (s0 : State) : State :=
  let h := s0.haul c
  let s := expire (Outst.ofHaul c) s0
  if !(h.mode == .idle || h.mode == .paused || h.mode == .done || h.mode == .error) then s0
  else
    let h0 := { h with cause := 0, side := 0, failAddr := 0, failOff := none, readPos := 0, writePos := 0, buffer := []
                       unread := 0, unacked := 0, flushing := false }
    match haulCheck (haulIsPan c) h0 with
    | some (cause, side, addr) =>
      haulError c (s.modHaul c fun _ => { h0 with mode := .stopping, cause := cause, side := side, failAddr := addr, failOff := some 0 })
    | none =>
      let s1 := s.modHaul c fun _ => { h0 with mode := .running }
      if h0.count = 0 then haulDone c s1 else haulRun c s1

/-- The lowest idle channel of 1 to 13 (R442). -/
def State.freeChannel (s : State) : Option Nat :=
  ((List.range 13).map (· + 1)).find? fun c =>
    let h := s.haul (.cc c)
    h.cmd.isNone && (h.mode == .idle || h.mode == .done || h.mode == .error || h.mode == .paused)

/-- TRANSFER commands that waited take the channels that have become idle (R442). -/
def startWaiting : Nat → State → State
  | 0, s => s
  | n + 1, s =>
    match s.hif.transfers, s.freeChannel with
    | t :: ts, some c =>
      let ctrl := field t.modes 4 22 + (if t.vector = 0 then 0 else 2 ^ 20 + t.vector % 256)
      startWaiting n (haulStart (.cc c) ((s.modHif fun h => { h with transfers := ts }).modHaul (.cc c) fun h =>
        { h with src := t.src, dst := t.dst, count := t.count, ctrl := ctrl, cmd := some t.tag }))
    | _, _ => s

/-- A channel with an end in host memory is running or pausing. -/
def State.hostBusy (s : State) (c : HaulId) : Bool :=
  let h := s.haul c
  (h.mode == .running || h.mode == .pausing) && (h.srcHost || h.dstHost)

/-- Channels that R422 kept from host memory go on as far as they may. -/
def hostReadsGoOn (s : State) : State :=
  foldState (List.range 32) (fun t ch => if t.hostBusy (.cc ch) then haulRun (.cc ch) t else t) s

/-- After a channel may have become free, or a request to the host has ended. -/
def haulAfter (s : State) : State := let t := hostReadsGoOn s; startWaiting t.hif.transfers.length t

/-- The operand names a haul channel the device has (R200). -/
def haulOk : HaulId → Bool
  | .pan p c => decide (p < 1620) && decide (c < 4)
  | .cc c => decide (c < 32)

/-- START. -/
def execStart (c : HaulId) : State → Host.Outcome State Fault Refusal := act (haulOk c) fun s => haulAfter (haulStart c s)

/-- PAUSE (R204, R218, R219). -/
def execPause (c : HaulId) : State → Host.Outcome State Fault Refusal :=
  act (haulOk c) fun s =>
    let h := s.haul c
    if h.mode != .running then s
    else haulAfter (haulSettle c (haulWrites c (bufferedWrites h) (s.modHaul c fun h => { h with mode := .pausing })))

/-- A response of this source and tag is awaited. -/
def State.out? (s : State) (src tag : Nat) : Option Outst := s.outs.find? fun o => o.src == src && o.tag == tag

/-- The response of a request has come: it is awaited no longer. -/
def dropOut (src tag : Nat) (s : State) : State := { s with outs := s.outs.filter fun o => !(o.src == src && o.tag == tag) }

/-- A request has had no response in its time and is given up: a late response is discarded (R222). -/
def expireOut (src tag : Nat) (s : State) : State := expire (fun o => o.src == src && o.tag == tag) s

/-- A failure of one of a channel's accesses (R220, R222). -/
def haulFailed (c : HaulId) (o : Outst) (cause : Nat) (s : State) : State :=
  haulSettle c (s.modHaul c fun h => haulFailAt o.off (if o.write then 1 else 0) cause o.addr
    { h with unread := if o.write then h.unread else h.unread - readUnitsOf o.addr o.len
             unacked := if o.write then h.unacked - 1 else h.unacked })

/-- The flush read of a host destination fails or has no response (R216, R222): it is an access of the transfer like any other, and
names the destination side. -/
def flushFailed (c : HaulId) (o : Outst) (cause : Nat) (s : State) : State :=
  haulSettle c (s.modHaul c fun h => haulFailAt o.off 1 cause o.addr { h with flushing := false })

/-- Source bytes return to a channel (R211, R212, R218). -/
def haulReadBack (c : HaulId) (o : Outst) (k : Packet) (s : State) : State :=
  let whole := decide (o.len ≤ k.bytes) && decide (k.bytes ≠ o.len)
  let bs := if whole then (k.data.drop (o.addr % 64 + ((srcAt (s.haul c) o.off) - o.addr))).take o.len else k.data.take o.len
  let s1 := s.modHaul c fun h =>
    if h.mode == .running || h.mode == .pausing then
      { h with unread := h.unread - readUnitsOf o.addr o.len, buffer := h.buffer ++ [(o.off, bs, k.marks.any id)] }
    else { h with unread := h.unread - readUnitsOf o.addr o.len }
  haulRun c s1

/-- A write of a channel is acknowledged (R214, R216). -/
def haulAcked (c : HaulId) (s : State) : State := haulAfter (haulRun c (s.modHaul c fun h => { h with unacked := h.unacked - 1 }))

/-- HAUL_TIMEOUT (R222): no response 1 ms after issue. -/
def execHaulTimeout (src tag : Nat) : State → Host.Outcome State Fault Refusal :=
  act true fun s =>
    match s.out? src tag with
    | some o => match o.who with
      | .haul c => if o.issued + 1000000 ≤ s.now then haulAfter (haulFailed c o Cause.timeout (expireOut src tag s)) else s
      | .haulFlush c => if o.issued + 1000000 ≤ s.now then haulAfter (flushFailed c o Cause.timeout (expireOut src tag s)) else s
      | _ => s
    | none => s

/-- The flush read completed (R216): every host write of the channel is acknowledged. -/
def flushDone (c : HaulId) (s : State) : State :=
  let h := s.haul c
  let s1 := { s.modHaul c fun h => { h with flushing := false } with
    outs := s.outs.filter fun o => match o.who with | .haulFlush d => d != c | _ => true }
  match h.mode with
  | .stopping => haulSettle c s1
  | .running | .pausing => if h.count ≤ h.writePos then haulDone c s1 else s1.modHaul c fun h => { settleRegs h with mode := .paused }
  | _ => s1

/-- HOST_READ_COMPLETION (R210, R212): a host read of a control-complex channel completes, or fails and stops it; a flush read is
one too (R216). -/
def execHostReadCompletion (ch tag : Nat) (good : Bool) (data : List Byte) : State → Host.Outcome State Fault Refusal :=
  act (decide (ch < 32)) fun s =>
    let src := s.haulSrc (.cc ch)
    match s.out? src tag with
    | some o =>
      if o.who = .haulFlush (.cc ch) then
        haulAfter (if good then flushDone (.cc ch) s else flushFailed (.cc ch) o Cause.hostRead (dropOut src tag s))
      else if o.who = .expired then haulAfter (dropOut src tag s)
      else if o.who = .haul (.cc ch) && !o.write then
        let s1 := dropOut src tag s
        haulAfter (if good then
            haulReadBack (.cc ch) o { bytes := o.len, data := data ++ List.replicate (o.len - data.length) 0 } s1
          else haulFailed (.cc ch) o Cause.hostRead s1)
      else s
    | none => s

/-- HAUL_FLUSH_COMPLETE (R216): the flush read of a host destination completes. -/
def execHaulFlushComplete (ch : Nat) : State → Host.Outcome State Fault Refusal :=
  act (decide (ch < 32)) fun s =>
    let c := HaulId.cc ch
    if !(s.haul c).flushing then s else haulAfter (flushDone c s)

/-- Firmware returns a channel to idle with reset values; the counters keep their counts (R223). -/
def haulIdle (h : Haul) : Haul := { readUnits := h.readUnits, writeUnits := h.writeUnits, errors := h.errors }

/-- HAUL_RESET_IDLE for the four channels of a pan (R223): late read data finds no request, and the router keeps the count of
the writes not yet acknowledged (R339 phase 4). -/
def idleChannels (p : Nat) (s : State) : State :=
  { s.modPan p fun x => { x with haul := x.haul.map fun e => (e.1, haulIdle e.2) } with
    outs := s.outs.filterMap fun o => match o.who with
      | .haul (.pan q _) => if q != p then some o else some { o with who := if o.write then .absorbed p else .expired }
      | _ => some o }

end Sys2Proof.Machine
end

