-- ==== Sys2Proof/Machine/Rake.lean ====
section
/-! DEFINITION. The rake's operations (R123 to R125) on its own registers, and its address generators (R131 to R133). -/

namespace Sys2Proof.Machine
open Sys2Proof

/-! ### Lanes -/

/-- The sixteen I16 lanes of 32 bytes. -/
def lanesOf (bs : List Byte) : List Int := intsOf 2 16 bs

/-- The 32 bytes of a vector register. -/
def vBytes (v : VReg) : List Byte := intBytes 2 v.lanes

/-- The lanes of a register under W: sixteen I16, or eight I32 formed from lane pairs (R123). -/
def vLanes (w : Bool) (v : VReg) : List Int := if w then intsOf 4 8 (vBytes v) else v.lanes

/-- A register from lanes under W. -/
def vMake (w : Bool) (ls : List Int) (tag : Nat) : VReg :=
  { lanes := if w then lanesOf (intBytes 4 ls) else ls, tag := tag }

/-- Lane i is valid (R123). With W the manual keeps both bits of a pair equal; in a register loaded with W = 0 they may differ, and
the model then takes bit 2i and lets a result keep the unequal bits (DESIGN CHOICE, log 80). -/
def laneValid (w : Bool) (tag i : Nat) : Bool := tag.testBit (if w then 2 * i else i)

/-- The width of a lane. -/
def laneBits (w : Bool) : Nat := if w then 32 else 16

/-- Saturate lanes and count those that saturate (R123). -/
def satLanes (w : Bool) (ls : List Int) : List Int × Nat :=
  (ls.map (satInt (laneBits w)), (ls.filter fun x => satInt (laneBits w) x ≠ x).length)

/-- Combine two registers lane by lane. -/
def zipLanes (f : Int → Int → Int) (w : Bool) (a b : VReg) : List Int := List.zipWith f (vLanes w a) (vLanes w b)

/-- Write a result register. -/
def setV (d : Nat) (v : VReg) (q : Seq) : Seq := { q with v := put d v q.v }
def getV (q : Seq) (i : Nat) : VReg := look {} q.v i
def getQ (q : Seq) (i : Nat) : Int := look 0 q.q i
def setQ (i : Nat) (x : Int) (q : Seq) : Seq := { q with q := put i x q.q }

/-- emx as RSSQ, RNVAR and RNPACK take it from Q1. -/
def emxOf (q : Seq) : Int := clampInt (-128) 127 (getQ q 1)

/-- The grain a register holds as 32 BS8 elements. -/
def grainOf (v : VReg) : List Int := bs8Elems (vBytes v)

/-- Lanes i of group g under W (R123). -/
def groupLanes (w : Bool) (g : Nat) : List Nat := if w then [2 * g, 2 * g + 1] else [4 * g, 4 * g + 1, 4 * g + 2, 4 * g + 3]

/-- The exponent of the grain in a register; a register no grain load has written has none, and its value is free (log 14). -/
def expOfV (v : VReg) (draws : Nat) : Int := v.exponent.getD (signed 8 (Config.freeValue draws))

/-- What a rake operation on registers alone gives: the sequencer, and its RAKE_SAT_COUNT increments; or the DETAIL of
RAKE_ROW (R125). `draws` serves an exponent nothing has loaded, and a quotient the register cannot hold. -/
def rakeRegs (r : RakeOp) (draws : Nat) (q : Seq) : Except Nat (Seq × Nat) :=
  let a := getV q r.va
  let b := getV q r.vb
  let tag := a.tag &&& b.tag
  let w := r.w
  -- a row without a valid lane counts nothing (R61): while the row that the latest RQSET with IMM 1 began has shown lanes and no valid
  -- one, the saturating operations count nothing (DEDUCED, log 81)
  let count (n : Nat) : Nat := if q.rowNone then 0 else n
  let sat (ls : List Int) : Except Nat (Seq × Nat) :=
    let x := satLanes w ls; .ok (setV r.vd (vMake w x.1 tag) q, count x.2)
  match r.rop with
  | 0x03 => sat (zipLanes (· + ·) w a b)
  | 0x04 => sat (zipLanes (· - ·) w a b)
  | 0x05 => .ok (setV r.vd (vMake w (zipLanes min w a b) tag) q, 0)
  | 0x06 => .ok (setV r.vd (vMake w (zipLanes max w a b) tag) q, 0)
  | 0x07 => sat (zipLanes (fun x y => align (x * y) r.simm) w a b)
  | 0x08 =>
    let sh (x y : Int) : Int := x / 2 ^ (clampInt 0 ((laneBits w : Int) - 1) y).toNat
    .ok (setV r.vd (vMake w (zipLanes sh w a b) tag) q, 0)
  | 0x09 =>
    let n := if w then 8 else 16
    let x := satLanes w (List.replicate n (getQ q 0))
    .ok (setV r.vd (vMake w x.1 0xFFFF) q, count x.2)
  | 0x0A =>
    let x : Int := if bit r.imm 0 then -(2 ^ 63) else 0
    .ok ({ q with q := [(0, x), (1, x), (2, x), (3, x)], rowLanes := 0, rowAny := q.rowAny && !bit r.imm 0
                  rowNone := q.rowNone && !bit r.imm 0 }, 0)
  | 0x0B =>
    let lanes := vLanes w a
    let n := q.rowLanes + lanes.length
    if 65536 < n then .error 0
    else
      let one (g : Nat) : Int × Bool :=
        let vs := ((groupLanes w g).filter fun i => laneValid w a.tag i).map fun i => lanes.getD i 0
        if bit r.imm 0 then (vs.foldl max (getQ q g), false) else sat64 (getQ q g + sumInt vs)
      let rs := (List.range 4).map one
      let any := q.rowAny || (List.range lanes.length).any fun i => laneValid w a.tag i
      .ok ({ (rs.zipIdx.foldl (fun q e => setQ e.2 e.1.1 q) q) with rowLanes := n, rowAny := any, rowNone := !any }, (rs.filter (·.2)).length)
  | 0x0C =>
    let qs := (List.range 4).map (getQ q)
    let x : Int × Bool := if bit r.imm 0 then (qs.foldl max (getQ q 0), false) else sat64 (sumInt qs)
    .ok ({ q with q := [(0, x.1), (1, x.1), (2, x.1), (3, x.1)] }, if x.2 then 4 else 0)
  | 0x0D =>
    -- a quotient of 2^63 does not fit the register: the manual states no value (log 14)
    let x : Int := if getQ q 0 ≤ 0 then 0 else 2 ^ r.imm / getQ q 0
    .ok (setQ 0 (if x < 2 ^ 63 then x else signed 64 (Config.freeValue draws)) q, 0)
  | 0x0E =>
    let ls := (vLanes w a).zipIdx.map fun e => if laneValid w a.tag e.2 then expOf (clampInt 0 32767 e.1) else 0
    .ok (setV r.vd (vMake w ls a.tag) q, 0)
  | 0x0F => .ok (setV r.vd (vMake w ((vLanes w a).map sigmoidOf) a.tag) q, 0)
  | 0x11 =>
    let bs := vBytes a
    .ok ({ q with emin := signed 8 (bs.getD 0 0).toNat, emax := signed 8 (bs.getD 1 0).toNat }, 0)
  | 0x12 => .ok (if (grainOf a).any (· ≠ 0) then setQ 1 (max (getQ q 1) (expOfV a draws)) q else q, 0)
  | 0x13 =>
    let n := q.rowLanes + 32
    if 32768 < n then .error 1
    else
      let g := grainOf a
      let sg := sumInt (g.map fun x => x * x)
      let t : Int × Bool := if g.any (· ≠ 0) then alignSat sg (max (2 * (expOfV a draws - emxOf q) + 24) (-24)) else (0, false)
      let x := sat64 (getQ q 0 + t.1)
      .ok ({ setQ 0 x.1 q with rowLanes := n }, if t.2 || x.2 then 1 else 0)
  | 0x14 =>
    let ls := vLanes true a
    let h := ls.getD 0 0
    if h ≤ 0 then .ok (setQ 0 0 q, 0)
    else
      let t := alignSat (h * ls.getD 1 0) (ls.getD 2 0 - 2 * emxOf q + 24)
      let x := sat64 ((getQ q 0 + t.1) * 65536 / h)
      .ok (setQ 0 x.1 q, if t.2 || x.2 then 1 else 0)
  | 0x15 => let x := rsqrt (getQ q 0); .ok (setQ 2 x.2 (setQ 0 x.1 q), 0)
  | _ => .ok (q, 0)

/-- The V registers an operation names, sources and destination (R106). -/
def rakeVs (r : RakeOp) : List Nat :=
  if [0x03, 0x04, 0x05, 0x06, 0x07, 0x08].contains r.rop then [r.vd, r.va, r.vb]
  else if r.rop = 0x0E ∨ r.rop = 0x0F then [r.vd, r.va]
  else if r.rop = 0x01 ∨ r.rop = 0x09 then [r.vd]
  else if [0x02, 0x0B, 0x11, 0x12, 0x13, 0x14].contains r.rop then [r.va]
  else if r.rop = 0x10 then [r.va, r.va + 1]
  else if r.rop = 0x16 then [r.va, r.vb, r.vb + 1]
  else []

/-- The Q registers an operation names, as 16 + index (R106). -/
def rakeQs (r : RakeOp) : List Nat :=
  if r.rop = 0x09 ∨ r.rop = 0x0D then [16]
  else if [0x0A, 0x0B, 0x0C].contains r.rop then [16, 17, 18, 19]
  else if r.rop = 0x12 then [17]
  else if r.rop = 0x13 ∨ r.rop = 0x14 then [16, 17]
  else if r.rop = 0x15 then [16, 18]
  else if r.rop = 0x16 then [16, 17, 18]
  else []

/-- The registers whose results take more than one cycle, with the latency (R123). -/
def rakePending (r : RakeOp) : List (Nat × Nat) :=
  match r.rop with
  | 0x01 => [(r.vd, 2)]
  | 0x07 => [(r.vd, 2)]
  | 0x0E => [(r.vd, 2)]
  | 0x0F => [(r.vd, 2)]
  | 0x0D => [(16, 66)]
  | 0x13 => [(16, 2)]
  | 0x14 => [(16, 66)]
  | 0x15 => [(16, 40), (18, 40)]
  | _ => []

/-! ### Operations on the pan store -/

/-- A slot's fault: its code and DETAIL, and the state with what the access itself counted. -/
structure SlotFault where
  code : Nat
  detail : Nat
  after : State

/-- RLD waits for its bank (R124): its reads are queued at port 0x8, and its register stays pending. -/
def queueLoad (p : Nat) (r : RakeOp) (ea xa xn : Nat) (s : State) : State :=
  let id := (s.pan p).seq.nextLoad
  let s1 := s.modSeq p fun q =>
    { stepAg (r.imm % 4) q with
      nextLoad := id + 1, loads := q.loads ++ [{ id := id, vd := r.vd, w := r.w, imm := r.imm, ag := r.imm % 4, ea := ea, xa := xa }] }
  ask p 0x8 xa xn none (.rakeLoad id) (ask p 0x8 ea 32 none (.rakeLoad id) s1)

/-- RLD (R123, R124): the load is served at once when its banks are free, and otherwise waits in the queue of R146. -/
def rakeLoad (p : Nat) (r : RakeOp) (s : State) : Except SlotFault State :=
  let q := (s.pan p).seq
  let ag := r.imm % 4
  let xn := loadExpBytes r.w r.imm
  match agCheck q ag unitRake 32 xn with
  | some d => .error { code := PanCode.agFault, detail := d, after := s }
  | none =>
    let g := look {} q.ags ag
    let runs := [(g.ecur.toNat, 32), (g.xcur.toNat, xn)]
    if !s.narrowFree p 0x8 runs false then .ok (queueLoad p r g.ecur.toNat g.xcur.toNat xn s)
    else
      let (bs, m, s1) := localRead p g.ecur.toNat 32 (occupyRuns p 0x8 runs false s)
      let (xs, k, s2) := localRead p g.xcur.toNat xn s1
      if m || k then .error { code := PanCode.poison, detail := 2, after := s2 }
      else .ok (s2.modSeq p fun q => setV r.vd (loadedReg r.w r.imm bs xs) (stepAg ag q))

/-- A rake write through port 0x8 (R142): made at once when its banks are free, and otherwise queued with its data (R146). -/
def rakeWrite (p a : Nat) (bs : List Byte) (s : State) : State :=
  let runs := [(a, bs.length)]
  if s.narrowFree p 0x8 runs true then localWrite p a bs false (occupyRuns p 0x8 runs true s)
  else ask p 0x8 a bs.length (some bs) .rakeWrite s

/-- RST (R123). -/
def rakeStore (p : Nat) (r : RakeOp) (s : State) : Except SlotFault State :=
  let q := (s.pan p).seq
  let ag := r.imm % 4
  match agCheck q ag unitRake 32 0 with
  | some d => .error { code := PanCode.agFault, detail := d, after := s }
  | none =>
    let g := look {} q.ags ag
    .ok ((rakeWrite p g.ecur.toNat (vBytes (getV q r.va)) s).modSeq p (stepAg ag))

/-- Count what a converted grain counts (R58). -/
def countDrain (p : Nat) (d : DrainOut) (s : State) : State :=
  ((s.bumpPan p PanCtr.drainSat d.sats).bumpPan p PanCtr.expHigh (if d.high then 1 else 0)).bumpPan p PanCtr.expLow
    (if d.low then 1 else 0)

/-- RPACK and RNPACK (R59, R63, R123): 32 values at a scale become one grain at AG VD[1:0]. -/
def rakePack (p : Nat) (r : RakeOp) (vals : List Int) (scale : Int) (s : State) : Except SlotFault State :=
  let q := (s.pan p).seq
  let ag := r.vd % 4
  let fmt := if bit r.vd 2 then 2 else 1
  match agCheck q ag unitRake (if fmt = 2 then 16 else 32) 1 with
  | some d => .error { code := PanCode.agFault, detail := d, after := s }
  | none =>
    let g := look {} q.ags ag
    let d := drainGrain { fmt := fmt, emin := q.emin, emax := q.emax } scale 0 vals []
    let s1 := rakeWrite p g.ecur.toNat (grainBytes fmt d.elems) s
    let s2 := rakeWrite p g.xcur.toNat [expByte (d.exponent.getD 0)] s1
    .ok ((countDrain p d s2).modSeq p (stepAg ag))

/-- The rake slot of a bundle (R123). IMM of RPACK and RNPACK is read as a 13-bit two's-complement scale, as the manual says for RMSH
alone (DEDUCED, log 82). -/
def rakeEffect (p : Nat) (r : RakeOp) (s : State) : Except SlotFault State :=
  let q := (s.pan p).seq
  match r.rop with
  | 0x01 => rakeLoad p r s
  | 0x02 => rakeStore p r s
  | 0x10 => rakePack p r ((getV q r.va).lanes ++ (getV q (r.va + 1)).lanes) r.simm s
  | 0x16 =>
    let a := getV q r.va
    let gs := (getV q r.vb).lanes ++ (getV q (r.vb + 1)).lanes
    let z := List.zipWith (fun x g => x * g * getQ q 0) (grainOf a) gs
    rakePack p r z (expOfV a s.draws + r.simm + getQ q 2 + 20 - emxOf q) { s with draws := s.draws + 1 }
  | _ =>
    match rakeRegs r s.draws q with
    | .error d => .error { code := PanCode.rakeRow, detail := d, after := s }
    | .ok (q1, n) =>
      -- only RDIV, RXMAX and RSSQ may take a free value
      let s1 : State := if r.rop = 0x0D ∨ r.rop = 0x12 ∨ r.rop = 0x13 then { s with draws := s.draws + 1 } else s
      .ok ((s1.modSeq p fun _ => q1).bumpPan p PanCtr.rakeSat n)

end Sys2Proof.Machine
end

