-- ==== Sys2Proof/Machine/Sequencer.lean ====
section
/-! DEFINITION. The pan sequencer's commands (R99 to R102, R128, R140) and the events of its waits; the issue of bundles is
in Issue.lean. -/

namespace Sys2Proof.Machine
open Sys2Proof

/-- The brine reads of a pan's feeders are awaited no longer (R97). -/
def dropFeeder (p : Nat) (s : State) : State := expire (Outst.ofFeeder p) s

/-- The sequencer as GO sets it up (R100). The manual's table does not list the row lane count, which the model sets to 0 (DESIGN
CHOICE, log 83), and does not say whether a NOTICE from before GO can cover a burst, which the model forgets (DESIGN CHOICE,
log 84). -/
def goSeq (q : Seq) : Seq :=
  { q with mode := .running, pc := q.entry, lcs := [], ags := [], tile := none, tileSeen := false, v := [], q := []
           emin := -128, emax := 127, rowLanes := 0, goCycle := q.cycle, nextIssue := q.cycle, notice := none, lastValid := none
           rowAny := false, rowNone := false, stalledAt := none
           hold := none, holdDone := false, doneShare := none, heldGo := false }

/-- GO from STOPPED or HALTED (R100, R127). -/
def goNow (p : Nat) (s : State) : State :=
  let s1 := dropFeeder p (s.modPan p fun x => let y := discardWork x; { y with seq := goSeq y.seq })
  let q := (s1.pan p).seq
  if q.progLen ≤ q.entry then panFaultOne p PanCode.pcRange (panClass PanCode.pcRange) q.entry none q.entry s1 else s1

/-- GO (R101): ignored in RUNNING, WAITING and FAULTED, in a spare, which is held with its sequencer stopped (R22), and in a region
without power; held while a whole-store fill runs (R159). -/
def go (p : Nat) (s : State) : State :=
  let x := s.pan p
  if s.isSpare p || s.regionDown (regionOf p) then s
  else if x.seq.mode = .stopped || x.seq.mode = .halted then
    if x.store.fillBusy then s.modSeq p fun q => { q with heldGo := true } else goNow p s
  else s

/-- GO. -/
def execGo (p : Nat) : State → Host.Outcome State Fault Refusal := act (decide (p < 1620)) (go p)

/-- STOP (R101, R102): the queues and the lattice state are discarded as by a fault, and no record is written. In STOPPED it has no
effect and in FAULTED it is ignored. -/
def stop (p : Nat) (s : State) : State :=
  let m := (s.pan p).seq.mode
  if m = .running || m = .waiting || m = .halted then
    dropFeeder p (s.modPan p fun x => let y := discardWork x; { y with seq := { y.seq with mode := .stopped } })
  else s

/-- STOP. -/
def execStop (p : Nat) : State → Host.Outcome State Fault Refusal := act (decide (p < 1620)) (stop p)

/-- FAULT_CLEAR (R101, R140): FAULTED to STOPPED, the record kept. -/
def faultClear (p : Nat) (s : State) : State :=
  s.modSeq p fun q => if q.mode = .faulted then { q with mode := .stopped } else q

def execFaultClear (p : Nat) : State → Host.Outcome State Fault Refusal := act (decide (p < 1620)) (faultClear p)

/-- SEM_CLEAR (R140): bit s sets semaphore s to 0. -/
def semClear (p mask : Nat) (s : State) : State :=
  s.modSeq p fun q => { q with sems := (bitList 16 mask).foldl (fun m i => put i 0 m) q.sems }

def execSemClear (p mask : Nat) : State → Host.Outcome State Fault Refusal := act (decide (p < 1620)) (semClear p mask)

/-- SEM_NOTIFY (R128, R140): the low 16 bits of the written value are added. -/
def execSemNotify (p sem n : Nat) : State → Host.Outcome State Fault Refusal :=
  act (decide (p < 1620) && decide (sem < 16)) (semAdd p sem (n % 65536))

/-- WAIT_TIMEOUT (R129): an SWAIT has waited WAIT_LIMIT cycles; its bundle raises the fault from its move slot. -/
def waitTimeout (p : Nat) (s : State) : State :=
  let q := (s.pan p).seq
  match q.mode, q.wait with
  | .waiting, .swait sem _ =>
    if q.waitLimit ≠ 0 && decide (q.waitLimit ≤ q.waited) then panFault p PanCode.waitTimeout sem (some 3) s else s
  | _, _ => s

def execWaitTimeout (p : Nat) : State → Host.Outcome State Fault Refusal := act (decide (p < 1620)) (waitTimeout p)

/-- Every write that a pan's haul channels had issued by number `upTo` is acknowledged; one that was given up after its time limit is
not, until its late response comes (R130, R222, R299, R303). -/
def State.fenceClear (s : State) (p upTo : Nat) : Bool :=
  !s.outs.any fun o => o.write && decide (o.serial ≤ upTo) && (match o.who with
    | .haul (.pan q _) => q == p
    | .expired => o.src == s.haulSrc (.pan p 0)
    | _ => false)

/-- The pans of a region that wait at the chain rendezvous, each with its logical column and tile (R117). -/
def State.rendezvous (s : State) (r : Nat) : List (Nat × Nat × TileCtx) :=
  (s.chainPans r).filterMap fun e =>
    let q := (s.pan e.1).seq
    match q.mode, q.wait with
    | .waiting, .rendezvous t => some (e.1, e.2, t)
    | _, _ => none

/-- Pans of a region stop together, each with its own code and DETAIL; while the region runs a chained schedule, its other logical
pans record CHAIN_PEER for the first of them (R96, R139). -/
def chainFaults (r : Nat) (ws : List (Nat × Nat × Nat)) (s : State) : State :=
  let s1 := foldState ws (fun t e => panFaultOne e.1 e.2.1 (panClass e.2.1) e.2.2 none (t.pan e.1).seq.pc t) s
  match ws with
  | [] => s
  | (p, code, _) :: _ =>
    if s.regionChained r then
      foldState ((regionPans r).filter fun q => !s.isSpare q && !(ws.any fun e => e.1 == q))
        (stopPeer (s.pan p).seq.cycle (panClass code, code, s.logicalCol p)) s1
    else s1

/-- A pan issues an unchained TILE while others of its region wait at the chain rendezvous: the tile-start operations disagree on
chaining, and every pan of the region stops with CHAIN_MISMATCH, its DETAIL that pan's logical column (R95, R117; DEDUCED,
log 46). -/
def chainDisagree (p : Nat) (s : State) : State :=
  chainFaults (regionOf p) ((s.chainPans (regionOf p)).map fun e => (e.1, PanCode.chainMismatch, s.logicalCol p)) s

/-- CHAIN_TIMEOUT (R117): the rendezvous is not complete 4,096 cycles after the first chained TILE; every pan that issued
one stops. -/
def chainTimeout (r : Nat) (s : State) : State :=
  let ws := s.rendezvous r
  if ws.length < 14 && ws.any fun e => decide (4096 ≤ (s.pan e.1).seq.waited) then
    let mask := maskOf (ws.map fun e => e.2.1)
    chainFaults r (ws.map fun e => (e.1, PanCode.chainTimeout, mask)) s
  else s

def execChainTimeout (r : Nat) : State → Host.Outcome State Fault Refusal := act (decide (r < 108)) (chainTimeout r)

/-- STORE_FILL_DONE (R159, R160): the whole-store fill ends, every bank is awake, the scrub restarts, a held sleep begins (R167), and
a held GO is taken. -/
def storeFillDone (p : Nat) (s : State) : State :=
  let x := s.pan p
  if !x.store.fillBusy then s
  else
    let s0 := s.modStore p fun st => { st with fillBusy := false, banks := [], scrubPos := 0, heldSleep := [] }
    let s1 := s0.modStore p fun st => if s.isSpare p then st else x.store.heldSleep.foldl (fun t b => beginBankSleep b s.now t) st
    if x.seq.heldGo then go p (s1.modSeq p fun q => { q with heldGo := false }) else s1

end Sys2Proof.Machine
end

