-- ==== Sys2Proof/Machine/Lattice.lean ====
section
/-! DEFINITION. The feeders, the lattice, the accumulator file and the drain (chapters 3 and 4): what each cycle and each
event does to them. -/

namespace Sys2Proof.Machine
open Sys2Proof

/-! ### Brine reads of the feeders (R113, R512) -/

/-- Issue one brine read of a feeder. -/
def feederRead (p : Nat) (north : Bool) (off : Nat) (addr : Int) (n : Nat) (s : State) : State :=
  let src := mkSrc s.deviceId 0 ((s.logicalPan p).getD 2047)
  let tag := s.freeTag src
  let a := unsigned 64 addr
  let s1 := addOut { src := src, tag := tag, who := .feeder p north, addr := a, len := n, off := off
                     write := false, issued := s.now } s
  sendFrom (meshX p) (meshY p) { op := Op.rd, vc := 1, addr := a, src := src, tag := tag, bytes := n } s1

/-- Change one run, in progress or queued. -/
def modRun (id : Nat) (f : WestRun → WestRun) (x : Pan) : Pan :=
  { x with lat := { x.lat with run := x.lat.run.map fun r => if r.id = id then f r else r }
           seq := { x.seq with feedq := x.seq.feedq.map fun e =>
             match e with | .run r o c => .run (if r.id = id then f r else r) o c | .tend c => .tend c } }

/-- The runs that have entered the feed order, the one in progress first: one enters in the cycle after its bundle's (R109), the cycle
before its feeder may begin it. -/
def enteredRuns (x : Pan) : List WestRun :=
  x.lat.run.toList ++ x.seq.feedq.filterMap fun e => match e with
    | .run r _ c => if c ≤ x.seq.cycle + 1 then some r else none
    | .tend _ => none

/-- Issue the brine reads of the runs in feed order, at most 64 slots ahead of issue (R113). -/
def feedAhead (p : Nat) : Nat → State → State
  | 0, s => s
  | n + 1, s =>
    let x := s.pan p
    let rs := (enteredRuns x).filter (runBrine x.seq)
    let ahead := sumNat (rs.map fun r => r.issued - r.next)
    match rs.find? fun r => decide (r.issued < r.n) with
    | none => s
    | some r =>
      if 64 ≤ ahead then s
      else
        let g := look {} x.seq.ags r.wag
        let s1 := s.modPan p fun x => let y := modRun r.id (fun r => { r with issued := r.issued + 1 }) x
                                      { y with seq := stepAg r.wag y.seq }
        let off := r.id * 1024 + 2 * r.issued
        let s2 := feederRead p false off g.ecur (westBytes (runMode x r)) s1
        feedAhead p n (feederRead p false (off + 1) g.xcur (modeGrains (runMode x r)) s2)

/-- Change a held copy. -/
def modCopy (c : Bool) (f : HeldCopy → HeldCopy) (l : Lat) : Lat := { l with copies := upd {} (if c then 1 else 0) f l.copies }

/-- Issue the brine reads of a held load, at most 64 columns ahead of its writes (R512). -/
def heldAhead (p : Nat) : Nat → State → State
  | 0, s => s
  | n + 1, s =>
    let x := s.pan p
    match x.lat.load with
    | none => s
    | some ld =>
      let g := look {} x.seq.ags ld.nag
      if !g.brine || decide (64 * ld.len ≤ ld.issued) || decide (64 ≤ ld.issued - ld.next) then s
      else
        let s1 := s.modPan p fun x =>
          { x with seq := stepAg ld.nag x.seq
                   lat := { x.lat with load := some { ld with issued := ld.issued + 1 } } }
        let off := ld.id * 4096 + 2 * ld.issued
        let s2 := feederRead p true off g.ecur (heldBytes ld.mode) s1
        heldAhead p n (feederRead p true (off + 1) g.xcur (modeGrains ld.mode) s2)

/-! ### WEST_FEED_BEGIN (R109, R111, R112, R114) -/

/-- The west feeder begins its next feed-order entry, and takes one cycle for a TEND (R109). A copy counts as loaded for DETAIL 1 of R114 also while an HLOAD issued before
the WFEED is under way or queued: R78 then holds the slots (DEDUCED, log 47). -/
def westFeedBegin (p : Nat) (s : State) : State :=
  let x := s.pan p
  if x.lat.run.isSome || decide (x.seq.cycle < x.lat.westFree) then s
  else match x.seq.feedq with
    | [] => s
    | .tend c :: rest =>
      if x.seq.cycle < c then s
      else s.modPan p fun x =>
        { x with seq := { x.seq with feedq := rest, tileOpen := false, openPair := [] }
                 lat := { x.lat with westFree := x.seq.cycle + 1 } }
    | .run r opens c :: rest =>
      if x.seq.cycle < c then s
      else if !x.seq.tileSeen then panFault p PanCode.tileState 0 none s
      else if !((copyOf x.lat r.copy).ready || loadBefore x r.copy r.id) then panFault p PanCode.tileState 1 none s
      else
        feedAhead p 64 (s.modPan p fun x =>
          { x with seq := { x.seq with feedq := rest, tileOpen := x.seq.tileOpen || opens
                                       openPair := if opens then (if r.chained then [r.wag, r.nag] else []) else x.seq.openPair }
                   lat := { x.lat with run := some r } })

/-- A command of a unit that works in the region clock: while the region has no power or clock, and in a spare, nothing happens
(R22, R170, R359). -/
def panAct (p : Nat) (f : State → State) : State → Host.Outcome State Fault Refusal :=
  act (decide (p < 1620)) fun s => if s.panWorks p then f s else s

def execWestFeedBegin (p : Nat) : State → Host.Outcome State Fault Refusal := panAct p (inCycle p (westFeedBegin p))

/-- Read the first `n` entries of a descriptor's vectors: the parameters complete, whether any unit read was marked, and the state
after the reads. A reload takes entries 0 to 31 (R54, R121). -/
def drainVectors (p : Nat) (d : List Byte) (n : Nat) (s : State) : DrainParams × Bool × State :=
  let (bs, k, s1) := (vectorRuns d n).foldl (fun acc r =>
    let (b, m, t) := localRead p r.1 r.2 acc.2.2
    (acc.1 ++ b, acc.2.1 || m, t)) (([] : List Byte), false, s)
  (withVectors (drainOf d) n bs, k, s1)

/-! ### NORTH_LOAD_BEGIN (R110, R114, R122) -/

/-- A drain descriptor that no HLOAD with DP takes (R122 detail 0). -/
def holdDescBad (d : List Byte) : Bool := bit (leNat (d.take 4)) 10 || fmtReserved d || drainBroken d

/-- The north feeder begins an HLOAD: it captures the tile context (R110), and the copy keeps what it holds until the load has written
it (R77). With DP the descriptor is checked now (R122) and its parameters are read after the held entries (R76), at the
address captured now (log 88). -/
def northLoadBegin (p : Nat) (s : State) : State :=
  let x := s.pan p
  if x.lat.load.isSome || decide (x.seq.cycle < x.lat.northFree) then s
  else match x.seq.northq with
    | [] => s
    | e :: rest =>
      if x.seq.cycle < e.readyAt then s
      else match x.seq.tile with
        | none => panFault p PanCode.tileState 0 none s
        | some t =>
          let (d, mark, s1) := if e.dp then localRead p t.ddesc 32 s else ([], false, s)
          if mark then panFault p PanCode.poison 3 none s1
          else if e.dp && holdDescBad d then panFault p PanCode.drainDesc 0 none s1
          else
            heldAhead p 64 (s1.modPan p fun x =>
              { x with seq := { x.seq with northq := rest }
                       lat := { x.lat with load := some { id := e.id, copy := e.copy, dp := e.dp, nag := t.nag, mode := t.mode, b := t.b
                                                          len := t.len, window := t.window, ddesc := t.ddesc } } })

def execNorthLoadBegin (p : Nat) : State → Host.Outcome State Fault Refusal := panAct p (inCycle p (northLoadBegin p))

/-! ### HELD_COLUMN_WRITE (R76, R77, R512) -/

/-- One column of a held entry as its bytes give it. -/
def heldColumn (mode : Nat) (es xs : List Byte) : HeldCol := { elems := heldElems mode es, exps := expElems xs }

/-- The data of one slot or held column: its bytes, whether a unit was marked; late when its brine data has not returned. -/
inductive ColData where
  | late
  | fault (code detail : Nat)
  | data (es xs : List Byte) (mark : Bool)

/-- The data of the columns one load cycle writes. -/
inductive HeldData where
  | late
  | fault (code detail : Nat)
  | data (cols : List (List Byte × List Byte)) (mark : Bool)

/-- Fetch the columns of one load cycle, all or none (R76, R512), from pan store or from returned brine data. -/
def heldFetch (p : Nat) (ld : NorthLoad) (s : State) : HeldData × State :=
  let q := (s.pan p).seq
  let g := look {} q.ags ld.nag
  let ks := List.range (heldPer ld.mode)
  if g.loaded && g.brine then
    let got := ks.filterMap fun k => match find? ld.arrived (2 * (ld.next + k)), find? ld.arrived (2 * (ld.next + k) + 1) with
      | some e, some x => some ((e.1, x.1), e.2 || x.2)
      | _, _ => none
    if got.length = ks.length then (.data (got.map (·.1)) (got.any (·.2)), s) else (.late, s)
  else
    let es := heldBytes ld.mode
    let xs := modeGrains ld.mode
    match ks.findSome? fun k => agCheck (useTimes ld.nag k q) ld.nag unitNorth es xs with
    | some d => (.fault PanCode.agFault d, s)
    | none =>
      let gs := ks.map fun k => look ({} : Ag) (useTimes ld.nag k q).ags ld.nag
      let (ok, s1) := wideAccess p (gs.flatMap fun g => [(2, g.ecur.toNat, es), (3, g.xcur.toNat, xs)]) s
      if !ok then (.fault 0 0, s1)
      else
        let (e, k1, t1) := portReads p (gs.map fun g => (g.ecur.toNat, es)) s1
        let (x, k2, t2) := portReads p (gs.map fun g => (g.xcur.toNat, xs)) t1
        (.data (e.zip x) (k1 || k2), t2.modSeq p (useTimes ld.nag ks.length))

/-- The load ends in this cycle: its last write takes effect in the next, and the copy holds what the load wrote (R75 to R77). Without
DP the copy keeps the drain parameters it has (R110). -/
def heldFinish (p : Nat) (ld : NorthLoad) (s : State) : State :=
  let c := (s.pan p).seq.cycle + 1
  s.modLat p fun l =>
    modCopy ld.copy (fun old => { ready := true, readyFrom := c, mode := ld.mode, b := ld.b, len := ld.len, window := ld.window
                                  cols := ld.cols, drain := if ld.dp then some ld.drain else old.drain })
      { l with load := none, northFree := c }

/-- One column-writing cycle of the load in progress. -/
def heldWrite (p : Nat) (ld : NorthLoad) (s : State) : State :=
  match heldFetch p ld s with
  | (.late, s1) => s1.bumpPan p PanCtr.heldLate 1
  | (.fault code d, s1) => if code = 0 then s1 else panFault p code d none s1
  | (.data cols mark, s1) =>
    if mark then panFault p PanCode.poison 1 none s1
    else
      let ld1 := cols.foldl (fun (l : NorthLoad) c =>
        { l with next := l.next + 1, cols := put l.next (heldColumn l.mode c.1 c.2) l.cols
                 arrived := drop (2 * l.next) (drop (2 * l.next + 1) l.arrived) }) ld
      if ld1.next = 64 * ld.len ∧ !ld.dp then heldFinish p ld1 s1
      else s1.modLat p fun l => { l with load := some ld1 }

/-- One parameter cycle of the load in progress (R76), through the north feeder's ports (R142): the descriptor, then its vectors. -/
def paramCycle (p : Nat) (ld : NorthLoad) (s : State) : State :=
  let r := if ld.phase = 0 then (ld.ddesc, 32) else (paramReads (ld.bytes.take 32)).getD (ld.phase - 1) (0, 0)
  let (ok, s1) := wideAccess p [(2, r.1, r.2)] s
  if !ok then s1
  else
    let (bs, mark, s2) := localRead p r.1 r.2 s1
    let ld1 := { ld with phase := ld.phase + 1, bytes := ld.bytes ++ bs }
    let d := ld1.bytes.take 32
    if mark then panFault p PanCode.poison 3 none s2
    else if ld.phase = 0 && holdDescBad d then panFault p PanCode.drainDesc 0 none s2
    else if ld1.phase = 1 + (paramReads d).length then
      heldFinish p { ld1 with drain := withVectors (drainOf d) 64 (ld1.bytes.drop 32) } s2
    else s2.modLat p fun l => { l with load := some ld1 }

/-- One load cycle of the north feeder (R73, R76, R77), one for each region cycle. -/
def heldCycle (p : Nat) (s0 : State) : State :=
  let x := s0.pan p
  match x.lat.load with
  | none => s0
  | some ld =>
    if ld.lastCycle = some x.seq.cycle then s0
    else
      let ld1 := { ld with lastCycle := some x.seq.cycle }
      let s1 := s0.modLat p fun l => { l with load := some ld1 }
      let j := ld.next % 64
      if ld.next = 64 * ld.len then paramCycle p ld1 s1
      else if heldBlocked x ld j || heldBlocked x ld (j + heldPer ld.mode - 1) then s1.bumpPan p PanCtr.heldWait 1
      else heldAhead p 64 (heldWrite p ld1 s1)

/-- HELD_COLUMN_WRITE, on the bit errors that the outside shows. -/
def heldColumnWrite (p : Nat) (obs : List WordObs) (s : State) : State := inCycle p (heldCycle p) (storeFlips p obs s)

def execHeldColumnWrite (p : Nat) (obs : List WordObs) : State → Host.Outcome State Fault Refusal := panAct p (heldColumnWrite p obs)

/-- What each column makes of a slot (R83), from the held copy and the slot's elements and exponents. -/
def slotSums (c : HeldCopy) (h : Nat) (es xs : List Int) : List ColSum :=
  let g := 32
  (List.range 64).map fun j =>
    let hc := look {} c.cols (64 * colHeld c.window c.len h j + j)
    columnSum g c.b (hc.exps.take (modeGrains c.mode)) xs hc.elems es {}

/-! ### The bundle at the PC -/

/-- The bundle the sequencer would issue. -/
def State.bundleAt (s : State) (p : Nat) : Bundle := look 0 (s.pan p).seq.program (s.pan p).seq.pc

/-- The lowest slot with a reserved opcode or value (R103). -/
def reservedSlot (b : Bundle) : Option Nat :=
  let (f, d, r, m) := slotsOf b
  if f = .reserved then some 0 else if d = .reserved then some 1 else if r.isReserved then some 2 else if m = .reserved then some 3
  else none

/-- The sequencer is running, its pan works, the previous bundle's issue cost has elapsed, and the bundle has not stalled in this cycle
(R101, R105, R106). -/
def State.canIssue (s : State) (p : Nat) : Bool :=
  let q := (s.pan p).seq
  q.mode == .running && s.panWorks p && decide (q.nextIssue ≤ q.cycle) && q.stalledAt != some q.cycle

/-! ### Stalls (R106) -/

/-- A queued or active feed run, held load, drain assignment or rake load still uses an address generator. -/
def agBusy (x : Pan) (ag : Nat) : Bool :=
  ((feedRuns x).any fun r => !r.zero && r.wag == ag) ||
  (x.lat.load.any fun l => l.nag == ag) ||
  (!x.seq.northq.isEmpty && x.seq.tile.any fun t => t.nag == ag) ||
  (x.seq.drainq.any fun d => match d with | .dout _ g _ _ => g == ag | .drld _ a g _ _ => a == ag || g == ag) ||
  (x.seq.loads.any fun l => l.ag == ag)

/-- The bundle stalls in this cycle. -/
def stalls (x : Pan) (b : Bundle) : Bool :=
  let q := x.seq
  let (f, d, r, m) := slotsOf b
  ((rakeVs r ++ rakeQs r).any fun i => (q.pend.any fun e => e.reg == i && decide (q.cycle < e.at_)) || q.loads.any fun l => l.vd == i) ||
  (match f with
   | .wfeed .. | .tend => decide (4 ≤ q.feedq.length)
   | .hload .. => decide (2 ≤ q.northq.length)
   | _ => false) ||
  (match d with
   | .dout .. | .drld .. => decide (4 ≤ q.drainq.length)
   | .dwait => !q.drainq.isEmpty || !x.lat.pipe.isEmpty
   | _ => false) ||
  (match m with
   | .agld ag _ => agBusy x ag
   | .hstart ch _ => let h : Haul := look {} x.haul ch; h.mode == .running || h.mode == .pausing || h.mode == .stopping
   | _ => false)

/-! ### WEST_SLOT_ISSUE (R88 to R94, R111, R134, R135) -/

/-- A rake result that can be read from now on is written to its register (R106, R123). -/
def landResult (q : Seq) (e : RakeResult) : Seq := if e.reg < 16 then setV e.reg e.v q else setQ (e.reg - 16) e.q q

/-- The sequencer stalls in this cycle on its next bundle (R106). -/
def State.stalled (s : State) (p : Nat) : Bool :=
  s.canIssue p && (reservedSlot (s.bundleAt p)).isNone && stalls (s.pan p) (s.bundleAt p)

/-- Write some bytes of one aligned word by one read-modify-write (R143, R147, R153): the first byte carries its decoding and count. -/
def mergeWord (p w : Nat) (bs : List (Nat × Nat)) (s : State) : State :=
  if s.bankMode p (s.bankAt p w) = .awake then
    match bs with
    | [] => s
    | b :: rest =>
      let s1 := storeWrite p (w + b.1) [BitVec.ofNat 8 b.2] false s
      rest.foldl (fun t e => { t with storeMem := writeBytes t.storeMem (storeKey p (t.pan p).store.swz (w + e.1)) [BitVec.ofNat 8 e.2] }) s1
  else s.bumpPan p PanCtr.asleepLocal 1

/-- The writes of the drain whose cycle this is reach the store (R87), and the semaphore increment that follows an assignment's last one
is owed (R120). -/
def makeWrites (p : Nat) (s : State) : State :=
  let x := s.pan p
  let due := x.lat.pipe.filter fun w => decide (w.at_ ≤ x.seq.cycle)
  if due.isEmpty then s
  else
    due.foldl (fun t w =>
      let t1 := if w.part.isEmpty then localWrite p w.addr w.bytes w.mark t else mergeWord p w.addr w.part t
      match w.sem with | some m => t1.modLat p fun l => { l with owed := l.owed ++ [m] } | none => t1)
      (s.modLat p fun l => { l with pipe := l.pipe.filter fun w => decide (x.seq.cycle < w.at_) })

/-- The next region cycle begins: rake results and windows move on (R123, R163), and a wait's cycle is counted (R101). -/
def nextCycle (p : Nat) (s : State) : State :=
  let x := s.pan p
  let c := x.seq.cycle + 1
  let w := x.seq.mode == .waiting
  let s1 := s.modPan p fun x =>
    let q := (x.seq.pend.filter fun e => decide (e.at_ ≤ c)).foldl landResult x.seq
    { x with before := none
             seq := { q with cycle := c, waited := if w then x.seq.waited + 1 else 0, pend := x.seq.pend.filter fun e => decide (c < e.at_)
                             peerStop := none }
             store := { x.store with
               windows := (x.store.winPend.filter fun e => decide (e.1 ≤ c)).foldl
                 (fun l e => match e.2.2 with | some v => put e.2.1 v l | none => drop e.2.1 l) x.store.windows
               winPend := x.store.winPend.filter fun e => decide (c < e.1) } }
  if w then s1.bumpPan p PanCtr.waitCycle 1 else s1

/-- A region cycle passes. A pan whose chain peer faulted in it stops with it (R139), the drain's writes of the cycle are made, and a
bundle that stalls in the cycle which begins is counted there and does not issue in it (R106). -/
def passCycle (p : Nat) (s : State) : State :=
  let x := s.pan p
  let s1 := match x.seq.peerStop with
    | some k => if x.seq.mode = .faulted then s else panFaultOne p PanCode.chainPeer k.1 k.2.2 none x.seq.pc s
    | none => s
  let s2 := nextCycle p (makeWrites p s1)
  if s2.stalled p then (s2.bumpPan p PanCtr.hazard 1).modSeq p fun q => { q with stalledAt := some q.cycle } else s2

/-- The logical column of a pan in a chained schedule, none when unchained. -/
def chainCol (s : State) (p : Nat) : Option Nat := if (s.pan p).chainedNow then some (s.logicalCol p) else none

/-- Pan 0's decision on a chained slot reaches pans 1 to 13 (R94). -/
def sendDecision (p k : Nat) (v : Bool) (s : State) : State :=
  foldState (s.chainPans (regionOf p)) (fun t e =>
    if e.2 = 0 then t else t.modLat e.1 fun l => { l with decisions := l.decisions ++ [(k, v)] }) s

/-- The slot's elements and exponents. -/
def westFetch (p : Nat) (r : WestRun) (mode : Nat) (s : State) : ColData × State :=
  let q := (s.pan p).seq
  let g := look {} q.ags r.wag
  if r.zero then (.data (List.replicate (westBytes mode) 0) (List.replicate (modeGrains mode) 0) false, s)
  else if g.loaded && g.brine then
    match find? r.arrived (2 * r.next), find? r.arrived (2 * r.next + 1) with
    | some e, some x => (.data e.1 x.1 (e.2 || x.2), s)
    | _, _ => (.late, s)
  else match agCheck q r.wag unitWest (westBytes mode) (modeGrains mode) with
    | some d => (.fault PanCode.agFault d, s)
    | none =>
      let (ok, s1) := wideAccess p [(0, g.ecur.toNat, westBytes mode), (1, g.xcur.toNat, modeGrains mode)] s
      if !ok then (.fault 0 0, s1)
      else
        let (es, k1, s2) := localRead p g.ecur.toNat (westBytes mode) s1
        let (xs, k2, s3) := localRead p g.xcur.toNat (modeGrains mode) s2
        (.data es xs (k1 || k2), s3.modSeq p (stepAg r.wag))

/-- Issue the next slot of the run as a valid slot (R79, R80, R111). -/
def issueSlot (p : Nat) (r : WestRun) (c : HeldCopy) (es xs : List Byte) (s : State) : State :=
  let hw := slotPhase c r
  let sums := slotSums c hw.1 (westElems c.mode es) (expElems xs)
  let ch := if (runCol s p r).isSome then some (r.chainNo + r.next) else none
  (s.modPan p fun x =>
    let r1 := { r with next := r.next + 1, arrived := drop (2 * r.next) (drop (2 * r.next + 1) r.arrived) }
    { x with
      seq := { x.seq with lastValid := some x.seq.cycle, holdDone := false }
      lat := { x.lat with
        run := if r1.next = r1.n then none else some r1
        westFree := if r1.next = r1.n then x.seq.cycle + 1 else x.lat.westFree
        nextSeq := x.lat.nextSeq + 1
        flight := x.lat.flight ++ [{ seq := x.lat.nextSeq, copy := r.copy, start := r.start, last := r.last, h := hw.1, w := hw.2
                                     window := c.window, len := c.len, b := c.b, issued := x.seq.cycle, chain := ch
                                     drain := c.drain, cols := sums }] } }).bumpPan p PanCtr.validSlot 1

/-- A bubble in place of slot number k, under one cause (R89, R90); pan 0 of a chain decides a bubble for all (R94). -/
def bubble (p ctr k : Nat) (col : Option Nat) (s : State) : State :=
  let s1 := s.bumpPan p ctr 1
  if col = some 0 then sendDecision p k false s1 else s1

/-- A notice goes to the region's regulators (R136); in a chained schedule pan 0's alone do. -/
def giveNotice (p : Nat) (s : State) : State :=
  if (chainCol s p).any (· != 0) then s else s.modRegion (regionOf p) fun r => { r with notices := r.notices + 1 }

/-- The notice rule holds the burst (R135): nothing is fetched or issued, the cycle is counted, and an inserted notice is given. -/
def holdBurst (p : Nat) (q : Seq) (ins : Bool) (s : State) : State :=
  let s1 := (s.modSeq p fun _ => q).bumpPan p PanCtr.noticeStall 1
  if ins then giveNotice p (s1.bumpPan p PanCtr.noticeInsert 1) else s1

/-- The slot that the feed order holds, past the chain's decision: its causes of waiting in the order of R89, the notice
rule, and its issue. `follow` is set in pans 1 to 13 of a chain, whose slots pan 0 has decided; R78 holds theirs too. It says
whether a decided slot has been taken. -/
def tryIssue (p : Nat) (r : WestRun) (follow : Bool) (s : State) : Bool × State :=
  let x := s.pan p
  let c := copyOf x.lat r.copy
  let col := runCol s p r
  let k := slotNo r
  if !slotLoaded p r s then (false, bubble p PanCtr.bubbleHeld k col s)
  else if !slotPhaseOk x r then (true, panFault p PanCode.tileState 3 none s)
  else if !follow && slotBlocked p r s then (true, bubble p PanCtr.bubbleDrain k col s)
  else match westFetch p r c.mode s, (if follow then none else noticeRule x.seq) with
    | (.late, s1), _ => (false, bubble p PanCtr.bubbleLate k col s1)
    | _, some (q, ins) => (true, holdBurst p q ins s)
    | (.fault code d, s1), none => (true, if code = 0 then s1 else panFault p code d none s1)
    | (.data es xs mark, s1), none =>
      if mark then (true, panFault p PanCode.poison 0 none s1)
      else
        let s2 := issueSlot p r c es xs s1
        (true, if col = some 0 then sendDecision p k true s2 else s2)

/-- Pan 0's chained bubble that its own feed order holds no slot for: the number its next chained slot will have. -/
def nextSlotNo (x : Pan) : Nat :=
  ((feedRuns x).find? fun r => r.chained).elim x.seq.chainNext slotNo

/-- What the west feeder does with no run in progress. A WFEED that has entered the feed order and that its feeder may not begin yet
(R109) counts as no slot, so an open tile has a dry bubble in that cycle (DESIGN CHOICE, log 85); a queued run the feeder has yet to begin
is a slot the feed order holds. -/
def noRun (p : Nat) (s : State) : State :=
  let x := s.pan p
  let held := x.seq.feedq.any fun e => match e with | .run _ _ c => decide (c ≤ x.seq.cycle) | .tend _ => false
  if x.seq.tileOpen && !held then bubble p PanCtr.bubbleDry (nextSlotNo x) (chainCol s p) s else s

/-- What the west feeder of pan 1 to 13 of a chain does: it takes pan 0's decisions in their order (R94). A bubble there is a chain
bubble, whatever its own feed order holds (R89, R90). A pan whose next slot has no decision yet issues neither slot nor bubble and
counts nothing, on which the manual is silent (DESIGN CHOICE, log 85). -/
def followAct (p : Nat) (s : State) : State :=
  let x := s.pan p
  match x.lat.decisions with
  | (_, false) :: rest => (s.modLat p fun l => { l with decisions := rest }).bumpPan p PanCtr.bubbleChain 1
  | (k, true) :: rest =>
    (match x.lat.run with
     | none => noRun p s
     | some r =>
       if slotNo r < k then s
       else if k < slotNo r then s.modLat p fun l => { l with decisions := rest }
       else
         let (took, t) := tryIssue p r true s
         if took then t.modLat p fun l => { l with decisions := l.decisions.drop 1 } else t)
  | [] => if x.lat.run.isNone then noRun p s else s

/-- What the west feeder does in one cycle (R89). -/
def westAct (p : Nat) (s : State) : State :=
  let x := s.pan p
  match x.seq.hold with
  | some u => if x.seq.cycle < u then s.bumpPan p PanCtr.noticeStall 1 else s
  | none =>
    match x.lat.run with
    | none => if (chainCol s p).any (· != 0) then followAct p s else noRun p s
    | some r => if (runCol s p r).any (· != 0) then followAct p s else (tryIssue p r false s).2

/-- WEST_SLOT_ISSUE: one region cycle of the pan's west feeder, in which it issues a valid slot or a bubble (R89). A region
whose clock does not run passes no cycle. -/
def westSlotIssue (p : Nat) (obs : List WordObs) (s : State) : State :=
  passCycle p (feedAhead p 64 (inCycle p (westAct p) (storeFlips p obs s)))

def execWestSlotIssue (p : Nat) (obs : List WordObs) : State → Host.Outcome State Fault Refusal := panAct p (westSlotIssue p obs)

/-- BURST_HOLD_END (R135): the hold has run its length and the burst may start. -/
def burstHoldEnd (p : Nat) (s : State) : State :=
  s.modSeq p fun q => match q.hold with
    | some u => if u ≤ q.cycle then { q with hold := none, holdDone := true } else q
    | none => q

def execBurstHoldEnd (p : Nat) : State → Host.Outcome State Fault Refusal := panAct p (burstHoldEnd p)

/-! ### ENTRY_UPDATE (R84, R86, R93, R118) -/

/-- The oldest slot in flight whose column has not yet been taken. -/
def nextFlight (l : Lat) (col : Nat) : Option FlightSlot := l.flight.find? fun f => !f.done.contains col

/-- The column of a slot is taken; a slot whose 64 columns are taken leaves the lattice. -/
def flightTaken (f : FlightSlot) (col : Nat) (l : Lat) : Lat :=
  { l with flight := (l.flight.map fun g => if g.seq = f.seq then { g with done := col :: g.done } else g).filter
             fun g => decide (g.done.length < 64) }

/-- One column's arriving sum enters its accumulator entry (R84); `sum` is what the column then holds. The slot that completes the entry
gives it its base exponent and drain parameters, and a later LAST into a complete entry changes neither (R86). A START in an
entry not yet complete leaves the column's LAST mark: the manual is silent (DESIGN CHOICE, log 87). -/
def accUpdate (f : FlightSlot) (col : Nat) (sum : Int) (ovf : Bool) (e : AccEntry) : AccEntry :=
  let st := colStart f.window f.start f.len f.h col
  let last := colLast f.window f.last f.len f.h col
  let old : AccCol := look ({} : AccCol) e.cols col
  let c : AccCol := { sum := sum, flag := if st then ovf else old.flag || ovf, b := if st then some f.b else old.b
                      copy := if last && !e.complete then some f.copy else old.copy }
  let cols := put col c e.cols
  let full := (List.range 64).all fun j => (look ({} : AccCol) cols j).copy.isSome
  if last && full && !e.complete then { cols := cols, complete := true, b := f.b, drain := f.drain } else { e with cols := cols }

/-- Two completing columns of an entry name different copies (R86). -/
def copiesDiffer (e : AccEntry) : Bool :=
  (e.cols.any fun (c : Nat × AccCol) => c.2.copy == some true) && (e.cols.any fun (c : Nat × AccCol) => c.2.copy == some false)

/-- The sum a column holds after an addition; a sum outside 72 bits, which R52 keeps programs from, has no stated value and is
free (log 14). -/
def accSum (x : Int) (s : State) : Int × State :=
  if satInt 72 x = x then (x, s) else (signed 72 s.draw.1, s.draw.2)

/-- ENTRY_UPDATE: column `col`'s running sum of the oldest slot reaches the south edge. -/
def entryUpdate (p col : Nat) (s : State) : State :=
  let x := s.pan p
  match nextFlight x.lat col with
  | none => s
  | some f =>
    if x.seq.cycle < f.issued + 65 + col then s
    else
      let own := f.cols.getD col {}
      let lc := s.logicalCol p
      let take (t : State) : State := (t.modLat p (flightTaken f col)).bumpPan p PanCtr.clampHigh own.clamps
      -- in a chained schedule the sum of the pan before enters at the north edge (R93)
      let k := f.chain.getD 0
      match (if f.chain.isSome && decide (0 < lc) then x.lat.chainIn.find? fun e => e.1 == k && e.2.1 == col else some (k, col, 0, false)) with
      | none => s
      | some inc =>
        let sum := own.sum + inc.2.2.1
        let ovf := own.flag || inc.2.2.2
        let s1 := if f.chain.isSome then s.modLat p fun l => { l with chainIn := l.chainIn.filter fun e => !(e.1 == k && e.2.1 == col) } else s
        if f.chain.isSome && decide (lc < 13) then
          match (s.chainPans (regionOf p)).find? fun e => e.2 == lc + 1 with
          | none => take s1
          | some q => take (s1.modLat q.1 fun l => { l with chainIn := l.chainIn ++ [(k, col, sum, ovf)] })
        else
          let ei := colEntry f.window f.len f.h f.w col
          let e := look {} x.lat.acc ei
          let old : AccCol := look ({} : AccCol) e.cols col
          let st := colStart f.window f.start f.len f.h col
          if st && e.complete then s
          else if !st && old.b.any (fun v => v != f.b) then panFault p PanCode.entryCopy (256 + ei) none s1
          else
            let (v, s2) := accSum (if st then sum else old.sum + sum) s1
            let e1 := accUpdate f col v ovf e
            let s3 := take (s2.modLat p fun l =>
              { l with acc := put ei e1 l.acc, completeq := if e1.complete && !e.complete then l.completeq ++ [ei] else l.completeq })
            if !e1.complete || e.complete then s3
            else if copiesDiffer e1 then panFault p PanCode.entryCopy ei none s3
            else if e1.drain.isNone then panFault p PanCode.drainDesc 4 none s3
            else s3

def execEntryUpdate (p col : Nat) : State → Host.Outcome State Fault Refusal := panAct p fun s => if col < 64 then inCycle p (entryUpdate p col) s else s

/-! ### The exponent combine buffer (R143) -/

/-- Cycles from the drain's read of an entry or spill to its writes (R87). -/
abbrev drainDelay : Nat := 5

/-- The first cycle from `d` on, counted from now, in which the exponent port makes no access yet (R142: one word in a cycle). -/
def expSlot (x : Pan) (d : Nat) : Nat :=
  ((List.range 8).find? fun k => !(wideAt x (x.seq.cycle + d + k)).any fun e => e.1 == 5).getD 0 + d

/-- Write the gathered exponent bytes through port 0x5: a whole word in one cycle, or a partial word by a read-modify-write of three
(R143, R147). A conflict stops the pan and nothing is written (R148). -/
def flushExps (p : Nat) (s : State) : State :=
  match (s.pan p).lat.expWord with
  | none => s
  | some (w, bs) =>
    let s1 := s.modLat p fun l => { l with expWord := none }
    let d := expSlot (s1.pan p) drainDelay
    let c := (s1.pan p).seq.cycle
    let out (k : Nat) (v : DrainWrite) (r : Bool × State) : State :=
      if r.1 then r.2.modLat p fun l => { l with pipe := l.pipe ++ [{ v with at_ := c + d + k, addr := w }] } else r.2
    if bs.length = 8 then
      out 0 { at_ := 0, addr := w, bytes := (List.range 8).map fun i => BitVec.ofNat 8 (look 0 bs i) } (wideAccessAt p d [(5, w, 8)] s1)
    else out 2 { at_ := 0, addr := w, part := bs } (wideRmw p d w 8 s1)

/-- Gather one exponent byte. -/
def putExp (p a : Nat) (e : Int) (s : State) : State :=
  let w := a / 8 * 8
  let s1 := match (s.pan p).lat.expWord with
    | some (v, _) => if v = w then s else flushExps p s
    | none => s
  let s2 := s1.modLat p fun l =>
    { l with expWord := some (w, put (a % 8) (unsigned 8 e) (match l.expWord with | some (_, bs) => bs | none => [])) }
  match (s2.pan p).lat.expWord with
  | some (_, bs) => if bs.length = 8 then flushExps p s2 else s2
  | none => s2

/-! ### DRAIN_ENTRY (R85, R120) -/

/-- The bytes of one output grain's elements. -/
def grainLen (fmt : Nat) : Nat := if fmt = 1 then 32 else if fmt = 2 then 16 else 128

/-- Log a flagged output (R68). -/
def ovfEntry (p j a : Nat) (s : State) : State :=
  (s.modPan p fun x => if x.ovfLog.length < 8 then { x with ovfLog := x.ovfLog ++ [(j, a % 2 ^ 23)] } else x).bumpPan p PanCtr.accOvf 1

/-- Convert one output grain (R54 to R58): its element bytes, and its exponent on its way through the combine buffer; a pan that has
stopped writes nothing further (R97). -/
def convertGrain (p : Nat) (d : DrainParams) (b : Int) (ch0 : Nat) (vs : List (Int × Bool)) (ea xa : Nat) (s : State) :
    List Byte × State :=
  let out := drainGrain d b ch0 (vs.map (·.1)) (vs.map (·.2))
  let bs := grainBytes d.fmt out.elems
  if (s.pan p).seq.mode = .faulted then (bs, s)
  else
    let s2 := countDrain p out ((vs.zipIdx.filter fun v => v.1.2).foldl (fun t v => ovfEntry p v.2 ea t) s)
    (bs, match out.exponent with | some e => putExp p xa e s2 | none => s2)

/-- Element bytes on their way to the store, 128 of them in a cycle (R85, R87). -/
def pipeElems (p a : Nat) (bs : List Byte) (mark : Bool) (s : State) : State :=
  let c := (s.pan p).seq.cycle + drainDelay
  if (s.pan p).seq.mode = .faulted then s
  else s.modLat p fun l =>
    { l with pipe := l.pipe ++ [{ at_ := c, addr := a, bytes := bs.take 128, mark := mark }] ++
              if 128 < bs.length then [{ at_ := c + 1, addr := a + 128, bytes := bs.drop 128, mark := mark }] else [] }

/-- An assignment's last write is on its way: its semaphore increment follows it (R120). -/
def pipeEnd (p sem : Nat) (s : State) : State :=
  if (s.pan p).seq.mode = .faulted then s
  else s.modLat p fun l => { l with pipe := l.pipe ++ [{ at_ := (l.pipe.map (·.at_)).foldl max 0, addr := 0, sem := some sem }] }

/-- The first DOUT assignment with entries left. -/
def firstDout : List DrainEntry → Option (Nat × Nat × Bool × Nat)
  | [] => none
  | .dout n g sig sem :: _ => some (n, g, sig, sem)
  | _ :: rest => firstDout rest

/-- One entry or grain of the first assignment of a kind has been written. -/
def stepDrain (isOut : Bool) : List DrainEntry → List DrainEntry
  | [] => []
  | .dout n g sig sem :: rest =>
    if isOut then (if n ≤ 1 then rest else .dout (n - 1) g sig sem :: rest) else .dout n g sig sem :: stepDrain isOut rest
  | .drld n a g d pr :: rest =>
    if isOut then .drld n a g d pr :: stepDrain isOut rest else (if n ≤ 1 then rest else .drld (n - 1) a g d pr :: rest)

/-- An entry the drain has read is free (R85): nothing is marked and no START is in force; the sums stay until one. -/
def freedEntry (e : AccEntry) : AccEntry :=
  { cols := e.cols.filterMap fun (c : Nat × AccCol) =>
      if c.2.sum = 0 && !c.2.flag then none else some (c.1, { c.2 with b := none, copy := none }) }

/-- The drain's element writes through port 0x4, `n` bytes at `a`, five cycles from its read: 128 bytes in a cycle, so the second half of
an I32 entry follows in the next (R85, R87, R148). -/
def drainWide (p a n : Nat) (s : State) : Bool × State :=
  let (ok, s1) := wideAccessAt p drainDelay [(4, a, min 128 n)] s
  if ok && decide (128 < n) then wideAccessAt p (drainDelay + 1) [(4, a + 128, n - 128)] s1 else (ok, s1)

/-- DRAIN_ENTRY: the drain reads the oldest complete entry that has an assignment, one in a cycle or in two for I32 output (R85),
and converts it; its writes are made from five cycles later on (R87). -/
def drainEntry (p : Nat) (s : State) : State :=
  let x := s.pan p
  match x.lat.completeq, firstDout x.seq.drainq with
  | ei :: rest, some (n, ag, sig, sem) =>
    let e := look {} x.lat.acc ei
    match e.drain with
    | none => s
    | some d =>
      let len := grainLen d.fmt
      if x.seq.cycle < x.lat.drainFrom then s
      else match agCheck x.seq ag unitDrain (2 * len) (if d.fmt = 3 then 0 else 2) with
      | some det => panFault p PanCode.agFault det none s
      | none =>
        if biasOutOfRange d e.b then panFault p PanCode.drainBias ei none s
        else
          let g := look {} x.seq.ags ag
          let ea := g.ecur.toNat
          let xa := g.xcur.toNat
          let (ok, s1) := drainWide p ea (2 * len) s
          if !ok then s1
          else
            let vs := (List.range 64).map fun j => let c : AccCol := look ({} : AccCol) e.cols j; presented c.sum c.flag
            let s2 := s1.modPan p fun x =>
              { x with seq := { stepAg ag x.seq with drainq := stepDrain true x.seq.drainq }
                       lat := { x.lat with completeq := rest, acc := put ei (freedEntry e) x.lat.acc
                                           drainFrom := x.seq.cycle + (if d.fmt = 3 then 2 else 1) } }
            let (b0, s3) := convertGrain p d e.b 0 (vs.take 32) ea xa s2
            let (b1, s4) := convertGrain p d e.b 32 (vs.drop 32) (ea + len) (xa + 1) s3
            let s5 := pipeElems p ea (b0 ++ b1) false s4
            if n ≤ 1 then (let s6 := flushExps p s5; if sig then pipeEnd p sem s6 else s6) else s5
  | _, _ => s

def execDrainEntry (p : Nat) : State → Host.Outcome State Fault Refusal := panAct p (inCycle p (drainEntry p))

/-- DOUT_COMPLETE (R120): the semaphore of a finished assignment with SIG takes its increment. -/
def doutComplete (p : Nat) (s : State) : State :=
  match (s.pan p).lat.owed with
  | [] => s
  | sem :: rest => semAdd p sem 1 (s.modLat p fun l => { l with owed := rest })

def execDoutComplete (p : Nat) : State → Host.Outcome State Fault Refusal := panAct p (doutComplete p)

/-! ### DRLD_GRAIN (R57, R121, R122) -/

/-- The first DRLD assignment keeps its descriptor's parameters. -/
def keepParams (pr : DrainParams) : List DrainEntry → List DrainEntry
  | [] => []
  | .drld n a g d _ :: rest => .drld n a g d (some pr) :: rest
  | e :: rest => e :: keepParams pr rest

/-- Descriptor reads through port 0x6 (R142, R146): they are granted when their banks are free, or when the requests queued for them have
been served; otherwise they are queued once. The Bool says whether they are granted. -/
def descReads (p : Nat) (use : NarrowUse) (served : Bool) (runs : List (Nat × Nat)) (s : State) : Bool × State :=
  if served then (true, s)
  else if (s.pan p).store.narrow.any fun r => r.use == use then (false, s)
  else if s.narrowFree p 0x6 runs false then (true, occupyRuns p 0x6 runs false s)
  else (false, runs.foldl (fun t r => ask p 0x6 r.1 r.2 none use t) s)

/-- The drain begins a DRLD (R121, R122): its descriptor is read through port 0x6 and checked, and its vectors' entries 0 to 31 are
read (R54). -/
def drldBegin (p desc : Nat) (s : State) : State :=
  let d0 := (localRead p desc 32 s).1
  let (granted, s0) := descReads p .reload (s.pan p).lat.descServed ((desc, 32) :: vectorRuns d0 32) s
  if !granted then s0
  else
    let (d, mk, s1) := localRead p desc 32 (s0.modLat p fun l => { l with descServed := false })
    if mk then panFault p PanCode.poison 3 none s1
    else if !bit (leNat (d.take 4)) 10 then panFault p PanCode.drainDesc 1 none s1
    else if fmtReserved d then panFault p PanCode.drainDesc 2 none s1
    else if drainBroken d then panFault p PanCode.drainDesc 3 none s1
    else
      let (pr, mv, s2) := drainVectors p d 32 s1
      if mv then panFault p PanCode.poison 3 none s2
      else s2.modSeq p fun q => { q with drainq := keepParams pr q.drainq }

/-- One grain of a DRLD that has begun. -/
def drldOne (p n sag dag : Nat) (pr : DrainParams) (s : State) : State :=
  let x := s.pan p
  match agCheck x.seq sag unitDrain 128 0, agCheck (stepAg sag x.seq) dag unitDrain (grainLen pr.fmt) (if pr.fmt = 3 then 0 else 1) with
  | some det, _ => panFault p PanCode.agFault det none s
  | none, some det => panFault p PanCode.agFault det none s
  | none, none =>
    if biasOutOfRange pr pr.esIn then
      -- the manual's DETAIL names an entry, and a reloaded grain has none: a free value (log 14)
      panFault p PanCode.drainBias (s.draw.1 % 256) none s.draw.2
    else
      let ga := look {} x.seq.ags sag
      let (ok, s3) := wideAccess p [(4, ga.ecur.toNat, 128)] s
      if !ok then s3
      else
        let (bs, mark, s4) := localRead p ga.ecur.toNat 128 s3
        let q1 := stepAg sag (s4.pan p).seq
        let gd := look {} q1.ags dag
        let (ok2, s5) := drainWide p gd.ecur.toNat (grainLen pr.fmt) s4
        if !ok2 then s5
        else
          let s6 := s5.modPan p fun x =>
            { x with seq := { stepAg dag (stepAg sag x.seq) with drainq := stepDrain false x.seq.drainq }
                     lat := { x.lat with drainFrom := x.seq.cycle + 1 } }
          let (out, s7) := convertGrain p pr pr.esIn 0 ((intsOf 4 32 bs).map fun v => (v, false)) gd.ecur.toNat gd.xcur.toNat s6
          let s8 := pipeElems p gd.ecur.toNat out mark s7
          if n ≤ 1 then flushExps p s8 else s8

/-- DRLD_GRAIN: the drain reloads one spilled grain, while no assigned complete entry awaits it. -/
def drldGrain (p : Nat) (s : State) : State :=
  let x := s.pan p
  if (!x.lat.completeq.isEmpty && (firstDout x.seq.drainq).isSome) || decide (x.seq.cycle < x.lat.drainFrom) then s
  else match firstDrld x.seq.drainq with
    | none => s
    | some (n, sag, dag, _, some pr) => drldOne p n sag dag pr s
    | some (n, sag, dag, desc, none) =>
      let s1 := drldBegin p desc s
      match firstDrld (s1.pan p).seq.drainq with
      | some (_, _, _, _, some pr) => drldOne p n sag dag pr s1
      | _ => s1

def execDrldGrain (p : Nat) : State → Host.Outcome State Fault Refusal := panAct p (inCycle p (drldGrain p))

/-! ### Brine data for a feeder (R113, R511, R512) -/

/-- A feeder's brine read was rejected, or had no response (R511). -/
def feederStop (p : Nat) (north : Bool) (cause : Nat) (s : State) : State :=
  let code := if cause = Cause.bankAsleep ∨ cause = Cause.sliceFailed ∨ cause = Cause.timeout then PanCode.feedLost else PanCode.feedReject
  panFault p code (cause * 256 + (if north then 1 else 0)) none s

/-- FEED_BRINE_RETURN: data of a feeder's brine read returns. -/
def feederData (p : Nat) (north : Bool) (off : Nat) (bs : List Byte) (mark : Bool) (s : State) : State :=
  if north then
    s.modLat p fun l =>
      { l with load := l.load.map fun ld => if ld.id = off / 4096 then { ld with arrived := put (off % 4096) (bs, mark) ld.arrived } else ld }
  else s.modPan p fun x => modRun (off / 1024) (fun r => { r with arrived := put (off % 1024) (bs, mark) r.arrived }) x

/-- FEED_LOST (R511): 1 ms has passed without a response to a feeder's brine read. -/
def feedLost (p tag : Nat) (s : State) : State :=
  let src := mkSrc s.deviceId 0 ((s.logicalPan p).getD 2047)
  match s.out? src tag with
  | some o => match o.who with
    | .feeder q north => if q = p ∧ o.issued + 1000000 ≤ s.now then feederStop p north Cause.timeout (expireOut src tag s) else s
    | _ => s
  | none => s

def execFeedLost (p tag : Nat) : State → Host.Outcome State Fault Refusal := act (decide (p < 1620)) (feedLost p tag)

end Sys2Proof.Machine
end

