-- ==== Sys2Proof/Machine/Regs.lean ====
section
/-! DEFINITION. The register blocks as they read: the value of every 32-bit register of BAR0 and of control space, the
clearing of RC registers and the latching of HI halves (R8, R9 and each chapter's block). -/

namespace Sys2Proof.Machine
open Sys2Proof

/-- A register block, and which one of its kind. -/
inductive Block where
  | seq (p : Nat)
  | prog (p : Nat)
  | lat (p : Nat)
  | arith (p : Nat)
  | haul (c : HaulId)
  | store (p : Nat)
  | debug (p : Nat)
  | slice (i : Nat)
  | chan (c : Nat)
  | memdev
  | router (gx gy : Nat)
  | net
  | port (n : Nat)
  | finron
  | services
  | topo
  | hif
  | slots
  | clock
  | boot
  | power
  | faults
  | msix
  | pba
deriving DecidableEq, Repr

/-! ### Where a block lies -/

/-- BAR0 (R423): the block and the offset within it; none for a reserved range. -/
def bar0Block (o : Nat) : Option (Block × Nat) :=
  if o < 0x1000 then some (.hif, o)
  else if 0x10000 ≤ o ∧ o < 0x14000 then some (.slots, o - 0x10000)
  else if 0x20000 ≤ o ∧ o < 0x21000 then some (.topo, o - 0x20000)
  else if 0x21000 ≤ o ∧ o < 0x22000 then some (.clock, o - 0x21000)
  else if 0x22000 ≤ o ∧ o < 0x22040 then some (.boot, o - 0x22000)
  else if 0x30000 ≤ o ∧ o < 0x38000 then some (.power, o - 0x30000)
  else if 0x40000 ≤ o ∧ o < 0x80000 then some (.faults, o - 0x40000)
  else if 0x100000 ≤ o ∧ o < 0x101000 then some (.msix, o - 0x100000)
  else if 0x101000 ≤ o ∧ o < 0x101020 then some (.pba, o - 0x101000)
  else none

/-- A pan window (R286). -/
def windowBlock (p o : Nat) : Option (Block × Nat) :=
  if o < 0x200 then some (.seq p, o)
  else if 0x20000 ≤ o ∧ o < 0x40000 then some (.prog p, o - 0x20000)
  else if 0x40000 ≤ o ∧ o < 0x40040 then some (.lat p, o - 0x40000)
  else if 0x40100 ≤ o ∧ o < 0x40140 then some (.arith p, o - 0x40100)
  else if 0x40200 ≤ o ∧ o < 0x40300 then some (.haul (.pan p ((o - 0x40200) / 0x40)), (o - 0x40200) % 0x40)
  else if 0x1000000 ≤ o ∧ o < 0x1000400 then some (.store p, o - 0x1000000)
  else if 0x1800000 ≤ o ∧ o < 0x2000000 then some (.debug p, o - 0x1800000)
  else none

/-- Control space (R285, R287): the block and the offset within it, or the cause of the refusal. While debug is locked its port is
refused every access (R484). -/
def State.controlBlock (s : State) (src off : Nat) : Except Nat (Block × Nat) :=
  let area := bits off 47 40
  let o := off % 2 ^ 40
  let r : Option (Block × Nat) :=
    match area with
    | 0 => if 1344 ≤ o / 0x2000000 then none
           else match s.panPos (o / 0x2000000) with | some p => windowBlock p (o % 0x2000000) | none => none
    | 1 => if 1620 ≤ o / 0x2000000 then none else windowBlock (o / 0x2000000) (o % 0x2000000)
    | 2 => if 1620 ≤ o / 0x400 ∨ 0x300 ≤ o % 0x400 then none else some (.slice (o / 0x400), o % 0x400)
    | 3 => if 96 ≤ o / 0x400 ∨ 0x300 ≤ o % 0x400 then none else some (.chan (o / 0x400), o % 0x400)
    | 4 => if 0x30000 ≤ o then none else some (.memdev, o)
    | 5 => if 1620 ≤ o / 0x100 ∨ 0x80 ≤ o % 0x100 then none else some (.router (o / 0x100 % 60) (o / 0x100 / 60), o % 0x100)
    | 6 => if 0x2000 ≤ o then none else some (.net, o)
    | 7 => if o < 0x1000 then (if 0x80 ≤ o % 0x100 then none else some (.port (o / 0x100), o % 0x100))
           else if 0x10000 ≤ o ∧ o < 0x20000 then some (.finron, o - 0x10000) else none
    | 8 => if 32 ≤ o / 0x40 then none else some (.haul (.cc (o / 0x40)), o % 0x40)
    | 9 => if 0x5000 ≤ o then none else some (.services, o)
    | 10 => if 0x60C ≤ o then none else some (.topo, o)
    | _ => none
  match r with
  | none => .error Cause.addr
  | some b =>
    if (area = 1 && !s.ownHakar src && src != s.debugSrc) || (src == s.debugSrc && !s.debugOpen src) then .error Cause.refused
    else .ok b

/-! ### Values -/

/-- One 32-bit half of a 64-bit register at offset `base`. -/
def half (v base o : Nat) : Nat := if o = base then lo32 v else hi32 v

/-- SEQ_STATUS [31:29]. -/
def seqCode : SeqMode → Nat
  | .stopped => 0
  | .running => 1
  | .waiting => 2
  | .halted => 3
  | .faulted => 4

/-- The sequencer block (R140). -/
def readSeq (x : Pan) (o : Nat) : Nat :=
  let q := x.seq
  if o = 0x00 then q.entry
  else if o = 0x08 then field (seqCode q.mode) 3 29 + flag q.tileOpen 13 + q.pc % 8192
  else if o = 0x0C then q.progLen
  else if o = 0x10 then field q.fault.detail 16 16 + field q.fault.cls 2 8 + q.fault.code % 256
  else if o = 0x14 then flag q.fault.async 15 + field q.fault.slot 2 13 + q.fault.pc % 8192
  else if o = 0x18 ∨ o = 0x1C then half q.fault.tide 0x18 o
  else if o = 0x24 then q.waitLimit
  else if 0x28 ≤ o ∧ o ≤ 0x38 then look 0 x.ctr (0x3000 + o)
  else if 0x40 ≤ o ∧ o < 0x80 then look 0 q.sems ((o - 0x40) / 4)
  else if 0xC0 ≤ o ∧ o < 0x140 then
    let v := (look (0 : W64) q.ntt ((o - 0xC0) / 8)).toNat
    if o % 8 = 0 then lo32 v else hi32 v
  else if 0x140 ≤ o ∧ o < 0x160 then look 0 q.lcs ((o - 0x140) / 4) % 65536
  else 0

/-- The program store (R99): a word of a bundle. -/
def readProg (x : Pan) (o : Nat) : Nat := ((look (0 : Bundle) x.seq.program (o / 16)).toNat >>> (8 * (o % 16))) % 2 ^ 32

/-- The lattice block (R98). -/
def readLat (x : Pan) (o : Nat) : Nat :=
  let l := x.lat
  let ready (c : Bool) : Bool := (copyOf l c).ready && decide ((copyOf l c).readyFrom ≤ x.seq.cycle) && !(l.load.any fun d => d.copy == c)
  if o = 0x00 then
    flag x.chainedNow 11 + flag l.load.isSome 10 + flag (ready true) 9 + flag (ready false) 8 +
      (l.flight.filter fun f => !f.done.contains 63).length % 256
  else if 0x04 ≤ o ∧ o ≤ 0x1C then look 0 x.ctr (0x2000 + o)
  else if o = 0x20 then l.completeq.length
  else if o = 0x24 then look 0 x.ctr (0x2000 + o)
  else 0

/-- The arithmetic block (R67). -/
def readArith (x : Pan) (o : Nat) : Nat :=
  if o ≤ 0x14 then look 0 x.ctr (0x1000 + o)
  else if o = 0x18 then x.ovfLog.length
  else if 0x20 ≤ o ∧ o < 0x40 then let e := x.ovfLog.getD ((o - 0x20) / 4) (0, 0); field e.1 5 23 + e.2 % 2 ^ 23
  else 0

/-- STATUS [31:29] of a haul channel (R202). -/
def haulCode : HaulMode → Nat
  | .idle => 0
  | .running => 1
  | .pausing => 2
  | .paused => 3
  | .done => 4
  | .stopping => 5
  | .error => 6

/-- A haul channel block (R202). While a transfer runs, SRC reads where its reads stand, and DST and COUNT where its writes stand. -/
def readHaul (h : Haul) (o : Nat) : Nat :=
  if o < 0x08 then half (if h.srcFixed then h.src else h.src + h.readPos) 0 o
  else if o < 0x10 then half (if h.dstFixed then h.dst else h.dst + h.writePos) 8 o
  else if o = 0x10 then h.count - h.writePos
  else if o = 0x14 then h.ctrl
  else if o = 0x18 then field (haulCode h.mode) 3 29 + field h.side 1 16 + field h.cause 8 8
  else if o = 0x20 ∨ o = 0x24 then half h.failAddr 0x20 o
  else if o = 0x28 then h.readUnits
  else if o = 0x2C then h.writeUnits
  else if o = 0x30 then h.errors
  else 0

/-- BANK_STATE code (R171). -/
def bankCode : BankMode → Nat
  | .awake => 0
  | .draining => 1
  | .asleep => 2
  | .filling => 3

/-- The pan store block (R171). The four registers of a window that is closed read 0, their reset value, where the table gives the
meaning of OPEN alone (DESIGN CHOICE, log 108). -/
def readStore (s : State) (p o : Nat) : Nat :=
  let x := s.pan p
  let st := x.store
  let states (b0 : Nat) : Nat := sumNat ((List.range 16).map fun b => field (bankCode (s.bankMode p (b0 + b))) 2 (2 * b))
  if o = 0x00 then flag st.fillBusy 0
  else if o = 0x04 then st.scrubPos
  else if o = 0x08 then st.scrubPass
  else if 0x10 ≤ o ∧ o < 0x24 then st.swz.getD ((o - 0x10) / 4) 0
  else if o = 0x2C then states 0
  else if o = 0x30 then states 16
  else if 0x40 ≤ o ∧ o ≤ 0x5C then look 0 x.ctr (0x4000 + o)
  else if o = 0x60 then field st.conflict.1 4 28 + field st.conflict.2.1 4 24 + st.conflict.2.2.1 % 32
  else if o = 0x64 then lo32 st.conflict.2.2.2
  else if o = 0x68 then field st.starve.1 4 28 + st.starve.2 % 32
  else if o = 0x6C then field st.lastReject.1 2 30 + st.lastReject.2.1 % 2 ^ 23
  else if o = 0x70 then st.lastReject.2.2 % 2 ^ 28
  else if o = 0x74 then (match st.ueLast with | some a => 2 ^ 31 + a / 8 % 2 ^ 20 * 8 | none => 0)
  else if 0x100 ≤ o ∧ o < 0x180 then
    match find? st.ce ((o - 0x100) / 16) with
    | none => 0
    | some e =>
      if o % 16 = 0 then 2 ^ 31 + field e.syndrome 8 23 + e.addr / 8 % 2 ^ 20 * 8
      else if o % 16 = 4 then e.count
      else if o % 16 = 8 then lo32 e.tide else hi32 e.tide
  else if 0x200 ≤ o ∧ o < 0x300 then
    match find? st.windows ((o - 0x200) / 16) with
    | none => 0
    | some w =>
      if o % 16 = 0 then 2 ^ 31 + w.base % 2 ^ 23
      else if o % 16 = 4 then w.len
      else if o % 16 = 8 then w.srcMatch else w.srcMask
  else 0

/-- SLICE_STATE code (R197). -/
def sliceCode : SliceMode → Nat
  | .awake => 0
  | .draining => 1
  | .asleep => 2
  | .filling => 3
  | .failed => 4
  | .bad => 5

/-- A slice block (R197). -/
def readSlice (x : Slice) (o : Nat) : Nat :=
  if o = 0x00 then field (sliceCode x.mode) 3 29 + field x.spareCols 8 8 + x.spareRows % 256
  else if o = 0x08 then min 255 x.queue.length
  else if o = 0x0C then x.scrubPos
  else if o = 0x10 then x.scrubPass
  else if 0x14 ≤ o ∧ o ≤ 0x2C then look 0 x.ctr o
  else if o = 0x30 then (match x.ueLast with | some a => 2 ^ 31 + a / 32 % 2 ^ 20 * 32 | none => 0)
  else if 0x100 ≤ o ∧ o < 0x300 then
    match find? x.ce ((o - 0x100) / 32) with
    | none => 0
    | some e =>
      if o % 32 = 0 then 2 ^ 31 + e.addr / 32 % 2 ^ 20 * 32
      else if o % 32 = 4 then lo32 e.syndrome
      else if o % 32 = 8 then e.count
      else if o % 32 = 16 then lo32 e.tide
      else if o % 32 = 20 then hi32 e.tide else 0
  else 0

/-- CH_STATE code (R198). -/
def chanCode : ChanMode → Nat
  | .active => 0
  | .training => 1
  | .filling => 2
  | .unpopulated => 3
  | .failed => 4

/-- A cellar channel block (R198). -/
def readChan (x : Chan) (o : Nat) : Nat :=
  if o = 0x00 then field (chanCode x.mode) 3 29 + x.rate % 2 ^ 14
  else if o = 0x04 then lo32 x.scrubPos
  else if o = 0x08 then x.scrubPass
  else if 0x0C ≤ o ∧ o ≤ 0x24 then look 0 x.ctr o
  else if o = 0x28 then (match x.ueLast with | some a => lo32 a / 8 * 8 | none => 0)
  else if o = 0x2C then (match x.ueLast with | some a => 2 ^ 31 + bits a 34 32 | none => 0)
  else if 0x100 ≤ o ∧ o < 0x300 then
    match find? x.ce ((o - 0x100) / 32) with
    | none => 0
    | some e =>
      if o % 32 = 0 then lo32 e.addr / 8 * 8
      else if o % 32 = 4 then 2 ^ 31 + bits e.addr 34 32
      else if o % 32 = 8 then field e.syndrome 8 16 + e.count
      else if o % 32 = 16 then lo32 e.tide
      else if o % 32 = 20 then hi32 e.tide else 0
  else 0

/-- A lot entry as 64 bits (R180). -/
def lotWord : Lot → Nat
  | .near j n count first => field 1 2 30 + field j 4 26 + field n 4 16 + field (count - 1) 11 0 + field first 32 32
  | .even j base len => field 2 2 30 + field j 4 26 + field (field base 9 16 + field (len - 1) 9 0) 32 32

/-- The memory device block (R199). -/
def readMemdev (s : State) (o : Nat) : Nat :=
  let d := s.memdev
  if o = 0x00 then field d.m 11 11 + d.n % 2048
  else if o = 0x04 then field d.ezBase 9 16 + d.ezLen % 1024
  else if o = 0x08 then field d.slicesFailed 16 16 + d.slicesBad % 2048
  else if o = 0x0C then d.sites % 2 ^ 24
  else if o = 0x10 then field d.rate 14 4 + d.capacity % 16
  else if o = 0x14 then flag d.cellarFill 1 + flag d.brineFill 0
  else if o = 0x18 ∨ o = 0x1C then half s.cellarUsable 0x18 o
  else if 0x1000 ≤ o ∧ o < 0x1000 + 4 * 1620 then
    let i := (o - 0x1000) / 4
    if i < d.n then let e := s.spreadEntry i; field e.1 11 16 + unsigned 10 e.2 else 0
  else if 0x4000 ≤ o ∧ o < 0x8000 then
    match d.lots.find? fun e => e.1 == (o - 0x4000) / 8 with
    | some e => half (lotWord e.2) (o / 8 * 8) o
    | none => 0
  else if 0x10000 ≤ o ∧ o < 0x30000 then look 0 d.ext ((o - 0x10000) / 2) % 65536 + look 0 d.ext ((o - 0x10000) / 2 + 1) % 65536 * 65536
  else 0

/-- LOGICAL (R245): the position carries a logical pan. -/
def State.isLogical (s : State) (gx gy : Nat) : Bool :=
  let p := posAt gx gy
  (s.logicalPan p).isSome && !(s.region (regionOf p)).fenced

/-- SKIP (R238): east, west, north and south neighbours failed. -/
def State.skipBits (s : State) (gx gy : Nat) : Nat :=
  flag (decide (gx < 59) && s.routerFailed (gx + 1) gy) 0 + flag (decide (0 < gx) && s.routerFailed (gx - 1) gy) 1 +
  flag (decide (0 < gy) && s.routerFailed gx (gy - 1)) 2 + flag (decide (gy < 26) && s.routerFailed gx (gy + 1)) 3

/-- A router block (R253). -/
def readRouter (s : State) (gx gy o : Nat) : Nat :=
  let r := s.router gx gy
  let dead := look 0 s.net.rowDead gy
  if o = 0x00 then field r.state 3 29 + flag (s.isLogical gx gy) 4 + s.skipBits gx gy
  else if o = 0x04 then lo32 r.seamSpares
  else if o = 0x08 then lo32 dead
  else if o = 0x0C then bits dead 59 32
  else if 0x20 ≤ o ∧ o ≤ 0x48 then look 0 r.ctr o
  else 0

/-- The network block (R254). -/
def readNet (n : Net) (o : Nat) : Nat :=
  if o = 0x00 then field n.failedEpoch 11 16 + n.failedAssay % 2048
  else if o = 0x04 then n.urgentGap % 64
  else if 0x400 ≤ o ∧ o < 0x1400 then
    let g : Group := look {} n.groups ((o - 0x400) / 0x40)
    let k := o % 0x40
    if k = 0 then flag g.valid 31 + flag g.bus 30 + field g.job 4 26 + field g.fields 12 12 + field (g.rects.length - 1) 3 0
    else if 0x20 ≤ k then
      match g.rects[(k - 0x20) / 4]? with
      | some (x0, x1, y0, y1) => field x0 6 26 + field x1 6 20 + field y0 5 15 + field y1 5 10
      | none => 0
    else 0
  else 0

/-- Active lanes of a port. -/
def Port.lanes (p : Port) : Nat := if p.state = 0 then 0 else (p.laneMap.filter fun l => decide (l < 9)).length

/-- ROLE of a port (R256): the direction of its pair, or the express port. -/
def portRole (n : Nat) : Nat :=
  [0, 0, 2, 2, 4, 4, 8, 9, 1, 1, 3, 3, 5, 5, 10, 11].getD n 15

/-- A port's role is used: its ring is longer than one device, or its express cable is named (R256, R411). -/
def State.portUsed (s : State) (n : Nat) : Bool :=
  let r := portRole n
  if 8 ≤ r then (match s.boot.bcr.exp[r - 8]? with | some (some _) => true | _ => false)
  else if r / 2 = 0 then decide (1 < s.fin.dx) else if r / 2 = 1 then decide (1 < s.fin.dy) else decide (1 < s.fin.dz)

/-- A port block (R279). -/
def readPort (s : State) (n o : Nat) : Nat :=
  let p := s.port n
  if o = 0x00 then field p.state 3 29 + field p.lanes 4 20 + flag p.spareUsed 19 +
                   field (if s.portUsed n then portRole n else 15) 4 12 + p.usable % 512
  else if o = 0x04 then sumNat ((List.range 8).map fun i => field (p.laneMap.getD i 15) 4 (4 * i))
  else if o = 0x08 then flag p.enable 0
  else if o = 0x0C then (match p.peer with | some (d, q) => 2 ^ 31 + field q 4 16 + d % 8192 | none => 0)
  else if 0x10 ≤ o ∧ o < 0x64 then look 0 p.ctr o
  else 0

/-- The Finron block (R280). -/
def readFinron (f : Finron) (o : Nat) : Nat :=
  if o = 0x00 then field (f.dx - 1) 5 8 + field (f.dy - 1) 4 4 + (f.dz - 1) % 16
  else if o = 0x04 then (match f.selfPos with | some (x, y, z) => 2 ^ 31 + field x 5 8 + field y 4 4 + z % 16 | none => 0)
  else if 0x100 ≤ o ∧ o < 0x200 then
    match f.req.find? fun e => e.1 == (o - 0x100) / 16 with
    | none => 0
    | some e =>
      if o % 16 < 8 then half e.2.base (o / 16 * 16) o
      else if o % 16 = 8 then 2 ^ 31 + flag e.2.anyDev 30 else lo32 e.2.len
  else if 0x1000 ≤ o ∧ o < 0x2000 then sumNat ((List.range 8).map fun k => field (look 0 f.posState (8 * ((o - 0x1000) / 4) + k)) 4 (4 * k))
  else if 0x8000 ≤ o then
    match f.route.find? fun e => e.1 == (o - 0x8000) / 4 with
    | none => 0
    | some e => 2 ^ 31 + flag e.2.exp.isSome 30 + field (e.2.exp.getD 0) 2 28 + field e.2.x 5 8 + field e.2.y 4 4 + e.2.z % 16
  else 0

/-- The services block (R315). -/
def readServices (v : Services) (o : Nat) : Nat :=
  if o = 0x00 then (match v.ident with | some d => 2 ^ 31 + d % 8192 | none => 0)
  else if o = 0x04 then v.homeId % 8192
  else if o = 0x08 ∨ o = 0x0C ∨ o = 0x10 ∨ o = 0x18 then look 0 v.ctr o
  else if 0x100 ≤ o ∧ o < 0x300 then
    if o % 8 = 0 then
      match v.aliases.find? fun e => e.1 == (o - 0x100) / 8 with
      | some (_, d, q) => 2 ^ 31 + field d 13 13 + q % 8192
      | none => 0
    else 0
  else if 0x1000 ≤ o ∧ o < 0x5000 then
    let g : Slot := look {} v.slots ((o - 0x1000) / 0x100)
    let k := o % 0x100
    if k = 0 then flag g.valid 31 + field g.rop 2 29 + flag g.root 28 + field (g.chunks - 1) 8 20 + field g.job 4 16 + g.gen % 65536
    else if k = 4 then field g.parent 13 7 + g.parentInput % 128
    else if k = 8 then field g.status 2 30 + field g.complete 9 21
    else if k = 0xC then g.sat
    else if k = 0x10 then g.dups
    else if 0x20 ≤ k ∧ k < 0x30 then bits (maskOf g.expect) (32 * ((k - 0x20) / 4) + 31) (32 * ((k - 0x20) / 4))
    else if k = 0x30 ∨ k = 0x34 then half g.dst 0x30 k
    else if 0x40 ≤ k ∧ k < 0x80 then half (g.notes.getD ((k - 0x40) / 8) 0) (k / 8 * 8) k
    else 0
  else 0

/-- The topology block (R33). -/
def readTopo (s : State) (o : Nat) : Nat :=
  if 0x600 ≤ o then
    if o = 0x600 then lo32 s.boot.epoch
    else if o = 0x604 then flag s.boot.first 1 + flag s.boot.renumbered 0
    else if o = 0x608 then s.boot.fences % 65536 else 0
  else
    let f := o / 0x80
    let t := s.topoOf f
    let k := o % 0x80
    if k = 0 then field t.goodRows 4 4 + f
    else if k = 4 then field t.resState 3 29 + field t.resSpare 4 16 + field t.resCarried 3 8 + t.resRow % 16
    else if k = 8 then sumNat ((List.range 9).map fun y => field (t.phys.getD y 0) 2 (2 * y))
    else if 0x10 ≤ k ∧ k < 0x30 then
      match t.rtt[(k - 0x10) / 4]? with
      | some e => field e.state 3 29 + field e.spare 4 16 + field e.assayRow 4 8 + e.row % 16
      | none => 0
    else if 0x40 ≤ k ∧ k < 0x64 then t.panPass.getD ((k - 0x40) / 4) 0 % 2 ^ 15
    else 0

/-- The host interface block (R424). -/
def readHif (s : State) (o : Nat) : Nat :=
  let h := s.hif
  if o = 0x00 then 0x00010000
  else if o = 0x04 then field h.lead 2 2 + flag h.ringOn 1 + flag s.takes 0
  else if o = 0x08 ∨ o = 0x0C then half h.ringBase 0x08 o
  else if o = 0x10 then flag h.ringOn 31 + h.ringLog % 32
  else if o = 0x14 then h.tail
  else if o = 0x18 then h.head
  else if o = 0x1C then h.coalesce
  else if o = 0x28 then bits (maskOf h.busy) 31 0
  else if o = 0x2C then bits (maskOf h.busy) 63 32
  else if o = 0x30 ∨ o = 0x34 then half h.aperture 0x30 o
  else if o = 0x38 then h.apertureErr
  else if o = 0x3C then h.doorbellIgnored
  else if o = 0x40 then h.takeovers
  else if o = 0x44 then min 4096 h.heldEntries.length
  else if o = 0x48 then h.headErr
  else 0

/-- REGION_CLK code (R371). -/
def clkCode : RegClk → Nat
  | .running => 0
  | .stopped => 1
  | .gated => 2

/-- The clock block (R371). -/
def readClock (s : State) (o : Nat) : Nat :=
  let c := s.clock
  if o = 0x00 then c.grade
  else if o = 0x04 then flag c.pending.isSome 31 + flag c.held.isSome 30 + field (c.held.getD 0) 4 4 + c.pending.getD 0
  else if o = 0x08 ∨ o = 0x0C then half c.slot 0x08 o
  else if o = 0x10 then c.changes
  else if o = 0x14 then flag c.locked 31 + flag c.master 30 + flag c.ptmValid 29 + c.parent % 8192
  else if o = 0x18 then lo32 c.tide
  else if o = 0x1C then c.nowHi
  else if o = 0x20 then unsigned 32 c.offset
  else if o = 0x24 then unsigned 32 c.rate
  else if o = 0x28 ∨ o = 0x2C then half (unsigned 64 c.ptmOffset) 0x28 o
  else if o = 0x30 then c.relocks
  else if 0x100 ≤ o ∧ o < 0x460 then
    let r := s.region ((o - 0x100) / 8)
    if o % 8 = 0 then field (clkCode r.clk) 3 29 + r.grade else r.stretch
  else if 0x500 ≤ o ∧ o < 0x560 then
    let f := s.fieldPwr ((o - 0x500) / 8)
    if o % 8 = 0 then f.bundStretch else f.bundPeriod
  else 0

/-- BOOT_STATUS [31:29] (R418). -/
def bootCode : BootState → Nat
  | .inProgress => 0
  | .ready => 1
  | .notReady => 2
  | .refused => 3
  | .fatal => 4

/-- The bring-up block (R418). -/
def readBoot (b : Boot) (o : Nat) : Nat :=
  if o = 0x00 then field (bootCode b.state) 3 29 + field b.phase 4 4 + flag b.warm 2 + flag b.quick 1
  else if o = 0x04 then b.cause % 1024
  else if o = 0x08 ∨ o = 0x0C then half b.readyTide 0x08 o
  else if o = 0x10 then b.listUsed % 2 ^ 15
  else 0

/-- The throttle level in force in a region: the highest of the four demands (R378), but the device cap level alone from the start of the
region's oscillator until the current loop's next step (R382, R383). -/
def State.throttle (s : State) (r : Nat) : Nat :=
  let x := s.region r
  if x.fresh then s.power.cap
  else max (max s.power.cap (s.fieldPwr (r / 9)).level) (max x.thermal x.phaseLevel)

/-- REGION_PWR code (R395). -/
def pwrCode : RegPwr → Nat
  | .running => 0
  | .rested => 1
  | .waking => 2
  | .gated => 3

/-- Energy charged to a job slot since job create. -/
def State.jobEnergy (s : State) (j : Nat) : Nat := match s.job? j with | some x => x.regionUj + x.sharedUj | none => 0

/-- The power block (R395). -/
def readPower (s : State) (o : Nat) : Nat :=
  let w := s.power
  if o = 0x00 then field w.hostLimit 16 16 + w.limit % 65536
  else if o = 0x04 then w.window % 8192
  else if o = 0x08 then field w.avg 16 16 + w.now % 65536
  else if o = 0x0C then field w.cap 6 20 + field w.gradeMax 4 16 + min 255 w.overs
  else if o = 0x10 then flag w.budget.joined 31 + flag w.budget.keeper 30 + field w.budget.keeperId 13 16 + w.budget.group % 65536
  else if o = 0x14 then field w.budget.upper 16 16 + w.budget.lower % 65536
  else if o = 0x18 then w.budget.slack % 65536
  else if o = 0x1C then w.capEvents
  else if o = 0x20 then w.excursions
  else if o = 0x24 then w.rests
  else if o = 0x28 then w.slowWakes
  else if o = 0x30 then lo32 w.devUj
  else if o = 0x34 then w.devHi
  else if 0x100 ≤ o ∧ o < 0x100 + 0x20 * 108 then
    let i := (o - 0x100) / 0x20
    let r := s.region i
    let k := o % 0x20
    if k = 0 then field (pwrCode r.pwr) 3 29 + flag r.limited 28 + field (s.throttle i) 6 22 + r.phases % 4096
    else if k = 4 then unsigned 16 r.temp
    else if k = 8 then r.current % 65536
    else if k = 0xC then r.minvAll % 1024
    else if k = 0x10 then r.throttled
    else if k = 0x14 then r.minvHead % 16
    else 0
  else if 0xE80 ≤ o ∧ o < 0xEE0 then
    let f := s.fieldPwr ((o - 0xE80) / 8)
    if o % 8 = 0 then f.current % 65536
    else match f.wake with
      | some (r, .ramp, _, _) => 2 ^ 7 + r % 128
      | _ => 0x7F
  else if 0xF00 ≤ o ∧ o < 0x1000 then
    let j := (o - 0xF00) / 16
    if o % 16 = 0 then lo32 (s.jobEnergy j) else if o % 16 = 4 then look 0 w.jobHi j else 0
  else if 0x1000 ≤ o ∧ o < 0x1000 + 0x100 * 108 then
    let e : MinvEntry := look {} (s.region ((o - 0x1000) / 0x100)).minv (o % 0x100 / 16)
    let k := o % 16
    if k = 0 then flag e.off 31 + field e.stretch 2 20 + field e.grade 4 16 + e.mv % 1024
    else if k = 4 then lo32 e.tide else if k = 8 then hi32 e.tide else 0
  else 0

/-- A fault record as 64 bytes (R451). -/
def recordBytes (e : LogRec) : List Byte :=
  let r := e.record
  leBytes (field r.type 8 24 + field r.cls 4 20 + r.code % 65536) 4 ++ leBytes (field r.unitCls 4 28 + r.unitIdx % 65536) 4 ++
  leBytes e.seq 8 ++ leBytes r.tide 8 ++ leBytes r.addr 8 ++ leBytes r.detail 4 ++
  leBytes (field (min 65535 e.repeats) 16 16 + r.jobs % 65536) 4 ++
  leBytes (match r.src with | some x => 2 ^ 31 + x % 2 ^ 28 | none => 0) 4 ++ leBytes r.epoch 4 ++ List.replicate 16 0

/-- The oldest number the log holds, 0 when empty (R469). -/
def Faults.oldest (f : Faults) : Nat := match f.log.getLast? with | some e => e.seq | none => 0

/-- The gauge and fault block (R469). -/
def readFaults (s : State) (o : Nat) : Nat :=
  let f := s.faults
  if o = 0x00 then lo32 f.next
  else if o = 0x04 then f.nextHi
  else if o = 0x08 then lo32 f.oldest
  else if o = 0x0C then f.oldestHi
  else if 0x10 ≤ o ∧ o < 0x30 then look 0 f.classes ((o - 0x10) / 4)
  else if o = 0x30 then f.lost
  else if o = 0x34 then f.late
  else if o = 0x38 then flag f.fatal.isSome 31
  else if 0x40 ≤ o ∧ o < 0x80 then (match f.fatal with | some e => leNat (((recordBytes e).drop (o - 0x40)).take 4) | none => 0)
  else if 0x100 ≤ o ∧ o < 0x500 then
    let g := s.gauge ((o - 0x100) / 16)
    if o % 16 = 0 then flag g.enabled 31 + (if g.enabled then field g.desc.kind 2 24 + field g.desc.source 8 16 + g.desc.index % 65536 else 0)
    else if o % 16 = 4 then g.ring.length
    else if o % 16 = 8 then (match g.opens.find? fun e => e.1 == s.now / g.desc.windowNs with | some e => min 0xFFFFFFFF e.2.count | none => 0)
    else 0
  else 0

/-- The MSI-X table: an entry's vector control reads masked until the host writes it. -/
def readMsix (h : HostIf) (o : Nat) : Nat := look (if o % 16 = 12 then 1 else 0) h.msixTable (o / 4)

/-- A 32-bit register as it reads. -/
def readReg (s : State) : Block → Nat → Nat
  | .seq p, o => readSeq (s.pan p) o
  | .prog p, o => readProg (s.pan p) o
  | .lat p, o => readLat (s.pan p) o
  | .arith p, o => readArith (s.pan p) o
  | .haul c, o => readHaul (s.haul c) o
  | .store p, o => readStore s p o
  | .debug _, _ => 0
  | .slice i, o => readSlice (s.slice i) o
  | .chan c, o => readChan (s.chan c) o
  | .memdev, o => readMemdev s o
  | .router gx gy, o => readRouter s gx gy o
  | .net, o => readNet s.net o
  | .port n, o => readPort s n o
  | .finron, o => readFinron s.fin o
  | .services, o => readServices s.svc o
  | .topo, o => readTopo s o
  | .hif, o => readHif s o
  | .slots, o => readLE s.slotMem o 4
  | .clock, o => readClock s o
  | .boot, o => readBoot s.boot o
  | .power, o => readPower s o
  | .faults, o => readFaults s o
  | .msix, o => readMsix s.hif o
  | .pba, o => bits (maskOf s.hif.pendingBits) (8 * o + 31) (8 * o)

/-- The side of a read: an RC register clears, an LO half latches its HI (R8). `hakar`: the reader is a Hakar core, which
alone clears the arithmetic counters (R67). -/
def readSide (hakar : Bool) (s : State) : Block → Nat → State
  | .seq p, o => if 0x28 ≤ o ∧ o ≤ 0x38 then s.modPan p fun x => { x with ctr := put (0x3000 + o) 0 x.ctr } else s
  | .lat p, o => if (0x04 ≤ o ∧ o ≤ 0x1C) ∨ o = 0x24 then s.modPan p fun x => { x with ctr := put (0x2000 + o) 0 x.ctr } else s
  | .arith p, o => if hakar ∧ o ≤ 0x14 then s.modPan p fun x => { x with ctr := put (0x1000 + o) 0 x.ctr } else s
  | .haul c, o =>
    if o = 0x28 then s.modHaul c fun h => { h with readUnits := 0 }
    else if o = 0x2C then s.modHaul c fun h => { h with writeUnits := 0 }
    else if o = 0x30 then s.modHaul c fun h => { h with errors := 0 }
    else s
  | .store p, o => if 0x40 ≤ o ∧ o ≤ 0x5C then s.modPan p fun x => { x with ctr := put (0x4000 + o) 0 x.ctr } else s
  | .slice i, o => if 0x14 ≤ o ∧ o ≤ 0x2C then s.modSlice i fun x => { x with ctr := put o 0 x.ctr } else s
  | .chan c, o => if 0x0C ≤ o ∧ o ≤ 0x24 then s.modChan c fun x => { x with ctr := put o 0 x.ctr } else s
  | .router gx gy, o => if 0x20 ≤ o ∧ o ≤ 0x48 then s.modRouter gx gy fun r => { r with ctr := put o 0 r.ctr } else s
  | .port n, o => if 0x10 ≤ o ∧ o < 0x64 then s.modPort n fun p => { p with ctr := put o 0 p.ctr } else s
  | .services, o =>
    if o = 0x08 ∨ o = 0x0C ∨ o = 0x10 ∨ o = 0x18 then { s with svc := { s.svc with ctr := put o 0 s.svc.ctr } }
    else if 0x1000 ≤ o ∧ o < 0x5000 ∧ o % 0x100 = 0x10 then s.modSlot ((o - 0x1000) / 0x100) fun g => { g with dups := 0 }
    else s
  | .hif, o =>
    if o = 0x38 then s.modHif fun h => { h with apertureErr := 0 }
    else if o = 0x3C then s.modHif fun h => { h with doorbellIgnored := 0 }
    else if o = 0x48 then s.modHif fun h => { h with headErr := 0 }
    else s
  | .clock, o =>
    if o = 0x10 then s.modClock fun c => { c with changes := 0 }
    else if o = 0x18 then s.modClock fun c => { c with nowHi := hi32 c.tide }
    else if o = 0x30 then s.modClock fun c => { c with relocks := 0 }
    else if 0x100 ≤ o ∧ o < 0x460 ∧ o % 8 = 4 then s.modRegion ((o - 0x100) / 8) fun r => { r with stretch := 0 }
    else if 0x500 ≤ o ∧ o < 0x560 ∧ o % 8 = 0 then s.modField ((o - 0x500) / 8) fun f => { f with bundStretch := 0 }
    else s
  | .power, o =>
    if o = 0x1C then s.modPower fun w => { w with capEvents := 0 }
    else if o = 0x20 then s.modPower fun w => { w with excursions := 0 }
    else if o = 0x24 then s.modPower fun w => { w with rests := 0 }
    else if o = 0x28 then s.modPower fun w => { w with slowWakes := 0 }
    else if o = 0x30 then s.modPower fun w => { w with devHi := hi32 w.devUj }
    else if 0x100 ≤ o ∧ o < 0x100 + 0x20 * 108 ∧ o % 0x20 = 0xC then s.modRegion ((o - 0x100) / 0x20) fun r => { r with minvAll := 0x3FF }
    else if 0x100 ≤ o ∧ o < 0x100 + 0x20 * 108 ∧ o % 0x20 = 0x10 then s.modRegion ((o - 0x100) / 0x20) fun r => { r with throttled := 0 }
    else if 0xF00 ≤ o ∧ o < 0x1000 ∧ o % 16 = 0 then
      s.modPower fun w => { w with jobHi := put ((o - 0xF00) / 16) (hi32 (s.jobEnergy ((o - 0xF00) / 16))) w.jobHi }
    else s
  | .faults, o =>
    if o = 0x00 then s.modFaults fun f => { f with nextHi := hi32 f.next }
    else if o = 0x08 then s.modFaults fun f => { f with oldestHi := hi32 f.oldest }
    else if 0x10 ≤ o ∧ o < 0x30 then s.modFaults fun f => { f with classes := put ((o - 0x10) / 4) 0 f.classes }
    else if o = 0x30 then s.modFaults fun f => { f with lost := 0 }
    else if o = 0x34 then s.modFaults fun f => { f with late := 0 }
    else s
  | _, _ => s

/-- Read registers in order: their bytes and the state after. -/
def readRegs (hakar : Bool) : List (Block × Nat) → State → List Byte × State
  | [], s => ([], s)
  | (b, o) :: rest, s =>
    let r := readRegs hakar rest (readSide hakar s b o)
    (leBytes (readReg s b o) 4 ++ r.1, r.2)

end Sys2Proof.Machine
end

