-- ==== Sys2Proof/Machine/Registers.lean ====
section
/-! DEFINITION. Writes to registers, by BAR0 and by control space (R8, R285, R287), and the rows REGISTER_WRITE and RC_READ. -/

namespace Sys2Proof.Machine
open Sys2Proof

/-- The sequencer runs or waits, so its program store and swizzle ignore writes (R99, R145). -/
def Seq.busy (q : Seq) : Bool := q.mode == .running || q.mode == .waiting

/-- The sequencer block (R140). A write of GO and STOP together is taken as STOP (R101). -/
def writeSeq (p o v : Nat) (s : State) : State :=
  if o = 0x00 then s.modSeq p fun q => { q with entry := v % 2 ^ 13 }
  else if o = 0x04 then
    if bit v 1 then stop p s else if bit v 0 then go p s else s
  else if o = 0x0C then s.modSeq p fun q => { q with progLen := v % 2 ^ 14 }
  else if o = 0x20 then (if bit v 0 then faultClear p s else s)
  else if o = 0x24 then s.modSeq p fun q => { q with waitLimit := v % 2 ^ 32 }
  else if o = 0x3C then semClear p (v % 2 ^ 16) s
  else if 0x80 ≤ o ∧ o < 0xC0 then semAdd p ((o - 0x80) / 4) (v % 2 ^ 16) s
  else if 0xC0 ≤ o ∧ o < 0x140 then
    s.modSeq p fun q =>
      let t := (o - 0xC0) / 8
      let old := (look (0 : W64) q.ntt t).toNat
      { q with ntt := put t (BitVec.ofNat 64 (if o % 8 = 0 then setLo old v else setHi old v)) q.ntt }
  else s

/-- The program store (R99). -/
def writeProg (p o v : Nat) (s : State) : State :=
  s.modSeq p fun q =>
    if q.busy then q
    else
      let old := (look (0 : Bundle) q.program (o / 16)).toNat
      let k := 8 * (o % 16)
      { q with program := put (o / 16) (BitVec.ofNat 128 (old - (bits old (k + 31) k) <<< k + (v % 2 ^ 32) <<< k)) q.program }

/-- A haul channel's registers (R202, R205). -/
def writeHaul (c : HaulId) (o v : Nat) (s : State) : State :=
  let m := (s.haul c).mode
  let busy := m == .running || m == .pausing || m == .stopping
  let keep (f : Haul → Haul) : State := if busy then s else s.modHaul c f
  if o = 0x00 then keep fun h => { h with src := setLo h.src v }
  else if o = 0x04 then keep fun h => { h with src := setHi h.src v }
  else if o = 0x08 then keep fun h => { h with dst := setLo h.dst v }
  else if o = 0x0C then keep fun h => { h with dst := setHi h.dst v }
  else if o = 0x10 then keep fun h => { h with count := v % 2 ^ 32 }
  else if o = 0x14 then
    let top := if haulIsPan c then bits v 23 20 else bits v 25 20
    let s1 := keep fun h => { h with ctrl := top * 2 ^ 20 + v % 256 }
    -- PAUSE together with START is taken alone (R219)
    let s2 := if bit v 31 && !bit v 30 then haulStart c s1 else s1
    let h := s2.haul c
    let s3 := if bit v 30 && h.mode == .running then
        haulSettle c (haulWrites c (bufferedWrites h) (s2.modHaul c fun h => { h with mode := .pausing })) else s2
    haulAfter s3
  else s

/-- The pan store block (R171). -/
def writeStore (p o v : Nat) (s : State) : State :=
  if 0x10 ≤ o ∧ o < 0x24 then
    s.modPan p fun x =>
      if x.seq.busy then x else { x with store := { x.store with swz := setAt x.store.swz ((o - 0x10) / 4) (v % 2 ^ 12) } }
  else if o = 0x24 then bankSleep p (v % 2 ^ 32) s
  else if o = 0x28 then (bitList 32 v).foldl (wakeBank p) s
  else if o = 0x34 then winClose p (v % 2 ^ 16) s
  else if o = 0x78 then (if bit v 0 then s.modStore p fun st => { st with ce := [] } else s)
  else s

/-- A register's write (R8): what its access code and its meaning give; RO, RC and reserved ones are ignored. `hakar`: the
writer is a Hakar core. -/
def writeReg (hakar : Bool) (b : Block) (o v : Nat) (s : State) : State :=
  match b with
  | .seq p => writeSeq p o v s
  | .prog p => writeProg p o v s
  | .arith p => if o = 0x1C && bit v 0 then s.modPan p fun x => { x with ovfLog := [] } else s
  | .haul c => writeHaul c o v s
  | .store p => writeStore p o v s
  | .slice i =>
    if o = 0x04 then
      let s1 := if bit v 0 then sliceSleep i hakar s else s
      if bit v 1 then sliceWake i s1 else s1
    else if o = 0x34 && bit v 0 then s.modSlice i fun x => { x with ce := [] } else s
  | .chan c => if o = 0x30 && bit v 0 then s.modChan c fun x => { x with ce := [] } else s
  | .port n => if o = 0x08 then s.modPort n fun p => { p with enable := bit v 0 } else s
  | .services => if o = 0x14 then barrierArrive (bits v 5 0) (bits v 12 6) none s else s
  | .hif =>
    if o = 0x08 then (if s.hif.ringOn then s else s.modHif fun h => { h with ringBase := setLo h.ringBase (v % 2 ^ 32 / 4096 * 4096) })
    else if o = 0x0C then (if s.hif.ringOn then s else s.modHif fun h => { h with ringBase := setHi h.ringBase v })
    else if o = 0x10 then ringCtl (bit v 31) (v % 32) s
    else if o = 0x18 then ringHead (v % 2 ^ 32) s
    else if o = 0x1C then s.modHif fun h => { h with coalesce := v % 1024 }
    else if o = 0x20 then doorbell (v % 64) s
    else if o = 0x30 then apertureWrite false v s
    else if o = 0x34 then apertureWrite true v s
    else s
  | .slots => slotWrite o (leBytes v 4) s
  | .msix => msixWrite o v s
  | _ => s

/-- The registers any source may write (R287): SEM_NOTIFY, and ARRIVE, COMMIT_IN and COMMIT_BOUNCE of the services block. -/
def openReg : Block → Nat → Bool
  | .seq _, o => decide (0x80 ≤ o) && decide (o < 0xC0)
  | .services, o => o == 0x14 || (decide (0x20 ≤ o) && decide (o < 0x40))
  | _, _ => false

/-- Queue a commit record for Hakar: COMMIT_IN holds 64 (R300). The Bool says whether there was room. -/
def queueCommit (dev : Nat) (c : CommitRecord) (s : State) : Bool × State :=
  if s.svc.commitIn.length < 64 then (true, { s with svc := { s.svc with commitIn := s.svc.commitIn ++ [(dev, c)] } })
  else (false, s.bumpSvc svcCommitRefuse 1)

/-- Queue a bounced record: COMMIT_BOUNCE holds 64, and one more is discarded and counted (R300). -/
def queueBounce (dev : Nat) (c : CommitRecord) (s : State) : State :=
  if s.svc.bounced.length < 64 then { s with svc := { s.svc with bounced := s.svc.bounced ++ [(dev, c, s.now)] } }
  else s.bumpSvc svcCommitRefuse 1

/-- The registers of `n` words of control space from an offset up, or the cause of the first that is refused. -/
def State.controlWords (s : State) (src : Nat) : Nat → Nat → Except Nat (List (Block × Nat))
  | 0, _ => .ok []
  | n + 1, off =>
    match s.controlBlock src off, s.controlWords src n (off + 4) with
    | .error c, _ => .error c
    | _, .error c => .error c
    | .ok b, .ok l => .ok (b :: l)

/-- The registers a control-space access covers, or the cause of its refusal (R285, R287): it may run on from one block into the next. An
access that is not of whole words is refused with REFUSED (DEDUCED, log 99). -/
def State.controlSpan (s : State) (src off n : Nat) : Except Nat (List (Block × Nat)) :=
  if off % 4 ≠ 0 ∨ n % 4 ≠ 0 then .error Cause.refused else s.controlWords src (n / 4) off

/-- The 32-bit words of a write to registers, in increasing order. -/
def writeWords (hakar : Bool) : List (Block × Nat) → List Byte → State → State
  | [], _, s => s
  | (b, o) :: rest, bs, s => writeWords hakar rest (bs.drop 4) (writeReg hakar b o (leNat (bs.take 4)) s)

/-- A source may write a register (R287). -/
def State.mayWrite (s : State) (src : Nat) (r : Block × Nat) : Bool := s.ownControl src || s.debugOpen src || openReg r.1 r.2

/-- A control-space write (R287): the cause, 0 when performed, and the state. A 16-byte write of COMMIT_IN or COMMIT_BOUNCE
queues a record. -/
def controlWrite (src off : Nat) (bs : List Byte) (s : State) : Nat × State :=
  match s.controlSpan src off bs.length with
  | .error c => (c, s)
  | .ok l =>
    if !l.all (s.mayWrite src) then (Cause.refused, s)
    else if l.head? = some (.services, 0x20) ∧ bs.length = 16 then
      let r := queueCommit (srcDevice src) (commitOf bs) s
      (if r.1 then 0 else Cause.refused, r.2)
    else if l.head? = some (.services, 0x30) ∧ bs.length = 16 then (0, queueBounce (srcDevice src) (commitOf bs) s)
    else (0, writeWords (s.ownHakar src) l bs s)

/-- A control-space read (R287): the cause, the bytes and the state after. -/
def controlRead (src off n : Nat) (s : State) : Nat × List Byte × State :=
  match s.controlSpan src off n with
  | .error c => (c, [], s)
  | .ok l => let r := readRegs (isHakar src) l s; (0, r.1, r.2)

/-- REGISTER_WRITE (R8): one 32-bit register; an address with bit 63 set is refused before it is issued (R281). -/
def registerWrite (path : RegPath) (v : Nat) (s : State) : State :=
  match path with
  | .bar0 o => (match bar0Block (o / 4 * 4) with | some (b, k) => writeReg false b k v s | none => s)
  | .control src a => if s.isOwn a && addrSpace a == 3 && !bit a 63 then (controlWrite src (addrOffset a) (leBytes v 4) s).2 else s

def execRegisterWrite (path : RegPath) (v : Nat) : State → Host.Outcome State Fault Refusal :=
  act (decide (v < 2 ^ 32)) (registerWrite path v)

/-- RC_READ (R8): the side of a read. -/
def rcRead (path : RegPath) (s : State) : State :=
  match path with
  | .bar0 o => (match bar0Block (o / 4 * 4) with | some (b, k) => readSide false s b k | none => s)
  | .control src a => if s.isOwn a && addrSpace a == 3 && !bit a 63 then (controlRead src (addrOffset a) 4 s).2.2 else s

def execRcRead (path : RegPath) : State → Host.Outcome State Fault Refusal := act true (rcRead path)

end Sys2Proof.Machine
end

