-- ==== Sys2Proof/Machine/Net.lean ====
section
/-! DEFINITION. The bund network (chapter 8): units and their buffers, the grant of an output lane and one hop of a unit, router
failure, the arrival of a packet at its target, group writes and their acknowledgement. -/

namespace Sys2Proof.Machine
open Sys2Proof

/-! ### Units (R228, R229) -/

/-- The 160-bit control field of a packet's head unit (R229). -/
def headField (k : Packet) : BitVec 160 :=
  BitVec.ofNat 160 (field k.addr 64 96 + field k.src 28 68 + field k.tag 12 56 + field k.op 6 50 + field k.bytes 10 40 + field k.vc 2 38 +
    field k.lane 1 37 + flag k.detour 36 + field k.dgx 6 30 + field k.dgy 5 25 + field k.sgx 6 19 + field k.sgy 5 14 +
    field k.status 8 6 + flag (k.marks.getD 0 false) 5 + flag true 4 + flag (decide (Packet.units k (Packet.carried k) = 1)) 3)

/-- The control field of unit u of a packet: the header in the head unit, and VC, LANE, MARK, HEAD and TAIL alone in the others
(R228). -/
def unitField (k : Packet) (u : Nat) : BitVec 160 :=
  if u = 0 then headField k
  else BitVec.ofNat 160 (field k.vc 2 38 + field k.lane 1 37 + flag (k.marks.getD u false) 5 + flag (decide (u + 1 = Packet.units k (Packet.carried k))) 3)

/-- The 64 data bytes of unit u: byte ADDR + i lies at position (ADDR + i) mod 64 of its unit (R228); a position the packet gives no
byte is free to hold anything and reads 0 here. -/
def unitData (k : Packet) (u : Nat) : List Byte :=
  (List.range 64).map fun j =>
    let i := 64 * u + j
    if k.addr % 64 ≤ i && decide (i < k.addr % 64 + (Packet.carried k)) then k.data.getD (i - k.addr % 64) 0 else 0

/-- What a head unit's control field says (R229): the packet's header, its data and later marks apart. -/
def headOf (v : BitVec 160) : Packet :=
  let n := v.toNat
  { op := bits n 55 50, vc := bits n 39 38, addr := bits n 159 96, src := bits n 95 68, tag := bits n 67 56, bytes := bits n 49 40
    status := bits n 13 6, lane := bits n 37 37, detour := bit n 36, dgx := bits n 35 30, dgy := bits n 29 25, sgx := bits n 24 19
    sgy := bits n 18 14 }

/-! ### Validity and hops (R226, R230, R237 to R241) -/

/-- The router that receives a packet finds its fields sound (R230); VC 0b11 is reserved (R229). -/
def packetValid (k : Packet) : Bool := opChannel k.op == some k.vc && bytesOk k && fieldsOk k

/-- Take a packet out of the network, with the output lanes it holds. -/
def dropTransit (id : Nat) (s : State) : State :=
  s.modNet fun n =>
    { n with
      flight := n.flight.filter fun t => t.id != id
      routers := n.routers.map fun (e : Nat × Router) => (e.1, { e.2 with held := e.2.held.filter fun h => h.2 != some id }) }

/-- The packet as the network holds it, if it does. -/
def State.transitOf (s : State) (k : Packet) : Option Transit := s.net.flight.find? fun t => t.k == k

/-- Take a packet out of the network, if it stands there. -/
def takePacket (k : Packet) (s : State) : State :=
  match s.transitOf k with | some t => dropTransit t.id s | none => s

/-- A packet is discarded at a router with a reserved or invalid field (R230). -/
def discardAt (gx gy : Nat) (k : Packet) (s : State) : State :=
  let s1 := (takePacket k s).bumpRouter gx gy rtrDiscard 1
  report { type := RecType.router, cls := 2, unitCls := UnitCls.router, unitIdx := gy * 60 + gx
           detail := look 0 (s1.router gx gy).ctr rtrDiscard } s1

/-- What one hop of a packet is: it stands at its destination, it waits, or it leaves by an output port to a router. -/
inductive Hop where
  | here
  | wait
  | to (out gx gy : Nat)
deriving DecidableEq, Repr

/-- One place along a line toward `d`. -/
def toward (a d : Nat) : Nat := if a < d then a + 1 else a - 1

/-- One hop along the row toward column d (R237, R238): a failed neighbour is crossed by the skip port unless the leg ends there. -/
def State.rowHop (s : State) (gx gy d : Nat) : Hop :=
  let n := toward gx d
  let dir := if gx < d then 0 else 1
  if s.routerFailed n gy then (if n = d then .wait else .to (4 + dir) (toward n d) gy) else .to dir n gy

/-- One hop along the column toward row d. -/
def State.colHop (s : State) (gx gy d : Nat) : Hop :=
  let n := toward gy d
  let dir := if gy < d then 3 else 2
  if s.routerFailed gx n then (if n = d then .wait else .to (4 + dir) gx (toward n d)) else .to dir gx n

/-- The turn column of a detour to column d (R239). -/
def turnColumn (d : Nat) : Nat := if d % 15 = 0 then d + 1 else d - 1

/-- The next hop of a packet on a detour, with whether it is then on the detour network (R239). -/
def State.detourHop (s : State) (k : Packet) : Hop × Bool :=
  let t := turnColumn k.dgx
  if k.onDetour then (if k.gx = k.dgx then (.here, true) else (s.rowHop k.gx k.gy k.dgx, true))
  else if k.gx = k.dgx && k.gy = k.dgy then (.here, false)
  else if k.gx ≠ t then (s.rowHop k.gx k.gy t, false)
  else if k.gy ≠ k.dgy then (s.colHop k.gx k.gy k.dgy, false)
  else (s.rowHop k.gx k.gy k.dgx, true)

/-- The next hop of a packet from where `gx`, `gy` and `onDetour` say that it stands (R237 to R241): the hop, whether DETOUR is set
here, and whether it is then on the detour network. A group write stays with the router that injected it. -/
def State.nextHop (s : State) (k : Packet) : Hop × Bool × Bool :=
  if Packet.isMulti k then (.here, false, false)
  else if k.detour then let h := s.detourHop k; (h.1, false, h.2)
  else if k.gx ≠ k.dgx then
    if toward k.gx k.dgx = k.dgx && s.routerFailed k.dgx k.gy then
      -- the turn router has failed: wait until ROW_DEAD names it, then detour from here (R241)
      if k.gy ≠ k.dgy && s.rowDeadBit k.gy k.dgx then let h := s.detourHop { k with detour := true }; (h.1, true, h.2)
      else (.wait, false, false)
    else (s.rowHop k.gx k.gy k.dgx, false, false)
  else if k.gy ≠ k.dgy then (s.colHop k.gx k.gy k.dgy, false, false)
  else (.here, false, false)

/-- The counter of units sent on a virtual channel (R253). -/
def unitsCtr (vc : Nat) : Nat := if vc = 0 then rtrUrgent else if vc = 1 then rtrRequest else rtrResponse

/-! ### Router failure (R227, R240 to R242) -/

/-- The edge attachment a router serves: its code in an EDGE record, and its other router, if it has one (R227). -/
def attachmentOf (gx gy : Nat) : Option (Nat × Option (Nat × Nat)) :=
  if gx = 0 && gy = 13 then some (0x20, none)
  else if gx = 0 && gy = 14 then some (0x21, none)
  else
    let pick (code : Nat) (r0 r1 : Nat × Nat) : Option (Nat × Option (Nat × Nat)) :=
      if (gx, gy) = r0 then some (code, some r1) else if (gx, gy) = r1 then some (code, some r0) else none
    ((List.range 16).map fun n => pick n (finronRouter n 0) (finronRouter n 64)).foldl (fun o x => o <|> x) none <|>
      ((List.range 6).map fun g => pick (0x10 + g) (cellarRouter g 0) (cellarRouter g 64)).foldl (fun o x => o <|> x) none

/-- Failed neighbours, or a failed router in another's turn column: the mesh is not usable (R240). -/
def State.meshBroken (s : State) : Bool :=
  let failed := (s.net.routers.filter fun e => e.2.state != 0).map fun e => (e.1 % 60, e.1 / 60)
  failed.any fun a => failed.any fun b =>
    (a.1 == b.1 && a.2 + 1 == b.2) || (a.2 == b.2 && a.1 + 1 == b.1) || (turnColumn a.1 == b.1)

/-- The mesh skip link that a neighbour in a direction must engage failed at assay (R405). -/
def State.skipBad (s : State) (gx gy : Nat) : Bool :=
  -- the neighbour east of the failed router reaches across it westward, and so on round
  (decide (gx < 59) && s.net.badSkips.contains ((gy * 60 + gx + 1) * 4 + 1)) || (decide (0 < gx) && s.net.badSkips.contains ((gy * 60 + gx - 1) * 4)) ||
  (decide (gy < 26) && s.net.badSkips.contains (((gy + 1) * 60 + gx) * 4 + 2)) ||
  (decide (0 < gy) && s.net.badSkips.contains (((gy - 1) * 60 + gx) * 4 + 3))

/-- A job's end routers (R242). An even lot makes every position one. -/
def State.jobEnds (s : State) (j : Nat) (x : Job) : List (Nat × Nat) :=
  let pans := (x.regions.filterMap s.physRegion).map regionPans
  let slices := (s.memdev.lots.filter fun e => e.2.job == j).map fun e =>
    match e.2 with
    | .near _ _ count first => (List.range count).map fun i => bits (look 0 s.memdev.ext (first + i)) 15 5
    | .even _ _ _ => List.range 1620
  let cellar : List (Nat × Nat) := if s.memdev.cellarLots.any fun l => l.job == j then
      ((List.range 6).map fun g => [cellarRouter g 0, cellarRouter g 64]).flatten else []
  let finron : List (Nat × Nat) := if (match x.image with | some im => decide (1 < im.members.length) | none => false) then
      ((List.range 16).map fun n => [finronRouter n 0, finronRouter n 64]).flatten else []
  ((pans ++ slices).flatten.map fun p => (meshX p, meshY p)) ++ cellar ++ finron ++ [controlRouter]

/-- The jobs that touch a router (R242). -/
def State.jobsTouching (s : State) (gx gy : Nat) : List Nat :=
  (s.jobs.filter fun e => (s.jobEnds e.1 e.2).any fun r => r.1 == gx || r.2 == gy).map (·.1)

/-- ROUTER_FAIL (R241): neighbours engage their skip ports, held packets are lost, and the pan and slice beneath fail. -/
def routerFail (gx gy : Nat) (s : State) : State :=
  if s.routerFailed gx gy then s
  else
    let p := posAt gx gy
    let jobs := maskOf (s.jobsTouching gx gy)
    -- the packets held in it are lost, and a group write whose responses would pass it
    let lost := s.net.flight.filter fun t => t.units.any fun u => u.any fun a => a.gx == gx && a.gy == gy
    let s1 := ((foldState lost (fun t e => dropTransit e.id t) s).modRouter gx gy fun r => { r with state := 2 }).modNet fun n =>
      { n with
        failedEpoch := min 2047 (n.failedEpoch + 1)
        combine := n.combine.filter fun c => !(c.gx == gx && c.gy == gy) && !c.waiting.contains (gx, gy) &&
          !c.links.any fun l => l.2.gx == gx && l.2.gy == gy }
    let s2 := failSlice p 0 (panFault p PanCode.hwCheck 7 none s1)
    let fatal := s2.meshBroken || s2.skipBad gx gy
    let s3 := report { type := RecType.router, cls := if fatal then 7 else 5, code := 1, unitCls := UnitCls.router
                       unitIdx := gy * 60 + gx, detail := look 0 (s2.router gx gy).ctr rtrDiscard, jobs := jobs } s2
    match attachmentOf gx gy with
    | none => s3
    | some (code, other) =>
      report { type := RecType.edge, cls := if other.isNone then 7 else 0, code := code, unitCls := UnitCls.router
               unitIdx := gy * 60 + gx, jobs := jobs } s3

def execRouterFail (gx gy : Nat) : State → Host.Outcome State Fault Refusal :=
  act (decide (gx < 60) && decide (gy < 27)) (routerFail gx gy)

/-- ROW_DEAD_SET (R241 step 2): the failed router's bit in ROW_DEAD of every router of its row. -/
def rowDeadSet (gx gy : Nat) (s : State) : State :=
  if s.routerFailed gx gy then
    s.modNet fun n => { n with rowDead := upd 0 gy (fun m => m ||| 2 ^ gx) n.rowDead }
  else s

def execRowDeadSet (gx gy : Nat) : State → Host.Outcome State Fault Refusal :=
  act (decide (gx < 60) && decide (gy < 27)) (rowDeadSet gx gy)

/-! ### Buffers, credits and grants (R231, R233, R234) -/

/-- The input port at the other end of the link of an output port: a unit sent east comes in at a west port. -/
def farPort (out : Nat) : Nat := if out % 2 = 0 then out + 1 else out - 1

/-- Units that the buffer of a channel at the far end of a link holds (R231): a link that crosses a seam has twice the depth. -/
def bufferDepth (vc gx gy gx1 gy1 : Nat) : Nat :=
  (if vc = 0 then 4 else 16) * (if gx / 15 = gx1 / 15 && gy / 9 = gy1 / 9 then 1 else 2)

/-- A unit stands in an input buffer of a router. -/
def UnitAt.inBuffer (u : UnitAt) (gx gy port : Nat) (detour : Bool) : Bool :=
  u.gx == gx && u.gy == gy && u.port == port && u.detour == detour

/-- The units in a buffer, which is one channel and lane of an input port, of the detour network or not. -/
def State.bufferUnits (s : State) (gx gy port : Nat) (detour : Bool) (vc lane : Nat) : List UnitAt :=
  (s.net.flight.filter fun t => t.k.vc == vc && t.k.lane == lane).flatMap fun t =>
    t.units.filterMap fun u => u.filter fun a => a.inBuffer gx gy port detour

/-- A unit that an output lane may send: its packet, its place in it and in the router, its hop, and what the hop does to DETOUR. -/
structure Ready where
  t : Transit
  i : Nat
  u : UnitAt
  hop : Hop
  newDetour : Bool
  onDetour : Bool
deriving DecidableEq, Repr

/-- The packet as one of its units stands. -/
def Transit.kAt (t : Transit) (u : UnitAt) : Packet := { t.k with gx := u.gx, gy := u.gy, onDetour := u.detour }

/-- The next unit that a packet would send from a router: the first that stands there, at the head of its buffer, after the injection
limit (R235). -/
def State.frontUnit (s : State) (t : Transit) (gx gy : Nat) : Option (Nat × UnitAt) :=
  match t.units.findIdx? fun u => u.any fun a => a.gx == gx && a.gy == gy with
  | none => none
  | some i => match t.units[i]? with
    | some (some u) =>
      let first := (s.bufferUnits gx gy u.port u.detour t.k.vc t.k.lane).all fun a => decide (u.seq ≤ a.seq)
      if first && decide (t.start ≤ s.bundNow) then some (i, u) else none
    | _ => none

/-- The next router's buffer has a credit for the unit (R231); what leaves by the local or edge port needs none. -/
def State.hasCreditFor (s : State) (r : Ready) : Bool :=
  match r.hop with
  | .to out gx gy =>
    decide ((s.bufferUnits gx gy (farPort out) (r.u.detour || r.onDetour) r.t.k.vc r.t.k.lane).length <
      bufferDepth r.t.k.vc r.u.gx r.u.gy gx gy)
  | _ => true

/-- The units that want an output lane of a router and hold a credit. -/
def State.readyUnits (s : State) (gx gy out lane : Nat) : List Ready :=
  (s.net.flight.filter fun t => t.k.lane == lane && !(Packet.isMulti t.k)).filterMap fun t =>
    match s.frontUnit t gx gy with
    | none => none
    | some (i, u) =>
      let h := s.nextHop (t.kAt u)
      let r : Ready := { t := t, i := i, u := u, hop := h.1, newDetour := h.2.1, onDetour := h.2.2 }
      let wants := match h.1 with | .to o _ _ => o == out | .here => s.diePort gx gy t.k true == out | .wait => false
      if wants && s.hasCreditFor r then some r else none

/-- The number of the input buffer a unit comes from, in the order of input ports. -/
def Ready.source (r : Ready) : Nat := 2 * r.u.port + (if r.u.detour then 1 else 0)

/-- The unit of a channel that comes next in round-robin order of input port (R233): the heads of packets, from the buffer after the
one granted latest. -/
def roundRobin (last : Option Nat) (rs : List Ready) : Option Ready :=
  let turn (r : Ready) : Nat := match last with | some l => (r.source + 39 - l) % 20 | none => r.source
  (rs.filter fun r => r.i == 0).foldl (fun (b : Option Ready) r =>
    match b with | some x => if turn r < turn x then some r else b | none => some r) none

/-- What an output lane grants (R233, R234): urgent units first; then the packet in the middle of which it stands; else a request, else a
response, by round robin. -/
def State.grant (s : State) (gx gy out lane : Nat) : Option Ready :=
  let rs := s.readyUnits gx gy out lane
  let pick (vc : Nat) : Option Ready :=
    roundRobin (look none (s.router gx gy).granted (4 * (2 * out + lane) + vc)) (rs.filter fun r => r.t.k.vc == vc)
  (pick 0) <|> (match look none (s.router gx gy).held (2 * out + lane) with
    | some id => rs.find? fun r => r.t.id == id
    | none => (pick 1) <|> (pick 2))

/-- Replace a packet in the network. -/
def putTransit (t : Transit) (s : State) : State :=
  s.modNet fun n => { n with flight := n.flight.map fun e => if e.id = t.id then t else e }

/-- The lane is held by a packet from its head unit to its TAIL, and remembers the input it granted (R233). -/
def laneGranted (gx gy out lane : Nat) (r : Ready) (s : State) : State :=
  s.modRouter gx gy fun x =>
    { x with
      held := if r.t.k.vc = 0 then x.held else put (2 * out + lane) (if r.i + 1 = r.t.units.length then none else some r.t.id) x.held
      granted := put (4 * (2 * out + lane) + r.t.k.vc) (some r.source) x.granted }

/-- An uncorrectable event of the link into an input port; with more than 16 within 1 s the router is treated as failed (R226). -/
def linkEvent (gx gy port : Nat) (s : State) : State :=
  let l := ((look [] (s.router gx gy).ueTides port).filter fun t => decide (s.now < t + 1000000000)) ++ [s.now]
  let s1 := s.modRouter gx gy fun r => { r with ueTides := put port l r.ueTides }
  if 16 < l.length then routerFail gx gy s1 else s1

/-- The link check of a unit at the receiving router (R226). An uncorrectable data word counts in no register (log 93). -/
def linkResult (t : Transit) (i gx gy port : Nat) (check : LinkCheck) (s : State) : State :=
  match check with
  | .good => s
  | .corrected => s.bumpRouter gx gy rtrLinkCe 1
  | .badData => linkEvent gx gy port (putTransit { t with k := { t.k with marks := setAt t.k.marks i true } } s)
  | .badControl => linkEvent gx gy port (((dropTransit t.id s).bumpRouter gx gy rtrLinkUe 1).bumpRouter gx gy rtrDiscard 1)

/-- A unit is sent: it moves to the next router's buffer, or leaves by the local or edge port. -/
def sendUnit (gx gy out lane : Nat) (check : LinkCheck) (waited : Bool) (r : Ready) (s : State) : State :=
  let s1 := (s.bumpRouter gx gy (unitsCtr r.t.k.vc) 1).bumpRouter gx gy rtrPreempt (if waited && r.t.k.vc == 0 then 1 else 0)
  let s2 := laneGranted gx gy out lane r (s1.bumpRouter gx gy rtrDetour (if r.newDetour && r.i == 0 then 1 else 0))
  match r.hop with
  | .to o gx1 gy1 =>
    let u1 : UnitAt := { gx := gx1, gy := gy1, port := farPort o, detour := r.u.detour || r.onDetour, seq := s2.net.moved + 1 }
    let k1 := if r.i = 0 then { r.t.k with gx := gx1, gy := gy1, detour := r.t.k.detour || r.newDetour
                                           onDetour := r.u.detour || r.onDetour } else r.t.k
    let t1 := { r.t with k := k1, units := setAt r.t.units r.i (some u1) }
    linkResult t1 r.i gx1 gy1 (farPort o) check ((putTransit t1 s2).modNet fun n => { n with moved := n.moved + 1 })
  | _ => putTransit { r.t with units := setAt r.t.units r.i none } s2

/-- PACKET_FORWARD: one unit time of an output lane of a router: the unit it grants moves one hop. `edge` is the link check of a unit
that has come in by the router's edge link, and `check` that at the receiving router (R226); `waited`, that the unit, an urgent one, has waited for a bulk unit in the middle of which it found the lane
(R234). A packet whose fields are not sound is discarded by the router that holds its head (R230). -/
def packetForward (gx gy out lane : Nat) (edge check : LinkCheck) (waited : Bool) (s : State) : State :=
  if s.routerFailed gx gy then s
  else
    let here (t : Transit) : Bool := t.k.lane == lane && (match t.units with | some u :: _ => u.gx == gx && u.gy == gy | _ => false)
    match s.net.flight.find? fun t => here t && !packetValid t.k with
    | some t => discardAt gx gy t.k s
    | none => match s.grant gx gy out lane with
      | none => s
      | some r =>
        let s1 := if r.u.port = 9 then linkResult r.t r.i gx gy 9 edge s else s
        match s1.net.flight.find? fun t => t.id == r.t.id with
        | some t => if s1.routerFailed gx gy then s1 else sendUnit gx gy out lane check waited { r with t := t } s1
        | none => s1

def execPacketForward (o : OutLane) (check : LinkCheck) (waited : Bool) : State → Host.Outcome State Fault Refusal :=
  act (decide (o.gx < 60) && decide (o.gy < 27) && decide (o.out < 10) && decide (o.lane < 2))
    (packetForward o.gx o.gy o.out o.lane o.edge check waited)

/-! ### Arrival at a target (R230, R232, R235) -/

/-- Two packets of one virtual channel from one source to one destination, which the network delivers in order (R232). -/
def sameStream (a b : Transit) : Bool :=
  a.k.vc == b.k.vc && a.k.src == b.k.src && a.ox == b.ox && a.oy == b.oy && a.k.dgx == b.k.dgx && a.k.dgy == b.k.dgy &&
  (Packet.isMulti a.k) == (Packet.isMulti b.k)

/-- Two writes of one source with a byte in common (R302). -/
def sharesByte (a b : Transit) : Bool :=
  a.k.op == Op.wr && b.k.op == Op.wr && a.k.src == b.k.src && decide (a.k.addr < b.k.addr + b.k.bytes) &&
  decide (b.k.addr < a.k.addr + a.k.bytes)

/-- A packet may be performed: none of its stream before it is still in the network (R232), nor an earlier write of its source to a byte it
writes, whatever way it takes (R302), and its injection limit has passed. -/
def State.mayArrive (s : State) (t : Transit) : Bool :=
  !(s.net.flight.any fun e => decide (e.id < t.id) && (sameStream e t || sharesByte e t)) && decide (t.start ≤ s.bundNow)

/-- A packet arrives in full at its target and leaves the network: each of its units has left by the port of its destination router (log
94). None when it has not arrived yet. A packet that is not in the network is presented at its target by the command's sender
(log 75). -/
def arrive (k : Packet) (s : State) : Option State :=
  match s.transitOf k with
  | none => some s
  | some t => if s.mayArrive t && (Packet.isMulti k || t.units.all Option.isNone) then some (dropTransit t.id s) else none

/-- Perform a packet at its target, once it has arrived; one with a reserved or invalid field is discarded instead (R230). -/
def atTarget (k : Packet) (f : State → State) (s : State) : State :=
  if !packetValid k then discardAt k.gx k.gy k s
  else match arrive k s with
    | none => s
    | some t => f t

/-! ### Group writes (R243 to R248) -/

/-- A position lies in one of a group's rectangles. -/
def inRects (g : Group) (gx gy : Nat) : Bool :=
  g.rects.any fun r => decide (r.1 ≤ gx) && decide (gx ≤ r.2.1) && decide (r.2.2.1 ≤ gy) && decide (gy ≤ r.2.2.2)

/-- The members of a group write (R245), in order of increasing gy and then gx. -/
def State.groupMembers (s : State) (g : Group) : List (Nat × Nat) :=
  ((List.range 27).map fun gy => (List.range 60).filterMap fun gx =>
    if (if g.bus then bit g.fields (gy / 9 * 4 + gx / 15) else inRects g gx gy) && s.isLogical gx gy then some (gx, gy) else none).flatten

/-- A member's bus buffer of 64 units has room for 9 more (R248): it holds the bus writes the member has not answered. -/
def State.busRoom (s : State) (m : Nat × Nat) : Bool :=
  decide (sumNat ((s.net.combine.filter fun c => c.bus && c.waiting.contains m).map (·.units)) + 9 ≤ 64)

/-- A group write is delivered at one member with the marks it arrives with (R245): admitted and queued, or rejected; the combining
entry follows. -/
def memberWrite (b : Nat) (k : Packet) (acc : Combine × State) (m : (Nat × Nat) × List Bool) : Combine × State :=
  let (c, s) := acc
  let ((gx, gy), marks) := m
  let p := posAt gx gy
  if b + k.bytes > 2 ^ 23 then ({ c with causes := c.causes ++ [(gy, gx, Cause.addr)] }, s)
  else match s.admits p k.src b k.bytes with
    | some cause => ({ c with causes := c.causes ++ [(gy, gx, cause)] }, recordReject p k.src b cause s)
    | none =>
      if k.bytes = 0 then (c, s)
      else ({ c with waiting := c.waiting ++ [(gx, gy)] }, enqueue p 0xD b k.bytes (some k.data) marks (ackOf k Op.wrAck 0) s)

/-- The rows a replica for column c runs over. -/
def columnRows (g : Group) (c : Nat) : List Nat := (List.range 27).filter fun gy => inRects g c gy

/-- The column a replica for column c runs along from row gy: c itself, or its turn column when the turn router has failed (R239,
R244). -/
def State.replicaColumn (s : State) (c gx gy : Nat) : Nat := if c ≠ gx && s.routerFailed c gy then turnColumn c else c

/-- The links from the places `line` of a trunk, nearest the root first, back to the place before each; failed routers are
crossed (R238). -/
def State.chainLinks (s : State) (root : Branch) (line : List Branch) : List (Branch × Branch) :=
  (line.filter fun b => !s.routerFailed b.gx b.gy).foldl (fun (acc : Branch × List (Branch × Branch)) b => (b, (b, acc.1) :: acc.2))
    (root, []) |>.2

/-- The tree of a multicast write (R244): each router on it with the one before it, outermost first. -/
def State.mcastLinks (s : State) (g : Group) (sx sy : Nat) : List (Branch × Branch) :=
  let cols := (List.range 60).filter fun c => (columnRows g c).length ≠ 0
  let via (c : Nat) : Nat := s.replicaColumn c sx sy
  let far := cols.foldl (fun m c => max m (via c)) sx
  let near := cols.foldl (fun m c => min m (via c)) sx
  let root : Branch := ⟨60, sx, sy⟩
  let row := s.chainLinks root ((List.range (far - sx)).map fun i => ⟨60, sx + 1 + i, sy⟩) ++
    s.chainLinks root ((List.range (sx - near)).map fun i => ⟨60, sx - 1 - i, sy⟩)
  let column (c : Nat) : List (Branch × Branch) :=
    let rows := columnRows g c
    let lo := rows.foldl min sy
    let hi := rows.foldl max sy
    let top : Branch := ⟨60, via c, sy⟩
    let runs := s.chainLinks top ((List.range (hi - sy)).map fun i => ⟨c, via c, sy + 1 + i⟩) ++
      s.chainLinks top ((List.range (sy - lo)).map fun i => ⟨c, via c, sy - 1 - i⟩)
    -- the final row leg of a detour replica, on the detour network
    let legs : List (Branch × Branch) := if via c = c then [] else
      (rows.filter fun gy => gy != sy && !s.routerFailed c gy).map fun gy => (⟨c, c, gy⟩, ⟨c, via c, gy⟩)
    legs ++ runs
  (cols.map column).flatten ++ row

/-- The way from a router of the tree back to its root. -/
def pathUp (links : List (Branch × Branch)) : Nat → Branch → List Branch
  | 0, _ => []
  | f + 1, b => match links.find? fun l => l.1 == b with | some l => b :: pathUp links f l.2 | none => [b]

/-- The router of the tree that delivers to a member. -/
def memberBranch (sx sy gx gy : Nat) : Branch := if gx = sx && gy = sy then ⟨60, sx, sy⟩ else if gy = sy then ⟨60, gx, gy⟩ else ⟨gx, gx, gy⟩

/-- The output port by which a link of a tree leaves the router before it. -/
def linkPort (l : Branch × Branch) : Nat :=
  (if l.2.gx < l.1.gx then 0 else if l.1.gx < l.2.gx then 1 else if l.1.gy < l.2.gy then 2 else 3) +
  (if l.2.gx + 1 < l.1.gx || l.1.gx + 1 < l.2.gx || l.2.gy + 1 < l.1.gy || l.1.gy + 1 < l.2.gy then 4 else 0)

/-- A multicast write's units reach a router of its tree: no router on the way, itself among them, discards the replica (R226). -/
def treeReached (links : List (Branch × Branch)) (checks : List ReplicaCheck) (root b : Branch) : Bool :=
  (pathUp links 90 b).all fun x => x == root || !(checks.any fun c => c.check == .badControl && x.gx == c.gx && x.gy == c.gy)

/-- Units sent, replicas made and detours set by a multicast write, at the routers that its units reach (R239, R244, R253). -/
def mcastCounts (g : Group) (k : Packet) (links : List (Branch × Branch)) (checks : List ReplicaCheck) (members : List (Nat × Nat))
    (s : State) : State :=
  let n := Packet.units k k.bytes
  let on (b : Branch) : Bool := treeReached links checks ⟨60, k.sgx, k.sgy⟩ b
  let s1 := foldState (links.filter fun l => on l.2) (fun t l => t.bumpRouter l.2.gx l.2.gy rtrRequest n) s
  let s2 := foldState members (fun t m => t.bumpRouter m.1 m.2 rtrRequest n) s1
  foldState ((List.range 60).filter fun c => (columnRows g c).length ≠ 0) (fun t c =>
    let rows := columnRows g c
    let made := (if rows.any fun gy => decide (gy < k.sgy) then 1 else 0) + (if rows.any fun gy => decide (k.sgy < gy) then 1 else 0)
    let via := s.replicaColumn c k.sgx k.sgy
    (t.bumpRouter via k.sgy rtrReplica (if on ⟨60, via, k.sgy⟩ then made else 0)).bumpRouter k.sgx k.sgy rtrDetour
      (if via = c then 0 else made)) s2

/-- The link checks of a multicast write's replicas (R226), each at the router where the unit arrived. -/
def replicaChecks (root : Branch) (links : List (Branch × Branch)) (checks : List ReplicaCheck) (s : State) : State :=
  let sent (l : Branch × Branch) (c : ReplicaCheck) : Bool := l.1.gx == c.gx && l.1.gy == c.gy && treeReached links checks root l.2
  foldState (checks.filter fun c => links.any fun l => sent l c) (fun t c =>
    -- the input port faces the router before it on the tree
    let port := match links.find? fun l => sent l c with | some l => farPort (linkPort l) | none => 8
    match c.check with
    | .good => t
    | .corrected => t.bumpRouter c.gx c.gy rtrLinkCe 1
    | .badData => linkEvent c.gx c.gy port t
    | .badControl => linkEvent c.gx c.gy port ((t.bumpRouter c.gx c.gy rtrLinkUe 1).bumpRouter c.gx c.gy rtrDiscard 1)) s

/-- What reaches a member of a multicast write: the marks of its units, or nothing where a replica was lost on the way. -/
def replicaMarks (links : List (Branch × Branch)) (checks : List ReplicaCheck) (k : Packet) (m : Nat × Nat) : Option (List Bool) :=
  let way := pathUp links 90 (memberBranch k.sgx k.sgy m.1 m.2)
  let on (c : ReplicaCheck) : Bool := way.any fun b => b.gx == c.gx && b.gy == c.gy && !(b.gx == k.sgx && b.gy == k.sgy)
  if checks.any fun c => on c && c.check == .badControl then none
  else some ((checks.filter fun c => on c && c.check == .badData).foldl (fun l c => setAt l c.unit true) k.marks)

/-- Deliver a group write to the members it reaches and start combining their responses (R246); a member whose replica was lost never
answers. -/
def groupDeliver (b : Nat) (k : Packet) (c0 : Combine) (reached : List ((Nat × Nat) × List Bool)) (lost : List (Nat × Nat)) (s : State) :
    State :=
  let r := reached.foldl (memberWrite b k) ({ c0 with waiting := lost }, s)
  r.2.modNet fun n => { n with combine := n.combine ++ [r.1] }

/-- The group and byte address of a group write, if its entry is valid. -/
def State.groupOf (s : State) (a : Nat) : Option (Group × Nat) :=
  match panForm (addrOffset a) with
  | .group g b => let e : Group := look {} s.net.groups g; if e.valid then some (e, b) else none
  | _ => none

/-- The combining entry of a group write. -/
def combineOf (k : Packet) (bus : Bool) (links : List (Branch × Branch)) : Combine :=
  { src := k.src, tag := k.tag, addr := k.addr, gx := k.sgx, gy := k.sgy, bus := bus, units := Packet.units k k.bytes, links := links }

/-- A multicast write must wait: the turn router of a column has failed and ROW_DEAD does not name it yet (R241). -/
def State.mcastWaits (s : State) (g : Group) (sx sy : Nat) : Bool :=
  (List.range 60).any fun c => decide ((columnRows g c).length ≠ 0) && c != sx && s.routerFailed c sy && !s.rowDeadBit sy c

/-- A link of a multicast write's tree can take the packet's units (R231, R233): no packet holds its output lane, no urgent unit is ready
for it, and the buffer at its far end has a credit for each unit. -/
def State.linkClear (s : State) (units lane : Nat) (l : Branch × Branch) : Bool :=
  let out := linkPort l
  -- the final row leg of a detour replica runs on the detour network
  let det := l.1.trunk != 60 && l.1.gx == l.1.trunk && l.2.gx != l.1.trunk && l.2.trunk != 60
  (look none (s.router l.2.gx l.2.gy).held (2 * out + lane)).isNone &&
  ((s.readyUnits l.2.gx l.2.gy out lane).all fun r => r.t.k.vc != 0) &&
  decide ((s.bufferUnits l.1.gx l.1.gy (farPort out) det 1 lane).length + units ≤ bufferDepth 1 l.2.gx l.2.gy l.1.gx l.1.gy)

/-- Why a group write is refused at its injecting router, if it is: control space (R287), another space, no valid entry (R243). -/
def State.groupCause (s : State) (k : Packet) : Option Nat :=
  if addrSpace k.addr = 3 then some Cause.refused
  else if addrSpace k.addr ≠ 0 || (s.groupOf k.addr).isNone then some Cause.addr else none

/-- A multicast write of a group (R244): delivered once to each member router in the union of the rectangles. -/
def mcastWrite (b : Nat) (g : Group) (k : Packet) (checks : List ReplicaCheck) (s : State) : State :=
  let links := s.mcastLinks g k.sgx k.sgy
  let members := s.groupMembers g
  let way (m : Nat × Nat) : Option ((Nat × Nat) × List Bool) := (replicaMarks links checks k m).map fun l => (m, l)
  groupDeliver b k (combineOf k false links) (members.filterMap way) (members.filter fun m => (way m).isNone)
    (replicaChecks ⟨60, k.sgx, k.sgy⟩ links checks
      (mcastCounts g k links checks (members.filter fun m => (way m).isSome) s))

/-- MC_WR at its injecting router. -/
def mcWrite (k : Packet) (checks : List ReplicaCheck) (s : State) : State :=
  match s.groupCause k, s.groupOf k.addr with
  | some c, _ => respond k.sgx k.sgy k Op.wrAck c [] [] s
  | none, some (g, b) => mcastWrite b g k checks s
  | none, none => s

/-- A multicast write has to wait where it stands: for ROW_DEAD (R241), or for the lanes and credits of its tree, which its units then
take in one row (DESIGN CHOICE, log 112). -/
def State.mcHeld (s : State) (k : Packet) : Bool :=
  (s.groupCause k).isNone && (match s.groupOf k.addr with
    | some (g, _) => s.mcastWaits g k.sgx k.sgy ||
        !(s.mcastLinks g k.sgx k.sgy).all (s.linkClear (Packet.units k k.bytes) (k.src % 2))
    | none => false)

def execMcWr (a : McWrArrival) : State → Host.Outcome State Fault Refusal :=
  act (a.k.op == Op.mcWr && a.k.data.length == a.k.bytes) fun s =>
    if s.mcHeld a.k then s else atTarget a.k (mcWrite a.k a.checks) s

/-- The field of a router. -/
def fieldAt (gx gy : Nat) : Nat := gy / 9 * 4 + gx / 15

/-- The position number of a router within its field. -/
def placeAt (gx gy : Nat) : Nat := gy % 9 * 15 + gx % 15

/-- The broadcast bus of a field grants a packet (R248): every member has room, and among the routers of the field that request it, this
one's position is the lowest that follows the previous grant in circular order. -/
def State.busGrants (s : State) (g : Group) (k : Packet) : Bool :=
  let f := fieldAt k.sgx k.sgy
  let turn (p : Nat) : Nat := (p + 134 - look 0 s.net.busGrant f) % 135
  let others := (s.net.flight.filter fun t => t.k.op == Op.busWr && fieldAt t.ox t.oy == f).map fun t => placeAt t.ox t.oy
  (s.groupMembers g).all s.busRoom && others.all fun p => decide (turn (placeAt k.sgx k.sgy) ≤ turn p)

/-- A bus write of a group (R247): the injecting router sends its units to the bus by its local port (R224), and every member of its
fields receives them. -/
def busDeliver (b : Nat) (g : Group) (k : Packet) (s : State) : State :=
  let members := s.groupMembers g
  let s1 := s.modNet fun n => { n with busGrant := put (fieldAt k.sgx k.sgy) (placeAt k.sgx k.sgy) n.busGrant }
  let s2 := foldState members (fun t m => t.bumpRouter m.1 m.2 rtrBus (Packet.units k k.bytes))
    (s1.bumpRouter k.sgx k.sgy rtrRequest (Packet.units k k.bytes))
  groupDeliver b k (combineOf k true []) (members.map fun m => (m, k.marks)) [] s2

/-- BUS_WR at its injecting router. -/
def busWrite (k : Packet) (s : State) : State :=
  match s.groupCause k, s.groupOf k.addr with
  | some c, _ => respond k.sgx k.sgy k Op.wrAck c [] [] s
  | none, some (g, b) => busDeliver b g k s
  | none, none => s

/-- A bus write waits for its grant. -/
def State.busHeld (s : State) (k : Packet) : Bool :=
  (s.groupCause k).isNone && (match s.groupOf k.addr with | some (g, _) => !s.busGrants g k | none => false)

/-- A write in the group form waits as the group write it becomes does (R243). -/
def State.groupHeld (s : State) (k : Packet) : Bool :=
  addrSpace k.addr == 0 && (match s.groupOf k.addr with | some (g, _) => if g.bus then s.busHeld k else s.mcHeld k | none => false)

def execBusWr (k : Packet) : State → Host.Outcome State Fault Refusal :=
  act (k.op == Op.busWr && k.data.length == k.bytes) fun s => if s.busHeld k then s else atTarget k (busWrite k) s

/-- A router of the tree has the responses of all its branches: its own member has answered and no router after it is left. -/
def branchReady (waiting : List (Nat × Nat)) (left : List (Branch × Branch)) (b : Branch) : Bool :=
  !(left.any fun l => l.2 == b) && !((b.trunk == 60 || b.trunk == b.gx) && waiting.contains (b.gx, b.gy))

/-- Each branching router with the responses of all its branches sends one WR_ACK upstream (R246): the links left, and the state with
the response units counted (R253). The links stand outermost first. No row brings a link error of such an acknowledgement: it
passes its links unharmed (DESIGN CHOICE, log 112). -/
def combineUp (waiting : List (Nat × Nat)) : List (Branch × Branch) → State → List (Branch × Branch) × State
  | [], s => ([], s)
  | l :: ls, s =>
    if branchReady waiting (l :: ls) l.1 then combineUp waiting ls (s.bumpRouter l.1.gx l.1.gy rtrResponse 1)
    else let r := combineUp waiting ls s; (l :: r.1, r.2)

/-- The cause of the rejecting member lowest in the order of increasing gy and then gx, or 0 (R246). -/
def firstCause (cs : List (Nat × Nat × Nat)) : Nat :=
  match cs.foldl (fun (b : Option (Nat × Nat × Nat)) c =>
    match b with | some x => if c.1 * 60 + c.2.1 < x.1 * 60 + x.2.1 then some c else b | none => some c) none with
  | some c => c.2.2
  | none => 0

/-- WR_ACK_COMBINE (R246): responses go up the tree as far as they have come; with the last, one WR_ACK goes to the source. -/
def wrAckCombine (src tag : Nat) (s : State) : State :=
  match s.net.combine.find? fun c => c.src == src && c.tag == tag with
  | none => s
  | some c =>
    let (left, s1) := combineUp c.waiting c.links s
    if left.isEmpty && c.waiting.isEmpty then
      inject c.gx c.gy c.gx c.gy { op := Op.wrAck, vc := 2, addr := c.addr, src := src, tag := tag, sgx := c.gx, sgy := c.gy
                                   status := firstCause c.causes }
        (s1.modNet fun n => { n with combine := n.combine.erase c })
    else s1.modNet fun n => { n with combine := n.combine.map fun e => if e == c then { c with links := left } else e }

def execWrAckCombine (src tag : Nat) : State → Host.Outcome State Fault Refusal := act true (wrAckCombine src tag)

end Sys2Proof.Machine
end

