-- ==== Sys2Proof/Machine/Targets.lean ====
section
/-! DEFINITION. Operations at their targets (R287, R292 to R300, R309), responses at their requesters, and the host's BAR2
accesses (R427 to R429). A packet for another device stays for PACKET_TRANSMIT. -/

namespace Sys2Proof.Machine
open Sys2Proof

/-! ### The debug port of a pan store (R171, R482) -/

/-- An access to a pan's debug port: one 64-bit word, 4-byte aligned in control space (R287), as a narrow request of port 0xE; refused
while debug is locked. The status of a packet that stands for "asleep" is BANK_ASLEEP, and an error answer carries no data (R230):
DESIGN CHOICE, log 110. -/
def debugPort (p off : Nat) (write : Bool) (k : Packet) (s : State) : State :=
  let op := if write then Op.wrAck else Op.rdData
  let r := s.controlAt (addrOffset k.addr)
  if !bit s.sec.scope 1 || decide (k.bytes = 0) || decide (8 < off % 8 + k.bytes) || decide (off % 4 ≠ 0) || decide (k.bytes % 4 ≠ 0) then
    respond r.1 r.2 k op Cause.refused [] [] s
  else if (s.banksOf p off k.bytes).any fun b => s.bankMode p b != .awake then respond r.1 r.2 k op Cause.bankAsleep [] [] s
  else if write then enqueue p 0xE off k.bytes (some k.data) k.marks (ackOf k op 0) s
  else enqueue p 0xE off k.bytes none [] (ackOf k op k.bytes) s

/-- A control-space address that falls on a debug port: the pan and the store byte. -/
def State.debugAt (s : State) (src off : Nat) : Option (Nat × Nat) :=
  match s.controlBlock src off with | .ok (.debug p, o) => some (p, o) | _ => none

/-! ### RD (R166, R292) -/

/-- The pan and store byte of a direct-form access, refused with ADDR when none or past the store's end (R284). -/
def State.panByte (s : State) (off n : Nat) : Option (Nat × Nat) :=
  match panForm off with
  | .direct l b => match s.panPos l with
    | some p => if b + max 1 n ≤ 2 ^ 23 then some (p, b) else none
    | none => none
  | _ => none

/-- Bit errors come to stand in brine or in the cellar (R173, R190): the observations of a read name slice × 2^25 + byte, or a linear
address. -/
def memFlips (space : Nat) (obs : List WordObs) (s : State) : State :=
  if space = 1 then obs.foldl brineFlip s else if space = 2 then cellarFlips obs s else s

/-- A RD at its target. -/
def rdTarget (k : Packet) (obs : List WordObs) (s0 : State) : State :=
  let s := memFlips (addrSpace k.addr) obs s0
  let r := s.destOf k.src k.addr
  let off := addrOffset k.addr
  match addrSpace k.addr with
  | 0 => match s.panByte off k.bytes with
    | some (p, b) => panStoreRead p b k s
    | none => respond r.1 r.2 k Op.rdData Cause.addr [] [] s
  | 1 => match s.brinePieces k.src off k.bytes with
    | .error c => respond r.1 r.2 k Op.rdData c [] [] s
    | .ok ps =>
      let (c, bs, ms, s1) := brineRead ps s
      if c = 0 then respond r.1 r.2 k Op.rdData 0 bs ms s1 else respond r.1 r.2 k Op.rdData c [] [] s1
  | 2 =>
    if s.cellarUsable < off + max 1 k.bytes then respond r.1 r.2 k Op.rdData Cause.lotFault [] [] s
    else
      let (bs, ms, s1) := cellarRead (unitParts (k.bytes / 64 + 2) off k.bytes) s
      respond r.1 r.2 k Op.rdData 0 bs ms s1
  | _ => match s.debugAt k.src off with
    | some (p, o) => debugPort p o false k s
    | none =>
      let (c, bs, s1) := controlRead k.src off k.bytes s
      if c = 0 then respond r.1 r.2 k Op.rdData 0 bs (List.replicate (unitsOf k.addr bs.length).length false) s1
      else respond r.1 r.2 k Op.rdData c [] [] s

/-- RD. -/
def execRd (k : Packet) (obs : List WordObs) : State → Host.Outcome State Fault Refusal :=
  act (k.op == Op.rd) fun s => if s.isOwn k.addr then atTarget k (rdTarget k obs) s else s

/-! ### Contributions to a collective (R309, R310) -/

/-- A REDUCE at the collective unit. -/
def reduceTarget (k : Packet) (s : State) : State :=
  match panForm (addrOffset k.addr) with
  | .reduction g input off =>
    if addrSpace k.addr != 0 || !reduceOk (s.slot g) input off k then
      respond controlRouter.1 controlRouter.2 k Op.reduceAck Cause.refused [] [] s
    else
      respond controlRouter.1 controlRouter.2 k Op.reduceAck 0 [] []
        (foldState (reduceChunks input off k) (fun t c => takeChunk g c.1 input c.2.1 c.2.2 t) s)
  | .bad => respond controlRouter.1 controlRouter.2 k Op.reduceAck (if addrSpace k.addr = 0 then Cause.addr else Cause.refused) [] [] s
  | _ => respond controlRouter.1 controlRouter.2 k Op.reduceAck Cause.refused [] [] s

/-- REDUCE. -/
def execReduce (k : Packet) : State → Host.Outcome State Fault Refusal :=
  act (k.op == Op.reduce) fun s => if s.isOwn k.addr then atTarget k (reduceTarget k) s else s

/-! ### WR (R164, R183, R293) -/

/-- A WR at its target. -/
def wrTarget (k : Packet) (s : State) : State :=
  let r := s.destOf k.src k.addr
  let off := addrOffset k.addr
  match addrSpace k.addr with
  | 0 => match panForm off with
    | .group _ _ => (match s.groupOf k.addr with
      | none => respond k.sgx k.sgy k Op.wrAck Cause.addr [] [] s
      | some (g, _) => if g.bus then busWrite k s else mcWrite k [] s)
    | .reduction _ _ _ => reduceTarget k s
    | _ => match s.panByte off k.bytes with
      | some (p, b) => panStoreWrite p b k s
      | none => respond r.1 r.2 k Op.wrAck Cause.addr [] [] s
  | 1 => match s.brinePieces k.src off k.bytes with
    | .error c => respond r.1 r.2 k Op.wrAck c [] [] s
    | .ok ps => let (c, s1) := brineWrite k.addr 0 k.data k.marks ps s; respond r.1 r.2 k Op.wrAck c [] [] s1
  | 2 =>
    if s.cellarUsable < off + max 1 k.bytes then respond r.1 r.2 k Op.wrAck Cause.lotFault [] [] s
    else respond r.1 r.2 k Op.wrAck 0 [] [] (cellarWrite off k.data k.marks s)
  | _ => match s.debugAt k.src off with
    | some (p, o) =>
      if s.ownControl k.src || s.debugOpen k.src then debugPort p o true k s else respond r.1 r.2 k Op.wrAck Cause.refused [] [] s
    | none => let (c, s1) := controlWrite k.src off k.data s; respond r.1 r.2 k Op.wrAck c [] [] s1

/-- A WR that its target admits and performs later (R174, R185): only brine holds admitted writes of which the commands tell apart the
admission and the performing. -/
def wrLater (k : Packet) (s : State) : State :=
  match addrSpace k.addr, s.brinePieces k.src (addrOffset k.addr) k.bytes with
  | 1, .ok ps => brineAdmitted k ps s
  | _, _ => wrTarget k s

/-- WR. With `later`, brine admits the write and performs it with the next WR of the same packet, or before a request that follows it
in its slices (R174). -/
def execWr (a : WrArrival) : State → Host.Outcome State Fault Refusal :=
  act (a.k.op == Op.wr && a.k.data.length == a.k.bytes) fun s =>
    match s.writingOf a.k with
    | some w => performWrite w.id s
    | none => if s.isOwn a.k.addr && !s.groupHeld a.k then atTarget a.k (if a.later then wrLater a.k else wrTarget a.k) s else s

/-! ### Urgent writes, commit marks and records (R294, R300) -/

/-- URG_WR: a control-space write under R287, with no response. -/
def execUrgWr (k : Packet) : State → Host.Outcome State Fault Refusal :=
  act (k.op == Op.urgWr && k.data.length == k.bytes) fun s =>
    if s.isOwn k.addr then
      atTarget k (fun t => if addrSpace k.addr = 3 then (controlWrite k.src (addrOffset k.addr) k.data t).2 else t) s
    else s

/-- A COMMIT at its target: a semaphore's increment, or a record for COMMIT_IN; with the queue full the record returns to
the sending device's COMMIT_BOUNCE. -/
def commitTarget (k : Packet) (s : State) : State :=
  if addrSpace k.addr ≠ 3 then s
  else if addrOffset k.addr = servicesOff 0x20 ∧ k.bytes = 16 then
    let r := queueCommit (srcDevice k.src) (commitOf k.data) s
    if r.1 then r.2
    else sendFrom controlRouter.1 controlRouter.2
      { op := Op.urgWr, vc := 0, addr := mkAddr (srcDevice k.src) 3 (servicesOff 0x30), src := s.hakarSrc, bytes := 16, data := k.data } r.2
  else if k.bytes = 4 then (controlWrite k.src (addrOffset k.addr) k.data s).2
  else s

/-- COMMIT. -/
def execCommit (k : Packet) : State → Host.Outcome State Fault Refusal :=
  act (k.op == Op.commit && k.data.length == k.bytes) fun s => if s.isOwn k.addr then atTarget k (commitTarget k) s else s

/-- COMMIT_BOUNCE: a refused record returns to its sender. -/
def execCommitBounce (k : Packet) : State → Host.Outcome State Fault Refusal :=
  act (k.op == Op.urgWr && k.data.length == k.bytes) fun s =>
    if s.isOwn k.addr && addrSpace k.addr == 3 && addrOffset k.addr == servicesOff 0x30 && k.bytes == 16 then
      atTarget k (queueBounce (srcDevice k.src) (commitOf k.data)) s
    else s

/-- COMMIT_RESEND: the oldest bounced record goes out again, no sooner than 100 µs after it was received. -/
def commitResend (s : State) : State :=
  match s.svc.bounced with
  | [] => s
  | (d, c, t) :: rest => if t + 100000 ≤ s.now then sendRecord d c { s with svc := { s.svc with bounced := rest } } else s

def execCommitResend : State → Host.Outcome State Fault Refusal := act true commitResend

/-! ### Atomics (R295 to R298) -/

/-- The new value of the word (R295), as a w-bit number. -/
def atomicNew (aop w old a b : Nat) : Nat :=
  match aop with
  | 1 => (old + a) % 2 ^ w
  | 2 => a % 2 ^ w
  | 3 => if old = a % 2 ^ w then b % 2 ^ w else old
  | 4 => if signed w a < signed w old then a % 2 ^ w else old
  | 5 => if signed w old < signed w a then a % 2 ^ w else old
  | 6 => old &&& a % 2 ^ w
  | _ => old ||| a % 2 ^ w

/-- What becomes of an atomic's access to its word: the word's old value and mark and the state after it, or the cause that keeps it from
being performed and the state with the rejection counted. -/
inductive AtomicAccess where
  | done (value : Nat) (mark : Bool) (s : State)
  | rejected (cause : Nat) (s : State)

/-- An atomic's read and write of its word (R295, R296, R298); both are one event, so that no other write comes between them. -/
def atomicPerform (k : Packet) (aop n a b : Nat) (s : State) : AtomicAccess :=
  let off := addrOffset k.addr
  let new (old : Nat) : List Byte := leBytes (atomicNew aop (8 * n) old a b) n
  match addrSpace k.addr with
  | 0 => match s.panByte off n with
    | none => .rejected Cause.addr s
    | some (p, o) => match s.admits p k.src o n with
      | some c => .rejected c (recordReject p k.src o c s)
      | none =>
        let (bs, m, s1) := storeRead p o n (sluiceAccess p o n true s)
        .done (leNat bs) m (if m then s1 else storeWrite p o (new (leNat bs)) false s1)
  | 1 => match s.brinePieces k.src off n with
    | .error c => .rejected c s
    | .ok ps =>
      let (c, bs, ms, s1) := brineRead ps s
      if c ≠ 0 then .rejected c s1
      else .done (leNat bs) (ms.any id) (if ms.any id then s1 else (brineWrite k.addr 0 (new (leNat bs)) [false] ps s1).2)
  | 2 =>
    if s.cellarUsable < off + n then .rejected Cause.lotFault s
    else
      let (bs, ms, s1) := cellarRead [(off, n)] s
      .done (leNat bs) (ms.any id) (if ms.any id then s1 else cellarWrite off (new (leNat bs)) [false] s1)
  | _ => .rejected Cause.refused s

/-- The numbers of a record that stay within 64 of the highest (R297). -/
def trimRecord (h : Nat) (l : List (Nat × Nat × Bool)) : List (Nat × Nat × Bool) :=
  l.filter fun e => decide ((h + 2 ^ 24 - e.1) % 2 ^ 24 < 64)

/-- Put a record among the 256 in use; a full table gives up its least recently used record that has been idle 1 s. -/
def putRecord (now : Nat) (r : AtomicRec) (l : List AtomicRec) : Option (List AtomicRec) :=
  let rest := l.filter fun x => x.src != r.src
  if rest.length < 256 then some (r :: rest)
  else match rest.reverse.find? fun x => decide (x.used + 1000000000 ≤ now) with
    | some x => some (r :: rest.erase x)
    | none => none

/-- What the atomic unit answers: the status, the data, its mark, and the state (R297, R298). -/
def atomicUnit (k : Packet) (s : State) : Nat × List Byte × Bool × State :=
  let h := leNat (k.data.take 4)
  let aop := bits h 31 28
  let w64 := bit h 27
  let n := if w64 then 8 else 4
  let seq := bits h 23 0
  let a := leNat ((k.data.drop 4).take n)
  let b := leNat ((k.data.drop 8).take 4)
  let want := if w64 || aop == 3 then 12 else 8
  let refuse : Nat × List Byte × Bool × State := (Cause.refused, [], false, s.bumpSvc svcAtomicRefuse 1)
  let bad := aop == 0 || decide (7 < aop) || (aop == 3 && w64) || decide (bits h 26 24 ≠ 0) || decide (k.bytes ≠ want) ||
    decide (k.addr % 16 ≠ 0) || addrSpace k.addr == 3
  if bad then (Cause.refused, [], false, s)
  else
    let old := s.svc.records.find? fun r => r.src == k.src
    let dd := match old with | some r => (seq + 2 ^ 24 - r.high) % 2 ^ 24 | none => 1
    let back := match old with | some r => (r.high + 2 ^ 24 - seq) % 2 ^ 24 | none => 0
    let known := match old with | some r => r.done.find? fun e => e.1 == seq | none => none
    let ahead := old.isNone || (decide (1 ≤ dd) && decide (dd < 2 ^ 23))
    -- a record is found or allocated before anything is performed
    if (!ahead && decide (64 ≤ back)) || (putRecord s.now { src := k.src, high := seq } s.svc.records).isNone then refuse
    else match (if ahead then none else known) with
      | some e =>
        let touch : List AtomicRec := match old with
          | some r => { r with used := s.now } :: s.svc.records.filter fun x => x.src != r.src
          | none => s.svc.records
        (0, leBytes e.2.1 n, e.2.2, { s with svc := { s.svc with records := touch } }.bumpSvc svcAtomicDup 1)
      | none =>
        match atomicPerform k aop n a b s with
        | .rejected c s1 => (c, [], false, s1)
        | .done v m s1 =>
          let high := if ahead then seq else (match old with | some r => r.high | none => seq)
          let done := (seq, v, m) :: (match old with | some r => r.done | none => [])
          match putRecord s.now { src := k.src, high := high, done := trimRecord high done, used := s.now } s.svc.records with
          | none => refuse
          | some rs => (0, leBytes v n, m, { s1 with svc := { s1.svc with records := rs } }.bumpSvc svcAtomic 1)

/-- ATOMIC. -/
def execAtomic (k : Packet) : State → Host.Outcome State Fault Refusal :=
  act (k.op == Op.atomic && k.data.length == k.bytes) fun s =>
    if s.isOwn k.addr then
      atTarget k (fun t =>
        let (c, bs, m, s1) := atomicUnit k t
        respond controlRouter.1 controlRouter.2 k Op.atomicData c bs (if bs.isEmpty then [] else [m]) s1) s
    else s

/-- An ATOMIC command completes (R439, R440): success, or HAUL with the cause (log 15). -/
def atomicDone (w : AtomicWait) (status info : Nat) (payload : List Nat) (s : State) : State :=
  finishTag w.tag (commandEntry w.tag 0x15 w.job status info payload)
    (s.modHif fun h => { h with atomics := h.atomics.filter fun x => x.tag != w.tag })

/-- ATOMIC_DATA at the issuer (R297, R444): the command completes, or a refused atomic waits to be resent. -/
def atomicAnswer (k : Packet) (s : State) : State :=
  match s.out? k.src k.tag with
  | none => s
  | some o =>
    if o.isExpired then dropOut k.src k.tag s
    else if o.who ≠ Requester.atomic then s
    else
      let s1 := dropOut k.src k.tag s
      match s1.hif.atomics.find? fun w => w.aseq == o.off with
      | none => s1
      | some w =>
        if k.status = Cause.refused then
          s1.modHif fun h => { h with atomics := h.atomics.map fun x =>
            if x.tag = w.tag then { x with refused := true } else x }
        else if k.status ≠ 0 then atomicDone w Status.haul k.status [] s1
        else if k.marks.any id then atomicDone w Status.haul Cause.poisonToHost [] s1
        else atomicDone w Status.success 0 (words64 (leNat k.data)) s1

def execAtomicData (k : Packet) : State → Host.Outcome State Fault Refusal := act (k.op == Op.atomicData) (atTarget k (atomicAnswer k))

/-! ### BAR2 (R427 to R429) -/

/-- A host access event (R428, R429): APERTURE_ERR_COUNT and a HOST_ACCESS record. -/
def hostAccessEvent (code addr tag : Nat) (s : State) : State :=
  report { type := RecType.hostAccess, cls := 2, code := code, unitCls := UnitCls.domain, unitIdx := 132, addr := addr, detail := tag
           src := some (mkSrc s.deviceId 1 0) }
    (s.modHif fun h => { h with apertureErr := satCount h.apertureErr 1 })

/-- The bytes of a control-space access lie within SEM_NOTIFY registers of a pan (R140, R286). -/
def isSemNotify (off n : Nat) : Bool :=
  decide (bits off 47 40 ≤ 1) && decide (0x80 ≤ off % 0x2000000) && decide (off % 0x2000000 + max 1 n ≤ 0xC0)

/-- BAR2_WRITE: a host write becomes a WR of control-complex channel 0, or is discarded. -/
def bar2Write (o : Nat) (data : List Byte) (s : State) : State :=
  let a := s.hif.aperture + o
  if bit a 63 || (addrSpace a == 3 && !isSemNotify (addrOffset a) data.length) then hostAccessEvent 0 (a % 2 ^ 64) 0 s
  else
    let src := mkSrc s.deviceId 1 0
    let tag := s.freeTag src
    issueFrom pcieRouter { op := Op.wr, vc := 1, addr := a, src := src, tag := tag, bytes := data.length, data := data
                           marks := List.replicate (unitsOf a data.length).length false, sgx := pcieRouter.1, sgy := pcieRouter.2 }
      (addOut { src := src, tag := tag, who := .bar2 0, addr := a, len := data.length, off := 0, write := true, issued := s.now } s)

def execBar2Write (o : Nat) (data : List Byte) : State → Host.Outcome State Fault Refusal :=
  act (decide (o + data.length ≤ 2 ^ 36) && decide (data.length ≤ 512)) (bar2Write o data)

/-- Cut n bytes from an address into requests of at most 512 bytes, the most a RD asks for (R230); R429's one RD when it fits. -/
def readParts : Nat → Nat → Nat → List (Nat × Nat)
  | 0, _, _ => []
  | f + 1, a, n => if n = 0 then [] else let k := min n 512; (a, k) :: readParts f (a + k) (n - k)

/-- A BAR2 read ends without data: Completer Abort (R429). -/
def bar2Abort (tag : Nat) (s : State) : State :=
  match s.hif.bar2Reads.find? fun r => r.tag == tag with
  | none => s
  | some r =>
    hostAccessEvent 1 r.addr tag
      ((expire (fun o => o.who == Requester.bar2 tag && !o.write) s).modHif fun h =>
        { h with bar2Reads := h.bar2Reads.filter fun x => x.tag != tag, bar2Done := h.bar2Done ++ [(tag, none)] })

/-- BAR2_READ: a host read becomes RDs of control-complex channel 0, or completes with Completer Abort. -/
def bar2Read (o len tag : Nat) (s : State) : State :=
  let a := s.hif.aperture + o
  let s1 := s.modHif fun h => { h with bar2Reads := h.bar2Reads ++ [{ tag := tag, addr := a % 2 ^ 64, len := len, since := s.now }] }
  if bit a 63 then bar2Abort tag s1
  else
    let src := mkSrc s.deviceId 1 0
    foldState (readParts (len / 512 + 2) a len) (fun t u =>
      let pt := t.freeTag src
      sendFrom pcieRouter.1 pcieRouter.2 { op := Op.rd, vc := 1, addr := u.1, src := src, tag := pt, bytes := u.2 }
        (addOut { src := src, tag := pt, who := .bar2 tag, addr := u.1, len := u.2, off := u.1 - a, write := false, issued := s.now } t)) s1

def execBar2Read (o len tag : Nat) : State → Host.Outcome State Fault Refusal :=
  act (decide (o + len ≤ 2 ^ 36) && decide (1 ≤ len) && decide (len ≤ 4096) && decide (tag < 2 ^ 14)) (bar2Read o len tag)

/-- Bytes of a BAR2 read return; with the last the host's read completes. -/
def bar2Data (tag off : Nat) (bs : List Byte) (s : State) : State :=
  match s.hif.bar2Reads.find? fun r => r.tag == tag with
  | none => s
  | some r =>
    let got := put off bs r.got
    if r.len ≤ sumNat (got.map fun e => e.2.length) then
      s.modHif fun h => { h with bar2Reads := h.bar2Reads.filter fun x => x.tag != tag
                                 bar2Done := h.bar2Done ++ [(tag, some (got.map (·.2)).flatten)] }
    else s.modHif fun h => { h with bar2Reads := h.bar2Reads.map fun x => if x.tag = tag then { x with got := got } else x }

/-- BAR2_READ_TIMEOUT (R429): no response within 1 ms. -/
def execBar2ReadTimeout (tag : Nat) : State → Host.Outcome State Fault Refusal :=
  act true fun s =>
    match s.hif.bar2Reads.find? fun r => r.tag == tag with
    | some r => if r.since + 1000000 ≤ s.now then bar2Abort tag s else s
    | none => s

/-! ### Responses at their requesters -/

/-- RD_DATA at its requester (R113, R211, R212, R429, R511); the response to a request given up goes nowhere (R222). -/
def rdDataBack (k : Packet) (s : State) : State :=
  match s.out? k.src k.tag with
  | none => s
  | some o =>
    let s1 := dropOut k.src k.tag s
    match o.who with
    | .haul c =>
      if o.write then s
      else if k.status ≠ 0 then haulAfter (haulFailed c o k.status s1) else haulAfter (haulReadBack c o k s1)
    | .feeder p north =>
      if k.status ≠ 0 then feederStop p north k.status s1
      else
        let s2 := feederData p north o.off k.data (k.marks.any id) s1
        if north then heldAhead p 64 s2 else feedAhead p 64 s2
    | .bar2 t =>
      if o.write then s
      else if k.status ≠ 0 || k.marks.any id then bar2Abort t s1 else bar2Data t o.off k.data s1
    | .expired => releaseCommits s1
    | _ => s

def execRdData (k : Packet) : State → Host.Outcome State Fault Refusal := act (k.op == Op.rdData) (atTarget k (rdDataBack k))

/-- A write's acknowledgement at its requester (R216, R217, R309, R312, R428). -/
def writeAcked (k : Packet) (s : State) : State :=
  match s.out? k.src k.tag with
  | none => s
  | some o =>
    if !o.write then s
    else
      let s1 := dropOut k.src k.tag s
      match o.who with
      | .haul c => if k.status ≠ 0 then haulAfter (haulFailed c o k.status s1) else haulAcked c s1
      | .rootWrite g => if k.status ≠ 0 then releaseCommits s1 else rootAck g (releaseCommits s1)
      | .bar2 t => if k.status ≠ 0 then hostAccessEvent 0 o.addr t s1 else s1
      | _ => releaseCommits s1

/-- WR_ACK. -/
def execWrAck (k : Packet) : State → Host.Outcome State Fault Refusal := act (k.op == Op.wrAck) (atTarget k (writeAcked k))

/-- HAUL_ERROR (R220): a read or write of a channel receives an error response. -/
def haulErrorBack (k : Packet) (s : State) : State :=
  match s.out? k.src k.tag with
  | some o => match o.who with
    | .haul c => haulAfter (haulFailed c o k.status (dropOut k.src k.tag s))
    | .expired => releaseCommits (dropOut k.src k.tag s)
    | _ => s
  | none => s

def execHaulError (k : Packet) : State → Host.Outcome State Fault Refusal :=
  act (decide (k.status ≠ 0)) (atTarget k (haulErrorBack k))

/-- BARRIER (R314). -/
def execBarrier (k : Packet) : State → Host.Outcome State Fault Refusal := act (k.op == Op.barrier) (atTarget k (barrierTarget k))

/-- REDUCE_ACK serves as the write's acknowledgement (R309). -/
def execReduceAck (k : Packet) : State → Host.Outcome State Fault Refusal :=
  act (k.op == Op.reduceAck) (atTarget k (writeAcked k))

end Sys2Proof.Machine
end

