-- ==== Sys2Proof/Machine/Finron.lean ====
section
/-! DEFINITION. Finron links (chapter 9): header and payload units, replay, credits, lane sparing, routing across devices,
delivery at the ingress port, and requantised transport. -/

namespace Sys2Proof.Machine
open Sys2Proof

/-! ### Counters of a port by offset (R279) -/
abbrev portFecCorr : Nat := 0x010
abbrev portFecUncorr : Nat := 0x014
abbrev portHdrFail : Nat := 0x018
abbrev portReplay : Nat := 0x01C
abbrev portTimerReplay : Nat := 0x020
abbrev portMark : Nat := 0x024
abbrev portDiscard : Nat := 0x028
abbrev portSwap : Nat := 0x02C
abbrev portGrain : Nat := 0x030
abbrev portSat : Nat := 0x034
abbrev portLaneCorr : Nat := 0x040

/-! ### Whose traffic (R263) -/

/-- The job mask of a source of this device. -/
def State.srcJobs (s : State) (src : Nat) : Nat :=
  match srcKind src with
  | 0 => (match s.panPos (srcIndex src) with | some p => s.jobMask (regionOf p) | none => 0)
  | 1 => if 16 ≤ srcIndex src ∧ srcIndex src < 32 then 2 ^ (srcIndex src - 16) else s.allJobs
  | _ => s.allJobs

/-- The jobs a packet's traffic belongs to: its source's, or its target's. -/
def State.trafficJobs (s : State) (src addr : Nat) : Nat :=
  if srcDevice src = s.deviceId then s.srcJobs src
  else if !s.isOwn addr then 0
  else match addrSpace addr with
    | 0 => (match panForm (addrOffset addr) with
      | .direct l _ => (match s.panPos l with | some p => s.jobMask (regionOf p) | none => 0)
      | .group g _ => 2 ^ (look ({} : Group) s.net.groups g).job
      | .reduction g _ _ => 2 ^ (s.slot g).job
      | .bad => 0)
    | 1 => (match s.memdev.lots.find? fun e => e.1 == bits (addrOffset addr) 46 36 with | some e => 2 ^ e.2.job | none => 0)
    | 2 => maskOf (s.cellarJobs (addrOffset addr))
    | _ => s.allJobs

/-- A port carries traffic of some jobs during their steps. -/
def portTraffic (n m : Nat) (s : State) : State := s.modPort n fun p => { p with jobs := p.jobs ||| m }

/-! ### The header unit (R264) -/

/-- Bits [223:0] of a header unit. -/
def headerBits (h : FinHeader) : Nat :=
  field h.reserved 31 193 + field h.dirs 3 190 + field h.pmark 8 182 + field h.crcnt 12 170 + field h.crvc 2 168 + field h.ack 12 156 +
  field h.seq 12 144 + field h.punits 4 140 + field h.status 8 132 + field h.hops 6 126 + flag h.xform 125 + flag h.exp 124 +
  flag h.detour 123 + field h.cls 1 122 + field h.vc 2 120 + field h.bytes 10 110 + field h.op 6 104 + field h.tag 12 92 +
  field h.src 28 64 + field h.addr 64 0

/-- The CRC of a header unit: CRC-32C over bytes 0 to 27. -/
def headerCrc (h : FinHeader) : Nat := crc32c (leBytes (headerBits h) 28)

/-- A header with its CRC, as it is sent. -/
def sealHeader (h : FinHeader) : FinHeader := { h with crc := headerCrc h }

/-- The 32 bytes of a header unit, the CRC little-endian in the last four. -/
def headerUnit (h : FinHeader) : List Byte := leBytes (headerBits h) 28 ++ leBytes h.crc 4

/-- The operation is a link-control one (R265). -/
def isControl (h : FinHeader) : Bool := decide (0x3D ≤ h.op)

/-! ### Slots and credits (R268, R269) -/

/-- Slots of a packet: one for the header, two for each payload unit. -/
def slotsNeeded (h : FinHeader) : Nat := 1 + 2 * h.punits

/-- Slots of a virtual channel's receive pool. -/
def poolSlots (vc : Nat) : Nat := if vc = 0 then 128 else if vc = 1 then 512 else if vc = 2 then 2048 else 3072

/-- The key of a channel and buffer class: primary class 0 and 1, detour class 0 and 1. -/
def classKey (h : FinHeader) : Nat := 4 * h.vc + (if h.detour then 2 else 0) + h.cls

/-- The shared slots that the classes of a channel take beyond the 8 reserved to each. -/
def sharedUse (used : Sparse Nat) (vc : Nat) : Nat := sumNat ((List.range 4).map fun c => look 0 used (4 * vc + c) - 8)

/-- The port holds credits for every slot of the packet, and its replay buffer of 2,048 packets and 256 KiB has room. -/
def hasCredit (p : Port) (h : FinHeader) : Bool :=
  let used := upd 0 (classKey h) (fun u => u + slotsNeeded h) p.used
  decide (sharedUse used h.vc + 32 ≤ poolSlots h.vc) && decide (p.replay.length < 2048) &&
  decide (sumNat (p.replay.map fun e => 32 + 64 * e.2.1.punits) + 32 + 64 * h.punits ≤ 262144)

/-- Freed slots of a channel come back; the classes give them up in order (log 16). -/
def freeSlots (vc : Nat) : Nat → Nat → Sparse Nat → Sparse Nat
  | 0, _, m => m
  | c + 1, n, m =>
    let k := 4 * vc + (3 - c)
    let u := look 0 m k
    freeSlots vc c (n - min n u) (put k (u - min n u) m)

/-- The slots of a virtual channel in use at the receiver. -/
def usedIn (p : Port) (vc : Nat) : Nat := sumNat ((List.range 4).map fun c => look 0 p.used (4 * vc + c))

/-- A running count of freed slots has come in CRVC and CRCNT (R269). A count that frees more than is in use is an older one, which came
in a header sent again, and frees nothing. -/
def creditFrom (n vc cnt : Nat) (s : State) : State :=
  s.modPort n fun p =>
    let d := (cnt + 4096 - look 0 p.freedSeen vc) % 4096
    if d ≤ usedIn p vc then { p with freedSeen := put vc (cnt % 4096) p.freedSeen, used := freeSlots vc 4 d p.used } else p

/-- The sender frees every packet an ACK covers (R267). -/
def ackFrom (n ack : Nat) (s : State) : State :=
  s.modPort n fun p => { p with replay := p.replay.filter fun e => decide (2048 ≤ (ack + 4096 - e.1) % 4096) }

/-- Slots of a channel are freed here. -/
def freedHere (n vc k : Nat) (s : State) : State :=
  s.modPort n fun p => { p with freed := upd 0 vc (fun c => (c + k) % 4096) p.freed, unreported := upd 0 vc (· + k) p.unreported }

/-- A packet has been received whole and takes its slots of the port's receive pool until it leaves the port (R268). -/
def poolTake (n : Nat) (h : FinHeader) (s : State) : State :=
  s.modPort n fun p => { p with pool := upd 0 (classKey h) (· + slotsNeeded h) p.pool }

/-- A packet leaves the port it came in on: its slots are free. -/
def poolFree (from_ : Option (Nat × Nat)) (slots : Nat) (s : State) : State :=
  match from_ with
  | none => s
  | some (n, key) => freedHere n (key / 4) slots (s.modPort n fun p => { p with pool := upd 0 key (· - slots) p.pool })

/-! ### Sending (R264, R267, R269) -/

/-- SEQ of the last header received in order (R264 ACK). -/
def Port.lastGood (p : Port) : Nat := (p.rxSeq + 4095) % 4096

/-- A header as the port sends it now: the latest ACK and freed count of its channel, and its CRC. -/
def freshHeader (p : Port) (h : FinHeader) : FinHeader :=
  sealHeader { h with ack := p.lastGood, crvc := h.vc, crcnt := look 0 p.freed h.vc }

/-- The payload units of a packet, the last padded with zeros (R265). -/
def padUnits (units : Nat) (bs : List Byte) : List Byte := bs ++ List.replicate (64 * units - bs.length) 0

/-- Send a packet on a port: it takes the next SEQ, credits and a place in the replay buffer, and is the latest grant of its channel
(R270). -/
def transmit (n : Nat) (h : FinHeader) (bs : List Byte) (s : State) : State :=
  let p := s.port n
  let h1 := freshHeader p { h with seq := p.txSeq }
  let data := padUnits h.punits bs
  let s1 := s.modPort n fun p =>
    { p with txSeq := (p.txSeq + 1) % 4096, replay := p.replay ++ [(p.txSeq, h1, data, s.now)]
             used := upd 0 (classKey h) (fun u => u + slotsNeeded h) p.used, unreported := put h.vc 0 p.unreported
             slotsSent := p.slotsSent + slotsNeeded h, grants := put h.vc (p.slotsSent + slotsNeeded h) p.grants }
  { s1 with fin := { s1.fin with sent := s1.fin.sent ++ [(n, h1, data)] } }

/-- Hand a packet to an output port: it goes out with credit and frees its slots where it came in, or waits behind those of its channel
that wait (R269, R270). -/
def handOut (n : Nat) (h : FinHeader) (bs : List Byte) (from_ : Option (Nat × Nat)) (s : State) : State :=
  let waits := s.fin.held.any fun e => e.1 == n && e.2.1.vc == h.vc
  if waits || !hasCredit (s.port n) h then
    let s1 := if waits then s else s.modPort n fun p => { p with grants := put h.vc p.slotsSent p.grants }
    { s1 with fin := { s1.fin with held := s1.fin.held ++ [(n, h, bs, from_)] } }
  else poolFree from_ (slotsNeeded h) (transmit n h bs s)

/-- A packet that waits: the slot by which its channel must have one again, and its slots (R270). -/
abbrev Due := Nat × Nat

/-- Packets that go one after another once `n` slots have been sent, each beginning by its slot. -/
def meetsAll : Nat → List Due → Bool
  | _, [] => true
  | n, (d, k) :: l => decide (n + 1 ≤ d) && meetsAll (n + k) l

/-- A list with one more member at each of its places. -/
def insertions (x : Due) : List Due → List (List Due)
  | [] => [[x]]
  | y :: l => (x :: y :: l) :: (insertions x l).map fun r => y :: r

/-- The orders of a list. -/
def orders : List Due → List (List Due)
  | [] => [[]]
  | x :: l => (orders l).flatMap (insertions x)

/-- When a packet goes after `n` slots, in some order the other channels and then its own again get a slot in every 32 (R270). -/
def leavesRoom (n : Nat) (x : Due) (others : List Due) : Bool :=
  (orders ((n + x.2 + 32, x.2) :: others)).any (meetsAll (n + x.2))

/-- The waiting packet an output port grants next (R270): the first of a channel, with credit. Urgent goes first; then request, response
and bulk in that order, but for one whose packet would leave another channel without a slot in 32; where every one would, the channel
that has waited longest (log 104). -/
def nextHeld (p : Port) (l : List (Nat × FinHeader × List Byte × Option (Nat × Nat))) :
    Option (Nat × FinHeader × List Byte × Option (Nat × Nat)) :=
  let first (vc : Nat) : Option (Nat × FinHeader × List Byte × Option (Nat × Nat)) :=
    (l.find? fun e => e.2.1.vc == vc).filter fun e => hasCredit p e.2.1
  let due (e : Nat × FinHeader × List Byte × Option (Nat × Nat)) : Due := (look 0 p.grants e.2.1.vc + 32, slotsNeeded e.2.1)
  let ws := [1, 2, 3].filterMap first
  let safe := ws.find? fun e => leavesRoom p.slotsSent (due e) ((ws.filter fun f => f.2.1.vc != e.2.1.vc).map due)
  let oldest := ws.foldl (fun o e => match o with
    | some x => if (due e).1 < (due x).1 then some e else some x
    | none => some e) none
  first 0 <|> safe <|> oldest

/-- Send what waits at a port, as far as it has credit. -/
def flushSome : Nat → Nat → State → State
  | 0, _, s => s
  | f + 1, n, s =>
    match nextHeld (s.port n) (s.fin.held.filter fun e => e.1 == n) with
    | none => s
    | some e =>
      flushSome f n (poolFree e.2.2.2 (slotsNeeded e.2.1) (transmit n e.2.1 e.2.2.1
        { s with fin := { s.fin with held := s.fin.held.erase e } }))

/-- A channel that waits for credit counts its slots from when it has it (R270). -/
def restGrants (n : Nat) (s : State) : State :=
  let l := s.fin.held.filter fun e => e.1 == n
  s.modPort n fun p =>
    { p with grants := [1, 2, 3].foldl (fun m vc => match l.find? fun e => e.2.1.vc == vc with
        | some e => if hasCredit p e.2.1 then m else put vc p.slotsSent m
        | none => m) p.grants }

/-- Send what waited at a port and now has credit. -/
def flushPort (n : Nat) (s : State) : State := restGrants n (flushSome (s.fin.held.filter fun e => e.1 == n).length n s)

/-- Send a link-control header (R265), which waits for nothing. -/
def sendControl (n op crvc addr : Nat) (s : State) : State :=
  let p := s.port n
  let h : FinHeader := sealHeader { op := op, addr := addr, ack := p.lastGood, crvc := crvc, crcnt := look 0 p.freed crvc }
  { s with fin := { s.fin with control := s.fin.control ++ [(n, h)] } }.modPort n fun p => { p with unreported := put crvc 0 p.unreported }

/-- Resend every packet of the replay buffer, oldest first, with a fresh ACK and freed count (R267, R269). -/
def resend (n : Nat) (timer : Bool) (s : State) : State :=
  let rs := (s.port n).replay
  if rs.isEmpty then s
  else
    let p0 := s.port n
    let s1 := s.modPort n fun p => { p with replay := p.replay.map fun e => (e.1, e.2.1, e.2.2.1, s.now) }
    let out := rs.map fun (e : Nat × FinHeader × List Byte × Nat) => (n, freshHeader p0 e.2.1, e.2.2.1)
    let s2 := { s1 with fin := { s1.fin with sent := s1.fin.sent ++ out } }
    (s2.bumpPort n portReplay 1).bumpPort n portTimerReplay (if timer then 1 else 0)

/-! ### Requantised transport (R277) -/

/-- One group of 32 I32 values: its 33 bytes, and the elements clamped. -/
def packGroup (vs : List Int) : List Byte × Nat :=
  let m := vs.foldl (fun a v => max a v.natAbs) 0
  let er := bitLength m - 7
  let q := vs.map fun v => if er = 0 then v else roundHalfEven v er
  (bs8Bytes (q.map (clampInt (-127) 127)) ++ [BitVec.ofNat 8 er], (q.filter fun x => clampInt (-127) 127 x ≠ x).length)

/-- A group restored from its 33 bytes; none when er is above 25. -/
def unpackGroup (bs : List Byte) : Option (List Byte) :=
  let er := (bs.getD 32 0).toNat
  if 25 < er then none else some (intBytes 4 ((bs8Elems (bs.take 32)).map fun x => x * 2 ^ er))

/-- A WR qualifies for requantisation. -/
def State.requantises (s : State) (k : Packet) : Bool :=
  k.op == Op.wr && k.addr % 128 == 0 && k.bytes % 128 == 0 && decide (0 < k.bytes) &&
  s.fin.req.any fun e =>
    let r := e.2
    let lo := if r.anyDev then r.base % 2 ^ 50 else r.base
    let a := if r.anyDev then k.addr % 2 ^ 50 else k.addr
    decide (lo ≤ a) && decide (a + k.bytes ≤ lo + r.len)

/-- The units of a run of n bytes from byte b that bear a mark. -/
def anyMark (ms : List Bool) (b n : Nat) : Bool := (List.range ((b + n + 63) / 64 - b / 64)).any fun i => ms.getD (b / 64 + i) false

/-- PMARK of the payload units of a packet sent as it is: payload unit u carries data bytes 64u and on. -/
def plainMarks (k : Packet) (units : Nat) : Nat :=
  maskOf ((List.range units).filter fun u => anyMark k.marks (k.addr % 64 + 64 * u) (min 64 (k.bytes - 64 * u)))

/-- PMARK of a requantised packet: group g lies at packed bytes 33g to 33g + 32. -/
def packedMarks (k : Packet) (units : Nat) : Nat :=
  maskOf ((List.range units).filter fun u => (List.range (k.bytes / 128)).any fun g =>
    decide (33 * g < 64 * u + 64) && decide (64 * u < 33 * g + 33) && anyMark k.marks (128 * g) 128)

/-! ### Injecting onto Finron (R268, R273, R274) -/

/-- The Finron channel of an operation. -/
def finChannel (op : Nat) : Option Nat :=
  if op = Op.wr ∨ op = Op.reduce then some 3 else if op = Op.mcWr ∨ op = Op.busWr then none else opChannel op

/-- The destination device of a packet: a request's is in ADDR, a response's in SRC (R276). -/
def Packet.finDest (k : Packet) : Nat := if 0x20 ≤ k.op then srcDevice k.src else addrDevice k.addr

/-- The next link of a leg crosses the wrap segment of its ring (R273). -/
def State.crossesWrap (s : State) (role : Nat) : Bool :=
  match s.fin.selfPos with
  | none => false
  | some (x, y, z) =>
    match role with
    | 0 => x + 1 == s.fin.dx
    | 1 => x == 0
    | 2 => y + 1 == s.fin.dy
    | 3 => y == 0
    | 4 => z + 1 == s.fin.dz
    | 5 => z == 0
    | _ => false

/-- A packet for another device leaves by a port (R273), requantised where it qualifies (R277); a request that no route reaches is answered
with ADDR. -/
def sendOut (k : Packet) (s : State) : State :=
  let dev := Packet.finDest k
  match s.egress k.src dev with
    | none => if 0x20 ≤ k.op || k.vc = 0 then s else respond k.sgx k.sgy k (answerOp k.op) Cause.addr [] [] s
    | some (n, dirs, det, exp) =>
      let op := if k.op = Op.mcWr ∨ k.op = Op.busWr then Op.wr else k.op
      let xf := s.requantises k
      let groups := (chunksOf 128 (k.bytes / 128) k.data).map fun c => packGroup (intsOf 4 32 c)
      let data := if xf then (groups.map (·.1)).flatten else k.data.take (Packet.carried k)
      let units := (data.length + 63) / 64
      let role := portRole n
      let h : FinHeader :=
        { op := op, vc := (finChannel op).getD k.vc
          addr := if 0x20 ≤ k.op then mkAddr dev (addrSpace k.addr) (addrOffset k.addr) else k.addr
          src := k.src, tag := k.tag, bytes := k.bytes, cls := if !exp && s.crossesWrap role then 1 else 0, detour := det, exp := exp
          xform := xf, status := k.status, punits := units, pmark := if xf then packedMarks k units else plainMarks k units, dirs := dirs }
      let s1 := if xf then
          (s.bumpPort n portGrain groups.length).bumpPort n portSat (sumNat (groups.map (·.2))) else s
      handOut n h data none (portTraffic n (s.trafficJobs k.src k.addr) s1)

/-- PACKET_TRANSMIT: a packet at its Finron attachment router, or one of the collective unit's for the bulk channel (R311). -/
def packetTransmit (k : Packet) (s : State) : State :=
  if Packet.finDest k = s.deviceId || Packet.finDest k = 8191 then s
  else if s.net.bulk.contains k then sendOut k (s.modNet fun n => { n with bulk := n.bulk.erase k })
  else atTarget k (sendOut k) s

def execPacketTransmit (k : Packet) : State → Host.Outcome State Fault Refusal := act true (packetTransmit k)

/-! ### Delivery at the destination device (R276, R289) -/

/-- The router at which a source of this device injects, where a response to it goes. -/
def State.srcRouter (s : State) (src : Nat) : Nat × Nat :=
  match srcKind src with
  | 0 => (match s.panPos (srcIndex src) with | some p => (meshX p, meshY p) | none => controlRouter)
  | 1 => if srcIndex src = 0 then pcieRouter else controlRouter
  | _ => controlRouter

/-- The data bytes and unit marks that a packet's payload gives at ADDR. -/
def unpackPayload (h : FinHeader) (bs : List Byte) (ms : List Bool) : List Byte × List Bool :=
  if h.xform then
    let gs := (List.range (h.bytes / 128)).map fun g =>
      let m := anyMark ms (33 * g) 33
      match unpackGroup ((bs.drop (33 * g)).take 33) with
      | some d => (d, [m, m])
      | none => (List.replicate 128 0, [true, true])
    ((gs.map (·.1)).flatten, (gs.map (·.2)).flatten)
  else
    let n := if h.op = Op.rd then 0 else h.bytes
    let o := h.addr % 64
    let units := (o + n + 63) / 64
    -- unit u of ADDR holds data bytes 64u − o to 64u − o + 63
    (bs.take n, (List.range units).map fun u => anyMark ms (64 * u - o) (min n (64 * u + 64 - o) - (64 * u - o)))

/-- The ingress port forms a bund packet and injects it (R276); a packet for another IDENT is answered with ADDR (R289). -/
def ingress (n : Nat) (h : FinHeader) (bs : List Byte) (ms : List Bool) (s : State) : State :=
  let r := s.working (finronRouter n) h.addr
  let (data, marks) := unpackPayload h bs ms
  let k : Packet := { op := h.op, vc := (opChannel h.op).getD 1, addr := h.addr, src := h.src, tag := h.tag, bytes := h.bytes
                      status := h.status, sgx := r.1, sgy := r.2, data := data, marks := marks }
  if s.svc.ident ≠ some (addrDevice h.addr) then
    if 0x20 ≤ h.op || k.vc = 0 then s else respond r.1 r.2 k (answerOp h.op) Cause.addr [] [] s
  else if 0x20 ≤ h.op then let d := s.srcRouter h.src; inject r.1 r.2 d.1 d.2 k s
  else issueFrom r k s

/-- Where a packet that has come in on a port goes next (R273, R274): it is at its destination position, or it leaves by a
port; at the far end of an express hop it may find no route; on the way its next link may be down. -/
inductive Onward where
  | deliver
  | out (port : Nat) (h : FinHeader)
  | noRoute
  | lost
deriving DecidableEq, Repr

/-- The leg a packet is on at a position: its dimension and direction. -/
def nextLeg (me there : Nat × Nat × Nat) (detour : Bool) (dirs : Nat) : Option (Nat × Bool) :=
  let ds : List (Nat × Bool) := [(0, me.1 != there.1), (1, me.2.1 != there.2.1), (2, me.2.2 != there.2.2)]
  ((if detour then ds.reverse else ds).find? fun d => d.2).map fun d => (d.1, !bit dirs d.1)

/-- A transit device follows the header; the far end of an express hop routes as though injecting. -/
def State.onward (s : State) (n : Nat) (h : FinHeader) : Onward :=
  let dev := addrDevice h.addr
  match s.fin.selfPos, s.routeOf dev with
  | some me, some r =>
    let there := (r.x, r.y, r.z)
    if me = there then .deliver
    else
      let plan : Option (Nat × Bool × Nat × Bool) :=
        if h.exp && decide (8 ≤ portRole n) then
          (match s.route me there with
           | some p => (nextLeg me there p.detour p.dirs).map fun l => (l.1, l.2, p.dirs, p.detour)
           | none => none)
        else (nextLeg me there h.detour h.dirs).map fun l => (l.1, l.2, h.dirs, h.detour)
      match plan with
      | none => if h.exp && decide (8 ≤ portRole n) then .noRoute else .lost
      | some (dim, plus, dirs, det) =>
        let role := roleOf dim plus
        match s.pairPort role h.src dev with
        | none => .lost
        | some q =>
          let same := decide (portRole n / 2 = dim) && decide (portRole n < 6)
          let cls := if s.crossesWrap role || (same && h.cls == 1) then 1 else 0
          .out q { h with hops := h.hops + 1, cls := cls, dirs := dirs, detour := det }
  | _, _ => .deliver

/-- The far end of an express hop has no route for a packet (R273, R274): it answers the requester as the injecting device does. -/
def answerFarEnd (n : Nat) (h : FinHeader) (s : State) : State :=
  let r := s.working (finronRouter n) h.addr
  if 0x20 ≤ h.op || h.vc = 0 then s
  else respond r.1 r.2 { op := h.op, addr := h.addr, src := h.src, tag := h.tag, sgx := r.1, sgy := r.2 } (answerOp h.op) Cause.addr [] [] s

/-- A whole packet has come in on a port: it is delivered, or crosses to another port (R257); its slots of the receive pool are free once it
has left the port (R268, R269). -/
def packetIn (n : Nat) (h : FinHeader) (bs : List Byte) (ms : List Bool) (s : State) : State :=
  let from_ := some (n, classKey h)
  let s1 := poolTake n h (portTraffic n (s.trafficJobs h.src h.addr) s)
  match s1.onward n h with
  | .deliver => poolFree from_ (slotsNeeded h) (ingress n h bs ms s1)
  | .out q h1 => handOut q { h1 with pmark := maskOf ((List.range h.punits).filter fun u => ms.getD u false) } bs from_
                   (portTraffic q (s1.trafficJobs h.src h.addr) s1)
  | .noRoute => poolFree from_ (slotsNeeded h) (answerFarEnd n h s1)
  | .lost => poolFree from_ (slotsNeeded h) s1

/-! ### HEADER_UNIT_RECEIVE and PAYLOAD_UNIT_RECEIVE (R264 to R267) -/

/-- What the decoder found in the codeword is counted (R279), and kept for the judging of its lane (R262). -/
def fecCounts (n : Nat) (f : Fec) (s : State) : State :=
  if !f.first then s
  else
    let s1 := s.modPort n fun p =>
      { p with corr := if f.corrected = 0 then p.corr else
                 (p.corr.filter fun e => decide (s.now < e.2.1 + 1000000)) ++ [(f.lane, s.now, f.corrected)]
               uncorr := if f.uncorrectable then addOnce f.lane p.uncorr else p.uncorr }
    ((s1.bumpPort n portFecCorr f.corrected).bumpPort n (portLaneCorr + 4 * f.lane) f.corrected).bumpPort n portFecUncorr
      (if f.uncorrectable then 1 else 0)

/-- The map a LANE_MAP register value spells. -/
def mapOf (v : Nat) : List Nat := (List.range 8).map fun i => bits v (4 * i + 3) (4 * i)

/-- A lane map names physical lanes 0 to 8 and dropped lanes (R265). -/
def mapOk (v : Nat) : Bool := (mapOf v).all fun l => decide (l < 9) || l == 15

/-- A header with a good CRC that R264 or R274 nonetheless discards; the ADDR of a link-control header carries link data (R265). -/
def headerBad (h : FinHeader) : Bool :=
  if isControl h then h.reserved != 0 || h.seq != 0 || (h.op == 0x3F && !mapOk (h.addr / 2 ^ 32))
  else
  finChannel h.op != some h.vc || h.reserved != 0 || decide (8 < h.punits) || decide (0x0A < h.status) ||
  (decide (h.op < 0x20) && h.status != 0) || decide (2 < srcKind h.src) || decide (1 < h.cls) || addrDevice h.addr == 8191 ||
  decide (63 ≤ h.hops) || bit h.addr 63 ||
  !bytesOk { op := h.op, vc := h.vc, addr := h.addr, bytes := h.bytes }

/-- Active lanes of a port, as a LINK record's F_DETAIL gives them. -/
def activeLanes (p : Port) : Nat := (p.laneMap.filter fun l => decide (l < 9)).length

/-- A link event (log 17): a discarded header. -/
def linkDiscard (n : Nat) (s : State) : State :=
  let s1 := s.bumpPort n portDiscard 1
  report { type := RecType.link, cls := 2, unitCls := UnitCls.lane, unitIdx := n * 16, detail := activeLanes (s.port n) } s1

/-- Ask for replay from the last good SEQ. -/
def nakFrom (n : Nat) (s : State) : State := sendControl n 0x3E 0 0 (s.modPort n fun p => { p with nak := true })

/-- The payload units that follow a header come next: they are delivered with it, or discarded with it (R266). -/
def expectUnits (n : Nat) (h : FinHeader) (discard : Bool) (s : State) : State :=
  if h.punits = 0 then s else s.modPort n fun p => { p with arriving := (h, [], [], discard) :: p.arriving }

/-- PAYLOAD_UNIT_RECEIVE: the next payload unit of the packet arriving, marked when its codeword is uncorrectable; the units of a packet that
the receiver discards go with it (R266). -/
def payloadReceive (n : Nat) (f : Fec) (bs : List Byte) (s0 : State) : State :=
  if !s0.portUp n then s0
  else
    let s := fecCounts n f s0
    match (s.port n).arriving with
    | [] => s
    | (h, _, ms, true) :: rest =>
      s.modPort n fun p => { p with arriving := if h.punits ≤ ms.length + 1 then rest else (h, [], ms ++ [false], true) :: rest }
    | (h, ds, ms, false) :: rest =>
      let m := f.uncorrectable || bit h.pmark ms.length
      let s1 := s.bumpPort n portMark (if f.uncorrectable then 1 else 0)
      let ds1 := ds ++ bs
      let ms1 := ms ++ [m]
      if h.punits ≤ ms1.length then packetIn n h ds1 ms1 (s1.modPort n fun p => { p with arriving := rest })
      else s1.modPort n fun p => { p with arriving := (h, ds1, ms1, false) :: rest }

def execPayloadUnitReceive (n : Nat) (f : Fec) (bs : List Byte) : State → Host.Outcome State Fault Refusal :=
  act (decide (n < 16) && decide (f.lane < 9) && bs.length == 64) (payloadReceive n f bs)

/-! ### Link control (R262, R265, R267, R269) -/

/-- LINK_IDLE: an ACK and credits. -/
def linkIdle (n ack crvc crcnt : Nat) (s : State) : State :=
  if s.portUp n then flushPort n (ackFrom n ack (creditFrom n crvc crcnt s)) else s

def execLinkIdle (n ack crvc crcnt : Nat) : State → Host.Outcome State Fault Refusal :=
  act (decide (n < 16) && decide (crvc < 4) && decide (ack < 4096) && decide (crcnt < 4096)) (linkIdle n ack crvc crcnt)

/-- LINK_NAK: the sender resends from SEQ = ACK + 1. -/
def linkNak (n ack : Nat) (s : State) : State := if s.portUp n then resend n false (ackFrom n ack s) else s

def execLinkNak (n ack : Nat) : State → Host.Outcome State Fault Refusal :=
  act (decide (n < 16) && decide (ack < 4096)) (linkNak n ack)

/-- LANE_MAP of a map. -/
def mapWord (l : List Nat) : Nat := sumNat (l.zipIdx.map fun e => field e.1 4 (4 * e.2))

/-- LINK_REPLAY_TIMER: the oldest unacknowledged packet has waited 320 ns. -/
def execLinkReplayTimer (n : Nat) : State → Host.Outcome State Fault Refusal :=
  act (decide (n < 16)) fun s =>
    match (s.port n).replay with
    | e :: _ => if e.2.2.2 + 320 ≤ s.now then resend n true s else s
    | [] => s

/-- CREDIT_RETURN: the freed slots of a channel are reported. -/
def execCreditReturn (n vc : Nat) : State → Host.Outcome State Fault Refusal :=
  act (decide (n < 16) && decide (vc < 4)) fun s =>
    if look 0 (s.port n).unreported vc = 0 then s else sendControl n 0x3D vc 0 s

/-! ### Lane sparing and port loss (R262, R263, R275) -/

/-- The segment toward a direction from this position is broken in POS_STATE: the bit lies at the position on its − side. -/
def markSegment (role : Nat) (s : State) : State :=
  match s.fin.selfPos with
  | none => s
  | some (x, y, z) =>
    let d := s.fin
    let q : Nat × Nat × Nat :=
      if role = 1 then ((x + d.dx - 1) % d.dx, y, z) else if role = 3 then (x, (y + d.dy - 1) % d.dy, z)
      else if role = 5 then (x, y, (z + d.dz - 1) % d.dz) else (x, y, z)
    let n := s.posNumber q.1 q.2.1 q.2.2
    { s with fin := { d with posState := upd 0 n (fun v => v ||| 2 ^ (role / 2)) d.posState } }

/-- PORT_DOWN: the port's packets are lost and its traffic moves to the pair's other port. -/
def portDown (n : Nat) (s : State) : State :=
  if (s.port n).state = 4 then s
  else
    let jobs := (s.port n).jobs
    let s1 := s.modPort n fun p =>
      { p with state := 4, replay := [], arriving := [], nak := false, used := [], unreported := [], pool := [], corr := [], uncorr := [] }
    let mate := if n % 2 = 0 then n + 1 else n - 1
    let moves := portRole n < 6 && s1.portUp mate
    let moved := s1.fin.held.filterMap fun e => if e.1 ≠ n then some e else if moves then some (mate, e.2) else none
    let lost := s1.fin.held.filter fun e => e.1 == n && !moves
    let s2 := foldState lost (fun t e => poolFree e.2.2.2 (slotsNeeded e.2.1) t) { s1 with fin := { s1.fin with held := moved } }
    let s3 := if portRole n < 6 && !s2.portUp mate then markSegment (portRole n) s2 else s2
    report { type := RecType.link, cls := 5, code := 3, unitCls := UnitCls.lane, unitIdx := n * 16, detail := activeLanes (s.port n)
             jobs := jobs } (flushPort mate s3)

/-- A lane swap or drop is counted and reported as a link event (R262): `lane` is the physical lane given up. -/
def laneEvent (n lane : Nat) (dropped : Bool) (s : State) : State :=
  report { type := RecType.link, cls := 1, code := if dropped then 2 else 1, unitCls := UnitCls.lane, unitIdx := n * 16 + lane
           detail := activeLanes (s.port n) } (s.bumpPort n portSwap 1)

/-- Physical lanes are given up for good. -/
def giveUp (usable : Nat) (lanes : List Nat) : Nat := maskOf ((List.range 9).filter fun l => bit usable l && !lanes.contains l)

/-- LINK_LANE: the sender applies the new map from the named codeword, counts each logical lane that moves or goes, and gives up the physical
lane it leaves; with fewer than four lanes left the port goes down (R262, R263). A map with a reserved value is discarded (R264). -/
def linkLane (n map codeword : Nat) (s : State) : State :=
  if !s.portUp n then s
  else if !mapOk map then linkDiscard n s
  else
    let old := (s.port n).laneMap
    let new := mapOf map
    let changed := (List.range 8).filter fun i => old.getD i 15 != new.getD i 15
    let left := old.filter fun l => !new.contains l
    let s1 := s.modPort n fun p =>
      { p with laneMap := new, mapFrom := codeword, spareUsed := new.contains 8, usable := giveUp p.usable left
               state := if new.all fun l => decide (l < 9) then 2 else 3 }
    let s2 := foldState changed (fun t i => laneEvent n (old.getD i 15) (new.getD i 15 == 15) t) s1
    if activeLanes (s2.port n) < 4 then portDown n s2 else s2

def execLinkLane (n map codeword : Nat) : State → Host.Outcome State Fault Refusal :=
  act (decide (n < 16) && decide (map < 2 ^ 32) && decide (codeword < 2 ^ 32)) (linkLane n map codeword)

/-- HEADER_UNIT_RECEIVE (R264 to R267). -/
def headerReceive (n : Nat) (h : FinHeader) (f : Fec) (s0 : State) : State :=
  if !s0.portUp n then s0
  else
    let s := fecCounts n f s0
    if f.uncorrectable || h.crc != headerCrc h then
      nakFrom n ((if isControl h then s else expectUnits n h true s).bumpPort n portHdrFail 1)
    else if isControl h && headerBad h then linkDiscard n s
    else
      let s1 := ackFrom n h.ack (creditFrom n h.crvc h.crcnt s)
      if h.op = 0x3E then resend n false s1
      else if h.op = 0x3F then linkLane n (h.addr / 2 ^ 32) (h.addr % 2 ^ 32) (flushPort n s1)
      else if isControl h then flushPort n s1
      else
        let p := s.port n
        let d := (h.seq + 4096 - p.rxSeq) % 4096
        if d ≠ 0 then
          -- accepted before, or out of order
          let s2 := expectUnits n h true s1
          if 2048 ≤ d then s2 else if p.nak then s2 else nakFrom n s2
        else
          let s2 := flushPort n (s1.modPort n fun p => { p with rxSeq := (p.rxSeq + 1) % 4096, nak := false })
          if headerBad h then freedHere n h.vc (slotsNeeded h) (expectUnits n h true (linkDiscard n s2))
          else if h.punits = 0 then packetIn n h [] [] s2
          else expectUnits n h false s2

def execHeaderUnitReceive (n : Nat) (h : FinHeader) (f : Fec) : State → Host.Outcome State Fault Refusal :=
  act (decide (n < 16) && decide (f.lane < 9)) (headerReceive n h f)

/-- A lane is degraded (R262): in the last millisecond more than a thousandth of its symbols were corrected, a lane taking in 78,125 codewords of
544 symbols in that time (R258), or it has delivered an uncorrectable codeword. -/
def laneDegraded (p : Port) (lane now : Nat) : Bool :=
  p.uncorr.contains lane ||
  decide (42500 < sumNat ((p.corr.filter fun e => e.1 == lane && decide (now < e.2.1 + 1000000)).map fun e => e.2.2))

/-- LANE_JUDGE: an active lane that is degraded, or has lost lock, moves its logical number to the spare, or drops it. A lost
lane's codewords come in as uncorrectable (R266). -/
def laneJudge (n lane : Nat) (lost : Bool) (s : State) : State :=
  let p := s.port n
  if !s.portUp n || !(lost || laneDegraded p lane s.now) then s
  else match p.laneMap.findIdx? fun l => l == lane with
    | none => s
    | some i =>
      let spare := (List.range 9).find? fun l => bit p.usable l && !p.laneMap.contains l && l != lane
      let map := setAt p.laneMap i (spare.getD 15)
      let (cw, s1) := s.draw
      let s2 := s1.modPort n fun p =>
        { p with laneMap := map, mapFrom := cw % 2 ^ 32, usable := giveUp p.usable [lane]
                 spareUsed := p.spareUsed || spare.isSome, state := if spare.isSome && p.state == 2 then 2 else 3 }
      let s3 := laneEvent n lane spare.isNone s2
      let s4 := sendControl n 0x3F 0 (mapWord map * 2 ^ 32 + cw % 2 ^ 32) s3
      if activeLanes (s4.port n) < 4 then portDown n s4 else s4

def execLaneJudge (n lane : Nat) (lost : Bool) : State → Host.Outcome State Fault Refusal :=
  act (decide (n < 16) && decide (lane < 9)) (laneJudge n lane lost)

end Sys2Proof.Machine
end

