-- ==== Sys2Proof/Machine/Placement.lean ====
section
/-! DEFINITION. Where a job's parts lie (R178 to R182, R189, R317, R320 to R324): lots and their allocation, the layer sweep,
group rectangles, the placement report and the moving of shares. -/

namespace Sys2Proof.Machine
open Sys2Proof

/-! ### Lots -/

/-- Bytes of a lot (R181, R182). -/
def State.lotBytes (s : State) : Lot → Nat
  | .near _ n count _ => count * 2 ^ (20 + n)
  | .even _ _ len => s.memdev.n * len * 65536

/-- A lot's entry. -/
def State.lot? (s : State) (l : Nat) : Option Lot := (s.memdev.lots.find? fun e => e.1 == l).map (·.2)

/-- The spread entries that lie in a slice: index and displacement (R182). A stand-in holds its own and another's (R187). -/
def State.spreadOf (s : State) (sl : Nat) : List (Nat × Int) :=
  ((s.memdev.spread.filter fun e => e.2.1 == sl).map fun e => (e.1, e.2.2)) ++
    (if sl < s.memdev.n && !(s.memdev.spread.any fun e => e.1 == sl) then [(sl, 0)] else [])

/-- The first byte of an even lot's range in a slice with displacement d. -/
def State.evenBase (s : State) (base : Nat) (d : Int) : Nat :=
  (((s.memdev.ezBase + base : Nat) : Int) + d).toNat * 65536

/-- The offset within a lot of a byte of a slice, if the lot holds it: R181 and R182 read backwards. -/
def State.lotOffset (s : State) (l : Lot) (sl b : Nat) : Option Nat :=
  match l with
  | .near _ n count first =>
    let size := 2 ^ (20 + n)
    ((List.range count).find? fun e =>
      let x := look 0 s.memdev.ext (first + e)
      bits x 15 5 == sl && decide (x % 32 * 2 ^ 20 ≤ b) && decide (b < x % 32 * 2 ^ 20 + size)).map fun e =>
        e * size + (b - look 0 s.memdev.ext (first + e) % 32 * 2 ^ 20)
  | .even _ base len =>
    match (s.spreadOf sl).find? fun e =>
        decide (s.evenBase base e.2 ≤ b) && decide (b < s.evenBase base e.2 + len * 65536) with
    | none => none
    | some (i, d) =>
      let nn := s.memdev.n
      let r := b - s.evenBase base d
      let q := r / 256
      ((List.range nn).find? fun j => (s.memdev.m * j + 97 * q) % nn == i).map fun j => (q * nn + j) * 256 + r % 256

/-- A lot holds a byte of a slice. -/
def State.lotHolds (s : State) (l : Lot) (sl b : Nat) : Bool :=
  match l with
  | .near _ n count first => (List.range count).any fun e =>
      let x := look 0 s.memdev.ext (first + e)
      bits x 15 5 == sl && decide (x % 32 * 2 ^ 20 ≤ b) && decide (b < x % 32 * 2 ^ 20 + 2 ^ (20 + n))
  | .even _ base len =>
    (s.spreadOf sl).any fun e => decide (s.evenBase base e.2 ≤ b) && decide (b < s.evenBase base e.2 + len * 65536)

/-- A lot's bytes become zero with valid check bits (R196, R346), after the writes its slices have admitted (R174). -/
def zeroLot (l : Lot) (s0 : State) : State :=
  let s := foldState ((s0.slices.filter fun e => s0.lotInSlice e.1 l).map (·.1)) (fun t sl => settleSlice sl t) s0
  { s with
    brineMem := s.brineMem.filter fun e => !s.lotHolds l (e.1 / 2 ^ 25) (e.1 % 2 ^ 25)
    slices := s.slices.map fun e => (e.1, { e.2 with
      poison := e.2.poison.filter fun w => !s.lotHolds l e.1 (32 * w)
      errs := e.2.errs.filter fun x => !s.lotHolds l e.1 (32 * x.word) }) }

/-- A lot's entry becomes free (R180), and with it the requantisation entries over its bytes (R277). -/
def freeLot (l : Nat) (s : State) : State :=
  let covers (r : ReqEntry) : Bool := addrSpace r.base == 1 && addrOffset r.base / 2 ^ 36 == l
  { s with fin := { s.fin with req := s.fin.req.filter fun e => !covers e.2 } }.modMem fun d =>
    { d with lots := d.lots.filter fun e => e.1 != l, allocated := d.allocated.filter fun a => a != l }

/-- The marked units of a lot: offset within the lot, slice and byte (R194). -/
def State.markedUnits (s : State) (l : Lot) : List (Nat × Nat × Nat) :=
  (s.slices.map fun e =>
    (e.2.poison.foldl (fun u w => addOnce (64 * (w / 2)) u) []).filterMap fun b =>
      (s.lotOffset l e.1 b).map fun o => (o, e.1, b)).flatten

/-- Write one unit of a lot. -/
def lotWriteUnit (l o : Nat) (bs : List Byte) (marked : Bool) (s : State) : State :=
  match s.lotPlace l o with
  | none => s
  | some (sl, b, _) => sliceWrite sl b bs marked s

/-! ### Allocation (R179, R180, R186, R321) -/

/-- MiB m of a slice is taken: by the even zone, at the slice's own displacement, or by a near extent. -/
def State.mibTaken (s : State) (sl m : Nat) : Bool :=
  let zone (d : Int) : Bool :=
    let z0 := s.evenBase 0 d
    decide (m * 2 ^ 20 < z0 + s.memdev.ezLen * 65536) && decide (z0 < (m + 1) * 2 ^ 20)
  zone 0 || ((s.spreadOf sl).any fun e => zone e.2) || s.memdev.lots.any fun e => s.lotHolds e.2 sl (m * 2 ^ 20)

/-- The free ranges of 2^n MiB of a slice, as extent-table entries. -/
def State.freeExtents (s : State) (n sl : Nat) : List Nat :=
  let m := (s.slice sl).mode
  if m = .awake || m = .asleep || m = .filling then
    ((List.range (32 / 2 ^ n)).filter fun k => (List.range (2 ^ n)).all fun i => !s.mibTaken sl (k * 2 ^ n + i)).map fun k =>
      sl * 32 + k * 2 ^ n
  else []

/-- The extents of a near lot, filled from slices in order. -/
def State.takeExtents (s : State) (n : Nat) : Nat → List Nat → List Nat
  | _, [] => []
  | want, sl :: rest =>
    if want = 0 then []
    else
      let got := (s.freeExtents n sl).take want
      got ++ s.takeExtents n (want - got.length) rest

/-- The slices a near lot is filled from (R321 step 4): those beneath the home region in increasing px, then the others of
the field. -/
def homeSlices (region : Nat) : List Nat :=
  let home := regionPans region
  home ++ ((List.range 135).map fun i => region / 9 * 135 + i).filter fun sl => !home.contains sl

/-- The lot id a job takes next: the first free one of the 21 that belong to each of its regions, so that the ids follow from the resource set
(R320), and the lowest free id when those are spent (log 19). -/
def State.freeLotId (s : State) (job : Nat) : Option Nat :=
  let free (l : Nat) : Bool := !s.memdev.lots.any fun e => e.1 == l
  let own : List Nat := match s.job? job with | some x => (x.regions.map fun r => (List.range 21).map fun i => 21 * r + i).flatten | none => []
  (own.find? free).orElse fun _ => (List.range 2048).find? free

/-- The first run of free extent-table entries. -/
def State.freeRun (s : State) (count : Nat) : Option Nat :=
  let used := s.memdev.lots.filterMap fun e => match e.2 with | .near _ _ c f => some (f, c) | _ => none
  ((0 :: used.map fun u => u.1 + u.2).filter fun b =>
    decide (b + count ≤ 65536) && used.all fun u => decide (b + count ≤ u.1) || decide (u.1 + u.2 ≤ b)).foldl
      (fun o b => match o with | none => some b | some c => some (min b c)) none

/-- The extent size of a near lot: the least n whose count fits (log 19). -/
def nearSize (bytes : Nat) : Nat := ((List.range 6).find? fun n => decide (bytes ≤ 1620 * 2 ^ (20 + n))).getD 5

/-- Put entries into the extent table. -/
def putExtents (first : Nat) : List Nat → Sparse Nat → Sparse Nat
  | [], m => m
  | x :: xs, m => putExtents (first + 1) xs (put first x m)

/-- Allocate a near lot for a job; its slices that sleep are woken and filled first (R186). -/
def allocNear (job bytes region : Nat) (s : State) : Option (Nat × State) :=
  let n := nearSize bytes
  let count := max 1 ((bytes + 2 ^ (20 + n) - 1) / 2 ^ (20 + n))
  let xs := s.takeExtents n count (homeSlices region)
  if 1620 < count || xs.length < count then none
  else match s.freeLotId job, s.freeRun count with
    | some l, some f =>
      let s1 := foldState xs (fun t x =>
        wakeFor (x / 32) t) s
      some (l, s1.modMem fun d => { d with lots := put l (.near job n count f) d.lots, ext := putExtents f xs d.ext })
    | _, _ => none

/-- The slices of the spread table. -/
def State.spreadSlices (s : State) : List Nat := (List.range s.memdev.n).map fun i => (s.spreadEntry i).1

/-- Allocate an even lot for a job: first fit in the even zone (log 19). Every slice of the spread table is awake before the lot
is used, and none may have failed without a stand-in (log 19). -/
def allocEven (job bytes : Nat) (s : State) : Option (Nat × State) :=
  let per := s.memdev.n * 65536
  let len := max 1 ((bytes + per - 1) / per)
  let used := s.memdev.lots.filterMap fun e => match e.2 with | .even _ b n => some (b, n) | _ => none
  let fits := (0 :: used.map fun u => u.1 + u.2).filter fun b =>
    decide (b + len ≤ s.memdev.ezLen) && used.all fun u => decide (b + len ≤ u.1) || decide (u.1 + u.2 ≤ b)
  match s.freeLotId job, fits.foldl (fun o b => match o with | none => some b | some c => some (min b c)) none with
  | some l, some b =>
    if per = 0 || 512 < len || (s.spreadSlices.any fun sl => (s.slice sl).mode == .failed) then none
    else
      let s1 := foldState s.spreadSlices (fun t sl => wakeFor sl t) s
      some (l, s1.modMem fun d => { d with lots := put l (.even job b len) d.lots })
  | _, _ => none

/-- Brine bytes a job's lots hold. -/
def State.brineUsed (s : State) (job : Nat) : Nat := sumNat ((s.memdev.lots.filter fun e => e.2.job == job).map fun e => s.lotBytes e.2)

/-- Cellar bytes a job's lots hold. -/
def State.cellarUsed (s : State) (job : Nat) : Nat := sumNat ((s.memdev.cellarLots.filter fun e => e.job == job).map (·.bytes))

/-- Allocate a cellar lot in units of 2 MiB, first fit. -/
def allocCellar (job bytes : Nat) (s : State) : Option (CellarLot × State) :=
  let u := 2 ^ 21
  let size := max 1 ((bytes + u - 1) / u) * u
  let used := s.memdev.cellarLots
  let fits := (0 :: used.map fun l => l.base + l.bytes).filter fun b =>
    decide (b + size ≤ s.cellarUsable) && used.all fun l => decide (b + size ≤ l.base) || decide (l.base + l.bytes ≤ b)
  match fits.foldl (fun o b => match o with | none => some b | some c => some (min b c)) none with
  | none => none
  | some b =>
    let l : CellarLot := { base := b, bytes := size, job := job }
    some (l, s.modMem fun d => { d with cellarLots := d.cellarLots ++ [l] })

/-- A cellar lot's bytes become zero (R346). -/
def zeroCellar (l : CellarLot) (s : State) : State :=
  let s1 := { s with cellarMem := clearRange l.base (l.base + l.bytes) s.cellarMem }
  { s1 with chans := s1.chans.map fun e =>
      let out (w : Nat) : Bool := let a := s.cellarLinear e.1 (8 * w); decide (a < l.base) || decide (l.base + l.bytes ≤ a)
      (e.1, { e.2 with poison := e.2.poison.filter out, errs := e.2.errs.filter fun x => out x.word }) }

/-- A lot's global address on this device. -/
def lotAddr (dev l : Nat) : Nat := mkAddr dev 1 (l * 2 ^ 36)

/-! ### The layer sweep (R321 steps 1 to 3, R325) -/

/-- The layers of a job's image. -/
def Job.layers (x : Job) : List (List Share) := match x.image with | some im => im.layers | none => []

/-- The layer a step sweeps: step k sweeps layer k mod the number of layers (DEDUCED, log 21). -/
def Job.layerOf (x : Job) (step : Nat) : Nat := if x.layers.length = 0 then 0 else step % x.layers.length

/-- The shares of a step on this device. -/
def Job.sharesAt (x : Job) (step : Nat) : List Share := x.layers.getD (x.layerOf step) []

/-- off_l of R321 step 2. -/
def sweepOffset (seed l n : Nat) : Nat := if n ≤ 1 then 0 else leNat ((shake256 (leBytes seed 8 ++ leBytes l 4)).take 4) % n

/-- The job region of a share of a layer (R321, R324). -/
def Job.shareRegion (x : Job) (l sh : Nat) : Nat :=
  match x.moved.find? fun e => e.1 == (l, sh) with
  | some e => e.2
  | none => (sh + sweepOffset x.seed l x.regions.length) % max 1 x.regions.length

/-- The logical region of a share of a layer. -/
def Job.shareLogical (x : Job) (l sh : Nat) : Nat := x.regions.getD (x.shareRegion l sh) 96

/-- The logical columns a share takes: one for each program, all 14 when it is chained (R321 step 3). -/
def shareColumns (sh : Share) : Nat := if sh.chained then 14 else sh.programs.length

/-- The positions of a share's pans, by logical column. -/
def State.sharePans (s : State) (x : Job) (l i : Nat) : List Nat :=
  let sh : Share := ((x.layers.getD l []).getD i {})
  (List.range (shareColumns sh)).filterMap fun c => s.panPos (x.shareLogical l i * 14 + c)

/-- The program section index of a layer's first share: shares run on through the layers. -/
def Job.sectionOf (x : Job) (l : Nat) : Nat := sumNat ((x.layers.take l).map List.length)

/-! ### Groups (R244, R245, R247, R321 step 6) -/

/-- A mesh position carries a logical pan. -/
def State.carriesPan (s : State) (gx gy : Nat) : Bool := (s.logicalPan (posAt gx gy)).isSome

/-- The runs of a row's members, across positions that carry no pan. -/
def rowRuns (s : State) (gy : Nat) : List Nat → List (Nat × Nat) → List (Nat × Nat)
  | [], acc => acc.reverse
  | x :: xs, [] => rowRuns s gy xs [(x, x)]
  | x :: xs, (a, b) :: acc =>
    if (List.range (x - b - 1)).all fun i => !s.carriesPan (b + 1 + i) gy then rowRuns s gy xs ((a, x) :: acc)
    else rowRuns s gy xs ((x, x) :: (a, b) :: acc)

/-- Put a row's run beneath the rectangle of the row above that has the same columns, or begin one. -/
def addRun (gy : Nat) (r : Nat × Nat) (rects : List (Nat × Nat × Nat × Nat)) : List (Nat × Nat × Nat × Nat) :=
  if rects.any fun q => q.1 == r.1 && q.2.1 == r.2 && q.2.2.2 + 1 == gy then
    rects.map fun q => if q.1 == r.1 && q.2.1 == r.2 && q.2.2.2 + 1 == gy then (q.1, q.2.1, q.2.2.1, gy) else q
  else rects ++ [(r.1, r.2, gy, gy)]

/-- The rectangles of a set of members, in increasing gy and then gx. -/
def State.rectsOf (s : State) (members : List (Nat × Nat)) : List (Nat × Nat × Nat × Nat) :=
  (List.range 27).foldl (fun rects gy =>
    let xs := (List.range 60).filter fun gx => members.contains (gx, gy)
    (rowRuns s gy xs []).foldl (fun q r => addRun gy r q) rects) []

/-- The group entries of a one-to-many transfer: the bus when its members are every logical pan of the job in each field it
names, otherwise multicast, at most eight rectangles a group. Each comes with its number of members. -/
def State.groupsFor (s : State) (job : Nat) (x : Job) (g : OneToMany) : List (Group × Nat) :=
  let ids := g.members.map fun m => x.regions.getD m.1 96 * 14 + m.2
  let fields := (ids.map fun l => l / 112).foldl (fun l f => insertRising f l) []
  let whole := fields.all fun f =>
    (x.regions.filter fun r => r / 8 == f).all fun r => (List.range 14).all fun c => ids.contains (r * 14 + c)
  let at_ := ids.filterMap fun l => (s.panPos l).map fun p => (meshX p, meshY p)
  if whole then [({ valid := true, bus := true, job := job, fields := maskOf fields, rects := [] }, at_.length)]
  else
    let rs := s.rectsOf at_
    (chunksOf 8 ((rs.length + 7) / 8) rs).map fun q =>
      ({ valid := true, bus := false, job := job, fields := maskOf fields, rects := q },
        (at_.filter fun m => q.any fun r => decide (r.1 ≤ m.1) && decide (m.1 ≤ r.2.1) && decide (r.2.2.1 ≤ m.2) && decide (m.2 ≤ r.2.2.2)).length)

/-- The free groups of the table in the order a job takes them: those that its regions have a claim to, so that the numbers follow from the
resource set (R320), then the others in increasing number (log 19). -/
def State.freeGroups (s : State) (x : Job) : List Nat :=
  let own := x.regions.foldl (fun l r => addOnce (2 * r / 3) l) []
  (own ++ (List.range 64).filter fun g => !own.contains g).filter fun g => !(look ({} : Group) s.net.groups g).valid

/-! ### Tensors (R321 steps 4 and 5, R326) -/

/-- The (layer, share) pairs that satisfy a test. -/
def Job.sharesWhere (x : Job) (f : Share → Bool) : List (Nat × Nat) :=
  (x.layers.zipIdx.map fun l => l.1.zipIdx.filterMap fun sh => if f sh.1 then some (l.2, sh.2) else none).flatten

/-- The share a tensor's near lot stands beneath, when it has one: a weight tensor with one reader, or an activation or
key-value tensor that one share both writes and reads. -/
def Job.homeShare (x : Job) (t : Nat) (kind : TensorKind) : Option (Nat × Nat) :=
  let rs := x.sharesWhere fun sh => sh.reads.contains t
  let ws := x.sharesWhere fun sh => sh.writes.contains t
  match kind, rs, ws with
  | .weights, [r], _ => some r
  | .activation, [r], [w] | .keyValue, [r], [w] => if r = w then some r else none
  | _, _, _ => none

/-- IKIND of a tally lot entry (R329). -/
def ikind : TensorKind → Nat
  | .activation => 1
  | .weights => 2
  | .keyValue => 3
  | .other => 4

/-- Allocate lots for a tensor: `k` of them. -/
def allocLots (job bytes : Nat) (home : Option Nat) : Nat → State → Option (List Nat × State)
  | 0, s => some ([], s)
  | k + 1, s =>
    match (match home with | some r => allocNear job bytes r s | none => allocEven job bytes s) with
    | none => none
    | some (l, s1) => match allocLots job bytes home k s1 with
      | none => none
      | some (ls, s2) => some (l :: ls, s2)

/-- Place the tensors of an image in order: an activation tensor takes three lots (R326). `copies` names each weight tensor's
cellar copy, in 2 MiB units. -/
def placeTensors (job : Nat) (x : Job) (copies : List (Nat × Nat)) : List (Tensor × Nat) → State → Option (List Placed × State)
  | [], s => some ([], s)
  | (t, i) :: ts, s =>
    let home := x.homeShare i t.kind
    let region := match home with | some h => s.physRegion (x.shareLogical h.1 h.2) | none => none
    match allocLots job t.bytes region (if t.kind = .activation then 3 else 1) s with
    | none => none
    | some (ls, s1) => match placeTensors job x copies ts s1 with
      | none => none
      | some (ps, s2) =>
        some ({ tensor := i, kind := ikind t.kind, lots := ls
                home := match home, region with | some h, some _ => x.shareRegion h.1 h.2 | _, _ => 0x7F
                copy := match copies.find? fun c => c.1 == i with | some c => c.2 | none => 0 } :: ps, s2)

/-- Copy n units from a linear cellar address into a lot, with their marks. -/
def copyUnits (l a : Nat) : Nat → State → State
  | 0, s => s
  | n + 1, s =>
    let (bs, m, s1) := cellarReadUnit (a + 64 * n) 64 (copyUnits l a n s)
    lotWriteUnit l (64 * n) bs m s1

/-- PLACE writes the weights, and the other inputs an image carries, into their lots from the cellar copies (R443). -/
def writePayloads (im : Image) (ps : List Placed) (s : State) : State :=
  foldState ps (fun t p =>
    let d := (im.tensors.getD p.tensor { kind := .other, bytes := 0 }).data
    if d.isEmpty then t else foldState p.lots (fun u l => copyUnits l (p.copy * 2 ^ 21) ((d.length + 63) / 64) u) t) s

/-- One requantisation entry over a lot's first bytes, in the lowest free place; without one the lot's writes travel exact. -/
def putReq (bytes : Nat) (s : State) (l : Nat) : State :=
  match (List.range 16).find? fun i => !s.fin.req.any fun e => e.1 == i with
  | none => s
  | some i => { s with fin := { s.fin with req := put i { base := lotAddr s.deviceId l, anyDev := true
                                                          len := min ((bytes + 127) / 128 * 128) (2 ^ 32 - 128) } s.fin.req } }

/-- Hakar writes the requantisation table from the tensors whose layer the image marks as not requiring exactness (R71, R277),
for the same lots on every device (DESIGN CHOICE, log 102). -/
def writeReqs (im : Image) (ps : List Placed) (s : State) : State :=
  foldState ps (fun t p =>
    let x := im.tensors.getD p.tensor { kind := .other, bytes := 0 }
    if x.inexact then foldState p.lots (putReq x.bytes) t else t) s

/-! ### The placement report (R323) -/

/-- The share entries of the report. -/
def Job.shareEntries (x : Job) : List (List Byte) :=
  (x.layers.zipIdx.map fun l => l.1.zipIdx.map fun sh =>
    leBytes (2 ^ 28 + sh.2 % 65536) 4 ++ leBytes (field l.2 16 16 + x.shareRegion l.2 sh.2 % 128) 4 ++
      leBytes (x.sectionOf l.2 + sh.2) 4 ++ leBytes (flag sh.1.chained 15 + (shareColumns sh.1 + 15) % 16) 4).flatten

/-- The tensor entries of the report, one for each lot. -/
def State.tensorEntries (s : State) (x : Job) : List (List Byte) :=
  (x.placed.map fun p => p.lots.map fun l =>
    let near := match s.lot? l with | some (.near _ _ _ _) => true | _ => false
    let bytes := match x.image with | some im => (im.tensors.getD p.tensor { kind := .other, bytes := 0 }).bytes | none => 0
    leBytes (2 ^ 29 + p.tensor % 65536) 4 ++ leBytes (field (if near then 1 else 2) 3 13 + l % 2048) 4 ++
      leBytes ((bytes + 65535) / 65536) 4 ++ leBytes (if near then p.home else 0x7F) 4).flatten

/-- Members of a group entry that stand on a logical pan of the job. -/
def State.groupMembersOf (s : State) (x : Job) (g : Group) : Nat :=
  ((x.regions.map fun r => (List.range 14).filterMap fun c => s.panPos (r * 14 + c)).flatten.filter fun p =>
    if g.bus then bit g.fields (fieldOf p)
    else g.rects.any fun r => decide (r.1 ≤ meshX p) && decide (meshX p ≤ r.2.1) && decide (r.2.2.1 ≤ meshY p) && decide (meshY p ≤ r.2.2.2)).length

/-- The group entries of the report. -/
def State.groupEntries (s : State) (x : Job) : List (List Byte) :=
  x.groups.map fun i =>
    let g : Group := look {} s.net.groups i
    leBytes (3 * 2 ^ 28 + i) 4 ++ leBytes (flag g.bus 15 + s.groupMembersOf x g % 8192) 4 ++
      leBytes (if g.bus then g.fields else g.rects.length) 4 ++ leBytes 0 4

/-- The entries of the report. -/
def State.reportEntries (s : State) (x : Job) : List (List Byte) := x.shareEntries ++ s.tensorEntries x ++ s.groupEntries x

/-- The report's bytes. -/
def State.reportBytes (s : State) (j : Nat) (x : Job) : List Byte :=
  let es := s.reportEntries x
  let jrt := (List.range 96).map fun r =>
    leBytes (match x.regions[r]? with | some l => field (x.jrt.getD r 1) 2 30 + l % 128 | none => 0) 4
  leBytes (2 ^ 24 + field j 4 20 + es.length % 65536) 4 ++ leBytes s.boot.epoch 4 ++ leBytes x.seed 8 ++
    leBytes (match x.image with | some im => im.digest | none => 0) 32 ++ leBytes x.regions.length 4 ++ leBytes x.placeVer 4 ++
    List.replicate 8 0 ++ jrt.flatten ++ es.flatten

/-- Write the report into the buffer of the latest PLACE. -/
def writeReport (j : Nat) (s : State) : State :=
  match s.job? j with
  | none => s
  | some x => { s with hostMem := writeBytes s.hostMem x.report.addr (s.reportBytes j x) }

/-! ### Moving shares (R324) -/

/-- The active job region with the fewest shares of a layer, the lowest on a tie. -/
def Job.leastLoaded (x : Job) (l : Nat) : Option Nat :=
  let load (r : Nat) : Nat := ((List.range (x.layers.getD l []).length).filter fun i => x.shareRegion l i == r).length
  ((List.range x.regions.length).filter fun r => x.jrt.getD r 1 == 1).foldl (fun o r =>
    match o with | none => some r | some q => if load r < load q then some r else some q) none

/-- Move every share of a job region, in increasing layer and share number. -/
def moveShares (r : Nat) (x : Job) : Job :=
  let all := (x.layers.zipIdx.map fun l => (List.range l.1.length).map fun i => (l.2, i)).flatten
  (all.filter fun e => x.shareRegion e.1 e.2 == r).foldl (fun y e =>
    match y.leastLoaded e.1 with
    | none => y
    | some q => { y with moved := y.moved ++ [(e, q)] }) { x with jrt := setAt x.jrt r 2, moved := x.moved.filter fun e => e.2 != r }

/-- A logical region of a job has become absent: its shares move, the placement version rises, and the report is rewritten.
The Bool says whether an active job region is left. A job without a placement, or one that is ending, has no share to move. -/
def shareMove (j logical : Nat) (s : State) : Bool × State :=
  match s.job? j with
  | none => (true, s)
  | some x =>
    match (if x.mode == .created || x.mode == .ending then none else x.regions.findIdx? fun l => l == logical) with
    | none => (true, s)
    | some r =>
      let y := moveShares r x
      let z := { y with placeVer := y.placeVer + 1 }
      let s1 := writeReport j (s.setJob j z)
      let s2 := postEntry { jobValid := true, kind := 7, job := j, info := z.placeVer } s1
      (z.jrt.any fun v => v == 1, s2)

/-! ### Energy record (R394) -/

/-- The twelve payload words of a job's energy record; kind 1 job end, 2 query. -/
def energyRecord (kind j : Nat) (x : Job) : List Nat :=
  let low := decide (1000 * (x.regionUj + x.sharedUj) < 100 * (x.chargedTo - x.created))
  [field kind 4 28 + field j 4 24 + flag low 0, lo32 x.jobId] ++ words64 x.created ++ words64 x.chargedTo ++
    words64 x.regionUj ++ words64 x.sharedUj ++ [0, 0]

end Sys2Proof.Machine
end

