-- ==== Sys2Proof/Machine/Fence.lean ====
section
/-! DEFINITION. A failed region (R27 to R30, R33, R509): the fence, the RUN record it leaves in the assay list (R406, R407, R474), and the
reserve's takeover of its row. -/

namespace Sys2Proof.Machine
open Sys2Proof

/-! ### The assay list (R400, R406, R407, R474) -/

/-- The areas of the boot flash (R400): byte offset, size, content. Erased bytes read 0xFF. -/
def flashAreas : List (Nat × Nat × String) :=
  [(0x0000000, 2 ^ 12, "reserved, erased"), (0x0001000, 12 * 2 ^ 20, "firmware slot 0"), (0x0C01000, 12 * 2 ^ 20, "firmware slot 1"),
   (0x1801000, 2 ^ 12, "board configuration record"), (0x1802000, 2 ^ 20, "assay list"), (0x1902000, 32 * 2 ^ 20 - 0x1902000, "reserved")]

/-- How many records of 64 bytes the list's area holds (R400, R418). -/
def listRoom : Nat := (match flashAreas[4]? with | some a => a.2.1 | none => 0) / 64

/-- Bytes 0x00 to 0x1F of a record (R406). -/
def assayBody (r : AssayRecord) : List Byte :=
  leBytes (field r.type 4 28 + field r.cls 4 24 + flag r.full 0) 4 ++ leBytes (field r.detail 16 16 + r.index % 65536) 4 ++
    leBytes r.epoch 4 ++ leBytes 0 4 ++ leBytes r.tide 8 ++ leBytes r.trans 8

/-- A record's 64 bytes in the flash. -/
def assayBytes (r : AssayRecord) : List Byte := assayBody r ++ leBytes r.tag 32

/-- The assay key, derived from DEVICE_SEED (R473). -/
def assayKey : List Byte := kmac256 (leBytes Config.deviceSeed 32) "Miomar M12 assay key" [] 32

/-- L_TAG of a record after one with tag `prev` (R406, R474). -/
def listTag (prev : Nat) (r : AssayRecord) : Nat := leNat (kmac256 assayKey "Miomar M12 assay list" (leBytes prev 32 ++ assayBody r) 32)

/-- The tag chain (R407) under a tag function: from the last verified tag, the records that verify, and whether a tag fails that neither a
torn append nor the last record explains. -/
def tagChain (tag : Nat → AssayRecord → Nat) : Nat → List AssayRecord → List AssayRecord × Bool
  | _, [] => ([], false)
  | prev, r :: rest =>
    if r.tag = tag prev r then
      let q := tagChain tag r.tag rest
      (r :: q.1, q.2)
    else match rest with
      | [] => ([], false)
      | n :: _ =>
        if n.tag = tag prev n then tagChain tag prev rest
        else ([], true)

/-- The tag from which the next record chains: that of the last verified record, 32 zero bytes before any. -/
def lastTag (verified : List AssayRecord) : Nat := match verified.getLast? with | some r => r.tag | none => 0

/-- Records chained one after another from a tag. -/
def chainRecords (tag : Nat → AssayRecord → Nat) : Nat → List AssayRecord → List AssayRecord
  | _, [] => []
  | prev, r :: rest =>
    let w := { r with tag := tag prev r }
    w :: chainRecords tag w.tag rest

/-- Append records to the list, each with its tag; the caller knows that they fit. -/
def appendRecords (rs : List AssayRecord) (b : Boot) : Boot :=
  let new := chainRecords listTag (lastTag b.verified) rs
  { b with list := b.list ++ new, verified := b.verified ++ new, listUsed := b.list.length + new.length }

/-- The RUN record of a fenced region (R406), while the list has room. The manual gives a region no class of its own and no rule for a full
list: the record names the region by its power domain, and a full list takes none (DESIGN CHOICE, log 114). -/
def appendRun (r : Nat) (s : State) : State :=
  if s.boot.list.length < listRoom then
    s.modBoot (appendRecords [{ type := 3, cls := UnitCls.domain, index := r, epoch := s.boot.epoch, tide := s.now }])
  else s

/-! ### The fence and the takeover (R27 to R30, R33, R509) -/

/-- The logical row a fenced physical row last carried, while its takeover is in progress. -/
def State.fencedRow (s : State) (r : Nat) : Option Nat :=
  (List.range 8).find? fun y => match (s.topoOf (r / 9)).rtt[y]? with | some e => e.state == 1 && e.row == r % 9 | none => false

/-- The next wake of a field's queue takes its turn (R382). -/
def nextWake (now : Nat) (f : FieldPwr) : FieldPwr :=
  match f.queue with
  | [] => { f with wake := none }
  | (t, r) :: rest => { f with queue := rest, wake := some (r, .waiting, false, now), wakeAsked := t, paused := 0 }

/-- A wake of the region is abandoned, wherever it stands (R383). -/
def dropWake (r now : Nat) (f : FieldPwr) : FieldPwr :=
  let g := { f with queue := f.queue.filter fun e => e.2 != r }
  match g.wake with
  | some (q, _, _, _) => if q = r then nextWake now g else g
  | none => g

/-- REGION_FENCE (R27, R36, R170): the region is cut off at its router ports and gated; a row it carried waits for takeover, and a RUN record
is appended to the assay list (R406). -/
def fenceRegion (r : Nat) (s : State) : State :=
  let py := r % 9
  let s1 := foldState (regionPans r) (fun t p => gateStore p (idleChannels p (stop p t))) s
  let s2 := (s1.modRegion r fun q => { q with fenced := true, pwr := .gated, clk := .gated, restSince := none, restGate := false }).modField (r / 9)
    (dropWake r s.now)
  let s3 := s2.modTopo (r / 9) fun t =>
    { t with
      phys := setAt t.phys py 3
      rtt := t.rtt.map fun e => if e.row = py && (e.state == 0 || e.state == 2) then { e with state := 1 } else e
      resState := if t.resState = 1 && t.resRow == py then 3 else t.resState }
  appendRun r (s3.modBoot fun b => { b with fences := min 65535 (b.fences + 1) })

/-- The logical pans of a job that a multicast group names. -/
def State.groupIds (s : State) (x : Job) (g : Group) : List Nat :=
  ((x.regions.map fun r => (List.range 14).map fun c => r * 14 + c).flatten).filter fun l =>
    match s.panPos l with
    | some p => g.rects.any fun q => decide (q.1 ≤ meshX p) && decide (meshX p ≤ q.2.1) && decide (q.2.2.1 ≤ meshY p) && decide (meshY p ≤ q.2.2.2)
    | none => false

/-- A multicast group after a row has moved keeps its logical pans (R339 phase 5). -/
def movedGroup (old s : State) (g : Group) : Group :=
  match g.valid && !g.bus, old.job? g.job with
  | true, some x =>
    { g with rects := s.rectsOf ((old.groupIds x g).filterMap fun l => (s.panPos l).map fun p => (meshX p, meshY p)) }
  | _, _ => g

/-- Hakar rewrites the groups after a row has moved. -/
def rewriteGroups (old s : State) : State :=
  s.modNet fun n => { n with groups := n.groups.map fun (e : Nat × Group) => (e.1, movedGroup old s e.2) }

/-- The region a fault record names: a pan's, or the region domain. -/
def recordRegion (f : FaultRec) : Option Nat :=
  if f.unitCls = UnitCls.pan then some (regionOf f.unitIdx)
  else if f.unitCls = UnitCls.domain && f.unitIdx < 108 then some f.unitIdx else none

/-- A record that Hakar has still to take names another region of the field with the better claim to the reserve: an earlier tide
count, or the lower logical region id on a tie (R30). -/
def State.rivalWaits (s : State) (r y : Nat) : Bool :=
  let t0 := (s.region r).failedAt.getD 0
  s.faults.reports.any fun f =>
    match recordRegion f with
    | some q =>
      q / 9 == r / 9 && q != r && f.cls == 4 && !(f.unitCls == UnitCls.pan && s.isSpare f.unitIdx) &&
        (match s.logicalRow (q / 9) (q % 9) with
         | some z => decide (f.tide < t0) || (f.tide == t0 && decide (z < y))
         | none => false)
    | none => false

/-- RESERVE_TAKEOVER (R27, R29, R30, R34): the reserve takes the fenced row when it is available and no earlier fault of the
field claims it; otherwise the logical region becomes absent. The Bool says that the row is carried. -/
def settleRegion (r : Nat) (s : State) : Bool × State :=
  let f := r / 9
  let t := s.topoOf f
  match s.fencedRow r with
  | none => (true, s)
  | some y =>
    let at_ (row : Nat) : Nat := (s.region (9 * f + row)).failedAt.getD 0
    let first := (List.range 8).all fun z =>
      match t.rtt[z]? with
      | some e => !(e.state == 1) || z == y || decide (at_ (r % 9) < at_ e.row) || (at_ (r % 9) == at_ e.row && decide (y < z))
      | none => true
    let take := t.resState == 0 && first && !s.rivalWaits r y
    let s1 := s.modTopo f fun t =>
      { t with
        rtt := t.rtt.zipIdx.map fun e =>
          if e.2 ≠ y then e.1
          else if take then { e.1 with state := 2, spare := t.resSpare, row := t.resRow } else { e.1 with state := 3 }
        phys := if take then setAt t.phys t.resRow 0 else t.phys
        resState := if take then 1 else t.resState
        resCarried := if take then y else t.resCarried }
    let s2 := if take then s1.modRegion (9 * f + t.resRow) fun q => { q with clk := .running, pwr := .running, standby := false, ran := true } else s1
    (take, rewriteGroups s (s2.modRegion r fun q => { q with failedAt := none }))

/-- The pending fences of a replay that ends before its phase 5: each fenced row is taken by the reserve, or becomes absent (R27). -/
def settleFences (fence : List Nat) (s : State) : State := foldState fence (fun t r => (settleRegion r t).2) s

end Sys2Proof.Machine
end

