-- ==== Sys2Proof/Machine/Jobs.lean ====
section
/-! DEFINITION. Steps of a job (R325 to R335): the tally record, dispatch, DONE, commit over one device or several, and the job's
end; the commands of those steps. -/

namespace Sys2Proof.Machine
open Sys2Proof

/-! ### The tally (R329) -/

/-- The record of the latest step. -/
def Job.head (x : Job) : Tally := x.tally.headD { state := 0, step := 0 }

/-- The step is dispatched or replaying. -/
def Job.live (x : Job) : Bool := x.inFlight && (x.head.state == 2 || x.head.state == 3)

/-- Change the latest record. -/
def Job.modHead (x : Job) (f : Tally → Tally) : Job :=
  match x.tally with | [] => x | t :: ts => { x with tally := f t :: ts }

/-- The lot of a tensor that a generation lives in (R326). -/
def Placed.lotAt (p : Placed) (gen : Nat) : Nat := if p.kind = 1 then p.lots.getD (gen % 3) 0 else p.lots.getD 0 0

/-- A tally lot entry of a tensor at a generation (R329). -/
def State.tallyLot (s : State) (x : Job) (gen t : Nat) : Option TallyLot :=
  match x.placed.find? fun p => p.tensor == t with
  | none => none
  | some p =>
    let units := match x.image with | some im => (im.tensors.getD t { kind := .other, bytes := 0 }).seqUnits | none => 0
    some { addr := lotAddr s.deviceId (p.lotAt gen), kind := p.kind, gen := if p.kind = 1 then gen % 65536 else 0
           aux := (if p.kind = 2 then p.copy else if p.kind = 3 then units else 0) % 2 ^ 20 }

/-- The mirror of a job's tally records in the device's brine tally lot follows them (R329). Where that lot lies, and how Hakar's write of it
travels, the manual leaves open: the write and its acknowledgement are part of the step that changes a record (DESIGN CHOICE, log 113). -/
def mirrorTally (j : Nat) (s : State) : State :=
  match s.job? j with
  | some x => { s with mirror := put j x.tally s.mirror }
  | none => { s with mirror := drop j s.mirror }

/-- The tensors a layer's shares read, each once. -/
def readsOf (shs : List Share) : List Nat := shs.foldl (fun l sh => sh.reads.foldl (fun m t => addOnce t m) l) []

/-- The record of a step as Hakar writes it before dispatch (R325 step 1). -/
def State.newTally (s : State) (j : Nat) (x : Job) (step : Nat) : Tally :=
  let shs := x.sharesAt step
  let isAct (t : Nat) : Bool := x.placed.any fun p => p.tensor == t && p.kind == 1
  { state := 1, step := step, layer := x.layerOf step, psec := x.sectionOf (x.layerOf step), placeVer := x.placeVer
    shares := shs.length, aseq := look 0 s.svc.aseq (16 + j), atomics := sumNat (shs.map (·.atomics))
    inputs := ((readsOf shs).filterMap fun t => s.tallyLot x step t).take 8
    output := match (shs.map (·.writes)).flatten.find? isAct with
      | some t => s.tallyLot x (step + 1) t | none => none }

/-- The number of a share's first atomic in a step whose numbers start at `start`: after the declared atomics of the lower shares (R331). A
job's atomics go through control-complex channel 16 + job slot (R330), and a share run again uses the same numbers. -/
def shareAseq (start : Nat) (shs : List Share) (i : Nat) : Nat := (start + sumNat ((shs.take i).map (·.atomics))) % 2 ^ 24

/-- The device has taken the id of a failed one through the alias table (R290, R344). -/
def State.onSpare (s : State) : Bool := s.svc.ident != (if s.svc.homeId = 8191 then none else some s.svc.homeId)

/-- On a spare the atomic source of a job that spans devices starts, with the job's first step here, at the C_ASEQ that the lead recorded
(R291, R344): another device's state, of which no message brings the value (log 62). -/
def spareSource (j step : Nat) (s : State) : State :=
  match s.job? j with
  | some x =>
    if x.lead != 8191 && x.tally.isEmpty && s.onSpare then
      { s with svc := { s.svc with aseq := put (16 + j) (Config.recordedAseq x.jobId step % 2 ^ 24) s.svc.aseq } }
    else s
  | none => s

/-- A tally lot entry's 16 bytes. -/
def tallyLotBytes (l : TallyLot) : List Byte :=
  leBytes l.addr 8 ++ leBytes (field l.kind 4 28 + l.gen % 65536) 4 ++ leBytes (l.aux % 2 ^ 20) 4

/-- A tally record's 256 bytes. -/
def tallyBytes (j jobId : Nat) (t : Tally) : List Byte :=
  let pad (n : Nat) (bs : List Byte) : List Byte := bs ++ List.replicate (n - bs.length) 0
  leBytes (field t.state 4 28 + field j 4 24 + field t.inputs.length 4 20 + field (min 255 t.replays) 8 8) 4 ++ leBytes t.step 4 ++
    leBytes (field t.layer 16 16 + t.psec % 65536) 4 ++ leBytes t.placeVer 4 ++ leBytes (field t.shares 16 16 + t.sharesDone % 65536) 4 ++
    leBytes (t.aseq % 2 ^ 24) 4 ++ leBytes (t.atomics % 128) 4 ++ leBytes jobId 4 ++ leBytes t.dispatched 8 ++ leBytes t.committed 8 ++
    List.replicate 16 (0 : Byte) ++ pad 128 (t.inputs.map tallyLotBytes).flatten ++
    pad 16 (match t.output with | some o => tallyLotBytes o | none => []) ++ pad 48 (t.arith.map fun v => leBytes v 4).flatten

/-! ### Loading and starting shares -/

/-- Where a tensor of a placed job lives for a step, as a global address: its lot, of the generation the step reads or the one it
writes (R326). -/
def State.tensorAddr (s : State) (x : Job) (step t : Nat) (written : Bool) (off : Nat) : Nat :=
  match x.placed.find? fun p => p.tensor == t with
  | some p => lotAddr s.deviceId (p.lotAt (if written then step + 1 else step)) + off
  | none => 0

/-- A write of Hakar into a pan store, decided as a whole like any remote write and made through the sluice port (R164, R165); one that
leaves the store names no place (R284). -/
def hakarStore (p a : Nat) (bs : List Byte) (s : State) : State :=
  if 2 ^ 23 < a + max 1 bs.length then s
  else match s.admits p s.hakarSrc a bs.length with
    | some c => recordReject p s.hakarSrc a c s
    | none => localWrite p a bs false (sluiceAccess p a bs.length true s)

/-- Write a pan's program, NTT entries, swizzle, pan store units and the addresses of its descriptors for a step (R321 step 7,
R339 phase 6). -/
def loadProgram (x : Job) (l step p : Nat) (pr : PanProgram) (s : State) : State :=
  let dev := s.deviceId
  let ntt := pr.ntt.map fun e => (e.1 % 16, BitVec.ofNat 64 (semNotifyAddr dev (x.shareLogical l e.2.1 * 14 + e.2.2.1) e.2.2.2))
  let s1 := s.modPan p fun y =>
    { y with
      seq := { y.seq with
        program := pr.bundles.zipIdx.map fun b => (b.2, b.1)
        entry := pr.entry % 8192, progLen := min 8192 pr.bundles.length
        ntt := ntt.foldl (fun m e => put e.1 e.2 m) [] }
      store := { y.store with swz := pr.swizzle } }
  foldState pr.addrs (fun t u => hakarStore p u.1 (leBytes (t.tensorAddr x step u.2.1 u.2.2.1 u.2.2.2) 8) t)
    (foldState pr.store (fun t u => hakarStore p u.1 u.2 t) s1)

/-- Hakar stops a pan, clears its fault and semaphores, and closes its windows (R325 step 2, R339 phase 6). -/
def prepPan (p : Nat) (s : State) : State := winClose p 0xFFFF (semClear p 0xFFFF (faultClear p (stop p s)))

/-- A share's program at a logical column. -/
def programAt (sh : Share) (c : Nat) : PanProgram := sh.programs.getD c {}

/-- Load a share's pans for a step, and send GO to every one of them when `run`. -/
def startShare (x : Job) (l step i : Nat) (run : Bool) (s : State) : State :=
  let sh : Share := (x.layers.getD l []).getD i {}
  let ps := (List.range (shareColumns sh)).filterMap fun c => (s.panPos (x.shareLogical l i * 14 + c)).map fun p => (p, c)
  let s1 := foldState ps (fun t e => loadProgram x l step e.1 (programAt sh e.2) (faultClear e.1 (stop e.1 t))) s
  if run then foldState ps (fun t e => go e.1 t) s1 else s1

/-- Every pan of a share's current run has sent DONE. -/
def ShareRun.finished (sh : Share) (r : ShareRun) : Bool :=
  r.started && (List.range (shareColumns sh)).all fun c => r.donePans.any fun d => d.1 == c

/-- The share's place in the layer of the step in flight. -/
def Job.shareOf (x : Job) (i : Nat) : Share := (x.layers.getD x.head.layer []).getD i {}

/-- A replay keeps the share from starting. -/
def Job.heldShare (x : Job) (i : Nat) : Bool :=
  match x.replay with
  | none => false
  | some r => r.shares.contains i && (decide (r.phase < 7) || !r.prior.isEmpty)

/-- A share of an earlier step that a refetch runs again holds the job region (R340). -/
def Job.priorOn (x : Job) (r : Nat) : Bool :=
  match x.replay with
  | none => false
  | some q =>
    let l := x.layerOf q.priorStep
    q.prior.any fun w => w.started && !w.finished ((x.layers.getD l []).getD w.share {}) && x.shareRegion l w.share == r

/-- The region is present and runs: no takeover is in progress (R34), it is not fenced, rested, about to rest, or waking, and
its stores are filled (R336, R382, R385). -/
def State.regionReady (s : State) (logical : Nat) : Bool :=
  match s.physRegion logical with
  | none => false
  | some r => s.logicalRegion r == some logical && !s.regionDown r && (s.region r).restSince.isNone &&
      !((regionPans r).any fun p => (s.pan p).store.fillBusy)

/-- The next share of a job region begins when no share of that region runs: shares that fall on one region run in
increasing share number (log 22). -/
def kickRegion (j r : Nat) (s : State) : State :=
  match s.job? j with
  | none => s
  | some x =>
    let l := x.head.layer
    let mine := x.runs.filter fun q => x.shareRegion l q.share == r
    if !x.live || x.commitHere || x.priorOn r || !s.regionReady (x.regions.getD r 96) || (mine.any fun q => q.started && !q.finished (x.shareOf q.share)) then s
    else match mine.find? fun q => !q.started && !x.heldShare q.share with
      | none => s
      | some q =>
        let y := { x with runs := x.runs.map fun w => if w.share = q.share then { w with started := true } else w }
        startShare x l x.head.step q.share true (s.setJob j y)

/-- The prior shares that a refetch runs again: the next one whose region is ready and idle begins (R340). -/
def kickPrior (j : Nat) (s : State) : State :=
  match s.job? j with
  | none => s
  | some x => match x.replay with
    | none => s
    | some r =>
      let l := x.layerOf r.priorStep
      let idle (i : Nat) : Bool :=
        s.regionReady (x.shareLogical l i) && !x.priorOn (x.shareRegion l i) &&
          !(x.runs.any fun w => w.started && !w.finished (x.shareOf w.share) && x.shareRegion x.head.layer w.share == x.shareRegion l i)
      match r.prior.find? fun q => r.phase == 7 && !q.started && idle q.share with
      | none => s
      | some q =>
        startShare x l r.priorStep q.share true (s.setJob j { x with replay := some { r with
          prior := r.prior.map fun w => if w.share = q.share then { w with started := true } else w } })

/-- Every prior share that can begin. -/
def kickPriors (j : Nat) (s : State) : State :=
  match s.job? j with
  | some x => (match x.replay with | some r => foldState (List.range r.prior.length) (fun t _ => kickPrior j t) s | none => s)
  | none => s

/-- Every job region's next share. -/
def kickJob (j : Nat) (s : State) : State :=
  match s.job? j with
  | none => s
  | some x => foldState (List.range x.regions.length) (fun t r => kickRegion j r t) (kickPriors j s)

/-- Every job's next shares, after a region has come back (R336, R385). -/
def kickAll (s : State) : State := foldState (s.jobs.map (·.1)) (fun t j => kickJob j t) s

/-! ### Beginning and dispatching a step (R325 steps 1 and 2) -/

/-- Hakar writes a step's tally record with STATE written, and its mirror. -/
def beginStep (j step : Nat) (s0 : State) : State :=
  let s := spareSource j step s0
  mirrorTally j <| s.modJob j fun x =>
    { x with
      mode := .running, inFlight := true, nextStep := step
      tally := s.newTally j x step :: (x.tally.filter fun t => t.step % 8 != step % 8).take 7
      runs := (List.range (x.sharesAt step).length).map fun i =>
        { share := i, aseq := shareAseq (look 0 s.svc.aseq (16 + j)) (x.sharesAt step) i }
      membersDone := [], doneSent := none, commitHere := false, replayCount := [] }

/-- The pans of a step's shares. -/
def State.stepPans (s : State) (x : Job) : List Nat :=
  ((x.runs.map fun q => s.sharePans x x.head.layer q.share).flatten).foldl (fun l p => addOnce p l) []

/-- A collective slot whose use is over is rewritten for the next, with a new generation (R313). -/
def nextUse (x : Slot) : Slot :=
  if x.valid && ((x.rop != 3 && x.status == 2 && x.unacked == 0) || x.status == 3) then
    { x with gen := (x.gen + 1) % 65536, status := 0, complete := 0, sat := 0, data := [], arrived := [], children := [] }
  else x

/-- The result address of a collective (R312, R326). -/
def State.collectiveDst (s : State) (x : Job) (step : Nat) (k : Collective) : Nat :=
  match k.dstTensor with | some d => s.tensorAddr x step d.1 d.2 k.dst | none => k.dst

/-- The SEM_NOTIFY targets of a collective in a layer (R140, R315). -/
def State.collectiveNotes (s : State) (x : Job) (l : Nat) (k : Collective) : List Nat :=
  k.notes.map fun n => semNotifyAddr s.deviceId (x.shareLogical l n.1 * 14 + n.2.1) n.2.2

/-- The job's collective slots are made ready for a step: a slot that is idle after the last use gets the step's result address
and targets (R313, R326). -/
def readySlots (j : Nat) (s : State) : State :=
  match s.job? j with
  | none => s
  | some x =>
    let ks : List Collective := match x.image with | some im => im.collectives | none => []
    let f (g : Nat) (z : Slot) : Slot :=
      let w := if z.job = j then nextUse z else z
      match ks.find? fun k => k.rid == g with
      | some k =>
        if w.job = j && w.status == 0 then
          { w with dst := s.collectiveDst x x.head.step k, notes := s.collectiveNotes x x.head.layer k }
        else w
      | none => w
    { s with svc := { s.svc with slots := s.svc.slots.map fun (e : Nat × Slot) => (e.1, f e.1 e.2) } }

/-- The dispatch of a step (R325 step 2), whose record and mirror beginStep has written; the record takes the placement version (R329). -/
def stepDispatch (j : Nat) (s : State) : State :=
  match s.job? j with
  | none => s
  | some x =>
    if !x.inFlight || x.head.state != 1 || x.mode == .held || x.mode == .ending || x.replay.isSome then s
    else
      let s1 := foldState (s.stepPans x) (fun t p => prepPan p t) (readySlots j s)
      let clear (q : Port) : Port := { q with jobs := if bit q.jobs j then q.jobs - 2 ^ j else q.jobs }
      let s2 := { s1 with fin := { s1.fin with ports := s1.fin.ports.map fun (e : Nat × Port) => (e.1, clear e.2) } }
      kickJob j (mirrorTally j (s2.modJob j fun y => y.modHead fun t => { t with state := 2, dispatched := s.now, placeVer := x.placeVer }))

/-! ### The end of a job (R342, R345, R431) -/

/-- A command of the journal that waits to be performed for a job: it is not the order in force, no KILL, no transfer under way
and no atomic awaited. -/
def State.queuedFor (s : State) (j : Nat) (order : Option Nat) : List Journal :=
  s.hif.journal.filter fun e =>
    e.job == j && e.opcode != 0x06 && order != some e.tag && !(s.cc.any fun c => c.2.cmd == some e.tag) &&
      !(s.hif.transfers.any fun t => t.tag == e.tag) && !(s.hif.atomics.any fun a => a.tag == e.tag)

/-- The last step a job committed, 0 when none. -/
def Job.lastCommitted (x : Job) : Nat := match x.tally.find? fun t => t.state == 4 with | some t => t.step | none => 0

/-- The order in force completes with a status. -/
def endOrder (j status : Nat) (s : State) : State :=
  match s.job? j with
  | none => s
  | some x => match x.order with
    | none => s
    | some (t, op, _) =>
      finishTag t (commandEntry t op j status (if op = 0x04 then x.lastCommitted else 0) [])
        (s.setJob j { x with order := none })

/-- The pans of a job's present regions, spares among them. -/
def State.jobPans (s : State) (x : Job) : List Nat := ((x.regions.filterMap s.physRegion).map regionPans).flatten

/-- Fences of a replay that ends before its phase 5 are settled (R27). -/
def Job.dropFences (x : Job) (s : State) : State := match x.replay with | some r => settleFences r.fence s | none => s

/-- The numbers of a step that a job's end abandons are spent, so that no later atomic of the channel takes one again (R330, R331). -/
def spendAseq (j : Nat) (x : Job) (s : State) : State :=
  if (x.inFlight || x.mode == .held) && x.head.state != 4 && !x.tally.isEmpty then
    { s with svc := { s.svc with aseq := put (16 + j) ((x.head.aseq + x.head.atomics) % 2 ^ 24) s.svc.aseq } }
  else s

/-- Work of a job stops and it enters ENDING (R319, R345): its end entry will carry `tag`. -/
def endJob (j reason code tag : Nat) (s : State) : State :=
  match s.job? j with
  | none => s
  | some x =>
    if x.mode = .ending then s
    else
      let s1 := spendAseq j x (x.dropFences (foldState (s.jobPans x) (fun t p => idleChannels p (stop p t)) s))
      let q := s1.queuedFor j (x.order.map (·.1))
      let s2 := foldState q (fun t e => finishTag e.tag (commandEntry e.tag e.opcode j Status.aborted 0 []) t) (endOrder j Status.aborted s1)
      let s3 := match x.killed with
        | some (t, _) => if t = tag then s2 else finishTag t (commandEntry t 0x06 j Status.aborted 0 []) s2
        | none => s2
      mirrorTally j <| s3.modJob j fun y =>
        let z := if y.inFlight then y.modHead fun t => if t.state = 4 then t else { t with state := 5 } else y
        { z with mode := .ending, ending := some (reason, code, tag), order := none, inFlight := false, replay := none, killed := none
                 doneSent := none, replaySent := [], later := []
                 endingOp := if tag = 0 then 0 else match x.order with | some (t, op, _) => if t = tag then op else 0x06 | none => 0x06 }

/-- A job ends by itself: its end entry carries the tag of the order in force, or 0 (R445). -/
def endBySelf (j reason code : Nat) (s : State) : State :=
  match s.job? j with
  | none => s
  | some x => endJob j reason code (match x.order with | some (t, _, _) => t | none => 0) s

/-- KILL takes effect (R342, R345, R445): the command completes, and the job's end entry will carry its tag. -/
def killNow (j tag : Nat) (graceful : Bool) (s : State) : State :=
  match s.job? j with
  | none => s
  | some x =>
    let reason := if x.mode = .held then 0x09 else if graceful then 0x00 else 0x01
    finishTag tag (commandEntry tag 0x06 j 0 (if x.inFlight then 1 else 0) []) (endJob j reason 0 tag s)

/-- A KILL that waits for a phase boundary of a replay (R342). -/
def Job.killDue (x : Job) : Option Nat := match x.killed with | some (t, false) => some t | _ => none

/-! ### DONE (R325 steps 3 and 4, R332, R333) -/

/-- A fault that R336 answers for a job has been reported and not yet received (R335). -/
def State.faultWaits (s : State) (j : Nat) : Bool :=
  s.faults.reports.any fun f => bit f.jobs j && decide (3 ≤ f.cls) && decide (f.cls ≤ 6)

/-- The other members of a job that spans devices. -/
def State.otherMembers (s : State) (x : Job) : List Nat :=
  match x.image with | some im => im.members.filter fun d => d != s.deviceId | none => []

/-- The job spans other devices (R333, R439 LEAD). -/
def Job.spans (x : Job) : Bool := x.lead != 8191

/-- No replay is under way: the shares of the latest have all reached DONE again. -/
def Job.replayOver (x : Job) : Bool :=
  match x.replay with
  | none => true
  | some r => r.phase == 7 && r.prior.isEmpty && x.runs.all fun q => !r.shares.contains q.share || q.finished (x.shareOf q.share)

/-- A replay whose shares have all reached DONE again is closed: the job is RUNNING (R319). -/
def Job.closeReplay (x : Job) : Job :=
  if x.replayOver then { x with replay := none, mode := if x.mode = .replaying then .running else x.mode } else x

/-- Everything of the step on this device is done and nothing holds its commit. -/
def State.stepDone (s : State) (j : Nat) (x : Job) : Bool :=
  x.live && !x.commitHere && x.replayOver && (x.runs.all fun q => q.finished (x.shareOf q.share)) && !s.faultWaits j

/-- C_ASEQ of the step (R331, R333). -/
def Job.nextAseq (x : Job) : Nat := (x.head.aseq + x.head.atomics) % 2 ^ 24

/-- Hakar holds every DONE of the step: it sends SHARES_DONE to the lead, or as the lead decides the commit when every
member's is in (R325 step 4, R333). -/
def tryDecide (j : Nat) (s : State) : State :=
  match s.job? j with
  | none => s
  | some x =>
    if !s.stepDone j x then s
    else if !x.spans then s.setJob j { x with commitHere := true }
    else if x.lead = s.deviceId then
      if (s.otherMembers x).all fun d => x.membersDone.any fun m => m.1 == d then
        foldState (s.otherMembers x) (fun t d => sendRecord d { kind := 2, jobId := x.jobId, step := x.head.step } t)
          (s.setJob j { x with commitHere := true, memberAseq := x.membersDone })
      else s
    else if x.doneSent.isSome then s
    else sendRecord x.lead { kind := 1, jobId := x.jobId, step := x.head.step, aseq := x.nextAseq }
           (s.setJob j { x with doneSent := some s.now })

/-- Read a pan's six arithmetic counters, which clears them (R67, R332). -/
def takeArith (p : Nat) (s : State) : List Nat × State :=
  (arithCtrs.map fun c => look 0 (s.pan p).ctr c,
   s.modPan p fun x => { x with ctr := arithCtrs.foldl (fun m c => if look 0 m c = 0 then m else put c 0 m) x.ctr })

/-- Record a pan's DONE with its run. -/
def markDone (share c : Nat) (vs : List Nat) (runs : List ShareRun) : List ShareRun :=
  runs.map fun q => if q.share = share && q.started && !(q.donePans.any fun d => d.1 == c) then { q with donePans := q.donePans ++ [(c, vs)] } else q

/-- Phase 7 of R339 begins for the closure's shares, the prior shares having run again: they run as shares of the step, and transfers are
started again. The replay stays until they have all reached DONE (R342). -/
def finishReplay (j : Nat) (s : State) : State :=
  match s.job? j with
  | none => s
  | some x => match x.replay with
    | none => s
    | some r =>
      let s1 := foldState r.reissue (fun t c => haulStart (.cc c) t)
        (s.setJob j { x with replay := some { r with phase := 7, prior := [], reissue := [] } }.closeReplay)
      tryDecide j (kickJob j s1)

/-- DONE of a share from a pan (R325 step 4). -/
def panDone (p share : Nat) (s : State) : State :=
  match s.logicalPan p with
  | none => s
  | some lp =>
    match s.jobs.find? fun e => e.2.regions.contains (lp / 14) with
    | none => s
    | some (j, x) =>
      match x.replay with
      | some r =>
        let l := x.layerOf r.priorStep
        if r.phase = 7 && (r.prior.any fun q => q.share == share && q.started && x.shareLogical l share == lp / 14) then
          let (_, s1) := takeArith p s
          let pr := markDone share (lp % 14) [] r.prior
          let s2 := s1.setJob j { x with replay := some { r with prior := pr } }
          if pr.all fun (q : ShareRun) => q.finished ((x.layers.getD l []).getD q.share {}) then finishReplay j s2
          else kickRegion j (x.shareRegion l share) (kickPriors j s2)
        else panDoneStep j x p share lp s
      | none => panDoneStep j x p share lp s
where
  /-- DONE of a share of the step in flight. -/
  panDoneStep (j : Nat) (x : Job) (p share lp : Nat) (s : State) : State :=
    let l := x.head.layer
    if !x.live || x.heldShare share || !(x.runs.any fun q => q.share == share && q.started) || x.shareLogical l share != lp / 14 then s
    else
      let (vs, s1) := takeArith p s
      let runs := markDone share (lp % 14) vs x.runs
      let s2 := mirrorTally j <| s1.setJob j ({ x with runs := runs }.modHead fun t =>
        { t with sharesDone := (runs.filter fun (q : ShareRun) => q.finished (x.shareOf q.share)).length }).closeReplay
      tryDecide j (kickRegion j (x.shareRegion l share) (kickPriors j s2))

/-! ### STEP_COMMIT (R325 step 5) -/

/-- The step totals of the arithmetic counters (R332). -/
def arithTotals (runs : List ShareRun) : List Nat :=
  (List.range 6).map fun c => satCount 0 (sumNat (runs.map fun q => sumNat (q.donePans.map fun d => d.2.getD c 0)))

/-- The payload of a step completion (R433 kind 0x2). -/
def stepPayload (t : Tally) : List Nat :=
  words64 t.dispatched ++ words64 t.committed ++ [field t.layer 16 16 + min 255 t.replays, t.placeVer] ++ t.arith

/-- What follows a commit: a graceful KILL ends the job, the order is spent, or the next step begins (R325, R438, R445). -/
def afterCommit (j : Nat) (s : State) : State :=
  match s.job? j with
  | none => s
  | some x =>
    let spent := match x.order with | some (_, _, some n) => decide (n ≤ 1) | _ => false
    let s1 := if spent then
        (match x.order with
         | some (t, op, _) =>
           let s0 := s.setJob j { x with order := none }
           if op = 0x04 then finishTag t (commandEntry t op j 0 x.head.step []) s0 else s0
         | none => s)
      else s
    match x.killed with
    | some (t, _) => finishTag t (commandEntry t 0x06 j 0 0 []) (endJob j 0x00 0 t s1)
    | none =>
      if spent then s1
      else match x.order with
        | some (t, op, left) => beginStep j x.nextStep (s1.setJob j { x with order := some (t, op, left.map fun n => n - 1) })
        | none => s1

/-- The step is committed. -/
def commitStep (j : Nat) (s : State) : State :=
  match s.job? j with
  | none => s
  | some x =>
    let t0 := x.head
    let t : Tally := { t0 with state := 4, committed := s.now, arith := arithTotals x.runs }
    let s1 := mirrorTally j <| s.setJob j { (x.modHead fun _ => t) with
      mode := .running, inFlight := false, nextStep := (t0.step + 1) % 2 ^ 32, doneSent := none, commitHere := false, replay := none
      ranBefore := (x.runs.map fun q => (t0.step, q.share, q.runs)) ++ x.ranBefore.filter fun e => decide (t0.step < e.1 + 8) && e.1 != t0.step }
    let s2 := { s1 with svc := { s1.svc with aseq := put (16 + j) x.nextAseq s1.svc.aseq } }
    let marks := match x.image with | some im => (im.commitMarks.filter fun e => e.1 == t0.layer).map (·.2) | none => []
    let s3 := sendNotes marks s2
    let e : Entry :=
      { jobValid := true, kind := 2, job := j, info := t0.step, payload := stepPayload t
        opcode := match x.order with | some (_, op, _) => op | none => 0
        tag := match x.order with | some (g, _, _) => g | none => 0 }
    let s4 := match x.order with
      | some (g, op, _) => if op = 0x04 then postEntry e s3 else finishTag g e s3
      | none => postEntry e s3
    afterCommit j s4

/-- A STEP_COMMIT record from the lead waits in COMMIT_IN. -/
def State.commitWaits (s : State) (x : Job) : Option (Nat × CommitRecord) :=
  s.svc.commitIn.find? fun e => e.1 == x.lead && e.2.kind == 2 && e.2.jobId == x.jobId && e.2.step == x.head.step

/-- Take a record out of COMMIT_IN. -/
def takeCommit (dev : Nat) (c : CommitRecord) (s : State) : State :=
  { s with svc := { s.svc with commitIn := s.svc.commitIn.erase (dev, c) } }

/-- STEP_COMMIT: the commit has been decided here, or a member holds the lead's record for the step. -/
def stepCommit (j : Nat) (s : State) : State :=
  match s.job? j with
  | none => s
  | some x =>
    if x.commitHere then commitStep j s
    else match s.commitWaits x with
      | none => s
      | some e => if s.stepDone j x && x.spans then commitStep j (takeCommit e.1 e.2 s) else s

def execStepCommit (j : Nat) : State → Host.Outcome State Fault Refusal := act (decide (j < 16)) (stepCommit j)

/-! ### Commit records between members (R333, R334) -/

/-- The job slot of a domain-wide job id. -/
def State.jobSlot (s : State) (id : Nat) : Option (Nat × Job) := s.jobs.find? fun e => e.2.jobId == id && e.2.spans

/-- SHARES_DONE at the lead. -/
def sharesDone (dev : Nat) (c : CommitRecord) (s0 : State) : State :=
  let s := takeCommit dev c s0
  match s.jobSlot c.jobId with
  | none => s
  | some (j, x) =>
    if x.lead ≠ s.deviceId || c.kind ≠ 1 then s
    else if x.tally.any fun t => t.step == c.step && t.state == 4 then
      sendRecord dev { kind := 2, jobId := x.jobId, step := c.step } s
    else if x.inFlight && x.head.step == c.step then
      if x.commitHere then sendRecord dev { kind := 2, jobId := x.jobId, step := c.step } s
      else if x.membersDone.any fun m => m.1 == dev then s
      else tryDecide j (s.setJob j { x with membersDone := x.membersDone ++ [(dev, c.aseq)] })
    else s

def execSharesDone (dev : Nat) (c : CommitRecord) : State → Host.Outcome State Fault Refusal :=
  act (decide (dev < 8191)) (sharesDone dev c)

/-- SHARES_DONE_RESEND: no STEP_COMMIT 1 ms after SHARES_DONE. -/
def sharesDoneResend (j : Nat) (s : State) : State :=
  match s.job? j with
  | none => s
  | some x => match x.doneSent with
    | none => s
    | some t =>
      if s.now < t + 1000000 then s
      else sendRecord x.lead { kind := 1, jobId := x.jobId, step := x.head.step, aseq := x.nextAseq }
             (s.setJob j { x with doneSent := some s.now })

def execSharesDoneResend (j : Nat) : State → Host.Outcome State Fault Refusal := act (decide (j < 16)) (sharesDoneResend j)

/-- REPLAY_ACK at the sender of SHARE_REPLAY. -/
def replayAck (dev : Nat) (c : CommitRecord) (s0 : State) : State :=
  let s := takeCommit dev c s0
  match s.jobSlot c.jobId with
  | none => s
  | some (j, x) => s.setJob j { x with replaySent := x.replaySent.filter fun e =>
      !(e.1 == dev && e.2.1.step == c.step && e.2.1.share == c.share && e.2.1.replay == c.replay) }

def execReplayAck (dev : Nat) (c : CommitRecord) : State → Host.Outcome State Fault Refusal :=
  act (decide (dev < 8191) && c.kind == 4) (replayAck dev c)

/-- SHARE_REPLAY_RESEND: every record that has waited 1 ms goes out again with the same replay number. -/
def shareReplayResend (j : Nat) (s : State) : State :=
  match s.job? j with
  | none => s
  | some x =>
    let late := x.replaySent.filter fun e => decide (e.2.2 + 1000000 ≤ s.now)
    foldState late (fun t e => sendRecord e.1 e.2.1 t)
      (s.setJob j { x with replaySent := x.replaySent.map fun e => if e.2.2 + 1000000 ≤ s.now then (e.1, e.2.1, s.now) else e })

def execShareReplayResend (j : Nat) : State → Host.Outcome State Fault Refusal := act (decide (j < 16)) (shareReplayResend j)

end Sys2Proof.Machine
end

