-- ==== Sys2Proof/Machine/Replay.lean ====
section
/-! DEFINITION. What follows a fault (R27 to R30, R187, R335 to R347): the replay closure and its sequence, region replacement,
refetch of poison, stand-in slices, member failure, and the end of a job with its zeroisation. -/

namespace Sys2Proof.Machine
open Sys2Proof

/-! ### The closure (R337) -/

/-- Two shares of a layer joined by an edge of the share graph, in either direction. -/
def joinedShares (shs : List Share) (a b : Nat) : Bool := (shs.getD a {}).notifies.contains b || (shs.getD b {}).notifies.contains a

/-- The shares of a layer that a set reaches through edges in either direction. -/
def closureOf (shs : List Share) (l : List Nat) : List Nat :=
  (List.range shs.length).foldl (fun m _ => (List.range shs.length).filter fun i => m.contains i || m.any fun a => joinedShares shs a i) l

/-- A set with the shares that now run on its regions, whose pans the replay stops. -/
def Job.withRunning (x : Job) (l : List Nat) : List Nat :=
  let at_ (i : Nat) : Nat := x.shareRegion x.head.layer i
  (x.runs.filter fun q => l.contains q.share || (q.started && !q.finished (x.shareOf q.share) && l.any fun i => at_ i == at_ q.share)).map (·.share)

/-- The shares a replay runs again. -/
def Job.closure (x : Job) (l : List Nat) : List Nat :=
  let shs := x.layers.getD x.head.layer []
  closureOf shs (x.withRunning (closureOf shs (l.filter fun i => decide (i < shs.length))))

/-! ### Region replacement (R27 to R30, R33, R509) -/

/-- A logical region without a reserve: its shares move, and a job left with no region ends (R324). -/
def regionGone (j logical : Nat) (s : State) : State :=
  let (left, s1) := shareMove j logical s
  if left then s1 else endBySelf j 0x06 0 s1

/-- An idle reserve that has failed is fenced and gated, and RESERVE says so with no row carried (R29). -/
def reserveGone (f : Nat) (s : State) : State :=
  (fenceRegion (9 * f + (s.topoOf f).resRow) s).modTopo f fun t => { t with resState := 3, resCarried := 0 }

/-- IDLE_RESERVE_FAIL (R29): an idle reserve is fenced and gated; it is reported as a field event with no job. -/
def idleReserveFail (f : Nat) (s : State) : State :=
  let t := s.topoOf f
  if t.resState ≠ 0 then s
  else report { type := RecType.power, cls := 4, unitCls := UnitCls.fieldC, unitIdx := f } (reserveGone f s)

/-- A region is replaced with no step to replay: fence and takeover follow each other at once. -/
def replaceNow (r : Nat) (s : State) : State :=
  match s.logicalRow (r / 9) (r % 9) with
  | none =>
    if (s.region r).fenced then s
    else if (s.topoOf (r / 9)).resState = 0 && (s.topoOf (r / 9)).resRow == r % 9 then idleReserveFail (r / 9) s
    else fenceRegion r s
  | some y =>
    let (kept, s1) := settleRegion r (fenceRegion r s)
    if kept then s1 else foldState (s.jobsOfRegion (r / 9 * 8 + y)) (fun t j => regionGone j (r / 9 * 8 + y) t) s1

def execIdleReserveFail (f : Nat) : State → Host.Outcome State Fault Refusal := act (decide (f < 12)) (idleReserveFail f)

/-! ### Starting a replay (R332, R338, R339 phases 1 to 4) -/

/-- SHARE_REPLAY goes to every device that holds a share of the closure (R334, R337). -/
def sendShareReplays (j : Nat) (to_ : List (Nat × Nat)) (s : State) : State :=
  foldState to_ (fun t e =>
    match t.job? j with
    | none => t
    | some x =>
      let n := (match x.replayCount.find? fun c => c.1 == e with | some c => c.2 | none => 0) + 1
      let c : CommitRecord := { kind := 3, replay := n, share := e.2, jobId := x.jobId, step := x.head.step }
      sendRecord e.1 c (t.setJob j { x with
        replayCount := (e, n) :: x.replayCount.filter fun c => c.1 != e
        replaySent := x.replaySent ++ [(e.1, c, t.now)] })) s

/-- Stop the pans of a replay and read away their arithmetic counters (R339 phase 2). -/
def quietPan (p : Nat) (s : State) : State := idleChannels p (takeArith p (faultClear p (stop p s))).2

/-- What a replay is asked for. -/
structure ReplayAsk where
  shares : List Nat := []
  fence : List Nat := []
  priorStep : Nat := 0
  prior : List Nat := []
  reissue : List Nat := []
  /-- Shares of other devices that replay as well, beside those the closure is joined with. -/
  remote : List (Nat × Nat) := []
  /-- Another member asks (SHARE_REPLAY). -/
  asked : Bool := false
deriving DecidableEq, Repr

/-- The replay under way, or an empty one. -/
def Job.replayNow (x : Job) (now : Nat) : Replay :=
  if x.replayOver then { phase := 0, shares := [], fence := [], since := now } else x.replay.getD { phase := 0, shares := [], fence := [], since := now }

/-- How often a share of a step before the one in flight has run (R338). -/
def Job.ran (x : Job) (step i : Nat) : Nat :=
  match x.ranBefore.find? fun e => e.1 == step && e.2.1 == i with | some e => e.2.2 | none => 1

/-- A share is to run again: its run so far counts, and what it kept is discarded (R332, R338). -/
def ShareRun.back (q : ShareRun) : ShareRun := { q with started := false, donePans := [], runs := if q.started then q.runs + 1 else q.runs }

/-- The prior shares a replay is asked for beyond those it has, each as its next run, with the atomic numbers of its own step (R331, R340). -/
def Job.newPrior (x : Job) (old : Replay) (step : Nat) (l : List Nat) : List ShareRun :=
  let start := match x.tally.find? fun t => t.step == step with | some t => t.aseq | none => 0
  (l.filter fun i => !old.prior.any fun q => q.share == i).map fun i =>
    { share := i, runs := x.ran step i + 1, aseq := shareAseq start (x.sharesAt step) i }

/-- What a job's records say once the prior shares of a step run again: their run counts, and the step's REPLAYS (R338). -/
def Job.countPrior (x : Job) (step : Nat) (prior : List ShareRun) (again : Nat) : Job :=
  { x with
    ranBefore := (prior.map fun q => (step, q.share, q.runs)) ++ x.ranBefore.filter fun e => !(e.1 == step && prior.any fun q => q.share == e.2.1)
    tally := if again = 0 then x.tally else x.tally.map fun t => if t.step = step then { t with replays := min 255 (t.replays + again) } else t }

/-- Phases 1 to 3 of R339 for the union of what runs again already and what is asked for (R342). A share that would run a fifth time ends the
job (R338), once its failed regions are fenced. SHARE_REPLAY goes to every device that holds a share the union joins; when another member
asks, only for the shares it joins newly. The job is REPLAYING when a share of the step in flight runs again (R319). -/
def startReplay (j : Nat) (a : ReplayAsk) (s : State) : State :=
  match s.job? j with
  | none => s
  | some x =>
    let old := x.replayNow s.now
    let shares := x.closure (a.shares ++ old.shares)
    let again := x.runs.filter fun q => shares.contains q.share && q.started
    let step := if a.prior.isEmpty then old.priorStep else a.priorStep
    let new := x.newPrior old step a.prior
    let twice := old.prior.filter (·.started)
    let fence := old.fence ++ a.fence.filter fun r => !old.fence.contains r
    let cut (t : State) : State := foldState (a.fence.filter fun r => !(s.region r).fenced) (fun u r => fenceRegion r u) t
    if ((again ++ twice).any fun q => decide (4 ≤ q.runs)) || new.any fun q => decide (5 ≤ q.runs) then
      endBySelf j 0x04 0 (cut (s.setJob j { x with replay := some { old with fence := fence } }))
    else
      let pans := (shares.map fun i => s.sharePans x x.head.layer i).flatten ++
        (twice.map fun q => s.sharePans x (x.layerOf old.priorStep) q.share).flatten
      let s1 := foldState pans (fun t p => quietPan p t) s
      let runs := x.runs.map fun q => if shares.contains q.share then q.back else q
      let prior := old.prior.map (·.back) ++ new
      let joins := (a.remote ++ (shares.map fun i => (x.shareOf i).remote).flatten).foldl (fun m e => if m.contains e then m else m ++ [e]) old.remote
      let y := if shares.isEmpty then x else x.modHead fun t =>
        { t with state := 3, replays := min 255 (t.replays + again.length)
                 sharesDone := (runs.filter fun (q : ShareRun) => q.finished (x.shareOf q.share)).length }
      let z := y.countPrior step prior (new.length + twice.length)
      let s2 := mirrorTally j <| s1.setJob j { z with
        mode := if shares.isEmpty then x.mode else .replaying
        runs := runs
        replay := some { old with
          phase := 4, shares := shares, fence := fence, priorStep := step, prior := prior
          reissue := old.reissue ++ a.reissue, remote := joins } }
      sendShareReplays j (if a.asked then joins.filter fun e => !old.remote.contains e else joins) (cut s2)

/-- The shares of the step in flight that have been started on a physical region. -/
def State.sharesOn (s : State) (x : Job) (r : Nat) : List Nat :=
  (x.runs.filter fun q => q.started && s.physRegion (x.shareLogical x.head.layer q.share) == some r).map (·.share)

/-- A prior share that a refetch runs again holds a physical region (R340). -/
def State.priorAt (s : State) (x : Job) (r : Nat) : Bool :=
  (List.range x.regions.length).any fun i => x.priorOn i && s.physRegion (x.regions.getD i 96) == some r

/-- Every share of the step on this device. -/
def Job.allShares (x : Job) : List Nat := x.runs.map (·.share)

/-- Every share of the step on the other members (R336). -/
def Job.remoteAll (x : Job) : List (Nat × Nat) :=
  match x.image with
  | none => []
  | some im => ((im.memberShares.filter fun m => m.1 == x.head.layer).map fun m => (List.range m.2.2).map fun i => (m.2.1, i)).flatten

/-- A replay may begin for the job: a step runs here and its commit is not decided. -/
def Job.canReplay (x : Job) : Bool := x.live && !x.commitHere

/-- Shares of the step run again without a fence. -/
def replayShares (j : Nat) (shares : List Nat) (s : State) : State :=
  match s.job? j with
  | none => s
  | some x => if !x.canReplay || shares.isEmpty then s else startReplay j { shares := shares } s

/-- A class R fault during a replay, on the device: the shares of a region run again, or the prior shares that hold it with the
closure that waits for them (R340, R342). -/
def replayAt (j r : Nat) (s : State) : State :=
  match s.job? j with
  | none => s
  | some x => if s.priorAt x r then startReplay j {} s else replayShares j (s.sharesOn x r) s

/-- SHARE_REPLAY at a member that holds a share of the closure (R334, R337): acted on once, and a repeat answered as the first, whatever has
become of the step. -/
def shareReplay (dev : Nat) (c : CommitRecord) (s0 : State) : State :=
  let s := takeCommit dev c s0
  match s.jobSlot c.jobId with
  | none => s
  | some (j, x) =>
    let ack := sendRecord dev { kind := 4, replay := c.replay, share := c.share, jobId := c.jobId, step := c.step }
    if x.replaySeen.contains (dev, c) then ack s
    else if !x.inFlight || x.head.step != c.step || x.commitHere then s
    else
      let s1 := s.setJob j { x with replaySeen := x.replaySeen ++ [(dev, c)] }
      ack (if x.live then startReplay j { shares := [c.share], asked := true } s1 else s1)

def execShareReplay (dev : Nat) (c : CommitRecord) : State → Host.Outcome State Fault Refusal :=
  act (decide (dev < 8191) && c.kind == 3) (shareReplay dev c)

/-! ### Poison (R340, R341) -/

/-- Rewrite each marked unit of a lot from its cellar copy; none when a unit of the copy is marked. -/
def refetchUnits (copy : Nat) : List (Nat × Nat × Nat) → State → Option State
  | [], s => some s
  | (o, sl, b) :: us, s =>
    let (bs, m, s1) := cellarReadUnit (copy * 2 ^ 21 + o) 64 s
    if m then none else refetchUnits copy us (sliceWrite sl b bs false s1)

/-- Set a sequence's bit in the sequence mask lot. -/
def maskSequence (x : Job) (i : Nat) (s : State) : State :=
  match x.image with
  | none => s
  | some im => match im.seqMask with
    | none => s
    | some t => match x.placed.find? fun p => p.tensor == t with
      | none => s
      | some p =>
        let l := p.lots.getD 0 0
        match s.lotPlace l (i / 8) with
        | none => s
        | some (sl, b, _) =>
          let s0 := settleSlice sl s
          let v := readByte s0.brineMem (brineKey sl b)
          brineWriteUnit sl b [v ||| BitVec.ofNat 8 (2 ^ (i % 8))] false s0

/-- SEQUENCE_FAULT (R341): each sequence with a marked unit is masked, its marked units zeroed, and the host told. With no step in flight
the entry names the next step, ahead of whose completion it stands (R435; DESIGN CHOICE, log 113). -/
def endSequences (j units : Nat) (us : List (Nat × Nat × Nat)) (s : State) : State :=
  match s.job? j with
  | none => s
  | some x =>
    let seqOf (o : Nat) : Nat := o / (max 1 units * 65536)
    let seqs := us.foldl (fun l u => addOnce (seqOf u.1) l) []
    let s1 := foldState us (fun t u => sliceWrite u.2.1 u.2.2 (List.replicate 64 0) false t) s
    let fresh := seqs.filter fun i => !x.masked.contains i
    let s2 := (foldState fresh (fun t i => maskSequence x i t) s1).setJob j { x with masked := x.masked ++ fresh }
    foldState fresh (fun t i => postEntry { jobValid := true, kind := 4, job := j, payload := words64 i
                                            info := if x.inFlight then x.head.step else x.nextStep
                                            opcode := match x.order with | some (_, op, _) => op | none => 0
                                            tag := match x.order with | some (g, _, _) => g | none => 0 } t) s2

/-- The outcome of fetching a lot again: the state, the prior step's shares to run again, or no source. -/
inductive Refetch where
  | done (s : State)
  | prior (step : Nat) (shares : List Nat)
  | lost
deriving DecidableEq, Repr

/-- A unit of a tensor's lot is in what a share reads or covers: in one of its parts of the tensor, or anywhere when it lists none. -/
def inParts (parts : List (Nat × Nat × Nat)) (t o : Nat) : Bool :=
  let ps := parts.filter fun e => e.1 == t
  ps.isEmpty || ps.any fun e => decide (e.2.1 < o + 64) && decide (o < e.2.1 + e.2.2)

/-- A share reads a unit of a tensor's lot. -/
def readsUnit (sh : Share) (t o : Nat) : Bool := sh.reads.contains t && inParts sh.readParts t o

/-- The shares of a step whose declared outputs cover a unit of those given (R340). -/
def Job.writersOf (x : Job) (step t : Nat) (us : List (Nat × Nat × Nat)) : List Nat :=
  ((x.sharesAt step).zipIdx.filter fun e => e.1.writes.contains t && us.any fun u => inParts e.1.writeParts t u.1).map (·.2)

/-- A unit that a share reads of an activation tensor at a generation is marked (R340). -/
def State.genMarked (s : State) (x : Job) (gen : Nat) (sh : Share) : Bool :=
  x.placed.any fun p => p.kind == 1 && sh.reads.contains p.tensor && match s.lot? (p.lotAt gen) with
    | some l => (s.markedUnits l).any fun u => inParts sh.readParts p.tensor u.1
    | none => false

/-- Marked units of one lot of a tensor, read at generation `gen`, among those that `wanted` names by offset (R340, R341). -/
def refetchLot (j gen l : Nat) (p : Placed) (wanted : Nat → Bool) (s : State) : Refetch :=
  match s.job? j, s.lot? l with
  | some x, some lot =>
    let us := (s.markedUnits lot).filter fun u => wanted u.1
    if us.isEmpty then .done s
    else if p.kind = 1 then
      let ws := if gen = 0 then [] else x.writersOf (gen - 1) p.tensor us
      if ws.isEmpty || ws.any fun i => s.genMarked x (gen - 1) ((x.sharesAt (gen - 1)).getD i {}) then .lost else .prior (gen - 1) ws
    else if p.kind = 3 then
      let units := match x.image with | some im => (im.tensors.getD p.tensor { kind := .other, bytes := 0 }).seqUnits | none => 0
      .done (endSequences j units us s)
    else match refetchUnits p.copy us s with
      | some t => .done t
      | none => .lost
  | _, _ => .done s

/-- What a set of shares reads, tensor after tensor: the state, and the prior step's shares to run again; none when a source is lost. -/
def refetchAll (j gen : Nat) (shs : List Share) : List Placed → State → Option (State × List Nat)
  | [], s => some (s, [])
  | p :: ps, s =>
    match refetchLot j gen (p.lotAt gen) p (fun o => shs.any fun sh => readsUnit sh p.tensor o) s with
    | .lost => none
    | .done s1 => refetchAll j gen shs ps s1
    | .prior _ ws => (refetchAll j gen shs ps s).map fun r => (r.1, ws.foldl (fun l i => addOnce i l) r.2)

/-- POISON_REFETCH for shares of the step in flight (R340, R341), then their replay without a fence. -/
def poisonReplay (j : Nat) (shares : List Nat) (s : State) : State :=
  match s.job? j with
  | none => s
  | some x =>
    if !x.canReplay || shares.isEmpty then s
    else
      let step := x.head.step
      match refetchAll j step ((x.closure shares).map x.shareOf) x.placed s with
      | none => endBySelf j 0x05 0 s
      | some (s1, ws) =>
        startReplay j { shares := shares, priorStep := step - 1, prior := ws } s1

/-- POISON_REFETCH for prior shares that run again: what they read is fetched again, and a marked activation of generation g has no
source left, so that the job ends (R340). -/
def poisonPrior (j : Nat) (s : State) : State :=
  match s.job? j with
  | none => s
  | some x => match x.replay with
    | none => s
    | some r =>
      match refetchAll j r.priorStep (r.prior.map fun q => (x.sharesAt r.priorStep).getD q.share {}) x.placed s with
      | some (s1, []) => startReplay j {} s1
      | _ => endBySelf j 0x05 0 s

/-- A stopped TRANSFER that cannot be reissued completes with HAUL. -/
def failTransfer (c : Nat) (s : State) : State :=
  let h := s.haul (.cc c)
  match h.cmd with
  | none => s
  | some t =>
    let s1 := s.modHaul (.cc c) fun h => { h with cmd := none }
    haulAfter (match s.hif.journal.find? fun j => j.tag == t with
      | some j => finishTag t (commandEntry t 0x14 j.job Status.haul h.cause (words64 h.failAddr ++ [h.count])) s1
      | none => s1)

/-- A unit bound for host memory was marked (R213, R340): its lot is fetched again and the transfer goes on from the unit. -/
def poisonToHost (c : Nat) (s : State) : State :=
  let h := s.haul (.cc c)
  if h.cmd.isNone || h.mode != .error || h.cause != Cause.poisonToHost then s
  else
    let off := addrOffset h.src
    let lot := bits off 46 36
    let owner := if h.srcHost || !s.isOwn h.src || addrSpace h.src != 1 || bit off 47 then none
      else (s.jobs.map fun e => (e.2.placed.filter fun p => p.lots.contains lot).map fun p => (e.1, e.2, p)).flatten.head?
    match owner with
    | none => failTransfer c s
    | some (j, x, p) =>
      let last := if x.tally.isEmpty then 0 else if x.inFlight then x.head.step else x.head.step + 1
      let gen := ((List.range 3).find? fun k => decide (k ≤ last) && p.lotAt (last - k) == lot).map fun k => last - k
      match refetchLot j (gen.getD last) lot p (fun _ => true) s with
      | .lost => endBySelf j 0x05 0 (failTransfer c s)
      | .done s1 => haulAfter (haulStart (.cc c) s1)
      | .prior st ws => if x.mode = .ending || x.mode = .held then failTransfer c s
                        else startReplay j { priorStep := st, prior := ws, reissue := [c] } s

/-! ### FAULT_RECORD_RECEIVE (R335, R336) -/

/-- A region of a job is to be replaced (R336): with its shares replayed when a step runs on it. -/
def replaceRegion (j r tide : Nat) (s0 : State) : State :=
  let s := s0.modRegion r fun q => { q with failedAt := some (q.failedAt.getD tide) }
  match s.job? j with
  | none => s
  | some x =>
    if (s.region r).fenced then s
    else if !x.canReplay && x.replay.isNone then replaceNow r s
    else
      let shares := if x.canReplay then s.sharesOn x r else []
      startReplay j { shares := shares, fence := [r] } s

/-- A class P fault of a job (R336, R342): a step whose commit is decided completes first. -/
def endByFault (j reason code : Nat) (s : State) : State :=
  match s.job? j with
  | none => s
  | some x => endBySelf j reason code (if x.commitHere then commitStep j s else s)

/-- A record of a fault later than the commit decision, or of one between two steps, waits for the next step that uses its region (R335). -/
def deferFault (f : FaultRec) (j : Nat) (s : State) : State := s.modJob j fun x => { x with later := x.later ++ [f] }

/-- The action R336 gives one job for a fault record. A record that arrives after the job has ended is discarded (R342), but its region is
replaced all the same (R27); a chain's faults but the one it takes are not acted on (R139). -/
def actOnFault (f : FaultRec) (j : Nat) (s : State) : State :=
  match s.job? j with
  | none => s
  | some x =>
    let here := match recordRegion f with | some r => s.sharesOn x r | none => []
    let prior := match recordRegion f with | some r => s.priorAt x r | none => false
    let late := !x.canReplay && !prior
    if f.type = RecType.panFault && (f.code == PanCode.chainPeer || f.passive) then s
    else if x.mode = .ending then
      (match recordRegion f with
       | some r => if f.cls = 4 && (f.type == RecType.panFault || f.type == RecType.power || f.type == RecType.thermal) then replaceRegion j r f.tide s else s
       | none => s)
    else if f.type = RecType.panFault then
      if f.cls = 4 then (match recordRegion f with | some r => replaceRegion j r f.tide s | none => s)
      else if f.cls = 6 then endByFault j 0x02 f.code s
      else if late then deferFault f j s
      else if f.code = PanCode.poison then (if prior then poisonPrior j s else poisonReplay j here s)
      else (match recordRegion f with | some r => replayAt j r s | none => s)
    else if (f.type = RecType.power || f.type = RecType.thermal) && f.cls = 4 then
      (match recordRegion f with | some r => replaceRegion j r f.tide s | none => s)
    else if f.type = RecType.haulStop then
      if f.cls = 6 then endByFault j 0x03 f.code s
      else if f.cls = 3 && f.code = Cause.addr then
        (if x.canReplay then startReplay j { shares := x.allShares, remote := x.remoteAll } s else s)
      else if f.cls = 3 then (if late then deferFault f j s else match recordRegion f with | some r => replayAt j r s | none => s)
      else s
    else if f.type = RecType.router && f.code = 1 && f.cls = 5 then replayShares j x.allShares s
    else if f.type = RecType.slice then replayShares j x.allShares s
    else if f.type = RecType.link && f.code = 3 then
      (if x.canReplay then startReplay j { shares := x.allShares, remote := x.remoteAll } s else s)
    else s

/-- FAULT_RECORD_RECEIVE: Hakar takes the report that has waited longest, answers it for every job it names, and keeps it for
the log. A region that no job holds is replaced at once; a spare pan's fault is recorded and no more (R22). -/
def faultRecordReceive (s : State) : State :=
  match (if s.hif.coreRuns then s.faults.reports else []) with
  | [] => s
  | f :: rest =>
    let s1 := s.modFaults fun q => { q with reports := rest, unmirrored := q.unmirrored ++ [f] }
    let js := (bitList 16 f.jobs).filter fun j => (s.job? j).isSome
    let s2 :=
      if f.type = RecType.haulStop && f.unitCls = UnitCls.domain then poisonToHost (f.detail % 256) s1
      else if js.isEmpty && f.cls = 4 && f.unitCls ≠ UnitCls.fieldC && !(f.unitCls == UnitCls.pan && s1.isSpare f.unitIdx) then
        (match recordRegion f with
         | some r => if (s1.region r).fenced then s1 else replaceNow r (s1.modRegion r fun q => { q with failedAt := some (q.failedAt.getD f.tide) })
         | none => s1)
      else foldState js (fun t j => actOnFault f j t) s1
    foldState (s2.jobs.map (·.1)) (fun t j => tryDecide j t) s2

/-- STEP_DISPATCH: the step is dispatched, and the records that waited for a step on their region are handled against it (R335). -/
def dispatchStep (j : Nat) (s : State) : State :=
  let t := stepDispatch j s
  match s.job? j, t.job? j with
  | some x, some y =>
    if x.head.state == 1 && y.head.state == 2 then
      let used (f : FaultRec) : Bool := match recordRegion f with
        | some r => y.runs.any fun q => t.physRegion (y.shareLogical y.head.layer q.share) == some r
        | none => false
      foldState (y.later.filter used) (fun u f => actOnFault f j u) (t.setJob j { y with later := y.later.filter fun f => !used f })
    else t
  | _, _ => t

def execStepDispatch (j : Nat) : State → Host.Outcome State Fault Refusal := act (decide (j < 16)) (dispatchStep j)

def execFaultRecordReceive : State → Host.Outcome State Fault Refusal := act true faultRecordReceive

/-! ### REPLAY_QUIESCED, QUIESCE_TIME_LIMIT, REPLAY_RESUME (R339 phases 4 to 7) -/

/-- The physical regions a replay concerns. -/
def State.replayRegions (s : State) (x : Job) (r : Replay) : List Nat :=
  r.fence ++ (r.shares.filterMap fun i => s.physRegion (x.shareLogical x.head.layer i)) ++
    r.prior.filterMap fun q => s.physRegion (x.shareLogical (x.layerOf r.priorStep) q.share)

/-- The old writes of a closure that have no acknowledgement yet. -/
def State.oldWrites (s : State) (x : Job) (r : Replay) : List Outst :=
  let rs := s.replayRegions x r
  s.outs.filter fun o => match o.who with | .absorbed p => rs.contains (regionOf p) | _ => false

/-- Phase 5 for one fenced region of a job. -/
def takeRegion (j r : Nat) (s : State) : State :=
  match s.fencedRow r with
  | none => s
  | some y =>
    let (kept, s1) := settleRegion r s
    if kept then s1 else regionGone j (r / 9 * 8 + y) s1

/-- Phase 6: the closure's pans are prepared and loaded; a share that R324 has moved to a region where another share runs is loaded when
that one is done. -/
def reloadShares (j : Nat) (s : State) : State :=
  match s.job? j with
  | none => s
  | some x => match x.replay with
    | none => s
    | some r =>
      let at_ (i : Nat) : Nat := x.shareRegion x.head.layer i
      let free := r.shares.filter fun i => !x.runs.any fun q =>
        q.started && !r.shares.contains q.share && !q.finished (x.shareOf q.share) && at_ q.share == at_ i
      let pans := (free.map fun i => s.sharePans x x.head.layer i).flatten
      let s1 := foldState pans (fun t p => prepPan p t) s
      let s2 := foldState free.reverse (fun t i => startShare x x.head.layer x.head.step i false t) s1
      s2.setJob j { x with replay := some { r with phase := 6, fence := [] } }

/-- Phases 5 and 6 follow the last old write. -/
def takeAndReload (j : Nat) (r : Replay) (s : State) : State := reloadShares j (foldState r.fence (fun t q => takeRegion j q t) s)

/-- The end of phase 4: a KILL that waited takes effect (R342), otherwise phases 5 and 6 follow. -/
def phaseFour (j : Nat) (x : Job) (r : Replay) (s : State) : State :=
  match x.killDue with
  | some t => killNow j t false s
  | none => takeAndReload j r s

/-- REPLAY_QUIESCED. -/
def replayQuiesced (j : Nat) (s : State) : State :=
  match s.job? j with
  | none => s
  | some x => match x.replay with
    | none => s
    | some r => if r.phase = 4 && (s.oldWrites x r).isEmpty then phaseFour j x r s else s

def execReplayQuiesced (j : Nat) : State → Host.Outcome State Fault Refusal := act (decide (j < 16)) (replayQuiesced j)

/-- QUIESCE_TIME_LIMIT: 1 ms after the issue of the latest old write phase 4 ends without its acknowledgement. -/
def quiesceTimeLimit (j : Nat) (s : State) : State :=
  match s.job? j with
  | none => s
  | some x => match x.replay with
    | none => s
    | some r =>
      let ws := s.oldWrites x r
      if r.phase = 4 && !ws.isEmpty && ws.all fun o => decide (o.issued + 1000000 ≤ s.now) then
        phaseFour j x r (expire ws.contains s)
      else s

def execQuiesceTimeLimit (j : Nat) : State → Host.Outcome State Fault Refusal := act (decide (j < 16)) (quiesceTimeLimit j)

/-- A lot of the job still has bytes in a failed slice: its stand-in is to come first (R187). -/
def State.standInDue (s : State) (j : Nat) : Bool :=
  (s.slices.filter fun e => e.2.mode == .failed).any fun e => s.memdev.lots.any fun l => l.2.job == j && s.lotInSlice e.1 l.2 &&
    (match l.2 with | .near _ _ _ _ => true | .even _ _ _ => !(s.spreadOf e.1).isEmpty)

/-- REPLAY_RESUME (phase 7): the prior shares first when a refetch runs them again, otherwise the closure's. -/
def replayResume (j : Nat) (s : State) : State :=
  match s.job? j with
  | none => s
  | some x => match x.replay with
    | none => s
    | some r =>
      if r.phase ≠ 6 then s
      else if let some t := x.killDue then killNow j t false s
      else if s.standInDue j then s
      else
        let s1 := s.setJob j { x with replay := some { r with phase := 7 } }
        if r.prior.isEmpty then finishReplay j s1
        else kickPriors j s1

def execReplayResume (j : Nat) : State → Host.Outcome State Fault Refusal := act (decide (j < 16)) (replayResume j)

/-! ### STAND_IN_SLICE (R187) -/

/-- How far a field lies from another: steps along the columns and rows of fields. What "nearest" of R187 measures is open (DESIGN CHOICE,
log 109). -/
def fieldDistance (a b : Nat) : Nat :=
  (if a % 4 ≤ b % 4 then b % 4 - a % 4 else a % 4 - b % 4) + (if a / 4 ≤ b / 4 then b / 4 - a / 4 else a / 4 - b / 4)

/-- The slices that may stand in for one, in the order tried: its own field, then the nearest fields; at equal distance the lower field,
and within a field the lower slice id, of which R187 says nothing (DESIGN CHOICE, log 109). -/
def standInOrder (sl : Nat) : List Nat :=
  ((List.range 6).map fun d => (((List.range 12).filter fun f => fieldDistance (sl / 135) f == d).map fun f =>
    (List.range 135).map fun i => f * 135 + i).flatten).flatten.filter fun i => i != sl

/-- Move the near extents of a failed slice into a stand-in, each to its first free range; none when one has no room. -/
def moveExtents (sl cand : Nat) : List (Nat × Nat) → State → Option State
  | [], s => some s
  | (x, n) :: xs, s =>
    match s.freeExtents n cand with
    | [] => none
    | e :: _ =>
      let k := e % 32 * 2 ^ 20
      let s1 := fillRange cand k (k + 2 ^ (20 + n)) s
      moveExtents sl cand xs (s1.modMem fun d => { d with ext := put x e d.ext })

/-- The near extents in a slice: extent-table index and size. -/
def State.extentsIn (s : State) (sl : Nat) : List (Nat × Nat) :=
  (s.memdev.lots.map fun e => match e.2 with
    | .near _ n count first => ((List.range count).filter fun i => bits (look 0 s.memdev.ext (first + i)) 15 5 == sl).map fun i => (first + i, n)
    | _ => []).flatten

/-- Move the even zone of a failed slice's spread entries into a stand-in's free range of EZ_LEN bytes. -/
def moveSpread (cand : Nat) : List (Nat × Int) → State → Option State
  | [], s => some s
  | (i, _) :: es, s =>
    let mibs := (s.memdev.ezLen + 15) / 16
    match (List.range (33 - mibs)).find? fun m => (List.range mibs).all fun k => !s.mibTaken cand (m + k) with
    | none => none
    | some m =>
      let k := m * 2 ^ 20
      let s1 := fillRange cand k (k + s.memdev.ezLen * 65536) s
      moveSpread cand es (s1.modMem fun d =>
        { d with spread := (d.spread.filter fun e => e.1 != i) ++ [(i, cand, (16 * m : Nat) - (d.ezBase : Int))] })

/-- An even lot exists. -/
def State.hasEven (s : State) : Bool := s.memdev.lots.any fun e => match e.2 with | .even _ _ _ => true | _ => false

/-- The substitution into one candidate, awake or woken for it. One stand-in takes all of the failed slice's extents and its even zone
together, each in its first free range; R187 speaks of room for the extent (DESIGN CHOICE, log 109). -/
def standInto (sl cand : Nat) (s : State) : Option State :=
  let m := (s.slice cand).mode
  if !(m == .awake || m == .asleep || m == .filling) then none
  else match moveExtents sl cand (s.extentsIn sl) s with
    | none => none
    | some s1 =>
      let moved := moveSpread cand (s1.spreadOf sl) s1
      (if s1.hasEven then moved else some (moved.getD s1)).map (wakeFor cand)

/-- STAND_IN_SLICE: the first slice with room stands in; when none has, each job that owns an affected lot ends. -/
def standInSlice (sl : Nat) (s : State) : State :=
  if (s.slice sl).mode != .failed then s
  else
    let jobs := s.sliceJobs sl
    match (standInOrder sl).findSome? fun c => (standInto sl c s).map fun t => (c, t) with
    | some (c, t) =>
      let named (f : FaultRec) : FaultRec := if f.type = RecType.slice && f.unitIdx = sl && f.addr = 0xFFFF then { f with addr := c } else f
      t.modFaults fun q => { q with reports := q.reports.map named, unmirrored := q.unmirrored.map named }
    | none => foldState jobs (fun t j => endBySelf j 0x07 0 t) s

def execStandInSlice (sl : Nat) : State → Host.Outcome State Fault Refusal := act (decide (sl < 1620)) (standInSlice sl)

/-! ### MEMBER_FAILURE (R343) -/

/-- Hakar marks a failed device's position DEAD in all sixteen ports, before it reports the failure (R275). -/
def markDead (d : Nat) (s : State) : State :=
  match s.routeOf d with
  | some r => { s with fin := { s.fin with posState := upd 0 (s.posNumber r.x r.y r.z) (fun v => v ||| 8) s.fin.posState } }
  | none => s

/-- The host is told of a member's failure (R343, R433 kind 0x5). -/
def tellMember (j dev step : Nat) (s : State) : State :=
  postEntry { jobValid := true, kind := 5, job := j, info := dev, payload := [step] } s

/-- A member device of the job has failed: the step is abandoned, every lot kept, the job held and the host told. A region whose fence is
pending is settled first. Of a job already HELD a further failure is reported. -/
def memberFailure (j dev : Nat) (s : State) : State :=
  match s.job? j with
  | none => s
  | some x =>
    if !(s.otherMembers x).contains dev then s
    else if x.mode = .held then tellMember j dev x.head.step (markDead dev s)
    else if !(x.mode == .placed || x.mode == .running || x.mode == .replaying) then s
    else
      let s1 := foldState (s.jobPans x) (fun t p => idleChannels p (stop p t)) (markDead dev s)
      let s2 := foldState (match x.replay with | some r => r.fence | none => []) (fun t r => takeRegion j r t) s1
      let held (y : Job) : Job := { (if y.inFlight then y.modHead fun t => { t with state := 5 } else y) with
        mode := .held, inFlight := false, replay := none, commitHere := false, doneSent := none, replaySent := [], later := [] }
      let s3 := mirrorTally j (s2.modJob j fun y => if y.mode = .ending then y else held y)
      tellMember j dev x.head.step (endOrder j Status.aborted s3)

def execMemberFailure (j dev : Nat) : State → Host.Outcome State Fault Refusal :=
  act (decide (j < 16) && decide (dev < 8191)) (memberFailure j dev)

/-! ### Zeroisation (R346, R347) -/

/-- Step 1 of R346: the job's group entries, collective slots and NTT entries. -/
def clearTables (j : Nat) (x : Job) (s : State) : State :=
  let noGroup (g : Group) : Group := if g.job = j then {} else g
  let noSlot (g : Slot) : Slot := if g.job = j then {} else g
  let s1 := s.modNet fun n => { n with groups := n.groups.map fun (e : Nat × Group) => (e.1, noGroup e.2) }
  let s2 := { s1 with svc := { s1.svc with slots := s1.svc.slots.map fun (e : Nat × Slot) => (e.1, noSlot e.2) } }
  foldState (s.jobPans x) (fun t p => t.modSeq p fun q => { q with ntt := [] }) s2

/-- The zeroing program stands in a pan's program memory (R346 step 2). -/
def loadZeroing (p : Nat) (s : State) : State :=
  s.modSeq p fun q => { q with
    program := Config.zeroingProgram.zipIdx.map fun b => (b.2, b.1)
    entry := 0, progLen := min 8192 Config.zeroingProgram.length }

/-- Step 2 of R346: the zeroing program is loaded, and every byte of the job's lots, brine and cellar, becomes zero. The writes of the pans'
haul channels are made whole, with no packet of their own (DESIGN CHOICE, log 117). -/
def zeroLots (j : Nat) (x : Job) (s : State) : State :=
  let s1 := foldState (s.jobPans x) (fun t p => loadZeroing p t) s
  let s2 := foldState (s1.memdev.lots.filter fun e => e.2.job == j) (fun t e => zeroLot e.2 t) s1
  foldState (s2.memdev.cellarLots.filter fun l => l.job == j) (fun t l => zeroCellar l t) s2

/-- ZEROISATION: step 1 of R346, and step 2 and the store fills of step 3 unless the job's residue is retained (R347). -/
def zeroisation (j : Nat) (s : State) : State :=
  match s.job? j with
  | none => s
  | some x =>
    if x.mode ≠ .ending || x.zeroing then s
    else
      let s1 := clearTables j x s
      if x.retain && !x.released then s1
      else foldState (s.jobPans x) (fun t p => beginStoreFill p t) (zeroLots j x (s1.setJob j { x with zeroing := true }))

def execZeroisation (j : Nat) : State → Host.Outcome State Fault Refusal := act (decide (j < 16)) (zeroisation j)

/-- Every lot of a job becomes free, brine and cellar (R346 step 5). -/
def freeLots (j : Nat) (s : State) : State :=
  (foldState (s.memdev.lots.filter fun e => e.2.job == j) (fun t e => freeLot e.1 t) s).modMem fun d => { d with cellarLots := d.cellarLots.filter fun l => l.job != j }

/-- The job end entry (R433 kind 0x3). -/
def endEntry (j : Nat) (x : Job) (e : Nat × Nat × Nat) : Entry :=
  { jobValid := true, kind := 3, job := j, info := field e.1 8 24 + e.2.1 % 65536, tag := e.2.2
    opcode := x.endingOp
    payload := energyRecord 1 j x }

/-- A transfer or an atomic that names the job has begun and not completed. -/
def State.carriesFor (s : State) (j : Nat) : Bool :=
  s.hif.journal.any fun e => e.job == j &&
    ((s.cc.any fun c => c.2.cmd == some e.tag) || (s.hif.transfers.any fun t => t.tag == e.tag) || (s.hif.atomics.any fun a => a.tag == e.tag))

/-- ZEROISATION_DONE (R345, R346 steps 4 and 5): the tally records and their mirror are gone, the lots and the slot are free, and the end entry
is written unless a device-fatal fault wrote it (R467). It is the job's last entry (R435): transfers and atomics that name the job end
first, and what was rung for it since and has not begun completes with ABORTED. -/
def zeroisationDone (j : Nat) (s : State) : State :=
  match s.job? j with
  | none => s
  | some x =>
    if x.mode ≠ .ending || !x.zeroing || ((s.jobPans x).any fun p => (s.pan p).store.fillBusy) || s.carriesFor j then s
    else
      let s1 := foldState (s.queuedFor j none) (fun t e => finishTag e.tag (commandEntry e.tag e.opcode j Status.aborted 0 []) t) s
      let s2 := freeLots j { s1 with mirror := drop j s1.mirror }
      let s3 := { s2 with jobs := drop j s2.jobs }
      match x.ending with
      | some e => postEntry (endEntry j x e) s3
      | none => s3

def execZeroisationDone (j : Nat) : State → Host.Outcome State Fault Refusal := act (decide (j < 16)) (zeroisationDone j)

end Sys2Proof.Machine
end

