-- ==== Sys2Proof/Machine/Clocks.lean ====
section
/-! DEFINITION. The frequency ladder and the tide count (chapter 12): grade changes, steering, the tide tree and its commands. -/

namespace Sys2Proof.Machine
open Sys2Proof

/-! ### Grade changes (R360 to R363) -/

/-- The slot of a request made at tide count t (R360 step 2). -/
def gradeSlot (t : Nat) : Nat := (t + 64000 + 4095) / 4096 * 4096

/-- A change becomes pending. -/
def schedule (g t : Nat) (c : Clock) : Clock := { c with pending := some g, slot := gradeSlot t }

/-- The wakes that ramp when a rise is requested take the slow ramp from their next stage (R383). -/
def slowWakes (s : State) : State :=
  let ramping := s.fields.filter fun e => match e.2.wake with | some (_, .ramp, false, _) => true | _ => false
  let slow (f : FieldPwr) : FieldPwr := match f.wake with | some (r, .ramp, false, t) => { f with wake := some (r, .ramp, true, t) } | _ => f
  { s with fields := s.fields.map fun (e : Nat × FieldPwr) => (e.1, slow e.2) }.modPower fun p =>
    { p with slowWakes := satCount p.slowWakes ramping.length }

/-- A grade request (R360, R361). -/
def gradeRequest (g : Nat) (s : State) : State :=
  match s.clock.pending with
  | some p =>
    let s1 := s.modClock fun c => { c with held := if g = p then none else some g }
    -- a rise that is held is a rise requested (R383)
    if p < g then slowWakes s1 else s1
  | none =>
    if g = s.clock.grade then s
    else
      let s1 := s.modClock (schedule g s.now)
      if s.clock.grade < g then slowWakes s1 else s1

/-- GRADE_REQUEST. -/
def execGradeRequest (g : Nat) : State → Host.Outcome State Fault Refusal := act (decide (g < 16)) (gradeRequest g)

/-- The grade in force at a tide count (R360, R381), as far back as landings are kept. -/
def Clock.gradeAt (c : Clock) (t : Nat) : Nat := c.landings.foldl (fun g e => if t < e.1 then e.2 else g) c.grade

/-- The VCORE target of a grade in mV, less the fused trim, and never below 0.55 V (R375). -/
def vcoreTarget (trim g : Nat) : Nat := max 550 (550 + 20 * g - trim)

/-- GRADE_CHANGE (R360 step 4): at the slot the change lands, and a held request is scheduled from the landing. -/
def gradeChange (s : State) : State :=
  match s.clock.pending with
  | none => s
  | some g =>
    if s.now < s.clock.slot then s
    else
      let c := s.clock
      let c1 : Clock := { c with grade := g, pending := none, held := none, landed := some (c.slot, decide (c.grade < g))
                                 landings := (c.slot, c.grade) :: c.landings.filter fun e => decide (c.tide < e.1 + 2000000)
                                 changes := satCount c.changes 1 }
      let c2 := match c.held with
        | some h => if h = g then c1 else schedule h c.slot c1
        | none => c1
      let regions := (List.range 108).foldl (fun m r => upd {} r (fun (q : Region) => { q with grade := g }) m) s.regions
      let s1 := { s with clock := c2, regions := regions }
      s1

def execGradeChange : State → Host.Outcome State Fault Refusal := act true gradeChange

/-- VCORE_RISE (R360 step 3): 40 µs before the slot of a rise the regulators aim at the new target. -/
def vcoreRise (s : State) : State :=
  match s.clock.pending with
  | some g => if s.clock.vcore < g && s.clock.grade < g && decide (s.clock.slot ≤ s.now + 40000) then s.modClock fun c => { c with vcore := g } else s
  | none => s

def execVcoreRise : State → Host.Outcome State Fault Refusal := act true vcoreRise

/-- VCORE_FALL (R360 step 5): 4,096 ns after the slot of a fall the regulators aim at the lower target. -/
def vcoreFall (s : State) : State :=
  match s.clock.landed with
  | some (t, false) => if t + 4096 ≤ s.now && decide (s.clock.grade < s.clock.vcore) then s.modClock fun c => { c with vcore := c.grade } else s
  | _ => s

def execVcoreFall : State → Host.Outcome State Fault Refusal := act true vcoreFall

/-- A rise counts as pending from its request, held or not, until 40 µs after its slot (R382). A held request rises when it lies above the
grade that the pending change brings. -/
def State.risePending (s : State) : Bool :=
  (match s.clock.pending with
   | some g => decide (s.clock.grade < g) || (match s.clock.held with | some h => decide (g < h) | none => false)
   | none => false) ||
  (match s.clock.landed with | some (t, true) => decide (s.now < t + 40000) | _ => false)

/-! ### The tide count (R365 to R370) -/

/-- The master counter's next control cycle (R366): one increment, with a steering increment added or withheld when the rate has gathered
one. -/
def Clock.advance (c : Clock) : Clock :=
  let f := c.frac + c.rate
  if 1000000000 ≤ f then { c with tide := (c.tide + 2) % 2 ^ 64, frac := f - 1000000000 }
  else if f ≤ -1000000000 then { c with frac := f + 1000000000 }
  else { c with tide := (c.tide + 1) % 2 ^ 64, frac := f }

/-- A replica's difference from the master after a cycle in which the master advanced by `d` (R366): a free value within 2 ns that lets no
reading of the replica fall (R365; log 118). -/
def drift (v f : Nat) (d old : Int) : Int := max ((v / 5 ^ f % 5 : Nat) - 2) (old - d)

/-- The replicas of the twelve bund domains drift from the master until it resynchronises them (R366). -/
def driftReplicas (d : Int) (s : State) : State :=
  let (v, s1) := s.draw
  s1.modClock fun c => { c with replica := (List.range 12).foldl (fun m f => put f (drift v f d (look 0 c.replica f)) m) [] }

/-- A pan's sequencer runs and waits (R122). -/
def Seq.waits (q : Seq) : Bool := q.mode == .waiting

/-- The device has had no work to compute for a job (R391): every logical pan of its jobs is WAITING or HALTED, one at least is WAITING, and
Hakar does not replay. A group's budget names no job, so every job of the device counts (log 119). -/
def State.slack (s : State) : Bool :=
  let pans := ((s.jobs.filter fun e => e.2.live).map fun e => s.jobPans e.2).flatten
  (s.jobs.all fun e => e.2.replay.isNone) && (pans.any fun p => (s.pan p).seq.waits) &&
    pans.all fun p => (s.pan p).seq.waits || (s.pan p).seq.mode == .halted

/-- One control cycle of a powered device, which is what it does while no command waits (log 6). -/
def tick (s : State) : State :=
  if !s.powered then s
  else
    let s1 := s.modClock Clock.advance
    let s2 := driftReplicas ((s1.clock.tide : Int) - s.clock.tide) s1
    if s.power.budget.joined && s.slack then
      s2.modPower fun p => { p with budget := { p.budget with idle := p.budget.idle + (s1.now - s.now) } }
    else s2

/-- A rate correction within the bound of R365. -/
def rateOf (v : Nat) : Int := clampInt (-200000) 200000 (signed 32 v)

/-- TIDE_RESYNC (R366): every replica agrees with the master. -/
def execTideResync : State → Host.Outcome State Fault Refusal := act true fun s => s.modClock fun c => { c with replica := [] }

/-- TIDE_EXCHANGE (R368): this end's stamps of a port's exchange are taken and sent to the peer's Hakar. -/
def tideExchange (n : Nat) (t : TideStamps) (s : State) : State :=
  if !s.portUp n then s
  else s.modClock fun c => { c with stamps := put n t c.stamps, stampsSent := c.stampsSent ++ [(n, t)] }

def execTideExchange (n : Nat) (t : TideStamps) : State → Host.Outcome State Fault Refusal := act (decide (n < 16)) (tideExchange n t)

/-- TIDE_STAMP_MESSAGE (R368): at the first port of the pair toward the parent, up and with its own stamps of the exchange taken, the child's
offset is half the difference of the two one-way differences. How fast the rate drives it to zero is open (log 23). -/
def tideStampMessage (n : Nat) (mine peer : TideStamps) (s : State) : State :=
  if s.clock.master || s.clock.parentPort != some n || !s.portUp n || (s.clock.stamps.find? fun e => e.1 == n) != some (n, mine) then s
  else
    let down : Int := (mine.rx : Int) - peer.tx
    let up : Int := (peer.rx : Int) - mine.tx
    let off := (down - up) / 2
    let (v, s1) := s.draw
    s1.modClock fun c =>
      { c with offset := off, rate := rateOf v, holdover := false
               locked := c.locked || (decide (-8000 ≤ off) && decide (off ≤ 8000)) }

def execTideStampMessage (n : Nat) (mine peer : TideStamps) : State → Host.Outcome State Fault Refusal :=
  act (decide (n < 16)) (tideStampMessage n mine peer)

/-- PTM_MEASURE (R369): the master alone steers toward the host's time. -/
def ptmMeasure (host : Nat) (s : State) : State :=
  let s1 := s.modClock fun c => { c with ptmOffset := (host : Int) - (c.tide : Int), ptmValid := true }
  if s.clock.master then (let (v, s2) := s1.draw; s2.modClock fun c => { c with rate := rateOf v }) else s1

def execPtmMeasure (host : Nat) : State → Host.Outcome State Fault Refusal := act (decide (host < 2 ^ 64)) (ptmMeasure host)

/-- The first port of the pair toward the parent is up (R367). -/
def State.parentUp (s : State) : Bool :=
  match s.clock.parentPort with
  | some n => s.portUp n && (s.port n).peer.map (·.1) == some s.clock.parent
  | none => false

/-- TIDE_HOLDOVER (R370): a device without a parent keeps its rate. Each entry into holdover counts, and an exchange with a parent ends it,
LOCKED again or not. -/
def tideHoldover (s : State) : State :=
  if s.clock.master || s.parentUp || s.clock.holdover then s
  else s.modClock fun c => { c with locked := false, holdover := true, relocks := satCount c.relocks 1 }

def execTideHoldover : State → Host.Outcome State Fault Refusal := act true tideHoldover

/-- The coordinates of a position number. -/
def State.coordsOf (s : State) (n : Nat) : Nat × Nat × Nat :=
  (n % s.fin.dx, n / s.fin.dx % s.fin.dy, n / s.fin.dx / s.fin.dy)

/-- The neighbouring position in a direction of R256. -/
def State.neighbour (s : State) (me : Nat × Nat × Nat) (role : Nat) : Nat × Nat × Nat :=
  let step (d v : Nat) (plus : Bool) : Nat := if plus then (v + 1) % d else (v + d - 1) % d
  let plus := role % 2 == 0
  if role / 2 = 0 then (step s.fin.dx me.1 plus, me.2.1, me.2.2)
  else if role / 2 = 1 then (me.1, step s.fin.dy me.2.1 plus, me.2.2)
  else (me.1, me.2.1, step s.fin.dz me.2.2 plus)

/-- The device id at a position, from the routes Hakar wrote. -/
def State.deviceAt (s : State) (q : Nat × Nat × Nat) : Option Nat :=
  (s.fin.route.find? fun e => e.2.exp.isNone && (e.2.x, e.2.y, e.2.z) == q).map (·.1)

/-- The tide master's position (R367): the lowest live position. -/
def State.masterPos (s : State) : Nat :=
  ((List.range (s.fin.dx * s.fin.dy * s.fin.dz)).find? fun n => !bit (look 0 s.fin.posState n) 3).getD 0

/-- The device has this parent through this port, or none. -/
def childOf (d : Option (Nat × Nat)) (c : Clock) : Clock :=
  { c with master := false, parent := (d.map (·.1)).getD c.parent, parentPort := d.map (·.2) }

/-- TIDE_PARENT_RESELECT (R367): the master, and otherwise the parent on the first hop of the primary route toward it, through the first port
of the pair. A device whose primary route is blocked has no parent (DEDUCED, log 124). A new master steers nothing; one that was master keeps the rate of R369. -/
def tideReselect (s : State) : State :=
  let beMaster := s.modClock fun c =>
    { c with master := true, locked := true, holdover := false, parent := 8191, parentPort := none, rate := if c.master then c.rate else 0 }
  match s.fin.selfPos with
  | none => beMaster
  | some me =>
    let m := s.masterPos
    if s.posNumber me.1 me.2.1 me.2.2 = m then beMaster
    else match s.route me (s.coordsOf m) with
      | none => s.modClock (childOf none)
      | some r => s.modClock (childOf (if r.detour then none else (s.deviceAt (s.neighbour me r.first)).map fun d => (d, firstPort r.first)))

def execTideParentReselect : State → Host.Outcome State Fault Refusal := act true tideReselect

end Sys2Proof.Machine
end

