-- ==== Sys2Proof/Machine/Power.lean ====
section
/-! DEFINITION. Power delivery, heat, budgets and energy (chapter 13). -/

namespace Sys2Proof.Machine
open Sys2Proof

/-! ### The power limit (R386, R387) -/

/-- A request that is skipped while a change is pending or held. -/
def plainRequest (skip : Bool) (g : Nat) (s : State) : State :=
  if skip || s.clock.pending.isSome || s.clock.held.isSome then s else gradeRequest g s

/-- Device power in W: the sum of each rail's voltage times its current, VIN's by field (R373). -/
def devicePower (r : RailSample) : Nat :=
  (r.vin * sumNat r.fields + sumNat ([r.vsd, r.vlq, r.vhq, r.vaux].map fun e => e.1 * e.2)) / 1000000

/-- One evaluation of the power limit controller at a power p (R387). -/
def powerLaw (p : Nat) (s0 : State) : State :=
  -- a new limit takes effect now, and where it changes the limit the window starts again (R386, R387, R392)
  let s := match s0.power.newLimit with
    | some l => s0.modPower fun q => { q with limit := l, newLimit := none, samples := if l = q.limit then q.samples else [] }
    | none => s0
  let q := s.power
  let win := (p :: q.samples).take q.window
  let sum := sumNat win
  let overNow := if q.limit < p then q.overs + 1 else 0
  let grade := s.clock.grade
  let target := s.clock.pending.getD grade
  let needMax := decide (q.gradeMax < target)
  let cut := decide (5 * q.limit < 4 * p) || decide (50 < overNow)
  let above := decide (q.limit * win.length < sum)
  let low := decide (100 * sum < 97 * q.limit * win.length) && overNow == 0
  let lower := !cut && above && decide (q.cap < 8) && decide (0 < grade)
  let cap :=
    if cut then min (q.cap + 4) 60
    else if above then (if lower then q.cap else min (q.cap + 2) 60)
    else if low && decide (0 < q.cap) then q.cap - 1 else q.cap
  let s1 := s.modPower fun q =>
    { q with
      samples := win, now := p, avg := if win.length = 0 then 0 else sum / win.length, overs := min 255 overNow, cap := cap
      capEvents := satCount q.capEvents (if q.cap < cap then 1 else 0)
      excursions := satCount q.excursions (if overNow = 51 then 1 else 0) }
  let s2 := if needMax then gradeRequest q.gradeMax s1 else s1
  if lower then plainRequest needMax (grade - 1) s2
  else if !cut && !above && low && q.cap == 0 && decide (grade < q.gradeMax) then plainRequest needMax (grade + 1) s2
  else s2

/-- POWER_EVALUATION (R373, R387): the rails are measured, and the limit acts on the measurement alone. -/
def powerEvaluation (r : RailSample) (s : State) : State :=
  powerLaw (devicePower r) (s.modPower fun q => { q with rails := [r.vsd, r.vlq, r.vhq, r.vaux].map (·.2) })

def execPowerEvaluation (r : RailSample) : State → Host.Outcome State Fault Refusal :=
  act (decide (devicePower r < 65536) && r.fields.length == 12) (powerEvaluation r)

/-! ### The fast current loop and the load notice (R376 to R380) -/

/-- Failed phases of a region. -/
def Region.failedPhases (r : Region) : Nat := (bitList 12 r.phases).length

/-- The current limit of R376 in mA, when one is enforced. -/
def phaseLimit (r : Region) : Option Nat :=
  if r.failedPhases = 3 then some 48600 else if r.failedPhases = 4 then some 43200 else none

/-- One step of 1 µs of a level held against a limit: up by 8 above it, down by 1 each 10 µs below `low`. -/
def loopStep (now limit low level below : Nat) : Nat × Nat :=
  if limit < now then (min 60 (level + 8), 0)
  else if now < low then (if 9 ≤ below then (level - 1, 0) else (level, below + 1))
  else (level, 0)

/-- A region's own measurement: REGION_CURRENT and its phase level. -/
def regionCurrent (mA : Nat) (q : Region) : Region :=
  match phaseLimit q with
  | none => { q with current := mA / 10, phaseLevel := 0, below := 0 }
  | some l =>
    let r := loopStep mA l l q.phaseLevel q.below
    { q with current := mA / 10, phaseLevel := r.1, below := r.2 }

/-- The level a droop of `d` tenths of a percent below target calls for, at most `top` (R351): the highest k with d more than 3k %. -/
def droopLevel (top d : Nat) : Nat := ((List.range (top + 1)).filter fun k => k == 0 || decide (30 * k < d)).getLastD 0

/-- `n` cycles in a row at one supply (R351): the level after them, how many were stretched, and the highest level among them. A droop keeps
the level at least at its own and never lowers it; within 3 % it falls by one a cycle (log 120). -/
def stretchRun (top level d n : Nat) : Nat × Nat × Nat :=
  if n = 0 then (level, 0, 0)
  else
    let k := droopLevel top d
    if k = 0 then (level - n, min n (level - 1), level - 1) else (max level k, n, max level k)

/-- The cycles of an oscillator, run after run: the level, the stretched cycles and the highest level. -/
def stretchRuns (top level : Nat) (runs : List (Nat × Nat)) : Nat × Nat × Nat :=
  runs.foldl (fun a e => let r := stretchRun top a.1 e.2 e.1; (r.1, a.2.1 + r.2.1, max a.2.2 r.2.2)) (level, 0, 0)

/-- By how many tenths of a percent, rounded up, a supply falls short of a target. -/
def shortfall (target mv : Nat) : Nat := if target ≤ mv then 0 else ((target - mv) * 1000 + target - 1) / target

/-- A running region oscillator's edges of a microsecond (R351, R377): its stretch level and count, and the edges the throttle level t
withholds, t of every 64 (log 120). -/
def oscillatorEdges (target t : Nat) (runs : List (Nat × Nat)) (q : Region) : Region :=
  if q.clk != .running then q
  else
    let e := stretchRuns 3 q.level (runs.map fun x => (x.1, shortfall target x.2))
    let owed := q.owedEdges + t * sumNat (runs.map (·.1))
    { q with
      level := e.1, stretch := satCount q.stretch e.2.1, highLevel := max q.highLevel e.2.2
      throttled := satCount q.throttled (owed / 64), owedEdges := owed % 64, fresh := false, ran := true }

/-- The current the loop counts for regions at peak beyond what it measures (R380). -/
def State.peakCurrent (s : State) (f : Nat) : Nat :=
  20000 * ((List.range 9).filter fun py =>
    let q := s.region (9 * f + py)
    q.peak && match q.peakFrom with | some t => decide (s.now < t + 2000) | none => false).length

/-- A running region of the field is at stretch level 2 or more (R383). -/
def State.fieldDroops (s : State) (f : Nat) : Bool :=
  (List.range 9).any fun py => (s.region (9 * f + py)).clk == .running && decide (2 ≤ (s.region (9 * f + py)).level)

/-- The ramp of a wake in the field pauses for the droop (R383): at most 36 µs in all. -/
def State.rampPaused (s : State) (f : Nat) : Bool := s.fieldDroops f && decide ((s.fieldPwr f).paused < 36)

/-- A field's wake that ramps has paused a microsecond longer. -/
def pauseRamp (f : Nat) (s : State) : State :=
  match (s.fieldPwr f).wake with
  | some (_, .ramp, _, _) => if s.rampPaused f then s.modField f fun x => { x with paused := x.paused + 1 } else s
  | _ => s

/-- One region's microsecond: its oscillator's edges under the throttle level in force, and its own measurement, in which an announced
burst's current ends what the loop adds for it (R379, R380). -/
def regionSample (e : RegionSample) (s : State) : State :=
  let target := vcoreTarget s.boot.fuses.trim (s.region e.region).grade
  s.modRegion e.region fun q =>
    let q1 := regionCurrent e.current (oscillatorEdges target (s.throttle e.region) e.cycles q)
    if e.burst then { q1 with peakFrom := none } else q1

/-- FAST_CURRENT_LOOP (R379): the field level against the measured current, each region's microsecond, and the bund oscillator's cycles with
its average period (R350, R351, R371). -/
def fastLoop (f mA : Nat) (l : LoopSample) (s : State) : State :=
  let s1 := foldState (l.regions.filter fun e => e.region / 9 == f) (fun t e => regionSample e t) s
  pauseRamp f (s1.modField f fun x =>
    let r := loopStep (mA + s1.peakCurrent f) 263000 253000 x.level x.below
    let b := stretchRuns 7 x.bundLevel l.bund
    { x with current := mA / 10, level := r.1, below := r.2
             bundLevel := b.1, bundStretch := satCount x.bundStretch b.2.1, bundPeriod := l.bundPeriod % 65536 })

def execFastCurrentLoop (f mA : Nat) (l : LoopSample) : State → Host.Outcome State Fault Refusal :=
  act (decide (f < 12) && decide (l.bundPeriod < 65536) && l.regions.all fun e => decide (e.region < 108)) (fastLoop f mA l)

/-- LOAD_NOTICE_ARRIVAL (R136, R380). -/
def loadNotice (r : Nat) (s : State) : State :=
  if (s.region r).notices = 0 then s
  else s.modRegion r fun q =>
    let q1 := { q with notices := q.notices - 1 }
    if q.pwr = .running then { q1 with peak := true, peakFrom := some s.now } else q1

def execLoadNoticeArrival (r : Nat) : State → Host.Outcome State Fault Refusal := act (decide (r < 108)) (loadNotice r)

/-- Working phases of a region's regulators out of light-load mode: all of them at peak; otherwise the regulators choose (R380). -/
def Region.phasesHeld (q : Region) : Nat := if q.peak then 12 - q.failedPhases else 0

/-- The voltage in mV at which a region's regulators aim: the target of the grade aimed at, less the trim (R360, R375), and a pre-bias of
10 mV above it at peak (R380). -/
def State.vcoreAim (s : State) (r : Nat) : Nat :=
  vcoreTarget s.boot.fuses.trim s.clock.vcore + (if (s.region r).peak then 10 else 0)

/-- 1,024 region cycles have passed at a pan since its latest valid west slot and its latest notice. -/
def quietPanCycles (q : Seq) : Bool :=
  (match q.lastValid with | some c => decide (c + 1024 ≤ q.cycle) | none => true) &&
  (match q.notice with | some c => decide (c + 1024 ≤ q.cycle) | none => true)

/-- PEAK_END (R380). -/
def peakEnd (r : Nat) (s : State) : State :=
  if (s.region r).peak && (regionPans r).all fun p => quietPanCycles (s.pan p).seq then
    s.modRegion r fun q => { q with peak := false, peakFrom := none }
  else s

def execPeakEnd (r : Nat) : State → Host.Outcome State Fault Refusal := act (decide (r < 108)) (peakEnd r)

/-! ### The minimum-voltage log (R364, R381) -/

/-- The lowest of the interval's samples, the first of equals (R381; log 101). -/
def lowestSample (a : Nat × Nat) (more : List (Nat × Nat)) : Nat × Nat := more.foldl (fun x y => if y.1 < x.1 then y else x) a

/-- MINV_INTERVAL: one entry for the interval that ends: its lowest sample, when it was taken and the grade then in force (R364), and the
highest stretch level reached. A region whose oscillator ran in no part of it writes OFF. The first entry goes to index 1, since MINV_HEAD
names the latest and is 0 at reset (DESIGN CHOICE, log 101). -/
def minvInterval (low : Nat × Nat) (gradeThen : Nat) (q : Region) : Region :=
  let running := q.clk == .running
  let on := q.ran || running
  let head := (q.minvHead + 1) % 16
  { q with
    highLevel := 0, ran := running
    minvHead := head, minvAll := if on then min q.minvAll low.1 else q.minvAll
    minv := put head (if on then { stretch := q.highLevel, grade := gradeThen, mv := low.1, tide := low.2 }
                      else { off := true, grade := q.grade }) q.minv }

def execMinvInterval (r mv tide : Nat) (e : DroopSamples) : State → Host.Outcome State Fault Refusal :=
  act (decide (r < 108) && decide (mv < 1024) && e.more.all fun x => decide (x.1 < 1024)) fun s =>
    let low := lowestSample (mv, tide) e.more
    s.modRegion r (minvInterval low (s.clock.gradeAt low.2))

/-! ### Rest (R384, R385) -/

/-- A share of some job runs on the region, one that a refetch runs again among them (R340). -/
def State.regionBusy (s : State) (r : Nat) : Bool :=
  s.jobs.any fun e => e.2.live && ((e.2.runs.any fun q =>
    q.started && !q.finished (e.2.shareOf q.share) && s.physRegion (e.2.shareLogical e.2.head.layer q.share) == some r) || s.priorAt e.2 r)

/-- The region's pans, regulators and oscillator are gated for a rest (R385 step 3). -/
def gateRest (r : Nat) (s : State) : State :=
  (foldState (regionPans r) (fun t p => gateStore p (idleChannels p (stop p t))) s).modRegion r fun q =>
    { q with pwr := .rested, clk := .gated, restSince := none, restGate := false, coolSince := none, peak := false }

/-- A bank of the region drains. -/
def State.regionDrains (s : State) (r : Nat) : Bool :=
  (regionPans r).any fun p => (s.pan p).store.banks.any fun e => e.2 == .draining

/-- A region gated for a rest is gated only after every bank of it that drains has reached asleep (R170). -/
def gateDrained (r : Nat) (s : State) : State :=
  if s.regionDrains r then s.modRegion r fun q => { q with restGate := true } else gateRest r s

/-- The gating of a rest that waited for draining banks. -/
def restDrained (r : Nat) (s : State) : State := if (s.region r).restGate then gateDrained r s else s

/-- BANK_DRAINED (R167, R170). -/
def execBankDrained (p b : Nat) : State → Host.Outcome State Fault Refusal :=
  act (decide (p < 1620) && decide (b < 32)) fun s => restDrained (regionOf p) (bankDrained p b s)

/-- BANK_SLEEP_BOUND (R167, R170). -/
def execBankSleepBound (p b : Nat) : State → Host.Outcome State Fault Refusal :=
  act (decide (p < 1620) && decide (b < 32)) fun s => restDrained (regionOf p) (bankSleepBound p b s)

/-- A rest begins: at once when no share runs on the region (R385). -/
def beginRest (r : Nat) (s : State) : State :=
  let t := (s.region r).temp
  let s1 := report { type := RecType.thermal, cls := 0, code := (t / 16).toNat, unitCls := UnitCls.domain, unitIdx := r
                     detail := unsigned 32 t, jobs := s.jobMask r }
    ((s.modPower fun p => { p with rests := satCount p.rests 1 }).modField (r / 9) fun f => { f with lastRest := some s.now })
  let s2 := s1.modRegion r fun q => { q with restSince := some s.now }
  if s.regionBusy r then s2 else gateDrained r s2

/-- A share of a region about to rest has reached DONE (R385 step 2). -/
def restOnDone (r : Nat) (s : State) : State :=
  if (s.region r).restSince.isSome && !s.regionBusy r then gateDrained r s else s

/-- The hottest region of a field among those at 105 °C or more for 10 ms, the lower id on a tie. -/
def State.hottest (s : State) (f : Nat) : Option Nat :=
  ((List.range 9).map fun py => 9 * f + py).foldl (fun o r =>
    let q := s.region r
    let due := q.pwr == .running && q.restSince.isNone && (match q.hotSince with | some t => decide (t + 10000000 ≤ s.now) | none => false)
    if !due then o
    else match o with
      | none => some r
      | some b => if (s.region b).temp < q.temp then some r else some b) none

/-- At most one rest starts per field in each 10 ms (R384). -/
def restHottest (f : Nat) (s : State) : State :=
  match s.hottest f with
  | none => s
  | some r =>
    match (s.fieldPwr f).lastRest with
    | some t => if s.now < t + 10000000 then s else beginRest r s
    | none => beginRest r s

/-- A region is gated at once for heat (R384), and a wake of it is abandoned (R383). -/
def gateHot (r : Nat) (s : State) : State :=
  ((foldState (regionPans r) (fun t p => gateStore p (idleChannels p (stop p t))) s).modRegion r fun q =>
    { q with pwr := .gated, clk := .gated, restSince := none, restGate := false, peak := false }).modField (r / 9) (dropWake r s.now)

/-- A region takes a fault before its fill ends: the wake is abandoned and the region gated (R383). -/
def faultInWake (r : Nat) (s : State) : State :=
  match (s.fieldPwr (r / 9)).wake with
  | some (q, _, _, _) => if q = r then gateHot r s else s
  | none => s

/-- The 110 and 115 °C actions (R384), the latter once for each rise of the region to 115 °C from its last sample `old`. -/
def heatActions (r : Nat) (old t16 : Int) (s : State) : State :=
  let rec_ (cls : Nat) : FaultRec :=
    { type := RecType.thermal, cls := cls, code := (t16 / 16).toNat, unitCls := UnitCls.domain, unitIdx := r
      detail := unsigned 32 t16, jobs := if cls = 7 then s.allJobs else s.jobMask r }
  -- a region already gated for its heat, or fenced, reports nothing again; one that is gated and waits to be woken does
  let again := (s.region r).pwr == .gated && ((s.region r).fenced || decide (110 * 16 ≤ old))
  let s1 := if 110 * 16 ≤ t16 && !again then report (rec_ 4) (gateHot r s) else s
  if 115 * 16 ≤ t16 then
    (if old < 115 * 16 then report (rec_ 7) else id) (s1.modFaults fun f => { f with thermtripN := true })
  else s1

/-- THERMAL_SAMPLE (R384): the region's temperature, the higher of its two sensors, its thermal level, and what the thresholds call for. -/
def thermalSample (r : Nat) (p : SensorPair) (s : State) : State :=
  let old := s.region r
  let t16 := max p.a p.b
  let level : Nat := if t16 < 1600 then 0 else min 60 (6 * (t16 - 1600) / 16).toNat
  let hot := decide (105 * 16 ≤ t16)
  let s1 := s.modRegion r fun q =>
    { q with
      temp := t16, thermal := level
      hotSince := if hot then some (q.hotSince.getD s.now) else none
      coolSince := if t16 < 95 * 16 then some (q.coolSince.getD s.now) else none
      wasCool := if hot then false else q.wasCool || decide (t16 < 100 * 16) }
  let s1 := s1.modPower fun w => { w with temps := (w.temps.filter fun e => decide (s.now < e.1 + 100000)) ++ [(s.now, t16)] }
  let s2 := if hot && old.wasCool then ibi 0x03 s1 else s1
  restHottest (r / 9) (heatActions r old.temp t16 s2)

def execThermalSample (r : Nat) (p : SensorPair) : State → Host.Outcome State Fault Refusal :=
  act (decide (r < 108) && [p.a, p.b].all fun t => decide (-32768 ≤ t) && decide (t < 32768)) (thermalSample r p)

/-- REST_DEADLINE (R385): DONE has not arrived within 50 ms: the pans stop, and the share is replayed without a fence when
the region returns. -/
def restDeadline (r : Nat) (s : State) : State :=
  match (s.region r).restSince with
  | none => s
  | some t =>
    if s.now < t + 50000000 then s
    else
      let due := s.jobs.filter fun e => e.2.canReplay && !(s.sharesOn e.2 r).isEmpty
      let busy (x : Job) : List Nat := (s.sharesOn x r).filter fun i => x.runs.any fun q => q.share == i && !q.finished (x.shareOf i)
      let prior := s.jobs.filter fun e => s.priorAt e.2 r
      let s1 := foldState due (fun u e => replayShares e.1 (busy e.2) u) s
      gateDrained r (foldState (regionPans r) (fun t p => stop p t) (foldState prior (fun u e => startReplay e.1 {} u) s1))

def execRestDeadline (r : Nat) : State → Host.Outcome State Fault Refusal := act (decide (r < 108)) (restDeadline r)

/-! ### Wakes (R382, R383) -/

/-- REGION_WAKE: a rested region that has been below 95 °C for 10 ms enters its field's queue, in order of request and then of
region id. -/
def regionWake (r : Nat) (s : State) : State :=
  let q := s.region r
  let cool := match q.coolSince with | some t => decide (t + 10000000 ≤ s.now) | none => false
  if q.pwr != .rested || !cool then s
  else s.modField (r / 9) fun f =>
    if f.queue.any (fun e => e.2 == r) || f.wake.any (fun w => w.1 == r) then f
    else
      let before := f.queue.filter fun e => decide (e.1 < s.now) || (e.1 == s.now && decide (e.2 < r))
      let after := f.queue.filter fun e => e.1 == s.now && decide (r < e.2)
      let g := { f with queue := before ++ [(s.now, r)] ++ after }
      match g.wake with
      | none => nextWake s.now g
      -- a wake asked for at the same tide count that still waits gives way to a lower id
      | some (o, .waiting, _, _) =>
        if f.wakeAsked = s.now ∧ r < o then nextWake s.now { g with queue := (s.now, r) :: (before ++ [(s.now, o)] ++ after) } else g
      | some _ => g

def execRegionWake (r : Nat) : State → Host.Outcome State Fault Refusal := act (decide (r < 108)) (regionWake r)

/-- A waiting wake starts its ramp. -/
def beginRamp (f r : Nat) (slow : Bool) (s : State) : State :=
  let s1 := (s.modField f fun x => { x with wake := some (r, .ramp, slow, s.now) }).modRegion r fun q => { q with pwr := .waking }
  if slow then s1.modPower fun p => { p with slowWakes := satCount p.slowWakes 1 } else s1

/-- WAKE_ADMIT: at least 40 A of headroom and no rise pending. -/
def wakeAdmit (f : Nat) (s : State) : State :=
  match (s.fieldPwr f).wake with
  | some (r, .waiting, _, _) =>
    if (s.fieldPwr f).current + 4000 ≤ 26300 && !s.risePending then beginRamp f r false s else s
  | _ => s

def execWakeAdmit (f : Nat) : State → Host.Outcome State Fault Refusal := act (decide (f < 12)) (wakeAdmit f)

/-- WAKE_ADMIT_TIMEOUT: after 50 µs the slow ramp begins. -/
def wakeAdmitTimeout (f : Nat) (s : State) : State :=
  match (s.fieldPwr f).wake with
  | some (r, .waiting, _, t) => if t + 50000 ≤ s.now then beginRamp f r true s else s
  | _ => s

def execWakeAdmitTimeout (f : Nat) : State → Host.Outcome State Fault Refusal := act (decide (f < 12)) (wakeAdmitTimeout f)

/-- WAKE_RAMP_DONE: the switch is closed and the regulators bring VCORE to target. A ramp that pauses for a droop is not at its end
(R383). -/
def wakeRampDone (f : Nat) (s : State) : State :=
  match (s.fieldPwr f).wake with
  | some (r, .ramp, slow, _) => if s.rampPaused f then s else s.modField f fun x => { x with wake := some (r, .regulate, slow, s.now) }
  | _ => s

def execWakeRampDone (f : Nat) : State → Host.Outcome State Fault Refusal := act (decide (f < 12)) (wakeRampDone f)

/-- WAKE_REGULATED: the oscillator starts at GRADE_NOW, its throttle level at the device cap level, and the stores fill (R159, R362, R382). -/
def wakeRegulated (f : Nat) (s : State) : State :=
  match (s.fieldPwr f).wake with
  | some (r, .regulate, slow, _) =>
    if (s.region r).pwr != .waking then s
    else
    let s1 := (s.modField f fun x => { x with wake := some (r, .fill, slow, s.now) }).modRegion r fun q =>
      { q with pwr := .running, clk := .running, grade := s.clock.grade, level := 0, owedEdges := 0, ran := true, fresh := true }
    foldState (regionPans r) (fun t p => beginStoreFill p t) s1
  | _ => s

def execWakeRegulated (f : Nat) : State → Host.Outcome State Fault Refusal := act (decide (f < 12)) (wakeRegulated f)

/-- A reserve that carries no row is held with its regulators in standby and its clock stopped (R25). -/
def holdReserve (r : Nat) (s : State) : State :=
  if (s.topoOf (r / 9)).phys.getD (r % 9) 2 = 1 then s.modRegion r fun q => { q with clk := .stopped, standby := true } else s

/-- The region's fill has ended: its wake is over, the next one's turn comes, and work that waited for it begins. -/
def wakeFilled (r : Nat) (s : State) : State :=
  match (s.fieldPwr (r / 9)).wake with
  | some (q, .fill, _, _) =>
    if q = r && !((regionPans r).any fun p => (s.pan p).store.fillBusy) then kickAll (holdReserve r (s.modField (r / 9) (nextWake s.now))) else s
  | _ => s

/-! ### Failing phases and clocks (R27, R374, R376) -/

/-- PHASE_FAIL. -/
def phaseFail (d ph : Nat) (s : State) : State :=
  if d < 108 then
    let q := s.region d
    if bit q.phases ph then s
    else
      let q1 : Region := { q with phases := q.phases + 2 ^ ph }
      let n := q1.failedPhases
      report { type := RecType.power, cls := if 5 ≤ n then 4 else 0, code := n, unitCls := UnitCls.domain, unitIdx := d
               detail := q1.phases, jobs := s.jobMask d }
        ((if 5 ≤ n then faultInWake d else id) (s.modRegion d fun _ => { q1 with limited := n == 3 || n == 4 }))
  else
    let v := look 0 s.power.domPhases d
    if bit v ph then s
    else
      let v1 := v + 2 ^ ph
      let n := (bitList 6 v1).length
      report { type := RecType.power, cls := if n = 3 then 7 else 0, code := n, unitCls := UnitCls.domain, unitIdx := d
               detail := v1, jobs := if n = 3 then s.allJobs else 0 } (s.modPower fun p => { p with domPhases := put d v1 p.domPhases })

def execPhaseFail (d ph : Nat) : State → Host.Outcome State Fault Refusal :=
  act ((decide (d < 108) && decide (ph < 12)) || (decide (108 ≤ d) && decide (d < 136) && decide (ph < 6))) (phaseFail d ph)

/-- REGION_CLOCK_FAIL (R27): reported as a region fault (log 18); the pans stop with their clock. -/
def regionClockFail (r : Nat) (s : State) : State :=
  if (s.region r).fenced then s
  else
    let s1 := foldState (regionPans r) (fun t p => stop p t) s
    report { type := RecType.power, cls := 4, unitCls := UnitCls.domain, unitIdx := r, detail := (s.region r).phases, jobs := s.jobMask r }
      (faultInWake r (s1.modRegion r fun q => { q with clk := .stopped }))

def execRegionClockFail (r : Nat) : State → Host.Outcome State Fault Refusal := act (decide (r < 108)) (regionClockFail r)

/-! ### Budgets (R390 to R392) -/

/-- The keeper keeps the latest report of a member. -/
def keepReport (dev slack now : Nat) (b : Budget) : Budget :=
  { b with reports := (b.reports.filter fun r => r.1 != dev) ++ [(dev, slack, now)] }

/-- Slack in 1/10,000 of an interval (R391). -/
def slackOf (idle interval : Nat) : Nat := min 10000 (idle * 10000 / interval)

/-- BUDGET_REPORT (R391): average power and slack of an interval go to the keeper, which keeps its own. -/
def budgetReport (watts interval : Nat) (s : State) : State :=
  let b := s.power.budget
  if !b.joined then s
  else s.modPower fun p =>
    let slack := slackOf b.idle interval
    let b1 := { b with slack := slack, idle := 0, seq := (b.seq + 1) % 2 ^ 32 }
    let m : BudgetMsg := { kind := 1, group := b.group, device := s.deviceId, hi := watts, lo := slack, seq := b.seq }
    { p with budget := if b.keeper then keepReport s.deviceId slack s.now b1 else { b1 with sent := b1.sent ++ [(b.keeperId, m)] } }

def execBudgetReport (watts interval : Nat) : State → Host.Outcome State Fault Refusal :=
  act (decide (watts < 65536) && decide (0 < interval)) (budgetReport watts interval)

/-- Put a report into the order of R392: slack highest first, ties by lower device id. -/
def insertSlack (x : Nat × Nat) : List (Nat × Nat) → List (Nat × Nat)
  | [] => [x]
  | y :: ys => if y.2 < x.2 || (y.2 == x.2 && decide (x.1 < y.1)) then x :: y :: ys else y :: insertSlack x ys

/-- The limit of a member. -/
def limitOf (ms : List (Nat × Nat × Nat × Nat)) (d : Nat) : Nat × Nat × Nat :=
  match ms.find? fun m => m.1 == d with | some m => m.2 | none => (0, 0, 0)

/-- Change a member's limit. -/
def setLimit (d l : Nat) (ms : List (Nat × Nat × Nat × Nat)) : List (Nat × Nat × Nat × Nat) :=
  ms.map fun m => if m.1 = d then (m.1, m.2.1, m.2.2.1, l) else m

/-- One donor and receiver of R392. -/
def moveBudget (d : Nat) (ms : List (Nat × Nat × Nat × Nat)) (a b : Nat × Nat) : List (Nat × Nat × Nat × Nat) :=
  let (loA, _, limA) := limitOf ms a.1
  let (_, hiB, limB) := limitOf ms b.1
  if 500 + b.2 < a.2 && loA + d ≤ limA && limB + d ≤ hiB then setLimit b.1 (limB + d) (setLimit a.1 (limA - d) ms) else ms

/-- The reassigned limits of R392. -/
def reassign (now : Nat) (b : Budget) : List (Nat × Nat × Nat × Nat) :=
  let live := ((b.reports.filter fun r => decide (now < r.2.2 + 30000000) && b.members.any fun m => m.1 == r.1).map fun r => (r.1, r.2.1)).foldr insertSlack []
  let n := live.length
  (List.range (n / 2)).foldl (fun ms k => moveBudget (b.total / 50) ms (live.getD k (0, 0)) (live.getD (n - 1 - k) (0, 0))) b.members

/-- Limits go out to the members of a list; this device takes its own at its next evaluation. -/
def sendLimits (ms : List (Nat × Nat × Nat × Nat)) (s : State) : State :=
  foldState ms (fun t m =>
    if m.1 = t.deviceId then t.modPower fun p => { p with newLimit := some m.2.2.2 }
    else t.modPower fun p => { p with budget := { p.budget with
      seq := (p.budget.seq + 1) % 2 ^ 32
      sent := p.budget.sent ++ [(m.1, { kind := 2, group := p.budget.group, device := t.deviceId, lo := m.2.2.2, seq := p.budget.seq })] } }) s

/-- BUDGET_REASSIGN (R392). -/
def budgetReassign (s : State) : State :=
  let b := s.power.budget
  if !b.keeper then s
  else
    let ms := reassign s.now b
    sendLimits (ms.filter fun m => limitOf b.members m.1 != m.2) (s.modPower fun p => { p with budget := { p.budget with members := ms } })

def execBudgetReassign : State → Host.Outcome State Fault Refusal := act true budgetReassign

/-- BUDGET_LIMIT_RECEIVE (R391, R392): a limit from the keeper is applied at the next evaluation; a report is kept by the
keeper. -/
def budgetLimit (m : BudgetMsg) (s : State) : State :=
  let b := s.power.budget
  if !b.joined || b.group ≠ m.group then s
  else if m.kind = 2 && m.device = b.keeperId then s.modPower fun p => { p with newLimit := some m.lo }
  else if m.kind = 1 && b.keeper then s.modPower fun p => { p with budget := keepReport m.device m.lo s.now p.budget }
  else s

def execBudgetLimitReceive (m : BudgetMsg) : State → Host.Outcome State Fault Refusal :=
  act (decide (m.device < 8192) && decide (m.hi < 65536) && decide (m.lo < 65536)) (budgetLimit m)

/-! ### Energy (R394) -/

/-- The job that a physical region's energy is charged to: the one that holds the logical region it carries, while it runs or wakes. An idle
reserve, a spare, and a rested, gated or fenced region are the device's. -/
def State.energyOwner (s : State) (r : Nat) : Option Nat :=
  let q := s.region r
  if q.pwr == .rested || q.pwr == .gated || q.fenced then none
  else match s.logicalRegion r with
    | some l => (s.jobsOfRegion l).head?
    | none => none

/-- Energy of the device account. -/
def chargeDevice (uj : Nat) (s : State) : State := s.modPower fun p => { p with devUj := (p.devUj + uj) % 2 ^ 64 }

/-- A shared domain's energy, divided among its jobs in proportion to their units (R394). What whole microjoules leave over, and the
energy of a domain that carried no job's units, is the device's (log 121). -/
def chargeDomain (d : DomainEnergy) (s : State) : State :=
  let mine := d.units.filter fun e => (s.job? e.1).isSome
  let total := sumNat (mine.map (·.2))
  let part (u : Nat) : Nat := d.uj * u / total
  let s1 := foldState mine (fun t e => t.modJob e.1 fun x => { x with sharedUj := x.sharedUj + part e.2 }) s
  chargeDevice (d.uj - sumNat (mine.map fun e => part e.2)) s1

/-- A physical region's energy. -/
def chargeRegion (e : Nat × Nat) (s : State) : State :=
  match s.energyOwner e.1 with
  | some j => s.modJob j fun x => { x with regionUj := x.regionUj + e.2 }
  | none => chargeDevice e.2 s

/-- ENERGY_CHARGE: the region energies in µJ by physical region, the shared domains', and what is the device's alone. -/
def energyCharge (regions : List (Nat × Nat)) (shared : List DomainEnergy) (dev : Nat) (s : State) : State :=
  let s2 := foldState shared (fun t d => chargeDomain d t) (foldState regions (fun t e => chargeRegion e t) s)
  let charged (x : Job) : Job := { x with chargedTo := s.now }
  chargeDevice dev { s2 with jobs := s2.jobs.map fun (e : Nat × Job) => (e.1, charged e.2) }

def execEnergyCharge (regions : List (Nat × Nat)) (shared : List DomainEnergy) (dev : Nat) : State → Host.Outcome State Fault Refusal :=
  act (regions.all (fun e => decide (e.1 < 108)) && shared.all fun d => d.units.all fun e => decide (e.1 < 16)) (energyCharge regions shared dev)

end Sys2Proof.Machine
end

