-- ==== Sys2Proof/Machine/Issue.lean ====
section
/-! DEFINITION. The issue of bundles (R103 to R106): decoding the bundle at the PC, stalls, waits, faults, and the effects of the
four slots; one command per operation of each slot. -/

namespace Sys2Proof.Machine
open Sys2Proof

/-! ### The feed and drain slots (R108 to R111, R120, R121) -/

/-- The feed slot enters its queue; `q0` is the sequencer as it stood before the bundle (R104). A WFEED that issues before any TILE has
no tile context to take its generators and mode from; it may be begun after one (R114), so they are free values (log 14). A
chained WFEED takes the next chained slot numbers. -/
def feedEffect (p : Nat) (f : FeedOp) (q0 : Seq) (s : State) : State :=
  match f with
  | .wfeed copy start last zero h w n =>
    let (g, m, na, ch, s1) : Nat × Nat × Nat × Bool × State := match q0.tile with
      | some t => (t.wag, t.mode, t.nag, t.chained, s)
      | none => (s.draw.1 % 4, 1 + s.draw.1 / 4 % 3, s.draw.1 / 12 % 4, false, s.draw.2)
    let r : WestRun :=
      { id := q0.feedSeq, copy := copy, start := start, last := last, zero := zero, h := h, w := w, n := n, wag := g, mode := m
        nag := na, chained := ch, chainNo := q0.chainNext }
    s1.modSeq p fun q =>
      { q with feedq := q.feedq ++ [.run r q0.tileArmed (q0.cycle + 2)], feedSeq := q.feedSeq + 1, tileArmed := false
               chainNext := if ch then q.chainNext + n else q.chainNext }
  | .hload copy dp =>
    s.modSeq p fun q =>
      { q with northq := q.northq ++ [{ id := q0.feedSeq, copy := copy, dp := dp, readyAt := q0.cycle + 2 }], feedSeq := q.feedSeq + 1 }
  | .tend => s.modSeq p fun q => { q with feedq := q.feedq ++ [.tend (q0.cycle + 2)] }
  | _ => s

/-- The drain slot makes an assignment. A DOUT before any TILE names a generator the manual does not give: a free value
(log 14). -/
def drainEffect (p : Nat) (d : DrainOp) (q0 : Seq) (s : State) : State :=
  match d with
  | .dout sig sem n =>
    let (g, s1) := match q0.tile with
      | some t => (t.dag, s)
      | none => (s.draw.1 % 4, s.draw.2)
    s1.modSeq p fun q => { q with drainq := q.drainq ++ [.dout n g sig sem] }
  | .drld sag dag n desc => s.modSeq p fun q => { q with drainq := q.drainq ++ [.drld n sag dag desc none] }
  | _ => s

/-- The results of an operation of more than one cycle are in flight until their cycle (R100, R123), `late` cycles past the operation's
latency: the registers keep what they hold, which is `q0`'s, and the results wait. -/
def inFlight (r : RakeOp) (late : Nat) (q0 q : Seq) : Seq :=
  match rakePending r with
  | [] => q
  | ps => { q with v := q0.v, q := q0.q
                   pend := q.pend ++ ps.map fun e => { reg := e.1, at_ := q0.cycle + e.2 + late, v := getV q e.1, q := getQ q (e.1 - 16) } }

/-- The cycles past its second in which an RLD served at once reads: the port takes one unit in a cycle (R124, R142). -/
def loadDelay (p : Nat) (r : RakeOp) (s : State) : Nat :=
  if r.rop = 0x01 then look 0 (s.pan p).store.served 0x8 - ((s.pan p).seq.cycle + 1) else 0

/-- The rake slot, its results in flight as their latency has it; RNOP does nothing, and an RLD that waits for its bank has no result
yet (R124). -/
def rakeSlotEffect (p : Nat) (r : RakeOp) (q0 : Seq) (s : State) : Except SlotFault State :=
  if r.rop = 0 then .ok s
  else match rakeEffect p r s with
    | .error e => .error e
    | .ok t => .ok (t.modSeq p fun q => if q0.nextLoad < q.nextLoad then q else inFlight r (loadDelay p r t) q0 q)

/-! ### The move slot (R127 to R133, R115, R116, R162, R203) -/

/-- What a move operation does to the state, or its fault. -/
abbrev MovePlan := Except SlotFault (State → State)

/-- A fault of the move slot. -/
def moveFault (code detail : Nat) (s : State) : MovePlan := .error { code := code, detail := detail, after := s }

/-- What reading runs of bytes does to the state: every unit touched is decoded, and counted where its bank is not awake (R151, R169). -/
def touchRuns (p : Nat) (runs : List (Nat × Nat)) (s : State) : State := runs.foldl (fun t r => (localRead p r.1 r.2 t).2.2) s

/-- Read a descriptor and use it; a marked unit stops the pan (R158). The plan reads it as it takes effect. -/
def withDesc (p a n : Nat) (s : State) (use : List Byte → State → MovePlan) : MovePlan :=
  let (d, m, t) := localRead p a n s
  if m then moveFault PanCode.poison 3 t
  else match use d t with
    | .error e => .error e
    | .ok f => .ok fun u => f (touchRuns p [(a, n)] u)

/-- A little-endian field of a descriptor. -/
def word (d : List Byte) (o n : Nat) : Nat := leNat ((d.drop o).take n)

/-- AGLD (R131), with CHAIN_BRINE for a generator of an open chained tile (R117). -/
def planAgld (p ag a : Nat) (s : State) : MovePlan :=
  withDesc p a 64 s fun d t =>
    match agOf d with
    | none => moveFault PanCode.illegalOp 3 t
    | some g =>
      let q := (s.pan p).seq
      if g.brine && q.tileOpen && q.openPair.contains ag then moveFault PanCode.chainBrine ag t
      else .ok fun u => u.modSeq p fun q => { q with ags := put ag g q.ags }

/-- The tile context of a descriptor and its two headers, or the fault of R115 and R116. A K below 32 or not a multiple of 32 has no
fault in the manual: the model takes G as ⌊K / 32⌋ and installs the tile (DESIGN CHOICE, log 90). -/
def tileOf (d w a : List Byte) (copy : Bool) : Except (Nat × Nat) TileCtx :=
  let c := word d 0 4
  let mode := c % 4
  let fmts := (bits (word w 0 4) 7 0, bits (word a 0 4) 7 0)
  let fits := if mode = 1 then fmts == (1, 1) else if mode = 2 then fmts == (2, 1) else fmts == (2, 2)
  let kw := word w 4 4
  let ka := word a 4 4
  if kw ≠ ka then .error (PanCode.tileK, 0)
  else if 2097152 < kw then .error (PanCode.tileK, 1)
  else if !fits then .error (PanCode.tileK, 2)
  else .ok { mode := mode, b := baseExponent mode kw (signed 8 (word w 0xC 1)) (signed 8 (word a 0xC 1)), len := bits c 15 12 + 1
             window := bit c 11, wag := bits c 5 4, nag := bits c 7 6, dag := bits c 3 2, ddesc := word d 0xC 4, chained := bit c 16, copy := copy }

/-- A tile descriptor that fails its own check (R115). -/
def tileBroken (d : List Byte) : Bool :=
  let c := word d 0 4
  bits c 31 17 != 0 || bits c 10 8 != 0 || c % 4 == 0 || decide (2 ^ 23 ≤ word d 4 4) || decide (2 ^ 23 ≤ word d 8 4) ||
  decide (2 ^ 23 ≤ word d 0xC 4) || word d 4 4 % 64 != 0 || word d 8 4 % 64 != 0 || word d 0xC 4 % 32 != 0 || word d 0x10 48 != 0

/-- Read and check what TILE names, without installing it (R115, R116). -/
def readTile (p a : Nat) (copy : Bool) (s : State) : Except SlotFault TileCtx :=
  let (d, m, s1) := localRead p a 64 s
  if m then .error { code := PanCode.poison, detail := 3, after := s1 }
  else if tileBroken d then .error { code := PanCode.tileState, detail := 2, after := s1 }
  else
    let (w, m1, s2) := localRead p (word d 4 4) 64 s1
    let (h, m2, s3) := localRead p (word d 8 4) 64 s2
    if m1 || m2 then .error { code := PanCode.poison, detail := 3, after := s3 }
    else match tileOf d w h copy with
      | .error e => .error { code := e.1, detail := e.2, after := s3 }
      | .ok t => .ok t

/-- Install a tile context (R112, R116). -/
def installTile (p : Nat) (t : TileCtx) (s : State) : State :=
  s.modPan p fun x =>
    { x with seq := { x.seq with tile := some t, tileSeen := true, tileArmed := true }, lat := { x.lat with chained := t.chained } }

/-- The window a descriptor describes, or none for a reserved value (R162). -/
def windowOf (d : List Byte) : Option Window :=
  let b := word d 0 4
  let n := word d 4 4
  if 2 ^ 23 ≤ b ∨ 2 ^ 24 ≤ n ∨ 2 ^ 28 ≤ word d 8 4 ∨ 2 ^ 28 ≤ word d 0xC 4 ∨ word d 0x10 48 ≠ 0 ∨ b % 64 ≠ 0 ∨ n = 0 ∨ n % 64 ≠ 0 ∨
      2 ^ 23 < b + n then none
  else some { base := b, len := n, srcMatch := word d 8 4, srcMask := word d 0xC 4 }

/-- A reserved value in the CTRL word of a haul descriptor (R203). -/
def haulCtrlReserved (c : Nat) : Bool := bits c 29 24 != 0 || bits c 21 20 == 3 || bits c 19 8 != 0 || decide (15 < bits c 7 0)

/-- The bytes the move slot reads through port 0x6 (R142): its descriptor, and a TILE's two headers. -/
def moveRuns (p : Nat) (m : MoveOp) (s : State) : List (Nat × Nat) :=
  match m with
  | .agld _ a | .wopen _ a => [(a, 64)]
  | .hstart _ a => [(a, 32)]
  | .tile _ a =>
    let d := (localRead p a 64 s).1
    (a, 64) :: (if tileBroken d then [] else [(word d 4 4, 64), (word d 8 4, 64)])
  | _ => []

/-- What the move slot does; `s` is the state before the bundle (R104). -/
def movePlan (p : Nat) (m : MoveOp) (s : State) : MovePlan :=
  let q := (s.pan p).seq
  match m with
  | .lset lc v => .ok fun u => u.modSeq p fun q => { q with lcs := put lc v q.lcs }
  | .loop lc _ => .ok fun u => u.modSeq p fun q => { q with lcs := put lc (look 0 q.lcs lc - 1) q.lcs }
  | .halt => .ok fun u => u.modSeq p fun q => { q with mode := .halted }
  | .agld ag a => planAgld p ag a s
  | .tile copy a => match readTile p a copy s with
    | .error e => .error e
    | .ok t => .ok fun u => installTile p t (touchRuns p (moveRuns p m u) u)
  | .notice => .ok fun u => giveNotice p (u.modSeq p fun q => { q with notice := some q.cycle })
  | .swait sem n => .ok fun u => u.modSeq p fun q => { q with sems := put sem (look 0 q.sems sem - n) q.sems }
  | .ssig sem n =>
    let v := look 0 q.sems sem + n
    if 65535 < v then moveFault PanCode.semOverflow sem s else .ok fun u => u.modSeq p fun q => { q with sems := put sem v q.sems }
  | .notify t n =>
    .ok (sendFrom (meshX p) (meshY p)
      { op := Op.urgWr, vc := 0, addr := (look 0 q.ntt t : W64).toNat, src := s.haulSrc (.pan p 0), bytes := 4, data := leBytes n 4
        marks := [false] })
  | .wopen w a =>
    withDesc p a 64 s fun d t => match windowOf d with
      | none => moveFault PanCode.illegalOp 3 t
      | some v => .ok fun u => u.modStore p fun st => { st with winPend := st.winPend ++ [(q.cycle + 2, w, some v)] }
  | .wclose w => .ok fun u => u.modStore p fun st => { st with winPend := st.winPend ++ [(q.cycle + 1, w, none)] }
  | .hstart ch a =>
    withDesc p a 32 s fun d t =>
      if haulCtrlReserved (word d 0x14 4) then moveFault PanCode.illegalOp 3 t
      else .ok fun u => haulStart (.pan p ch) (u.modHaul (.pan p ch) fun h =>
        { h with src := word d 0 8, dst := word d 8 8, count := word d 0x10 4, ctrl := word d 0x14 4 % 2 ^ 26 })
  | .done share => .ok fun u => u.modSeq p fun q => { q with doneShare := some share }
  | _ => .ok id

/-- The address the PC goes to (R127); none for HALT, which sends it nowhere. -/
def nextPc (m : MoveOp) (q : Seq) : Option Nat :=
  match m with
  | .loop lc t => some (if 2 ≤ look 0 q.lcs lc then t else q.pc + 1)
  | .jmp t => some t
  | .halt => none
  | _ => some (q.pc + 1)

/-- The issue cost of a bundle (R105). -/
def issueCost (m : MoveOp) : Nat :=
  match m with
  | .agld _ _ | .wopen _ _ | .hstart _ _ => 2
  | .tile _ _ => 4
  | .spin n => 1 + n
  | _ => 1

/-! ### Issue (R104, R105, R137) -/

/-- The fault a bundle keeps (R137): the highest class, then the lowest code; of two with one class and code the lower slot's, as R137
says for ILLEGAL_OP alone (DESIGN CHOICE for the other codes, log 106). -/
def keepFault (a b : SlotFault × Nat) : SlotFault × Nat :=
  let ka := (panClass a.1.code, a.1.code)
  let kb := (panClass b.1.code, b.1.code)
  if kb.1 < ka.1 ∨ (kb.1 = ka.1 ∧ kb.2 < ka.2) then b else a

/-- A DONE that has taken effect is reported to Hakar (R130, R325), which may also let a rest begin (R385). -/
def afterDone (p : Nat) (m : MoveOp) (s : State) : State :=
  match m with
  | .done share => restOnDone (regionOf p) (panDone p share s)
  | _ => s

/-- The faults that arise from the slots of a bundle in the cycle it issues, each with its slot (R103, R127, R137): a reserved value,
the rake slot's, the address the PC would go to, and the move slot's. A fault of a rake operation at issue is raised by slot 2 with
ASYNC 0, though R137 names the rake among the asynchronous sources too (DESIGN CHOICE, log 86). -/
def bundleFaults (p : Nat) (b : Bundle) (rake : Except SlotFault State) (plan : MovePlan) (s : State) : List (SlotFault × Nat) :=
  let q := (s.pan p).seq
  let (_, _, r, m) := slotsOf b
  (match reservedSlot b with | some i => [({ code := PanCode.illegalOp, detail := i, after := s }, i)] | none => []) ++
  (if r.isReserved then [] else match rake with | .error e => [(e, 2)] | .ok _ => []) ++
  (if m = .reserved then []
   else (match nextPc m q with
     | some a => if q.progLen ≤ a then [({ code := PanCode.pcRange, detail := a, after := s }, 3)] else []
     | none => []) ++ (match plan with | .error g => [(g, 3)] | .ok _ => []))

/-- All four slots take effect in this cycle, the move slot as planned, or the bundle faults and none does (R104, R137). -/
def takePlan (p : Nat) (b : Bundle) (plan : MovePlan) (s : State) : State :=
  let q := (s.pan p).seq
  let (f, d, r, m) := slotsOf b
  let rake := rakeSlotEffect p r q s
  match bundleFaults p b rake plan s, rake, plan with
  | [], .ok s1, .ok run =>
    let s2 := run (drainEffect p d q (feedEffect p f q s1))
    let s3 := (s2.modSeq p fun x => { x with pc := (nextPc m q).getD x.pc, nextIssue := q.cycle + issueCost m }).bumpPan p PanCtr.bundle 1
    afterDone p m s3
  | e :: es, _, _ => let k := es.foldl keepFault e; panFault p k.1.code k.1.detail (some k.2) k.1.after
  | _, _, _ => s

/-- All four slots take effect in this cycle, or the bundle faults and none does. -/
def takeEffect (p : Nat) (b : Bundle) (s : State) : State := takePlan p b (movePlan p (slotsOf b).2.2.2 s) s

/-- The sequencer waits, its bundle held (R101, R104). -/
def beginWait (p : Nat) (w : Wait) (s : State) : State := s.modSeq p fun q => { q with mode := .waiting, wait := w, waited := 0 }

/-- Issue a decoded bundle in RUNNING: a reserved value stops the pan (R103), a hazard stalls it and the cycle is counted as it passes
(R106), descriptor reads wait for their banks (R146), SWAIT, FENCE and a chained TILE may wait (R101), and otherwise it takes
effect. An unchained TILE while other pans wait at the rendezvous disagrees with theirs (R95). -/
def issueNow (p : Nat) (b : Bundle) (s0 : State) : State :=
  if (reservedSlot b).isSome then takeEffect p b s0
  else if stalls (s0.pan p) b then s0
  else
    let m := (slotsOf b).2.2.2
    let runs := moveRuns p m s0
    let (granted, s1) := if runs.isEmpty then (true, s0) else descReads p .sequencer (s0.pan p).seq.descServed runs s0
    if !granted then s1
    else
      let s := if runs.isEmpty then s1 else s1.modSeq p fun q => { q with descServed := false }
      match m with
      | .swait sem n => if n ≤ look 0 (s.pan p).seq.sems sem then takeEffect p b s else beginWait p (.swait sem n) s
      | .fence => if s.fenceClear p s.issuedOuts then takeEffect p b s else beginWait p (.fence s.issuedOuts) s
      | .tile copy a =>
        match readTile p a copy s with
        | .ok t =>
          if t.chained then beginWait p (.rendezvous t) (touchRuns p runs s)
          else if (s.rendezvous (regionOf p)).isEmpty then takeEffect p b s else chainDisagree p s
        | .error _ => takeEffect p b s
      | _ => takeEffect p b s

/-- The pan's sequencer issues its next bundle, when it can issue one and that bundle is of the commanded kind. -/
def issueIf (p : Nat) (want : Bundle → Bool) (s : State) : State :=
  inCycle p (fun t => let b := t.bundleAt p; if t.canIssue p && want b then issueNow p b t else t) s

/-- A bundle whose feed slot is of a kind. -/
def feedIs (f : FeedOp → Bool) (b : Bundle) : Bool := f (slotsOf b).1
/-- A bundle whose drain slot is of a kind. -/
def drainIs (f : DrainOp → Bool) (b : Bundle) : Bool := f (slotsOf b).2.1
/-- A bundle whose rake slot has an opcode. -/
def rakeIs (rop : Nat) (b : Bundle) : Bool := (slotsOf b).2.2.1.rop == rop && !(slotsOf b).2.2.1.isReserved
/-- A bundle whose move slot is of a kind. -/
def moveIs (f : MoveOp → Bool) (b : Bundle) : Bool := f (slotsOf b).2.2.2

/-- A command of a pan's sequencer. -/
def issueAct (p : Nat) (want : Bundle → Bool) : State → Host.Outcome State Fault Refusal := act (decide (p < 1620)) (issueIf p want)

/-! ### The commands of the feed and drain slots -/

/-- FNOP: a bundle with no feed operation (R108). -/
def execFnop (p : Nat) : State → Host.Outcome State Fault Refusal := issueAct p (feedIs (· == .nop))

/-- WFEED (R111): a west run enters the feed order. -/
def execWfeed (p : Nat) : State → Host.Outcome State Fault Refusal := issueAct p (feedIs fun f => match f with | .wfeed .. => true | _ => false)

/-- HLOAD (R110): a held load enters the north order. -/
def execHload (p : Nat) : State → Host.Outcome State Fault Refusal := issueAct p (feedIs fun f => match f with | .hload .. => true | _ => false)

/-- TEND (R112) enters the feed order. -/
def execTend (p : Nat) : State → Host.Outcome State Fault Refusal := issueAct p (feedIs (· == .tend))

/-- DNOP: a bundle with no drain operation (R119). -/
def execDnop (p : Nat) : State → Host.Outcome State Fault Refusal := issueAct p (drainIs (· == .nop))

/-- DOUT (R120): entries are assigned to the drain's generator. -/
def execDout (p : Nat) : State → Host.Outcome State Fault Refusal := issueAct p (drainIs fun d => match d with | .dout .. => true | _ => false)

/-- DRLD (R121): a reload of spilled grains is queued. -/
def execDrld (p : Nat) : State → Host.Outcome State Fault Refusal := issueAct p (drainIs fun d => match d with | .drld .. => true | _ => false)

/-- DWAIT (R122): the bundle stalls until earlier drain work is written. -/
def execDwait (p : Nat) : State → Host.Outcome State Fault Refusal := issueAct p (drainIs (· == .dwait))

/-! ### The commands of the rake slot (R123 to R125) -/

/-- RNOP (R123, ROP 0x00). -/
def execRnop (p : Nat) : State → Host.Outcome State Fault Refusal := issueAct p (rakeIs 0x00)

/-- RLD (R123, ROP 0x01). -/
def execRld (p : Nat) : State → Host.Outcome State Fault Refusal := issueAct p (rakeIs 0x01)

/-- RST (R123, ROP 0x02). -/
def execRst (p : Nat) : State → Host.Outcome State Fault Refusal := issueAct p (rakeIs 0x02)

/-- RADDS (R123, ROP 0x03). -/
def execRadds (p : Nat) : State → Host.Outcome State Fault Refusal := issueAct p (rakeIs 0x03)

/-- RSUBS (R123, ROP 0x04). -/
def execRsubs (p : Nat) : State → Host.Outcome State Fault Refusal := issueAct p (rakeIs 0x04)

/-- RMIN (R123, ROP 0x05). -/
def execRmin (p : Nat) : State → Host.Outcome State Fault Refusal := issueAct p (rakeIs 0x05)

/-- RMAX (R123, ROP 0x06). -/
def execRmax (p : Nat) : State → Host.Outcome State Fault Refusal := issueAct p (rakeIs 0x06)

/-- RMSH (R123, ROP 0x07). -/
def execRmsh (p : Nat) : State → Host.Outcome State Fault Refusal := issueAct p (rakeIs 0x07)

/-- RSHRV (R123, ROP 0x08). -/
def execRshrv (p : Nat) : State → Host.Outcome State Fault Refusal := issueAct p (rakeIs 0x08)

/-- RBC (R123, ROP 0x09). -/
def execRbc (p : Nat) : State → Host.Outcome State Fault Refusal := issueAct p (rakeIs 0x09)

/-- RQSET (R123, ROP 0x0A). -/
def execRqset (p : Nat) : State → Host.Outcome State Fault Refusal := issueAct p (rakeIs 0x0A)

/-- RREDQ (R123, ROP 0x0B). -/
def execRredq (p : Nat) : State → Host.Outcome State Fault Refusal := issueAct p (rakeIs 0x0B)

/-- RFOLD (R123, ROP 0x0C). -/
def execRfold (p : Nat) : State → Host.Outcome State Fault Refusal := issueAct p (rakeIs 0x0C)

/-- RDIV (R123, ROP 0x0D). -/
def execRdiv (p : Nat) : State → Host.Outcome State Fault Refusal := issueAct p (rakeIs 0x0D)

/-- REXP2 (R123, ROP 0x0E). -/
def execRexp2 (p : Nat) : State → Host.Outcome State Fault Refusal := issueAct p (rakeIs 0x0E)

/-- RSIG (R123, ROP 0x0F). -/
def execRsig (p : Nat) : State → Host.Outcome State Fault Refusal := issueAct p (rakeIs 0x0F)

/-- RPACK (R123, ROP 0x10). -/
def execRpack (p : Nat) : State → Host.Outcome State Fault Refusal := issueAct p (rakeIs 0x10)

/-- RBND (R123, ROP 0x11). -/
def execRbnd (p : Nat) : State → Host.Outcome State Fault Refusal := issueAct p (rakeIs 0x11)

/-- RXMAX (R123, ROP 0x12). -/
def execRxmax (p : Nat) : State → Host.Outcome State Fault Refusal := issueAct p (rakeIs 0x12)

/-- RSSQ (R123, ROP 0x13). -/
def execRssq (p : Nat) : State → Host.Outcome State Fault Refusal := issueAct p (rakeIs 0x13)

/-- RNVAR (R123, ROP 0x14). -/
def execRnvar (p : Nat) : State → Host.Outcome State Fault Refusal := issueAct p (rakeIs 0x14)

/-- RRSQ (R123, ROP 0x15). -/
def execRrsq (p : Nat) : State → Host.Outcome State Fault Refusal := issueAct p (rakeIs 0x15)

/-- RNPACK (R123, ROP 0x16). -/
def execRnpack (p : Nat) : State → Host.Outcome State Fault Refusal := issueAct p (rakeIs 0x16)

/-! ### The commands of the move slot -/

/-- MNOP: a bundle with no move operation (R126). -/
def execMnop (p : Nat) : State → Host.Outcome State Fault Refusal := issueAct p (moveIs (· == .nop))

/-- LSET sets a loop counter (R126). -/
def execLset (p : Nat) : State → Host.Outcome State Fault Refusal := issueAct p (moveIs fun m => match m with | .lset .. => true | _ => false)

/-- LOOP (R127). -/
def execLoop (p : Nat) : State → Host.Outcome State Fault Refusal := issueAct p (moveIs fun m => match m with | .loop .. => true | _ => false)

/-- JMP (R126). -/
def execJmp (p : Nat) : State → Host.Outcome State Fault Refusal := issueAct p (moveIs fun m => match m with | .jmp .. => true | _ => false)

/-- SPIN (R105). -/
def execSpin (p : Nat) : State → Host.Outcome State Fault Refusal := issueAct p (moveIs fun m => match m with | .spin .. => true | _ => false)

/-- HALT (R101). -/
def execHalt (p : Nat) : State → Host.Outcome State Fault Refusal := issueAct p (moveIs (· == .halt))

/-- AGLD (R131). -/
def execAgld (p : Nat) : State → Host.Outcome State Fault Refusal := issueAct p (moveIs fun m => match m with | .agld .. => true | _ => false)

/-- TILE (R115 to R117). -/
def execTile (p : Nat) : State → Host.Outcome State Fault Refusal := issueAct p (moveIs fun m => match m with | .tile .. => true | _ => false)

/-- NOTICE (R134). -/
def execNotice (p : Nat) : State → Host.Outcome State Fault Refusal := issueAct p (moveIs (· == .notice))

/-- SWAIT (R128). -/
def execSwait (p : Nat) : State → Host.Outcome State Fault Refusal := issueAct p (moveIs fun m => match m with | .swait .. => true | _ => false)

/-- SSIG (R128, R129). -/
def execSsig (p : Nat) : State → Host.Outcome State Fault Refusal := issueAct p (moveIs fun m => match m with | .ssig .. => true | _ => false)

/-- NOTIFY (R128). -/
def execNotify (p : Nat) : State → Host.Outcome State Fault Refusal := issueAct p (moveIs fun m => match m with | .notify .. => true | _ => false)

/-- FENCE (R130). -/
def execFence (p : Nat) : State → Host.Outcome State Fault Refusal := issueAct p (moveIs (· == .fence))

/-- WOPEN (R162, R163). -/
def execWopen (p : Nat) : State → Host.Outcome State Fault Refusal := issueAct p (moveIs fun m => match m with | .wopen .. => true | _ => false)

/-- WCLOSE (R163). -/
def execWclose (p : Nat) : State → Host.Outcome State Fault Refusal := issueAct p (moveIs fun m => match m with | .wclose .. => true | _ => false)

/-- HSTART (R203). -/
def execHstart (p : Nat) : State → Host.Outcome State Fault Refusal := issueAct p (moveIs fun m => match m with | .hstart .. => true | _ => false)

/-- DONE (R130, R325). -/
def execDone (p : Nat) : State → Host.Outcome State Fault Refusal := issueAct p (moveIs fun m => match m with | .done .. => true | _ => false)

/-- RESERVED_OPCODE (R103): the bundle's lowest reserved slot stops the sequencer. -/
def execReservedOpcode (p : Nat) : State → Host.Outcome State Fault Refusal := issueAct p fun b => (reservedSlot b).isSome

/-! ### The ends of waits (R101, R117, R122, R128, R130) -/

/-- A wait is satisfied: the sequencer runs again and its held bundle issues. -/
def resume (p : Nat) (s : State) : State :=
  let s1 := s.modSeq p fun q => { q with mode := .running, wait := .none, waited := 0 }
  issueIf p (fun _ => true) s1

/-- SWAIT_RESUME (R128). -/
def swaitResume (p : Nat) (s : State) : State :=
  let q := (s.pan p).seq
  match q.mode, q.wait with
  | .waiting, .swait sem n => if n ≤ look 0 q.sems sem then resume p s else s
  | _, _ => s

def execSwaitResume (p : Nat) : State → Host.Outcome State Fault Refusal := panAct p (swaitResume p)

/-- A FENCE whose earlier writes are acknowledged issues its bundle, whatever writes were issued since (R130). -/
def resumeFence (p : Nat) (s : State) : State :=
  let s1 := s.modSeq p fun q => { q with mode := .running, wait := .none, waited := 0 }
  if s1.canIssue p then takeEffect p (s1.bundleAt p) s1 else s1

/-- FENCE_COMPLETE (R130). -/
def fenceComplete (p : Nat) (s : State) : State :=
  let q := (s.pan p).seq
  match q.mode, q.wait with
  | .waiting, .fence n => if s.fenceClear p n then resumeFence p s else s
  | _, _ => s

def execFenceComplete (p : Nat) : State → Host.Outcome State Fault Refusal := panAct p (fenceComplete p)

/-- DWAIT_RELEASE (R122): the drain work before a stalled DWAIT has been written, so its bundle issues. -/
def execDwaitRelease (p : Nat) : State → Host.Outcome State Fault Refusal :=
  act (decide (p < 1620)) fun s =>
    if (s.pan p).seq.drainq.isEmpty && (s.pan p).lat.pipe.isEmpty then issueIf p (drainIs fun d => d == .dwait) s else s

/-- The generators of a chained tile that read brine, WAG before NAG (R95, R117). -/
def brineOf (q : Seq) (t : TileCtx) : Option Nat := [t.wag, t.nag].find? fun g => (look ({} : Ag) q.ags g).loaded && (look ({} : Ag) q.ags g).brine

/-- CHAIN_RENDEZVOUS (R117): all 14 pans wait with a chained TILE; they are compared, checked for brine, and their bundles take effect,
each installing the tile context that was compared. The chained slots of the tile are numbered alike in the 14 pans (R93). -/
def chainRendezvous (r : Nat) (s : State) : State :=
  let ws := s.rendezvous r
  match ws with
  | [] => s
  | (_, _, t0) :: _ =>
    if ws.length ≠ 14 then s
    else match ws.find? fun e => e.2.2.mode != t0.mode || e.2.2.copy != t0.copy with
      | some e => chainFaults r (ws.map fun w => (w.1, PanCode.chainMismatch, e.2.1)) s
      | none =>
        let bad := ws.filterMap fun e => (brineOf (s.pan e.1).seq e.2.2).map fun g => (e.1, PanCode.chainBrine, g)
        let base := ws.foldl (fun m e => max m (s.pan e.1).seq.chainNext) 0
        let s1 := foldState ws (fun t e => t.modPan e.1 fun x =>
          { x with lat := { x.lat with chained := true }, seq := { x.seq with chainNext := base } }) s
        if !bad.isEmpty then chainFaults r bad s1
        else foldState ws (fun t e =>
          if (t.pan e.1).seq.mode == .waiting then
            takePlan e.1 (t.bundleAt e.1) (.ok (installTile e.1 e.2.2))
              (t.modSeq e.1 fun q => { q with mode := .running, wait := .none, waited := 0 })
          else t) s1

def execChainRendezvous (r : Nat) : State → Host.Outcome State Fault Refusal :=
  act (decide (r < 108)) fun s => if s.clocked r then chainRendezvous r s else s

end Sys2Proof.Machine
end

