-- ==== Sys2Proof/Machine/Boot.lean ====
section
/-! DEFINITION. Power-on, resets, the assay, repairs and topology agreement (chapter 14), firmware selection (R475 to R478), and
the reset pins (R502 to R505). -/

namespace Sys2Proof.Machine
open Sys2Proof

/-! ### Beginning a bring-up (R397, R398, R417, R471) -/

/-- BOOT_STATUS takes a state. -/
def setBoot (b : BootState) (s : State) : State := s.modBoot fun x => { x with state := b }

/-- What BOOT_STATUS shows (R418). -/
def bootStatus (x : Boot) : BootState × Nat × Bool × Bool := (x.state, x.phase, x.warm, x.quick)

/-- A step of bring-up: a change of BOOT_STATUS signals vector 1 and raises the I3C notice (R426, R468). -/
def bootStep (f : State → State) (s : State) : State :=
  let t := f s
  if bootStatus t.boot = bootStatus s.boot then t else ibi 0x01 (signalVector 1 t)

/-- The module's self-tests of phase 1 (R471). -/
def selfTests (ok : Bool) (s : State) : State :=
  if ok then s else setBoot .refused (s.modSec fun c => { c with service := false })

/-- The device at the start of phase 1: everything at its reset value but what outlives a reset — the fuses, the boot flash,
the OTP, the strap, what the host holds, THERMTRIP_N while VAUX stays in range (R384, R501), and in a warm bring-up
TAKEOVER_COUNT (R424) and PORT_CTL (R279; DEDUCED, log 96). -/
def bringUp (warm vauxKept : Bool) (s : State) : State :=
  { pending := s.pending, hostMem := s.hostMem, draws := s.draws
    boot := { phase := 1, warm := warm, assayed := warm && s.boot.assayed, strap := s.boot.strap, fuses := s.boot.fuses
              bcrFlash := s.boot.bcrFlash, list := s.boot.list }
    sec := { vkd0 := s.sec.vkd0, vkd1 := s.sec.vkd1, revoke := s.sec.revoke, arb := s.sec.arb, slot0 := s.sec.slot0
             slot1 := s.sec.slot1, chosen := none, running := none }
    svc := { ident := none }
    hif := { coreRuns := false, takeovers := if warm then s.hif.takeovers else 0 }
    fin := { ports := if warm then s.fin.ports.map fun (e : Nat × Port) => (e.1, ({ enable := e.2.enable } : Port)) else [] }
    faults := { thermtripN := vauxKept && s.faults.thermtripN } }

/-- PWRGD_RELEASE (R397, R502, R503): a cold bring-up begins at phase 1, held there while RESET_N is low. -/
def pwrgdRelease (strap : Nat) (held selfTestOk vauxKept : Bool) (s : State) : State :=
  let s1 := (bringUp false vauxKept s).modBoot fun x => { x with strap := strap % 4, heldReset := held }
  if held then s1 else selfTests selfTestOk s1

/-- PWRGD_RELEASE. It is the one command an unpowered device takes; BOOT_STATUS changes from its Reset column, whatever it read
before power was lost (R4, R418). -/
def execPwrgdRelease (lands : PowerLands) (held selfTestOk : Bool) (s : State) : Host.Outcome State Fault Refusal :=
  .next (bootStep (fun _ => pwrgdRelease lands.strap held selfTestOk lands.vauxKept s) (s.modBoot fun _ => {}))

/-- All work stops at once, and ports and links go down (R397). -/
def powerLost (s : State) : State :=
  { s with powered := false
           net := { s.net with flight := [], combine := [], bulk := [] }
           outs := []
           fin := { s.fin with ports := s.fin.ports.map fun (e : Nat × Port) => (e.1, { e.2 with state := if e.2.state = 0 then 0 else 4 })
                               held := [] } }

/-- PWRGD_FALL (R397). -/
def execPwrgdFall : State → Host.Outcome State Fault Refusal := act true powerLost

/-- PLL_LOCK_LOSS (R505): FATAL_N is asserted and the device stops as though PWRGD had fallen; no record is written. -/
def execPllLockLoss : State → Host.Outcome State Fault Refusal :=
  act true fun s => powerLost (s.modFaults fun f => { f with fatalN := true })

/-- A warm bring-up begins, unless a cold one is held by RESET_N (R398, R503). -/
def warmReset (selfTestOk : Bool) (s : State) : State :=
  if s.boot.heldReset then s else selfTests selfTestOk (bringUp true true s)

/-- The end of a low on a reset pin (R503): 500 ns or less is ignored, 1 µs or more begins a warm bring-up; between them the
manual states neither (log 11). -/
def pinReset (lowNs : Nat) (selfTestOk : Bool) (s : State) : State :=
  if lowNs ≤ 500 then s
  else if 1000 ≤ lowNs then warmReset selfTestOk s
  else if Config.shortReset s.draws then warmReset selfTestOk { s with draws := s.draws + 1 }
  else { s with draws := s.draws + 1 }

/-- RESET_N_RELEASE: a held cold bring-up goes on, otherwise R503 decides. -/
def execResetNRelease (lowNs : Nat) (selfTestOk : Bool) : State → Host.Outcome State Fault Refusal :=
  act true (bootStep fun s =>
    if s.boot.heldReset then selfTests selfTestOk (s.modBoot fun x => { x with heldReset := false }) else pinReset lowNs selfTestOk s)

/-- PERST_N_ASSERT (R398, R503). -/
def execPerstNAssert (lowNs : Nat) (selfTestOk : Bool) : State → Host.Outcome State Fault Refusal := act true (bootStep (pinReset lowNs selfTestOk))

/-- PCIE_HOT_RESET (R398). -/
def execPcieHotReset (selfTestOk : Bool) : State → Host.Outcome State Fault Refusal := act true (bootStep (warmReset selfTestOk))

/-! ### Firmware (R476 to R478) -/

/-- A firmware slot. -/
def State.fwSlot (s : State) (k : Nat) : Option FwImage := if k = 0 then s.sec.slot0 else s.sec.slot1

/-- A firmware image is eligible (R476). -/
def State.eligible (s : State) (im : FwImage) : Bool :=
  im.magic == 0x4D314657 && im.version == 1 && im.stepping == 0xA1 && decide (im.keySlot < 2) && !bit s.sec.revoke im.keySlot &&
  im.keyDigest == (if im.keySlot = 0 then s.sec.vkd0 else s.sec.vkd1) && decide (s.sec.arb ≤ im.svn) && decide (im.svn ≤ 64) &&
  decide (im.bodyLen ≤ 12550144) && im.sigOk

/-- An eligible slot whose body has not failed. -/
def State.slotFits (s : State) (k : Nat) : Bool :=
  !s.sec.failed.contains k && (match s.fwSlot k with | some im => s.eligible im | none => false)

/-- The slot the boot ROM selects (R477 step 1): the higher H_SVN, then the higher H_BUILD, then slot 0. -/
def State.chooseSlot (s : State) : Option Nat :=
  match s.slotFits 0, s.slotFits 1, s.sec.slot0, s.sec.slot1 with
  | true, true, some a, some b => if a.svn < b.svn ∨ (a.svn = b.svn ∧ a.build < b.build) then some 1 else some 0
  | true, _, _, _ => some 0
  | false, true, _, _ => some 1
  | false, false, _, _ => none

/-- No slot passes: firmware refused (R477 step 5). -/
def refuseFirmware (s : State) : State := setBoot .refused (s.modSec fun c => { c with chosen := none })

/-- FIRMWARE_SELECT. -/
def firmwareSelect (s : State) : State :=
  if s.boot.state != .inProgress || s.boot.heldReset || s.boot.phase != 1 then s
  else match s.chooseSlot with
    | some k => (s.modSec fun c => { c with chosen := some k }).modBoot fun x => { x with phase := 2 }
    | none => refuseFirmware (s.modBoot fun x => { x with phase := 2 })

def execFirmwareSelect : State → Host.Outcome State Fault Refusal := act true (bootStep firmwareSelect)

/-- FIRMWARE_BODY_CHECK (R477 steps 2 to 5). -/
def firmwareBodyCheck (s : State) : State :=
  if s.boot.state != .inProgress || s.boot.phase != 2 then s
  else match s.sec.chosen with
    | none => s
    | some k => match s.fwSlot k with
      | none => s
      | some im =>
        if im.bodyDigest = im.headDigest then
          ((s.modSec fun c => { c with running := some k }).modHif fun h => { h with coreRuns := true }).modBoot fun x => { x with phase := 3 }
        else
          let s1 := s.modSec fun c => { c with failed := addOnce k c.failed }
          match s1.chooseSlot with
          | some o => s1.modSec fun c => { c with chosen := some o }
          | none => refuseFirmware s1

def execFirmwareBodyCheck : State → Host.Outcome State Fault Refusal := act true (bootStep firmwareBodyCheck)

/-- A BAR's type bits: 64-bit, and prefetchable or not. -/
def barType (b : Nat × Bool × Bool) : Nat := (if b.2.1 then 4 else 0) + (if b.2.2 then 8 else 0)

/-- The code of a payload or request size: log2 of the size over 128. -/
def sizeCode (n : Nat) : Nat := Nat.log2 (n / 128)

/-- The dwords of the configuration space that R420 fixes, each with its byte offset: the identities, the two BARs' types, the capability
pointer, the PCI Express and MSI-X capabilities, and the extended capabilities Advanced Error Reporting, Precision Time Measurement and Data
Object Exchange. The identities and field places are PCI Express's; where each capability stands is the model's (log 97). -/
def HostIf.configDwords (h : HostIf) : List (Nat × Nat) :=
  let c := h.config
  [(0x00, c.device * 65536 + c.vendor), (0x04, 2 ^ 20), (0x08, c.classCode * 256 + c.revision), (0x0C, flag (1 < c.functions) 23),
   (0x10, barType c.bar0), (0x14, 0), (0x18, barType c.bar2), (0x1C, 0), (0x34, 0x40),
   -- PCI Express: Device Capabilities (payload, Function Level Reset), Device Control (read request), Device Capabilities 3 (14-bit tags)
   (0x40, 0x00028010), (0x44, sizeCode c.maxPayload + flag c.functionLevelReset 28), (0x48, field (sizeCode c.maxReadRequest) 3 12),
   -- MSI-X: message control (table size, mask, enable), table and pending-bit array in BAR0 (R423)
   (0x80, 0x11 + field (c.msixVectors - 1) 11 16 + flag h.functionMask 30 + flag h.msixEnable 31), (0x84, 0x00100000), (0x88, 0x00101000)] ++
  (if c.advancedErrorReporting then [(0x100, 0x0001 + field 2 4 16 + field 0x148 12 20)] else []) ++
  (if c.ptmRequester then [(0x148, 0x001F + field 1 4 16 + field 0x154 12 20), (0x14C, flag c.ptmRequester 0 + flag c.ptmResponder 1)] else []) ++
  (if c.doeMailboxes = 0 then [] else [(0x154, 0x002E + field 1 4 16 + field 0x16C 12 20)]) ++
  [(0x16C, 0x002F + field 1 4 16), (0x170, flag (c.tagBits == 14) 1 + flag (c.tagBits == 14) 2)]

/-- CONFIG_REQUEST_RETRY (R417, R420): a configuration request; before phase 2 ends the port answers it with Configuration Request
Retry Status, later with what the space holds. -/
def configRequest (s : State) : State :=
  if s.boot.phase == 1 || s.boot.phase == 2 then s.modHif fun h => { h with configRetries := h.configRetries + 1 }
  else s.modHif fun h => { h with configReads := h.configReads ++ h.configDwords }

def execConfigRequestRetry : State → Host.Outcome State Fault Refusal := act true configRequest

/-- ARB_COMMIT (R478): after the first READY with an image, its ARB and KEY_REVOKE bits are set when it asks. -/
def arbCommit (s : State) : State :=
  if s.boot.state != .ready || !s.boot.commitDue then s
  else match s.sec.running.bind s.fwSlot with
    | none => s.modBoot fun x => { x with commitDue := false }
    | some im =>
      let other := 1 - im.keySlot
      (s.modSec fun c =>
        { c with arb := if im.arbCommit then max c.arb im.svn else c.arb
                 revoke := if im.revokeOther && !bit c.revoke other then c.revoke + 2 ^ other else c.revoke }).modBoot
        fun x => { x with commitDue := false }

def execArbCommit : State → Host.Outcome State Fault Refusal := act true arbCommit

/-! ### Phase 3 and the assay (R401, R403 to R407) -/

/-- The little-endian word at a byte offset of a record. -/
def wordAt (bs : List Byte) (o : Nat) : Nat := leNat ((bs.drop o).take 4)

/-- The board configuration record its 64 bytes hold (R401): good when the signature, the version and the CRC-32C of bytes 0x00 to 0x3B
are right. -/
def parseBcr (bs : List Byte) : Bcr :=
  let dims := wordAt bs 0x0C
  let pos := wordAt bs 0x10
  { good := bits (wordAt bs 0) 31 16 == 0xB0C5 && bits (wordAt bs 0) 15 8 == 1 && crc32c (bs.take 0x3C) == wordAt bs 0x3C
    sites := bits (wordAt bs 4) 23 0, rate := bits (wordAt bs 8) 17 4, capacity := bits (wordAt bs 8) 3 0
    dx := bits dims 12 8 + 1, dy := bits dims 7 4 + 1, dz := bits dims 3 0 + 1
    x := bits pos 12 8, y := bits pos 7 4, z := bits pos 3 0
    exp := (List.range 4).map fun e =>
      let w := wordAt bs (0x14 + 4 * e)
      if bit w 31 then some (bits w 12 0) else none
    portsDisabled := bits (wordAt bs 0x24) 15 0 }

/-- Bytes 0x000 to 0x4EF of the factory map (R403). -/
def fuseBytes (m : FactoryMap) : List Byte :=
  let halves (n : Nat) (l : List Nat) : List Byte := ((List.range n).map fun i => leBytes (l.getD i 0) 2).flatten
  leBytes (field m.version 8 24 + field m.stepping 8 16 + m.trim % 32) 4 ++ leBytes m.serial 8 ++ leBytes 0 4 ++ leBytes m.panBad 208 ++
    leBytes m.rtrBad 208 ++ leBytes m.sliceBad 208 ++ halves 136 m.phaseBad ++ halves 16 m.laneBad ++ halves 108 m.cskipBad ++ leBytes 0 104

/-- FM_DIGEST matches (R403): the first 128 bits of SHAKE256. -/
def fuseDigestOk (m : FactoryMap) : Bool := leNat ((shake256 (fuseBytes m)).take 16) == m.digest

/-- The units the factory map marks (R403), by class and index (R402). -/
def fuseMarks (m : FactoryMap) : List UnitRef :=
  let all (c : Nat) (is : List Nat) : List UnitRef := is.map fun i => { cls := c, index := i }
  let words (c w n : Nat) (l : List Nat) : List UnitRef :=
    ((List.range n).map fun k => all c ((bitList w (l.getD k 0)).map (k * 16 + ·))).flatten
  all UnitCls.pan (bitList 1620 m.panBad) ++ all UnitCls.router (bitList 1620 m.rtrBad) ++ all UnitCls.slice (bitList 1620 m.sliceBad) ++
    words UnitCls.phase 16 136 m.phaseBad ++ words UnitCls.lane 9 16 m.laneBad ++ words UnitCls.chainSkip 16 108 m.cskipBad

/-- FACTORY_MAP_CHECK (R399, R401, R403): FUSE_AUTH and BCR are found. The record is the one in the flash, or the one the board programmed
there while PWRGD was low; one that fails its check names nothing (log 26). -/
def factoryMapCheck (record : List Byte) (s : State) : State :=
  if s.boot.state != .inProgress || s.boot.phase != 3 then s
  else s.modBoot fun x =>
    let flash := if record.isEmpty then x.bcrFlash else record
    let b := parseBcr flash
    { x with bcrFlash := flash, bcr := if b.good then b else { good := false, sites := 0 }
             found := flag (x.fuses.stepping != 0xA1 || !fuseDigestOk x.fuses) 0 + flag (!b.good) 1 }

def execFactoryMapCheck (record : List Byte) : State → Host.Outcome State Fault Refusal :=
  act (record.length == 64 || record.isEmpty) (factoryMapCheck record)

/-- The list as the flash holds it once the bytes of some records have been damaged, a torn append among them (R407, R417): their tags no
longer hold. -/
def tearRecords (torn : List Nat) (l : List AssayRecord) : List AssayRecord :=
  l.zipIdx.map fun e => if torn.contains e.2 then { e.1 with tag := (e.1.tag + 1) % 2 ^ 256 } else e.1

/-- ASSAY_LIST_CHECK (R407): the chain is verified, and the assay of the die, the lanes and the cellar begins. -/
def assayListCheck (torn : List Nat) (s : State) : State :=
  if s.boot.state != .inProgress || s.boot.phase != 3 then s
  else
    let l := tearRecords torn s.boot.list
    let c := tagChain listTag 0 l
    let s1 := s.modBoot fun x =>
      { x with list := l, verified := c.1, listUsed := l.length, phase := 4, found := x.found + flag c.2 2 }
    let b := s.boot.bcr
    { s1 with
      memdev := { s1.memdev with sites := b.sites, rate := b.rate, capacity := b.capacity }
      chans := (List.range 96).map fun ch =>
        (ch, ({ mode := if bit b.sites (ch / 4) then .training else .unpopulated, rate := b.rate } : Chan)) }

def execAssayListCheck (torn : List Nat) : State → Host.Outcome State Fault Refusal := act true (bootStep (assayListCheck torn))

/-- A unit is among those listed. -/
def listed (l : List UnitRef) (cls idx : Nat) : Bool := l.any fun u => u.cls == cls && u.index == idx

/-- The units DEFECT records mark (R405). -/
def defects (l : List AssayRecord) : List UnitRef :=
  (l.filter fun r => r.type == 2).map fun r => { cls := r.cls, index := r.index, detail := r.detail }

/-- Each unit once, as it first stands. -/
def unitsOnce (l : List UnitRef) : List UnitRef := l.foldl (fun m u => if m.contains u then m else m ++ [u]) []

/-- ASSAY_COMPLETE (R23, R404, R405): the die's assay ends, the cellar's fill begun or not. -/
def assayComplete (found : AssayFound) (s : State) : State :=
  if s.boot.state != .inProgress || !(s.boot.phase == 4 || s.boot.phase == 5) then s
  else
    let bad := found.bad
    let marks := fuseMarks s.boot.fuses ++ defects s.boot.verified
    let lasting (u : UnitRef) : Bool := (decide (2 ≤ u.cls) && decide (u.cls ≤ 8)) || u.cls == 0xA
    let s1 := s.modBoot fun x =>
      { x with quick := x.warm && x.assayed, assayed := true, phase := 6, bad := unitsOnce (marks ++ bad)
               badOsc := found.oscillators, badChain := found.chains, repairs := found.repairs
               fresh := unitsOnce (bad.filter fun u => lasting u && !marks.contains u) }
    { s1 with chans := s1.chans.map fun (e : Nat × Chan) => (e.1, if listed bad UnitCls.channel e.1 then { e.2 with mode := .failed } else e.2) }

def execAssayComplete (found : AssayFound) : State → Host.Outcome State Fault Refusal := act true (bootStep (assayComplete found))

/-! ### Repairs (R21, R23, R24, R238, R239, R249, R409) -/

/-- The neighbour of a router in a direction: 0 east, 1 west, 2 north, 3 south. -/
def meshStep (i d : Nat) : Nat := if d = 0 then i + 1 else if d = 1 then i - 1 else if d = 2 then i - 60 else i + 60

/-- The seam wires of a link that failed, with two in one group of 32 beyond repair (R249). -/
def seamBroken (bad : List UnitRef) (link : Nat) : Bool :=
  let ws := (bad.filter fun u => u.cls == UnitCls.seam && u.index == link).map fun u => u.detail / 32
  ws.any fun g => decide (2 ≤ (ws.filter (· == g)).length)

/-- The routers that are bad for the epoch: marked, or at the receiving end of a seam link beyond repair (R240). -/
def badRouters (bad : List UnitRef) : List Nat :=
  let seams := ((bad.filter fun u => u.cls == UnitCls.seam).map (·.index)).foldl (fun l i => addOnce i l) []
  (((bad.filter fun u => u.cls == UnitCls.router).map (·.index)) ++
    ((seams.filter (seamBroken bad)).map fun i => meshStep (i / 4) (i % 4))).foldl (fun l i => addOnce i l) []

/-- A pan position fails at assay: its pan or its router is bad (R240). -/
def badPosition (bad : List UnitRef) (routers : List Nat) (p : Nat) : Bool :=
  listed bad UnitCls.pan p || routers.contains (meshY p * 60 + meshX p)

/-- The failed phases of a domain, as a bitmap. -/
def badPhases (bad : List UnitRef) (d : Nat) : Nat := maskOf ((List.range 16).filter fun p => listed bad UnitCls.phase (d * 16 + p))

/-- The spare column of a physical region that is good at assay (R21, R23); none when it is bad. `failed` holds the regions whose oscillator
or direct chain links failed. -/
def goodRegion (failed : List Nat) (bad : List UnitRef) (routers : List Nat) (r : Nat) : Option Nat :=
  if failed.contains r || decide (5 ≤ (bitList 12 (badPhases bad r)).length) then none
  else match (List.range 15).filter fun x => badPosition bad routers (15 * r + x) with
    | [] => some 14
    | [x] => if x = 0 ∨ x = 14 ∨ !listed bad UnitCls.chainSkip (r * 16 + x) then some x else none
    | _ => none

/-- One field of the topology block after assay (R24, R33, R509), from the spare column of each good physical row. -/
def assayTopo (spare : Nat → Option Nat) (good : Nat → Bool) : Topo :=
  let rows := (List.range 9).filterMap fun py => (spare py).map fun c => (py, c)
  let ninth := rows[8]?
  { goodRows := rows.length
    resState := if ninth.isSome then 0 else 2
    resSpare := match ninth with | some e => e.2 | none => 15
    resCarried := 0
    resRow := match ninth with | some e => e.1 | none => 15
    phys := (List.range 9).map fun py => if (spare py).isNone then 2 else if ninth.any fun e => e.1 == py then 1 else 0
    rtt := (List.range 8).map fun y => match rows[y]? with | some e => ⟨0, e.2, e.1, e.1⟩ | none => ⟨3, 15, 15, 15⟩
    spares := (List.range 9).map fun py => (spare py).getD 15
    panPass := (List.range 9).map fun py => maskOf ((List.range 15).filter fun x => good (15 * py + x)) }

/-- L_TRANS of a translation (R408): the first 64 bits of SHAKE256 over 300 bytes. -/
def transDigest (topo : Nat → Topo) : Nat :=
  let rows := ((List.range 12).map fun f => ((topo f).rtt.map fun e => [e.spare, e.assayRow]).flatten).flatten
  let regions := ((List.range 12).map fun f => (topo f).spares).flatten
  leNat ((shake256 ((rows ++ regions).map fun v => BitVec.ofNat 8 v)).take 8)

/-- SEAM_SPARES of a router: spares engaged on its north, south, east and west seam links, one byte each (R253). -/
def seamWord (bad : List UnitRef) (i : Nat) : Nat :=
  let n (d : Nat) : Nat := (bad.filter fun u => u.cls == UnitCls.seam && u.index == i * 4 + d).length
  field (n 2) 8 24 + field (n 3) 8 16 + field (n 0) 8 8 + n 1 % 256

/-- The routers after assay, with ROW_DEAD and the counts of NET_STATUS (R238, R239, R254). -/
def assayNet (bad : List UnitRef) (routers : List Nat) (n : Net) : Net :=
  let seams := ((bad.filter fun u => u.cls == UnitCls.seam).map fun u => u.index / 4).foldl (fun l i => addOnce i l) []
  let is := (routers ++ seams).foldl (fun l i => insertRising i l) []
  { n with
    routers := is.map fun i => (i, ({ state := if routers.contains i then 1 else 0, seamSpares := seamWord bad i } : Router))
    rowDead := routers.foldl (fun m i => upd 0 (i / 60) (fun v => v ||| 2 ^ (i % 60)) m) []
    failedAssay := min 2047 routers.length
    badSkips := (bad.filter fun u => u.cls == UnitCls.meshSkip).map (·.index) }

/-- The brine slice under a position is bad: marked, or under a failed router (R240). -/
def badSlice (bad : List UnitRef) (routers : List Nat) (i : Nat) : Bool :=
  listed bad UnitCls.slice i || routers.contains (meshY i * 60 + meshX i)

/-- M of the spread (R182): the least integer of at least 541 that shares no factor with N. -/
def spreadM (n : Nat) : Nat := ((List.range 1620).map (· + 541)).find? (fun m => Nat.gcd m n == 1) |>.getD 541

/-- The memory block after assay (R182, R199): the spread names the good slices in increasing order. -/
def assayMem (isBad : Nat → Bool) (m : MemDev) : MemDev :=
  let good := (List.range 1620).filter fun i => !isBad i
  { m with n := good.length, m := spreadM good.length, slicesBad := 1620 - good.length, brineFill := true
           spread := (good.zipIdx.filter fun e => e.1 != e.2).map fun e => (e.2, e.1, 0) }

/-- A port after assay: its usable lanes, and a bad lane's logical number on the spare (R409 step 5); it is enabled unless the board
disables it or Hakar did before the reset (R279, R401). -/
def assayPort (bad : List UnitRef) (disabled : Nat) (enabled : Bool) (n : Nat) : Port :=
  let lost := (List.range 9).filter fun l => listed bad UnitCls.lane (n * 16 + l)
  let low := lost.filter (· < 8)
  let spare := !lost.contains 8 && !low.isEmpty
  { usable := 0x1FF - maskOf lost, spareUsed := spare, enable := enabled && !bit disabled n
    laneMap := (List.range 8).map fun i =>
      if !lost.contains i then i else if spare && low.head? == some i then 8 else 15 }

/-- The position number of a BCR's x, y, z. -/
def Bcr.number (b : Bcr) : Nat := b.x + b.dx * (b.y + b.dy * b.z)

/-- The links of the primary route between two positions (R273): each leg takes the shorter way round its ring. -/
def Bcr.links (b : Bcr) (m n : Nat) : Nat :=
  let ring (d u v : Nat) : Nat := min ((u + d - v) % d) ((v + d - u) % d)
  ring b.dx (m % b.dx) (n % b.dx) + ring b.dy (m / b.dx % b.dy) (n / b.dx % b.dy) +
    ring b.dz (m / (b.dx * b.dy) % b.dz) (n / (b.dx * b.dy) % b.dz)

/-- The express port toward a device (R274): among the peers whose primary route is at least two links shorter than this device's own, the one
with the shortest, the lowest port on a tie (DESIGN CHOICE, log 98). -/
def expressTo (b : Bcr) (d : Nat) : Option Nat :=
  ((List.range 4).foldl (fun (best : Option (Nat × Nat)) k =>
    match b.exp[k]? with
    | some (some e) =>
      let l := (Bcr.links b) e d
      if l + 2 ≤ (Bcr.links b) (Bcr.number b) d && (match best with | some q => decide (l < q.2) | none => true) then some (k, l) else best
    | _ => best) none).map (·.1)

/-- The domain map Hakar writes at bring-up (R271, R274, R280): default device ids, and the express hops the board's cables allow. -/
def assayRoutes (b : Bcr) : List (Nat × Route) :=
  if b.dx * b.dy * b.dz ≤ 1 then []
  else (List.range (min 8191 (b.dx * b.dy * b.dz))).map fun d =>
    (d, { exp := expressTo b d, x := d % b.dx, y := d / b.dx % b.dy, z := d / (b.dx * b.dy) % b.dz })

/-- The domains 136 to 158 that are gated (R35, R36): a cellar PHY group, of four sites, none of whose channels is populated, and a port the
domain map does not expect. -/
def gatedDomains (b : Bcr) (expected : Nat → Bool) : List Nat :=
  (((List.range 6).filter fun g => bits b.sites (4 * g + 3) (4 * g) == 0).map (· + 137)) ++
    (((List.range 16).filter fun n => !expected n).map (· + 143))

/-- A port the domain map expects (R411). -/
def State.expectedPort (s : State) (n : Nat) : Bool := !bit s.boot.bcr.portsDisabled n && s.portUsed n

/-- Put the assay's findings in force: topology, regions, stores, network, memories, ports and identity (R409, R410). -/
def applyRepairs (topo : Nat → Topo) (routers : List Nat) (s : State) : State :=
  let b := s.boot.bcr
  let bad := s.boot.bad
  let rowOf_ (r : Nat) : Nat := (topo (r / 9)).phys.getD (r % 9) 2
  { s with
    topo := (List.range 12).map fun f => (f, topo f)
    -- every good region, the reserve among them, waits for its wake (R382, R410)
    regions := (List.range 108).map fun r =>
      let ph := badPhases bad r
      let n := (bitList 12 ph).length
      (r, ({ clk := .gated, pwr := .gated, grade := s.clock.grade, phases := ph % 4096, limited := n == 3 || n == 4 } : Region))
    fields := (List.range 12).map fun f =>
      let good := ((List.range 9).map fun py => 9 * f + py).filter fun r => rowOf_ r != 2
      (f, nextWake s.now { queue := good.map fun r => (s.now, r) })
    slices := (List.range 1620).map fun i =>
      let spares := (s.boot.repairs.find? fun e => e.1 == i).map (·.2)
      (i, ({ mode := if badSlice bad routers i then .bad else .filling
             spareCols := (spares.map (·.1)).getD 0 % 256, spareRows := (spares.map (·.2)).getD 0 % 256 } : Slice))
    net := assayNet bad routers s.net
    memdev := assayMem (badSlice bad routers) s.memdev
    power := { s.power with domPhases := (List.range 28).filterMap fun k =>
                 let ph := badPhases bad (108 + k) % 64
                 if ph = 0 then none else some (108 + k, ph) }
    fin := { s.fin with ports := (List.range 16).map fun n => (n, assayPort bad b.portsDisabled (s.port n).enable n)
                        dx := b.dx, dy := b.dy, dz := b.dz
                        selfPos := if b.dx * b.dy * b.dz ≤ 1 then none else some (b.x, b.y, b.z)
                        route := assayRoutes b }
    svc := { s.svc with homeId := Bcr.number b } }

/-- The domains that stay without power are gated (R36). -/
def gateDomains (s : State) : State := s.modPower fun p => { p with gated := gatedDomains s.boot.bcr s.expectedPort }

/-- One field's topology block from an assay's findings (R24, R33). -/
def foundTopo (x : Boot) (f : Nat) : Topo :=
  let routers := badRouters x.bad
  assayTopo (fun py => goodRegion (x.badOsc ++ x.badChain) x.bad routers (9 * f + py)) (fun i => !badPosition x.bad routers (135 * f + i))

/-- The list's update (R408): DEFECT records and one EPOCH record are appended where they fit, and the epoch is numbered. -/
def assayListUpdate (s : State) : State :=
  if s.boot.state != .inProgress || s.boot.phase != 6 then s
  else
    let x := s.boot
    let topo := foundTopo x
    let last := (x.verified.filter fun r => r.type == 1).getLast?
    let room := listRoom - x.list.length
    let full := decide (room < x.fresh.length + 1)
    let digest := transDigest topo
    let ep := match last with | some r => r.epoch + 1 | none => 1
    let recs : List AssayRecord := (x.fresh.map fun u => { type := 2, cls := u.cls, detail := if u.cls = UnitCls.seam then u.detail else 0, index := u.index, epoch := ep, tide := s.now }) ++
      [{ type := 1, full := !x.quick, epoch := ep, tide := s.now, trans := digest }]
    s.modBoot fun y =>
      { if full then y else appendRecords recs y with
        epoch := ep, first := last.isNone, phase := 7
        renumbered := full || (match last with | some r => r.trans != digest | none => true)
        found := y.found + flag full 9 }

/-- The repairs of phase 7 are applied, and the fills of phase 8 begin (R409, R410). -/
def repairsApplied (s : State) : State :=
  if s.boot.state != .inProgress || s.boot.phase != 7 then s
  else gateDomains (applyRepairs (foundTopo s.boot) (badRouters s.boot.bad) (s.modBoot fun x => { x with phase := 8 }))

/-- ASSAY_LIST_UPDATE (R408 to R410): the list is updated, and the repairs follow it. -/
def execAssayListUpdate : State → Host.Outcome State Fault Refusal := act true fun s => bootStep repairsApplied (bootStep assayListUpdate s)

/-! ### Fills and training (R196, R261, R410, R411) -/

/-- CELLAR_ASSAY_PASS: a channel passes, and its fill begins: phase 5, while the die's assay has not ended (R416; log 116). -/
def cellarAssayPass (ch : Nat) (s : State) : State :=
  if (s.chan ch).mode = .training && s.boot.state == .inProgress then
    ((s.modChan ch fun c => { c with mode := .filling }).modMem fun m => { m with cellarFill := true }).modBoot fun x =>
      { x with phase := if x.phase = 4 then 5 else x.phase }
  else s

def execCellarAssayPass (ch : Nat) : State → Host.Outcome State Fault Refusal := act (decide (ch < 96)) (bootStep (cellarAssayPass ch))

/-- CELLAR_FILL_DONE (R196): the filling channels hold zeros with valid check words and become active. -/
def cellarFillDone (s : State) : State :=
  if !s.memdev.cellarFill then s
  else
    { s with
      memdev := { s.memdev with cellarFill := false }, cellarMem := []
      chans := s.chans.map fun (e : Nat × Chan) => (e.1, if e.2.mode = .filling then { e.2 with mode := .active, poison := [], errs := [] } else e.2) }

def execCellarFillDone : State → Host.Outcome State Fault Refusal := act true cellarFillDone

/-- Phase 8 ends when the brine and every good region's stores are filled: the expected ports that are enabled begin to train (R261, R279,
R411, R416). -/
def endFills (s : State) : State :=
  if s.boot.state == .inProgress && s.boot.phase == 8 && !s.memdev.brineFill && s.fields.all fun e => e.2.wake.isNone then
    foldState ((List.range 16).filter fun n => s.expectedPort n && (s.port n).enable) (fun t n => t.modPort n fun p => { p with state := 1, trainFrom := some t.now })
      (s.modBoot fun x => { x with phase := 9 })
  else s

/-- STORE_FILL_DONE (R159, R382, R410): the store's fill ends, and with the last of its region the region's wake. -/
def execStoreFillDone (p : Nat) : State → Host.Outcome State Fault Refusal :=
  act (decide (p < 1620)) (bootStep fun s =>
    if (s.pan p).store.fillBusy then endFills (wakeFilled (regionOf p) (storeFillDone p s)) else s)

/-- BRINE_FILL_DONE (R196): every filling slice is awake with zeros. -/
def brineFillDone (s : State) : State :=
  if !s.memdev.brineFill then s
  else
    endFills { s with
      memdev := { s.memdev with brineFill := false }, brineMem := []
      slices := s.slices.map fun (e : Nat × Slice) => (e.1, if e.2.mode = .filling then filledSlice s.now e.2 else e.2) }

def execBrineFillDone : State → Host.Outcome State Fault Refusal := act true (bootStep brineFillDone)

/-- The peer the domain map implies (R411): its device id and port. The map names no port of an express peer (log 27). -/
def State.impliedPeer (s : State) (n : Nat) : Option (Nat × Option Nat) :=
  let r := portRole n
  if 8 ≤ r then (match s.boot.bcr.exp[r - 8]? with | some (some d) => some (d, none) | _ => none)
  else match s.fin.selfPos with
    | none => none
    | some me =>
      let q := s.neighbour me r
      some (s.posNumber q.1 q.2.1 q.2.2, some (if n < 8 then n + 8 else n - 8))

/-- The peer found is the implied one. -/
def State.peerOk (s : State) (n dev port : Nat) : Bool :=
  match s.impliedPeer n with
  | some (d, some q) => d == dev && q == port
  | some (d, none) => d == dev
  | none => true

/-- The link ends after training: sequence numbers and credits begin again. -/
def trained (dev port : Nat) (up : Bool) (p : Port) : Port :=
  { p with state := if up then 2 else 4, peer := some (dev, port), txSeq := 1, rxSeq := 1, nak := false, replay := [], used := []
           freedSeen := [], unreported := [], freed := [], arriving := [], pool := [], slotsSent := 0, grants := [], corr := [], uncorr := [] }

/-- Training tries every lane the assay passed afresh, so a port that dropped lanes takes its assay map (R261, R417; DEDUCED, log 96). -/
def retrain (bad : List UnitRef) (n : Nat) (p : Port) : Port :=
  let q := assayPort bad 0 p.enable n
  if p.laneMap.contains 15 then { p with usable := q.usable, laneMap := q.laneMap, spareUsed := q.spareUsed } else p

/-- PORT_TRAINED (R261, R411, R417): the port comes up when both ends hold eight good logical lanes, and is put down when PEER is not
the implied one. -/
def portTrained (n good dev port : Nat) (s : State) : State :=
  let p := retrain s.boot.bad n (s.port n)
  if !(p.state == 1 || p.state == 4) || decide (good < 8) || p.laneMap.contains 15 then s
  else
    let ok := s.peerOk n dev port
    (s.modPort n fun _ => trained dev port ok p).modBoot fun x => { x with found := if ok || bit x.found 8 then x.found else x.found + 2 ^ 8 }

def execPortTrained (n good dev port : Nat) : State → Host.Outcome State Fault Refusal :=
  act (decide (n < 16) && decide (port < 16) && decide (dev < 8192)) (portTrained n good dev port)

/-- PEER_TIMEOUT (R411): 2 s after this device began to train the port, its peer has not. -/
def peerTimeout (n : Nat) (s : State) : State :=
  if (s.port n).state = 1 && (match (s.port n).trainFrom with | some t => decide (t + 2000000000 ≤ s.now) | none => false) then
    (s.modPort n fun p => { p with state := 4 }).modBoot fun x => { x with found := if bit x.found 8 then x.found else x.found + 2 ^ 8 }
  else s

def execPeerTimeout (n : Nat) : State → Host.Outcome State Fault Refusal := act (decide (n < 16)) (peerTimeout n)

/-! ### Topology agreement (R412 to R415) -/

/-- An entry of the difference record: class, EXPECTED, FOUND, detail, index. -/
abbrev DiffEntry := Nat × Nat × Nat × Nat × Nat

/-- Fields that do not carry eight logical regions. -/
def State.diffFields (s : State) : List DiffEntry :=
  ((List.range 12).filter fun f => decide ((s.topoOf f).goodRows < 8)).map fun f =>
    (UnitCls.fieldC, 8, (s.topoOf f).goodRows, maskOf ((List.range 9).filter fun py => (s.topoOf f).phys.getD py 2 != 2), f)

/-- The routers that break R240, a failed skip link's bypassed router among them (R405), and the failed attachment routers of R413. -/
def State.diffRouters (s : State) : List DiffEntry :=
  let failed := (s.net.routers.filter fun e => e.2.state != 0).map fun e => (e.1 % 60, e.1 / 60)
  let clash (a b : Nat × Nat) : Bool :=
    (a.1 == b.1 && a.2 + 1 == b.2) || (a.2 == b.2 && a.1 + 1 == b.1) || turnColumn a.1 == b.1
  (failed.filter fun a => (failed.any fun b => clash a b || clash b a) || s.skipBad a.1 a.2).map
      (fun a => (UnitCls.router, 1, 0, 1, a.2 * 60 + a.1)) ++
    (failed.filter fun a => a == controlRouter || a == pcieRouter).map fun a => (UnitCls.router, 1, 0, 2, a.2 * 60 + a.1)

/-- The good routers that do not answer discovery's probe with their identity (R412, R413; log 115). -/
def State.diffProbe (s : State) (found : Discovery) : List DiffEntry :=
  (found.routers.filter fun i => decide (i < 1620) && !s.routerFailed (i % 60) (i / 60)).map fun i => (UnitCls.router, 1, 0, 1, i)

/-- Bund, brine and control domains with more than two failed phases. -/
def State.diffDomains (s : State) : List DiffEntry :=
  (s.power.domPhases.filter fun e => decide (3 ≤ (bitList 6 e.2).length)).map fun e =>
    (UnitCls.domain, 6, 6 - (bitList 6 e.2).length, e.2, e.1)

/-- Ports with fewer than eight good lanes. -/
def State.diffLanes (s : State) : List DiffEntry :=
  ((List.range 16).filter fun n => decide ((bitList 9 (s.port n).usable).length < 8)).map fun n =>
    (UnitCls.lane, 8, (bitList 9 (s.port n).usable).length, (s.port n).usable, n * 16)

/-- Cellar channels that failed or have not passed, and sites that do not report the capacity of BCR_CELLAR; `dens` is the code read from each
populated site. -/
def State.diffCellar (s : State) (dens : List (Nat × Nat)) : List DiffEntry :=
  (s.chans.filter fun (e : Nat × Chan) => e.2.mode == .failed || e.2.mode == .training).map
      (fun e => (UnitCls.channel, 1, 0, ((s.boot.bad.find? fun u => u.cls == UnitCls.channel && u.index == e.1).map (·.detail)).getD 1, e.1)) ++
    (((List.range 24).filter fun i => bit s.memdev.sites i).filterMap fun i =>
      let c := look 0 dens i
      if c = s.memdev.capacity then none else some (UnitCls.site, s.memdev.capacity, c, 0, i))

/-- Expected ports that are not up with their implied peer. -/
def State.diffPeers (s : State) : List DiffEntry :=
  ((List.range 16).filter fun n => s.expectedPort n && !s.portUp n).map fun n =>
    let want := match s.impliedPeer n with | some (_, some q) => q | _ => 0xFF
    match (s.port n).peer with
    | some (d, q) => (UnitCls.peer, want, q, d, n)
    | none => (UnitCls.peer, want, 0xFF, 0x1FFF, n)

/-- The tide master or a child of one, and its one step before ready (R367, R370, R415 step 2). -/
def startTide (hostPtm parentTide : Option Nat) (s : State) : State :=
  let s1 := tideReselect s
  let step (o : Option Nat) (t : State) : State := match o with | some v => t.modClock fun c => { c with tide := v % 2 ^ 64 } | none => t
  if s1.clock.master then step hostPtm s1
  else (step parentTide s1).modClock fun c => { c with locked := parentTide.isSome }

/-- TOPOLOGY_AGREEMENT (R413 to R415): the conditions are checked, the difference record written, identity and tide count set, and
READY or NOT_READY reported; doorbells held until now are answered (R441). -/
def topologyAgreement (found : Discovery) (hostPtm parentTide : Option Nat) (s : State) : State :=
  -- State.reset stands at the end of bring-up with BOOT_STATUS at its Reset column (log 1)
  if s.boot.state != .inProgress || !(s.boot.phase == 9 || s.boot.phase == 0) then s
  else
    let groups := [(3, s.diffFields), (4, s.diffRouters ++ s.diffProbe found), (5, s.diffDomains), (6, s.diffLanes),
                   (7, s.diffCellar found.densities), (8, s.diffPeers)]
    let entries := (groups.map (·.2)).flatten
    -- a logical pan that discovery does not find has no class among the entries (log 115)
    let noPan := found.pans.any fun l => (s.panPos l).isSome
    let cause := sumNat (groups.map fun g => flag (!g.2.isEmpty || (g.1 == 4 && noPan)) g.1) + (s.boot.found % 8 + flag (bit s.boot.found 9) 9)
    let filled := !s.memdev.cellarFill && !(s.chans.any fun (e : Nat × Chan) => e.2.mode == .training || e.2.mode == .filling)
    let ok := cause % 512 == 0 && filled
    let s1 := if cause ≠ 0 ∨ !ok then s.modBoot fun x => { x with cause := cause, diff := { cause := cause, epoch := x.epoch, entries := entries } }
              else s
    -- CELLAR_FILL_BUSY reads 0 from the end of bring-up (R199)
    let s2 := { s1 with memdev := { s1.memdev with cellarFill := false }, svc := { s1.svc with ident := if s1.svc.homeId = 8191 then none else some s1.svc.homeId, aliases := [] } }
    let s3 := startTide hostPtm parentTide s2
    takeHeldBells (setBoot (if ok then .ready else .notReady) ((s3.modBoot fun x =>
      { x with phase := 10, readyTide := s3.now, commitDue := ok }).modHif fun h => { h with taking := true }))

def execTopologyAgreement (found : Discovery) (hostPtm parentTide : Option Nat) : State → Host.Outcome State Fault Refusal :=
  act true (bootStep (topologyAgreement found hostPtm parentTide))

end Sys2Proof.Machine
end

