-- ==== Sys2Proof/Machine/Commands.lean ====
section
/-! DEFINITION. The Hakar command set (R438 to R446): each command as Hakar performs it, with its completion. -/

namespace Sys2Proof.Machine
open Sys2Proof

/-! ### Taking a command (R430 to R432, R441) -/

/-- A command with this tag has begun and not completed: the order of a job, a KILL that waits, a transfer or an atomic. -/
def State.underWay (s : State) (tag : Nat) : Bool :=
  (s.jobs.any fun e => (match e.2.order with | some (t, _, _) => t == tag | none => false) ||
    (match e.2.killed with | some (t, _) => t == tag | none => false)) ||
  (s.cc.any fun e => e.2.cmd == some tag) || (s.hif.transfers.any fun t => t.tag == tag) || (s.hif.atomics.any fun a => a.tag == tag)

/-- The journal's entry for a tag, if any, is this command: the slot that was rung named this opcode and job (R430). -/
def State.rung (s : State) (c : Cmd) (op : Nat) : Bool :=
  match s.hif.journal.find? fun j => j.tag == c.tag with
  | some j => j.opcode == op && j.job == c.job
  | none => true

/-- Commands of one job slot execute in doorbell order (R431): a command waits for those of its job that were rung before it to begin, and
for any KILL of it, which executes ahead of them. -/
def State.inTurn (s : State) (c : Cmd) (op : Nat) : Bool :=
  op == 0x06 || decide (16 ≤ c.job) ||
    (((s.hif.journal.takeWhile fun j => j.tag != c.tag).all fun j => j.job != c.job || s.underWay j.tag) &&
      !(s.hif.journal.any fun j => j.job == c.job && j.opcode == 0x06))

/-- The journal holds the command; a command the queue brings without its doorbell enters here. -/
def journalled (c : Cmd) (op : Nat) (s : State) : State :=
  if s.hif.journal.any fun j => j.tag == c.tag then s
  else s.modHif fun h => { h with journal := h.journal ++ [{ tag := c.tag, digest := 0, opcode := op, job := c.job }] }

/-- BAD_FIELD: C_INFO names the offset of the field (R440). -/
def badField (c : Cmd) (op off : Nat) (s : State) : State := finish c op Status.badField off [] s

/-- Hakar performs a command once (R432): not while no core serves commands (R441), and with NOT_READY or BAD_FIELD for what
R441 and R430 refuse. Before READY a command is held (R441). -/
def command (c : Cmd) (op : Nat) (f : State → State) (s0 : State) : State :=
  if !s0.hif.coreRuns || s0.boot.state == .refused || (s0.boot.state == .inProgress && s0.boot.phase != 0) then s0
  else if (s0.hif.completed.any fun e => e.1 == c.tag) || s0.underWay c.tag || !s0.rung c op || !s0.inTurn c op then s0
  else
    let s := journalled c op s0
    if !s.serves op then finishWith c op Status.notReady s
    else if c.tag = 0 then badField c op 8 s
    else if (16 ≤ c.job && c.job != 255) || decide (flagsOf op < c.flags) then badField c op 0 s
    else f s

/-- The header of a command fits its fields (R430). -/
def cmdOk (c : Cmd) : Bool := decide (c.tag < 2 ^ 64) && decide (c.job < 256) && decide (c.flags < 256)

/-- A command that names a job in a state that R438 allows; otherwise BAD_STATE. -/
def jobCommand (c : Cmd) (op : Nat) (allowed : Job → Bool) (f : Job → State → State) (s : State) : State :=
  match (if c.job < 16 then s.job? c.job else none) with
  | some x => if allowed x then f x s else finishWith c op Status.badState s
  | none => finishWith c op Status.badState s

/-- A command that writes `bs` to the host's buffer and completes with C_INFO their number, BUFFER_SHORT or HOST_ACCESS
(R439, R440); `off` is where the buffer's address stands in the slot. -/
def toHost (c : Cmd) (op off : Nat) (buf : HostBuf) (bs : List Byte) (s : State) : State :=
  if buf.addr % 64 ≠ 0 then badField c op off s
  else if buf.len < bs.length then finish c op Status.bufferShort bs.length [] s
  else if buf.cause ≠ 0 then finish c op Status.hostAccess buf.cause [] s
  else finish c op 0 bs.length [] { s with hostMem := writeBytes s.hostMem buf.addr bs }

/-! ### IMAGE_LOAD (R443) -/

/-- A tensor header breaks R43. -/
def tensorBad (t : Tensor) : Bool :=
  t.elemBase % 64 != 0 || ((t.format == 1 || t.format == 2) && t.expBase % 64 != 0) || decide (t.emax < t.emin)

/-- A layer breaks R328, or a step of it could issue more than 64 atomics (R330), or it reads more tensors than a tally record lists (R327,
R329; log 113). -/
def layerBad (l : List Share) : Bool :=
  decide (64 < sumNat (l.map (·.atomics))) || decide (8 < (readsOf l).length) ||
  l.zipIdx.any fun e => e.1.programs.any fun p => p.ntt.any fun n => n.2.1 != e.2 && !e.1.notifies.contains n.2.1

/-- Why an image is rejected: its control sections' digest, its headers, its share graph, its stepping. -/
def imageFault (im : Image) : Option Nat :=
  if !im.digestOk then some Status.imageDigest
  else if im.tensors.any tensorBad then some Status.imageHeader
  else if !im.graphOk || im.layers.any layerBad then some Status.imageGraph
  else if im.stepping ≠ 0xA1 then some Status.imageStepping
  else none

/-- The tensors whose payload an image carries into the cellar: weights, and other inputs with data. -/
def staged (im : Image) : List (Nat × Tensor) :=
  (im.tensors.zipIdx.filter fun e => e.1.kind == .weights || !e.1.data.isEmpty).map fun e => (e.2, e.1)

/-- Rounded up to whole units. -/
def wholeUnits (n : Nat) : Nat := (n + 63) / 64 * 64

/-- The planes of a tensor's payload (R41 to R43), as (first byte, length): the elements, and a grain tensor's exponents where they lie after
them. -/
def planes (t : Tensor) : List (Nat × Nat) :=
  let bits := if t.format = 1 then 8 else if t.format = 2 then 4 else if t.format = 3 then 32 else 16
  let grain := t.format == 1 || t.format == 2
  (0, t.k * t.n * bits / 8) :: (if grain && decide (t.elemBase ≤ t.expBase) then [(t.expBase - t.elemBase, t.n * (t.k / 32))] else [])

/-- A payload with the padding of each of its planes to whole units, written as 0 (R43). -/
def padPayload (t : Tensor) : List Byte :=
  let bs := t.data ++ List.replicate (wholeUnits t.data.length - t.data.length) 0
  let padded (i : Nat) : Bool := (planes t).any fun p => p.2 != 0 && decide (p.1 + p.2 ≤ i) && decide (i < p.1 + wholeUnits p.2)
  bs.zipIdx.map fun e => if padded e.2 then 0 else e.1

/-- Write the payloads into the job's cellar bytes, one lot each; none when they do not fit. -/
def stagePayloads (job quota : Nat) : List (Nat × Tensor) → State → Option (List CellarLot × State)
  | [], s => some ([], s)
  | (_, t) :: ts, s =>
    match allocCellar job (max t.bytes t.data.length) s with
    | none => none
    | some (l, s1) =>
      if quota < s1.cellarUsed job then none
      else match stagePayloads job quota ts (cellarWrite l.base (padPayload t) [] s1) with
        | none => none
        | some (ls, s2) => some (l :: ls, s2)

/-- The words of the first 256 bits of a digest. -/
def digestWords (d : Nat) : List Nat := (List.range 8).map fun i => (d >>> (32 * i)) % 2 ^ 32

/-- IMAGE_LOAD. -/
def imageLoad (c : Cmd) (buf : HostBuf) (im : Image) (s : State) : State :=
  if buf.addr % 4096 ≠ 0 then badField c 0x01 0x10 s
  else jobCommand c 0x01 (fun x => x.mode == .created && x.image.isNone) (fun x s =>
    if buf.cause ≠ 0 then finish c 0x01 Status.hostAccess buf.cause [] s
    else match imageFault im with
      | some st => finishWith c 0x01 st s
      | none => match stagePayloads c.job (x.cellarMib * 2 ^ 20) (staged im) s with
        | none => finishWith c 0x01 Status.noMemory s
        | some (ls, s1) => finish c 0x01 0 0 (digestWords im.digest) (s1.setJob c.job { x with image := some im, cellar := ls })) s

/-- An image's programs fit a region and a pan (R99, R317). -/
def imageOk (im : Image) : Bool :=
  im.layers.all fun l => l.all fun sh => decide (sh.programs.length ≤ 14) && sh.programs.all fun p => decide (p.bundles.length ≤ 8192)

def execImageLoad (c : Cmd) (buf : HostBuf) (im : Image) : State → Host.Outcome State Fault Refusal :=
  act (cmdOk c && imageOk im) (command c 0x01 (imageLoad c buf im))

/-! ### JOB_CREATE (R317) -/

/-- The present logical regions that no job holds (R317, R27). -/
def State.freeRegions (s : State) : List Nat :=
  (List.range 96).filter fun l =>
    (match (s.topoOf (l / 8)).rtt[l % 8]? with | some e => e.state == 0 || e.state == 2 | none => false) &&
    !(s.jobs.any fun e => e.2.regions.contains l)

/-- The job slot a JOB_CREATE takes: the requested one, or the lowest free. -/
def State.createSlot (s : State) (job : Nat) : Option Nat :=
  if job = 255 then (List.range 16).find? fun j => (s.job? j).isNone
  else if (s.job? job).isNone then some job else none

/-- JOB_CREATE. -/
def jobCreate (c : Cmd) (n id brine cellar lead : Nat) (s : State) : State :=
  if n = 0 ∨ 96 < n then badField c 0x02 0x10 s
  else if 8191 < lead then badField c 0x02 0x20 s
  else match s.createSlot c.job with
    | none => finishWith c 0x02 Status.noSlot s
    | some j =>
      let rs := s.freeRegions.take n
      let brineAll := sumNat (s.jobs.map fun e => e.2.brineMib) + brine
      let cellarAll := sumNat (s.jobs.map fun e => e.2.cellarMib) + cellar
      if rs.length < n then finishWith c 0x02 Status.noRegions s
      else if 32 * s.memdev.n < brineAll || s.cellarUsable < cellarAll * 2 ^ 20 then finishWith c 0x02 Status.noMemory s
      else
        let m := maskOf rs
        finish { c with job := j } 0x02 0 j [m % 2 ^ 32, (m >>> 32) % 2 ^ 32, (m >>> 64) % 2 ^ 32]
          (s.setJob j { regions := rs, jobId := id, brineMib := brine, cellarMib := cellar, lead := lead, retain := bit c.flags 0
                        created := s.now, chargedTo := s.now, jrt := List.replicate n 1 })

def execJobCreate (c : Cmd) (n id brine cellar lead : Nat) : State → Host.Outcome State Fault Refusal :=
  act (cmdOk c && decide (n < 2 ^ 32) && decide (id < 2 ^ 32) && decide (brine < 2 ^ 32) && decide (cellar < 2 ^ 32) && decide (lead < 2 ^ 32))
    (command c 0x02 (jobCreate c n id brine cellar lead))

/-! ### PLACE (R320 to R323, R443) -/

/-- A collective slot as an image asks for it (R308, R315). -/
def slotFor (job : Nat) (x : Job) (s : State) (k : Collective) : Slot :=
  { valid := true, rop := k.rop, root := k.root, chunks := k.chunks, job := job, parent := k.parent, parentInput := k.parentInput
    expect := k.expect, dst := s.collectiveDst x 0 k, notes := s.collectiveNotes x 0 k }

/-- The placement of a job before any table is written: job regions absent since the grant have their shares moved (R324). -/
def Job.freshPlacement (s : State) (x : Job) (seed : Nat) (rpt : HostBuf) : Job :=
  let y := { x with seed := seed, report := rpt, placeVer := 0, moved := [], jrt := List.replicate x.regions.length 1 }
  let gone := (List.range x.regions.length).filter fun r => (s.physRegion (x.regions.getD r 96)).isNone
  gone.foldl (fun z r => moveShares r z) { y with jrt := (List.range x.regions.length).map fun r => if gone.contains r then 2 else 1 }

/-- The first share of the first layer is loaded in each job region (R319, R321 step 7). -/
def loadFirst (x : Job) (s : State) : State :=
  foldState (List.range x.regions.length) (fun t r =>
    match (List.range (x.layers.getD 0 []).length).find? fun i => x.shareRegion 0 i == r with
    | some i => startShare x 0 0 i false t
    | none => t) s

/-- The tables of a placement: groups in the lowest free entries, and the image's collective slots (R321 steps 6 and 7). -/
def writeTables (j : Nat) (x : Job) (gs : List Group) (ks : List Collective) (s : State) : State :=
  let ids := (s.freeGroups x).take gs.length
  let s1 := s.modNet fun n => { n with groups := (ids.zip gs).foldl (fun m e => put e.1 e.2 m) n.groups }
  { s1 with svc := { s1.svc with slots := ks.foldl (fun m k => put k.rid (slotFor j x s k) m) s1.svc.slots } }

/-- The collective slots an image asks for are free and differ (R322). -/
def State.slotsFree (s : State) (ks : List Collective) : Bool :=
  (ks.all fun k => decide (k.rid < 64) && !(s.slot k.rid).valid) && decide ((ks.map (·.rid)).Nodup)

/-- PLACE with an image; the job stays CREATED when brine or a table is short (R322) or the report cannot be written (R439). -/
def placeImage (c : Cmd) (seed : Nat) (rpt : HostBuf) (im : Image) (x0 : Job) (s : State) : State :=
  let x := x0.freshPlacement s seed rpt
  if !(x.jrt.any fun v => v == 1) then finishWith c 0x03 Status.noRegions s
  else
    let copies := (staged im).zip x.cellar |>.map fun e => (e.1.1, e.2.base / 2 ^ 21)
    match placeTensors c.job x copies im.tensors.zipIdx s with
    | none => finishWith c 0x03 Status.noMemory s
    | some (ps, s1) =>
      if x.brineMib * 2 ^ 20 < s1.brineUsed c.job then finishWith c 0x03 Status.noMemory s
      else
        let gs := ((im.groups.map fun g => s1.groupsFor c.job x g).flatten).map (·.1)
        if (s1.freeGroups x).length < gs.length || !s1.slotsFree im.collectives then finishWith c 0x03 Status.noTable s
        else
          let y := { x with mode := .placed, placed := ps, groups := (s1.freeGroups x).take gs.length, slots := im.collectives.map (·.rid) }
          let s2 := (writeTables c.job y gs im.collectives (writeReqs im ps (writePayloads im ps s1))).setJob c.job y
          let bytes := (s2.reportBytes c.job y).length
          if rpt.len < bytes then finish c 0x03 Status.bufferShort bytes [] s
          else if rpt.cause ≠ 0 then finish c 0x03 Status.hostAccess rpt.cause [] s
          else finish c 0x03 0 (s2.reportEntries y).length [] (writeReport c.job (loadFirst y s2))

/-- PLACE. -/
def place (c : Cmd) (seed : Nat) (rpt : HostBuf) (s : State) : State :=
  if rpt.addr % 64 ≠ 0 then badField c 0x03 0x18 s
  else jobCommand c 0x03 (fun x => x.mode == .created && x.image.isSome) (fun x s =>
    match x.image with
    | some im => placeImage c seed rpt im x s
    | none => s) s

def execPlace (c : Cmd) (seed : Nat) (rpt : HostBuf) : State → Host.Outcome State Fault Refusal :=
  act (cmdOk c && decide (seed < 2 ^ 64)) (command c 0x03 (place c seed rpt))

/-! ### RUN, STEP, RESUME, KILL (R325, R344, R438, R445) -/

/-- An order takes force and its first step begins. -/
def beginOrder (c : Cmd) (op step : Nat) (left : Option Nat) (x : Job) (s : State) : State :=
  beginStep c.job step (s.setJob c.job { x with order := some (c.tag, op, left) })

/-- PLACED, or RUNNING with no step in flight (R438). -/
def Job.mayRun (x : Job) : Bool := x.mode == .placed || (x.mode == .running && !x.inFlight && x.order.isNone)

/-- RUN: COUNT 0 is without limit. -/
def run (c : Cmd) (first count : Nat) : State → State :=
  jobCommand c 0x04 Job.mayRun (beginOrder c 0x04 first (if count = 0 then none else some count))

def execRun (c : Cmd) (first count : Nat) : State → Host.Outcome State Fault Refusal :=
  act (cmdOk c && decide (first < 2 ^ 32) && decide (count < 2 ^ 32)) (command c 0x04 (run c first count))

/-- STEP. -/
def stepCommand (c : Cmd) (number : Nat) : State → State := jobCommand c 0x05 Job.mayRun (beginOrder c 0x05 number (some 1))

def execStep (c : Cmd) (number : Nat) : State → Host.Outcome State Fault Refusal :=
  act (cmdOk c && decide (number < 2 ^ 32)) (command c 0x05 (stepCommand c number))

/-- RESUME: a HELD job runs the abandoned step again, with its original atomic numbers (R344). -/
def resumeCommand (c : Cmd) (number : Nat) : State → State :=
  jobCommand c 0x16 (fun x => x.mode == .held) (beginOrder c 0x16 number (some 1))

def execResume (c : Cmd) (number : Nat) : State → Host.Outcome State Fault Refusal :=
  act (cmdOk c && decide (number < 2 ^ 32)) (command c 0x16 (resumeCommand c number))

/-- A KILL waits: an earlier one is superseded. -/
def holdKill (c : Cmd) (graceful : Bool) (x : Job) (s : State) : State :=
  let s1 := match x.killed with
    | some (t, _) => finishTag t (commandEntry t 0x06 c.job Status.aborted 0 []) s
    | none => s
  s1.modJob c.job fun y => { y with killed := some (c.tag, graceful) }

/-- KILL (R342, R445). The end entry of a retained job it releases carries its tag. -/
def kill (c : Cmd) : State → State :=
  jobCommand c 0x06 (fun _ => true) fun x s =>
    let graceful := bit c.flags 0
    if x.mode = .ending then
      let ending := if x.retain && !x.released then x.ending.map fun e => (e.1, e.2.1, c.tag) else x.ending
      let op := if x.retain && !x.released then 0x06 else x.endingOp
      finishWith c 0x06 0 (s.setJob c.job { x with released := true, ending := ending, endingOp := op })
    else if graceful && x.inFlight then holdKill c true x s
    else if match x.replay with | some r => decide (r.phase ≤ 6) | none => false then holdKill c false x s
    else killNow c.job c.tag graceful s

def execKill (c : Cmd) : State → Host.Outcome State Fault Refusal := act (cmdOk c) (command c 0x06 (kill c))

/-! ### DUMP (R347) -/

/-- What a DUMP reads: BAD_FIELD at an offset of the slot, or bytes, the cause and place of the first byte that may not leave,
and the state. -/
abbrev DumpRead := Except Nat (List Byte × Option (Nat × Nat) × State)

/-- The first marked unit of bytes that begin at an address, as an offset. -/
def markedAt (a : Nat) (ms : List Bool) : Option Nat := (ms.findIdx? id).map fun i => if i = 0 then 0 else 64 * i - a % 64

/-- Read a run of one pan's store, unit by unit: the first unit whose bank is asleep or filling (R166) or
that reads marked ends it. -/
def dumpStore (p : Nat) : List (Nat × Nat) → State → List Byte × Option Nat × State
  | [], s => ([], none, s)
  | (a, n) :: us, s =>
    if s.bankMode p (s.bankAt p a) = .asleep ∨ s.bankMode p (s.bankAt p a) = .filling then
      ([], some Cause.bankAsleep, recordReject p s.hakarSrc a Cause.bankAsleep s)
    else
      let (bs, m, s1) := storeRead p a n (sluiceAccess p a n false s)
      if m then ([], some Cause.poisonToHost, s1)
      else
        let (rest, c, s2) := dumpStore p us s1
        (bs ++ rest, c, s2)

/-- Read the pieces of a lot in the same way. -/
def dumpPieces : Pieces → State → List Byte × Option Nat × State
  | [], s => ([], none, s)
  | (sl, b, n) :: ps, s =>
    match sliceCause (s.slice sl).mode with
    | some c => ([], some c, s)
    | none =>
      let (bs, ms, s1) := brineReadPiece sl (unitParts (n / 64 + 2) b n) s
      match markedAt b ms with
      | some k => (bs.take k, some Cause.poisonToHost, s1)
      | none =>
        let (rest, c, s2) := dumpPieces ps s1
        (bs ++ rest, c, s2)

/-- The eight tally records by step number mod 8, an unwritten one zero (R329). -/
def tallyRing (j : Nat) (x : Job) : List Byte :=
  ((List.range 8).map fun i => match x.tally.find? fun t => t.step % 8 == i with
    | some t => tallyBytes j x.jobId t
    | none => List.replicate 256 0).flatten

/-- The bytes a DUMP names. -/
def dumpArea (j : Nat) (x : Job) (area index off len : Nat) (s : State) : Except Nat (List Byte × Option Nat × State) :=
  if area = 0 then
    if !x.regions.contains (index / 14) then .error 0x14
    else if 2 ^ 23 < off + len then .error 0x18
    else match s.panPos index with
      | some p => .ok (dumpStore p (unitParts (len / 64 + 2) off len) s)
      | none => .error 0x14
  else if area = 1 then
    if !(s.memdev.lots.any fun e => e.1 == index && e.2.job == j) then .error 0x14
    else if len = 0 then .ok ([], none, s)
    else match s.lotPieces index (len / 256 + 2) off len with
      | some ps => .ok (dumpPieces ps s)
      | none => .error 0x18
  else if area = 2 then
    if 2048 < off + len then .error 0x18 else .ok (((tallyRing j x).drop off).take len, none, s)
  else .error 0x10

/-- The residue is released for zeroisation. -/
def releaseResidue (c : Cmd) (s : State) : State :=
  if bit c.flags 0 then s.modJob c.job fun y => { y with released := true } else s

/-- DUMP. -/
def dump (c : Cmd) (area index off : Nat) (buf : HostBuf) : State → State :=
  jobCommand c 0x07 (fun _ => true) fun x s =>
    if !x.retain then finishWith c 0x07 Status.notRetained s
    else if x.mode != .ending || x.released then finishWith c 0x07 Status.badState s
    else match dumpArea c.job x area index off buf.len s with
      | .error o => badField c 0x07 o s
      | .ok (bs, cause, s1) =>
        if buf.addr % 64 ≠ 0 then badField c 0x07 0x28 s
        else if buf.cause ≠ 0 then finish c 0x07 Status.hostAccess buf.cause [] s
        else
          let s2 := releaseResidue c { s1 with hostMem := writeBytes s1.hostMem buf.addr bs }
          match cause with
          | none => finish c 0x07 0 bs.length [] s2
          | some k => finish c 0x07 Status.hostAccess k [] s2

def execDump (c : Cmd) (area index off : Nat) (buf : HostBuf) : State → Host.Outcome State Fault Refusal :=
  act (cmdOk c && decide (area < 2 ^ 32) && decide (index < 2 ^ 32) && decide (off < 2 ^ 64) && decide (buf.len < 2 ^ 32) && decide (buf.addr < 2 ^ 64))
    (command c 0x07 (dump c area index off buf))

/-! ### LOT_ALLOC, LOT_FREE (R446) -/

/-- CREATED, PLACED or RUNNING (R438). -/
def Job.mayAlloc (x : Job) : Bool := x.mode == .created || x.mode == .placed || x.mode == .running

/-- LOT_ALLOC: from the job's own brine or cellar bytes. -/
def lotAlloc (c : Cmd) (kind mib : Nat) (s : State) : State :=
  if !(kind == 2 || kind == 3) then badField c 0x08 0x10 s
  else if mib = 0 then badField c 0x08 0x14 s
  else jobCommand c 0x08 Job.mayAlloc (fun x s =>
    if kind = 2 then
      match allocEven c.job (mib * 2 ^ 20) s with
      | none => finishWith c 0x08 Status.noMemory s
      | some (l, s1) =>
        if x.brineMib * 2 ^ 20 < s1.brineUsed c.job then finishWith c 0x08 Status.noMemory s
        else finish c 0x08 0 l (words64 (lotAddr s.deviceId l)) (s1.modMem fun d => { d with allocated := insertRising l d.allocated })
    else
      match allocCellar c.job (mib * 2 ^ 20) s with
      | none => finishWith c 0x08 Status.noMemory s
      | some (l, s1) =>
        if x.cellarMib * 2 ^ 20 < s1.cellarUsed c.job then finishWith c 0x08 Status.noMemory s
        else finish c 0x08 0 0 (words64 (mkAddr s.deviceId 2 l.base)) s1) s

def execLotAlloc (c : Cmd) (kind mib : Nat) : State → Host.Outcome State Fault Refusal :=
  act (cmdOk c && decide (kind < 2 ^ 32) && decide (mib < 2 ^ 32)) (command c 0x08 (lotAlloc c kind mib))

/-- LOT_FREE of a brine lot: zeroised before it completes. -/
def freeBrineLot (c : Cmd) (l : Nat) (s : State) : State :=
  match s.lot? l with
  | none => badField c 0x09 0x10 s
  | some e =>
    if e.job ≠ c.job then badField c 0x09 0x10 s
    else if !s.memdev.allocated.contains l then finishWith c 0x09 Status.badState s
    else finishWith c 0x09 0 (freeLot l (zeroLot e s))

/-- LOT_FREE of a cellar lot. -/
def freeCellarLot (c : Cmd) (x : Job) (base : Nat) (s : State) : State :=
  match s.memdev.cellarLots.find? fun l => l.base == base && l.job == c.job with
  | none => badField c 0x09 0x10 s
  | some l =>
    if x.cellar.contains l then finishWith c 0x09 Status.badState s
    else finishWith c 0x09 0 ((zeroCellar l s).modMem fun d => { d with cellarLots := d.cellarLots.filter fun e => e != l })

/-- LOT_FREE. -/
def lotFree (c : Cmd) (addr : Nat) : State → State :=
  jobCommand c 0x09 Job.mayAlloc fun x s =>
    let o := addrOffset addr
    if bit addr 63 || !s.isOwn addr then badField c 0x09 0x10 s
    else if addrSpace addr = 1 && o % 2 ^ 36 = 0 && !bit o 47 then freeBrineLot c (o / 2 ^ 36) s
    else if addrSpace addr = 2 then freeCellarLot c x o s
    else badField c 0x09 0x10 s

def execLotFree (c : Cmd) (addr : Nat) : State → Host.Outcome State Fault Refusal :=
  act (cmdOk c && decide (addr < 2 ^ 64)) (command c 0x09 (lotFree c addr))

/-! ### POWER_POLICY, BUDGET_JOIN, ENERGY_QUERY (R386, R390, R394) -/

/-- POWER_POLICY: a new limit takes effect at the next evaluation; in a shared budget the keeper's stays. -/
def powerPolicy (c : Cmd) (limit window grade : Nat) (s : State) : State :=
  if limit < 2500 ∨ 5500 < limit then badField c 0x0A 0x10 s
  else if window < 500 ∨ 8000 < window then badField c 0x0A 0x14 s
  else if 15 < grade then badField c 0x0A 0x18 s
  else finishWith c 0x0A 0 (s.modPower fun p =>
    { p with hostLimit := limit, window := window, gradeMax := grade, samples := if window = p.window then p.samples else [], newLimit := if p.budget.joined then p.newLimit else some limit })

def execPowerPolicy (c : Cmd) (limit window grade : Nat) : State → Host.Outcome State Fault Refusal :=
  act (cmdOk c && decide (limit < 2 ^ 32) && decide (window < 2 ^ 32) && decide (grade < 2 ^ 32)) (command c 0x0A (powerPolicy c limit window grade))

/-- Members in increasing device id. -/
def insertMember (m : BudgetMember) : List BudgetMember → List BudgetMember
  | [] => [m]
  | x :: xs => if m.device ≤ x.device then m :: x :: xs else x :: insertMember m xs

/-- One round of R390 step 2: 1 W to each member below its upper bound while any is wanting. -/
def raiseOnce : Nat → List (Nat × Nat × Nat × Nat) → Nat × List (Nat × Nat × Nat × Nat)
  | k, [] => (k, [])
  | k, (d, lo, hi, l) :: ms =>
    let take := decide (0 < k) && decide (l < hi)
    let (k1, r) := raiseOnce (if take then k - 1 else k) ms
    (k1, (d, lo, hi, if take then l + 1 else l) :: r)

/-- One round of R390 step 3. -/
def lowerOnce : Nat → List (Nat × Nat × Nat × Nat) → Nat × List (Nat × Nat × Nat × Nat)
  | k, [] => (k, [])
  | k, (d, lo, hi, l) :: ms =>
    let take := decide (0 < k) && decide (lo < l)
    let (k1, r) := lowerOnce (if take then k - 1 else k) ms
    (k1, (d, lo, hi, if take then l - 1 else l) :: r)

/-- Rounds until nothing is wanting; 3,001 suffice, since bounds lie within 3,000 W. -/
def rounds (f : Nat → List (Nat × Nat × Nat × Nat) → Nat × List (Nat × Nat × Nat × Nat)) :
    Nat → Nat → List (Nat × Nat × Nat × Nat) → List (Nat × Nat × Nat × Nat)
  | 0, _, ms => ms
  | n + 1, k, ms => if k = 0 then ms else let (k1, r) := f k ms; rounds f n k1 r

/-- The limits at join (R390): they sum to the total. -/
def joinLimits (total : Nat) (members : List BudgetMember) : List (Nat × Nat × Nat × Nat) :=
  let n := members.length
  let ms := (members.foldr insertMember []).map fun m => (m.device, m.lower, m.upper, min m.upper (max m.lower (total / max 1 n)))
  let sum := sumNat (ms.map fun m => m.2.2.2)
  if sum < total then rounds raiseOnce 3001 (total - sum) ms else rounds lowerOnce 3001 (sum - total) ms

/-- The member table is as R390 and R439 require: distinct devices, this one among them, and bounds within the limits. -/
def State.membersOk (s : State) (ms : List BudgetMember) : Bool :=
  (ms.all fun m => decide (m.device < 8192) && decide (2500 ≤ m.lower) && decide (m.lower ≤ m.upper) && decide (m.upper ≤ 5500)) &&
  decide ((ms.map (·.device)).Nodup) && ms.any fun m => m.device == s.deviceId

/-- Leaving a budget: the host's limit takes effect at the next evaluation. -/
def leaveBudget (p : Power) : Power :=
  if p.budget.joined then { p with budget := { seq := p.budget.seq, sent := p.budget.sent }, newLimit := some p.hostLimit } else p

/-- BUDGET_JOIN; the word at 0x1C, the number of members, is the length of the buffer's table. -/
def budgetJoin (c : Cmd) (group total keeper : Nat) (buf : HostBuf) (ms : List BudgetMember) (s : State) : State :=
  if bit c.flags 0 then finishWith c 0x0B 0 (s.modPower leaveBudget)
  else if 65535 < group then badField c 0x0B 0x10 s
  else if 8191 < keeper then badField c 0x0B 0x18 s
  else if buf.len < 2 || 8191 < buf.len then badField c 0x0B 0x1C s
  else if buf.addr % 64 ≠ 0 then badField c 0x0B 0x20 s
  else if buf.cause ≠ 0 then finish c 0x0B Status.hostAccess buf.cause [] s
  else if s.membersOk ms && (decide (total < sumNat (ms.map (·.lower))) || decide (sumNat (ms.map (·.upper)) < total)) then badField c 0x0B 0x14 s
  else if !(ms.any fun m => m.device == keeper) then badField c 0x0B 0x18 s
  else if !s.membersOk ms then badField c 0x0B 0x20 s
  -- a group whose keeper failed is joined again with a new keeper (R392; log 122)
  else if s.power.budget.joined && !(s.power.budget.group == group && s.power.budget.keeperId != keeper) then finishWith c 0x0B Status.budgetMember s
  else
    let lims := joinLimits total ms
    let own := limitOf lims s.deviceId
    let mine := keeper == s.deviceId
    let s1 := s.modPower fun p => { p with budget :=
      { p.budget with joined := true, keeper := mine, keeperId := keeper, group := group, total := total, members := if mine then lims else []
                      reports := [], lower := own.1, upper := own.2.1, slack := 0, idle := 0 } }
    finishWith c 0x0B 0 (if mine then sendLimits lims s1 else s1)

def execBudgetJoin (c : Cmd) (group total keeper : Nat) (buf : HostBuf) (ms : List BudgetMember) : State → Host.Outcome State Fault Refusal :=
  act (cmdOk c && decide (group < 2 ^ 32) && decide (total < 2 ^ 32) && decide (keeper < 2 ^ 32) && decide (buf.len < 2 ^ 32) &&
      (ms.length == buf.len || decide (buf.len < 2) || decide (8191 < buf.len)))
    (command c 0x0B (budgetJoin c group total keeper buf ms))

/-- ENERGY_QUERY. -/
def energyQuery (c : Cmd) : State → State :=
  jobCommand c 0x0C (fun _ => true) fun x s => finish c 0x0C 0 0 (energyRecord 2 c.job x) s

def execEnergyQuery (c : Cmd) : State → Host.Outcome State Fault Refusal := act (cmdOk c) (command c 0x0C (energyQuery c))

/-! ### ASSAY_REPORT, ALIAS_SET (R414, R290) -/

/-- The latest difference record's bytes; none has been written when its epoch is 0. -/
def diffBytes (d : DiffRec) : List Byte :=
  if d.epoch = 0 then []
  else
    leBytes (field 1 8 24 + field 0xA1 8 16 + d.entries.length % 65536) 4 ++ leBytes (d.cause % 1024) 4 ++ leBytes d.epoch 4 ++
    List.replicate 4 0 ++ ((d.entries.map fun e =>
      leBytes (field e.1 4 28 + field e.2.1 8 8 + e.2.2.1 % 256) 4 ++ leBytes (field e.2.2.2.1 16 16 + e.2.2.2.2 % 65536) 4).flatten)

/-- ASSAY_REPORT. -/
def assayReport (c : Cmd) (buf : HostBuf) (s : State) : State := toHost c 0x10 0x10 buf (diffBytes s.boot.diff) s

def execAssayReport (c : Cmd) (buf : HostBuf) : State → Host.Outcome State Fault Refusal :=
  act (cmdOk c) (command c 0x10 (assayReport c buf))

/-- The default position of a device id (R271). -/
def State.homeRoute (s : State) (d : Nat) : Route := { x := d % s.fin.dx, y := d / s.fin.dx % s.fin.dy, z := d / (s.fin.dx * s.fin.dy) }

/-- FLAGS CLEAR of ALIAS_SET: the table is empty, and the ids it held have their defaults again. -/
def clearAliases (s : State) : State :=
  let s1 := { s with fin := { s.fin with route := s.svc.aliases.foldl (fun m (e : Nat × Nat × Nat) => put e.2.1 (s.homeRoute e.2.1) m) s.fin.route } }
  { s1 with svc := { s1.svc with aliases := [], ident := if s1.svc.homeId = 8191 then none else some s1.svc.homeId } }

/-- An entry of the alias table binds an id to a position (R290 steps 1 to 3); `was` is the state whose ROUTE still names the position that
the id leaves, before a CLEAR. -/
def setAlias (was : State) (i d pos : Nat) (s : State) : State :=
  let q := s.coordsOf pos
  let h := s.homeRoute d
  let dead := match was.routeOf d with
    | some r => if s.posNumber r.x r.y r.z = pos then s.posNumber h.x h.y h.z else s.posNumber r.x r.y r.z
    | none => s.posNumber h.x h.y h.z
  let here := match s.fin.selfPos with | some (x, y, z) => s.posNumber x y z == pos | none => false
  { s with
    fin := { s.fin with route := put d { x := q.1, y := q.2.1, z := q.2.2 } s.fin.route
                        posState := upd 0 dead (fun v => v ||| 8) s.fin.posState }
    svc := { s.svc with aliases := put i (d, pos) s.svc.aliases, ident := if here then some d else s.svc.ident } }

/-- A word of the table, in the layout of ALIAS[i] [31:0] (R315): without VALID the entry binds nothing. -/
def takeAlias (was : State) (i w : Nat) (s : State) : State :=
  if bit w 31 then setAlias was i (bits w 25 13) (bits w 12 0) s
  else { s with svc := { s.svc with aliases := s.svc.aliases.filter fun e => e.1 != i } }

/-- A valid entry binds an id to a position of the domain other than its default (R290); the reserved bits of every entry are 0. -/
def State.aliasOk (s : State) (w : Nat) : Bool :=
  bits w 30 26 == 0 &&
  (!bit w 31 || (decide (bits w 25 13 < 8191) && decide (bits w 12 0 < s.fin.dx * s.fin.dy * s.fin.dz) && bits w 25 13 != bits w 12 0))

/-- ALIAS_SET. -/
def aliasSet (c : Cmd) (buf : HostBuf) (table : List Nat) (s : State) : State :=
  if 64 < table.length then badField c 0x11 0x10 s
  else if buf.addr % 64 ≠ 0 then badField c 0x11 0x18 s
  else if !table.isEmpty && buf.cause != 0 then finish c 0x11 Status.hostAccess buf.cause [] s
  else if !table.all s.aliasOk then badField c 0x11 0x18 s
  else
    let s1 := if bit c.flags 0 then clearAliases s else s
    finishWith c 0x11 0 (foldState table.zipIdx (fun t e => takeAlias (if bit c.flags 0 then s else t) e.2 e.1 t) s1)

def execAliasSet (c : Cmd) (buf : HostBuf) (table : List Nat) : State → Host.Outcome State Fault Refusal :=
  act (cmdOk c && table.all fun w => decide (w < 2 ^ 32)) (command c 0x11 (aliasSet c buf table))

/-! ### FW_UPDATE, ATTEST (R479, R482) -/

/-- An FW_UPDATE rung earlier has not completed (R479). -/
def State.fwBusy (s : State) (tag : Nat) : Bool := (s.hif.journal.takeWhile fun j => j.tag != tag).any fun j => j.opcode == 0x12

/-- FW_UPDATE: the slot the running image does not occupy, written whole, when the image passes R476. -/
def fwUpdate (c : Cmd) (buf : HostBuf) (im : FwImage) (s : State) : State :=
  let k := match s.sec.running with | some r => 1 - r | none => 0
  if buf.addr % 64 ≠ 0 then badField c 0x12 0x10 s
  else if 12582912 < buf.len then badField c 0x12 0x18 s
  else if s.fwBusy c.tag then finishWith c 0x12 Status.badState s
  else if buf.cause ≠ 0 then finish c 0x12 Status.hostAccess buf.cause [] s
  else if !s.sec.service || !s.eligible im || im.bodyDigest ≠ im.headDigest then finishWith c 0x12 Status.auth s
  else finish c 0x12 0 k [] (s.modSec fun q => if k = 0 then { q with slot0 := some im } else { q with slot1 := some im })

def execFwUpdate (c : Cmd) (buf : HostBuf) (im : FwImage) : State → Host.Outcome State Fault Refusal :=
  act (cmdOk c && decide (buf.len < 2 ^ 64)) (command c 0x12 (fwUpdate c buf im))

/-- A_STATE (R482): the debug scope in force, the running slot and its H_SVN. -/
def State.aState (s : State) : Nat :=
  field s.sec.scope 8 40 + field (s.sec.running.getD 0) 8 32 + (match s.sec.running.bind s.fwSlot with | some im => im.svn % 2 ^ 32 | none => 0)

/-- OTP bytes 0x020 to 0x06B (R472): the ARB bits are set from bit 0 up. -/
def otpBytes (c : Security) : List Byte :=
  leBytes c.vkd0 32 ++ leBytes c.vkd1 32 ++ leBytes (c.revoke % 4) 4 ++ leBytes (2 ^ c.arb - 1) 8

/-- What is known of the running slot's header bytes. -/
def headerKey (im : FwImage) : List Nat :=
  [im.magic, im.version, im.stepping, im.keySlot, flag im.revokeOther 1 + flag im.arbCommit 0, im.svn, im.bodyLen, im.build, im.headDigest, im.keyDigest]

/-- The measurement of an index (R481). -/
def State.measurement (s : State) (i : Nat) : List Byte :=
  if i = 3 then sha3_512 (otpBytes s.sec)
  else if i = 4 then sha3_512 (fuseBytes s.boot.fuses)
  else if i = 5 then sha3_512 (leBytes s.aState 8)
  else leBytes (Config.measurement i (if i = 2 then (match s.sec.running.bind s.fwSlot with | some im => headerKey im | none => []) else [])) 64

/-- The attestation response but its signature (R482). -/
def State.attestation (s : State) (nonce : Nat) : List Byte :=
  leBytes (field 1 8 24 + field 0xA1 8 16 + field 5 8 8) 4 ++ List.replicate 4 0 ++ leBytes s.boot.fuses.serial 8 ++ leBytes nonce 32 ++
  leBytes s.now 8 ++ leBytes s.aState 8 ++ leBytes Config.identityKey 64 ++ ((List.range 5).map fun m => s.measurement (m + 1)).flatten

/-- ATTEST. -/
def attest (c : Cmd) (nonce : Nat) (buf : HostBuf) (s : State) : State :=
  if buf.addr % 64 ≠ 0 then badField c 0x13 0x30 s
  else if buf.len < 50304 then finish c 0x13 Status.bufferShort 50304 [] s
  else if s.sec.entropyFailed || !s.sec.service then finishWith c 0x13 Status.auth s
  else toHost c 0x13 0x30 buf (s.attestation nonce ++ leBytes (Config.signature s.sec.signed) 49856)
         (s.modSec fun q => { q with signed := q.signed + 1 })

def execAttest (c : Cmd) (nonce : Nat) (buf : HostBuf) : State → Host.Outcome State Fault Refusal :=
  act (cmdOk c && decide (nonce < 2 ^ 256)) (command c 0x13 (attest c nonce buf))

/-! ### TRANSFER, ATOMIC (R442, R444) -/

/-- TRANSFER: it takes the lowest idle channel of 1 to 13, or waits for one. `ctrl` is the word at 0x24, whose bits [25:22] are those
of CTRL. -/
def transfer (c : Cmd) (src dst count ctrl vector : Nat) (s : State) : State :=
  if ctrl % 2 ^ 22 ≠ 0 ∨ 2 ^ 26 ≤ ctrl then badField c 0x14 0x24 s
  else if (1 ≤ vector ∧ vector ≤ 15) ∨ 255 < vector then badField c 0x14 0x28 s
  else haulAfter (s.modHif fun h =>
    { h with transfers := h.transfers ++ [{ tag := c.tag, src := src, dst := dst, count := count, modes := ctrl / 2 ^ 22, vector := vector }] })

def execTransfer (c : Cmd) (src dst count ctrl vector : Nat) : State → Host.Outcome State Fault Refusal :=
  act (cmdOk c && decide (src < 2 ^ 64) && decide (dst < 2 ^ 64) && decide (count < 2 ^ 32) && decide (ctrl < 2 ^ 32) && decide (vector < 2 ^ 32))
    (command c 0x14 (transfer c src dst count ctrl vector))

/-- The data of an ATOMIC packet (R295). -/
def atomicBytes (w : AtomicWait) : List Byte :=
  leBytes (field w.aop 4 28 + flag w.w64 27 + w.aseq % 2 ^ 24) 4 ++ leBytes w.a (if w.w64 then 8 else 4) ++ (if w.aop = 3 then leBytes w.b 4 else [])

/-- Channel 14 sends an atomic, for the first time or again with the same number. -/
def sendAtomic (w : AtomicWait) (s : State) : State :=
  let src := s.haulSrc (.cc 14)
  let tag := s.freeTag src
  let bs := atomicBytes w
  sendFrom controlRouter.1 controlRouter.2
    { op := Op.atomic, vc := 1, addr := w.addr, src := src, tag := tag, bytes := bs.length, data := bs, marks := [false]
      sgx := controlRouter.1, sgy := controlRouter.2 }
    (addOut { src := src, tag := tag, who := .atomic, addr := w.addr, len := bs.length, off := w.aseq, write := false, issued := s.now } s)

/-- ATOMIC: the next number of channel 14's sequence is in the journal before it is issued. `low` is the word at 0x18 below AOP: W64 and the
reserved bits. -/
def atomicCommand (c : Cmd) (addr aop low a b : Nat) (s : State) : State :=
  let w64 := bit low 27
  if aop = 0 ∨ 7 < aop ∨ (aop = 3 ∧ w64 = true) ∨ low % 2 ^ 27 ≠ 0 then badField c 0x15 0x18 s
  else
    let n := look 0 s.svc.aseq 14
    let w : AtomicWait := { tag := c.tag, job := c.job, addr := addr, aop := aop, w64 := w64, a := a, b := b, aseq := n, first := s.now, sent := s.now }
    sendAtomic w ({ s with svc := { s.svc with aseq := put 14 ((n + 1) % 2 ^ 24) s.svc.aseq } }.modHif fun h => { h with atomics := h.atomics ++ [w] })

def execAtomicCmd (c : Cmd) (addr aop low a b : Nat) : State → Host.Outcome State Fault Refusal :=
  act (cmdOk c && decide (addr < 2 ^ 64) && decide (aop < 16) && decide (low < 2 ^ 28) && decide (a < 2 ^ 64) && decide (b < 2 ^ 32))
    (command c 0x15 (atomicCommand c addr aop low a b))

/-- An atomic that was refused, or has had no answer, 1 ms after its latest sending: again with the same number, and after 20 ms
the command completes with ATOMIC_BUSY, or without any answer with TIMEOUT (log 15). -/
def retryAtomic (w : AtomicWait) (s : State) : State :=
  if s.now < w.sent + 1000000 then s
  else
    let s1 := expire (fun o => o.who == Requester.atomic && o.off == w.aseq) s
    if w.first + 20000000 ≤ s.now then
      (if w.refused then atomicDone w Status.atomicBusy 0 [] s1 else atomicDone w Status.haul Cause.timeout [] s1)
    else sendAtomic w (s1.modHif fun h => { h with atomics := h.atomics.map fun x => if x.tag = w.tag then { x with sent := s.now } else x })

/-- ATOMIC_RETRY. -/
def execAtomicRetry : State → Host.Outcome State Fault Refusal :=
  act true fun s => foldState s.hif.atomics (fun t w => retryAtomic w t) s

/-! ### TAG_QUERY (R439, R448) -/

/-- The entry for one tag: the recorded completion with DUP, or UNKNOWN_TAG. A command in progress has no completion to record: its entry
with DUP follows the completion, as for a doorbell rung again (R432; log 36). -/
def queryTag (t : Nat) (s : State) : State :=
  match s.hif.completed.find? fun e => e.1 == t with
  | some e => postEntry { e.2.2 with dup := true } s
  | none =>
    if s.hif.journal.any fun j => j.tag == t then
      s.modHif fun h => { h with journal := h.journal.map fun j => if j.tag = t then { j with repeats := j.repeats + 1 } else j }
    else postEntry (commandEntry t 0 255 Status.unknownTag 0 []) s

/-- TAG_QUERY: one entry per tag, then its own. -/
def tagQuery (c : Cmd) (tags : List Nat) (s : State) : State :=
  if tags.isEmpty || 28 < tags.length then badField c 0x17 0x10 s
  else finish c 0x17 0 tags.length [] (foldState tags (fun t g => queryTag g t) s)

def execTagQuery (c : Cmd) (tags : List Nat) : State → Host.Outcome State Fault Refusal :=
  act (cmdOk c && tags.all fun t => decide (t < 2 ^ 64)) (command c 0x17 (tagQuery c tags))

end Sys2Proof.Machine
end

