-- ==== Sys2Proof/Machine/Gauges.lean ====
section
/-! DEFINITION. Gauges, the fault log, the device-fatal order and the Hakar cores (chapter 16, R447, R449): their commands and
events. -/

namespace Sys2Proof.Machine
open Sys2Proof

/-! ### Vectors (R466) -/

/-- Signal a fault or gauge vector, at most once in every 100 µs: a record mirrored sooner shares the next message. -/
def faultSignal (v : Nat) (s : State) : State :=
  match s.faults.holdoff.find? fun e => e.1 == v && decide (s.now < e.2 + 100000) with
  | some _ => s.modFaults fun f => { f with owed := addOnce v f.owed }
  | none => signalVector v (s.modFaults fun f =>
      { f with holdoff := (f.holdoff.filter fun e => e.1 != v) ++ [(v, s.now)], owed := f.owed.filter fun w => w != v })

/-- VECTOR_HOLDOFF_EXPIRY: the spacing ends, and the shared message goes out. -/
def vectorHoldoff (v : Nat) (s : State) : State :=
  match s.faults.holdoff.find? fun e => e.1 == v with
  | none => s
  | some (_, t) =>
    if s.now < t + 100000 then s
    else
      let s1 := s.modFaults fun f => { f with holdoff := f.holdoff.filter fun e => e.1 != v }
      if s.faults.owed.contains v then faultSignal v s1 else s1

def execVectorHoldoffExpiry (v : Nat) : State → Host.Outcome State Fault Refusal := act (decide (v < 256)) (vectorHoldoff v)

/-- The vectors of a record's type and class: every row of the table that names it. -/
def recordVectors (r : FaultRec) : List Nat :=
  (if r.cls = 7 then [2] else []) ++ (if r.cls = 3 ∨ r.cls = 4 ∨ r.cls = 6 then [3] else []) ++
  (if r.type = RecType.memCe then [4] else []) ++ (if r.type = RecType.memUe then [5] else []) ++
  (if [RecType.link, RecType.router, RecType.slice, RecType.edge].contains r.type ∧ r.cls ≤ 5 then [6] else []) ++
  (if [RecType.power, RecType.thermal, RecType.hakar].contains r.type ∧ r.cls ≤ 5 then [7] else []) ++
  (if r.type = RecType.hostAccess then [8] else []) ++ (if r.type = RecType.gauge then [9] else [])

/-! ### The log (R453, R454) -/

/-- A record that Hakar itself makes, to be mirrored (R447, R463). -/
def hakarRecord (r : FaultRec) (s : State) : State :=
  s.modFaults fun f => { f with unmirrored := f.unmirrored ++ [{ r with tide := s.now, epoch := s.boot.epoch }] }

/-- A record is coalesced into the newest of the log (R454). -/
def coalesces (r : FaultRec) (e : LogRec) : Bool :=
  decide (r.cls ≤ 2) && r.type == e.record.type && r.code == e.record.code && r.unitCls == e.record.unitCls &&
  r.unitIdx == e.record.unitIdx && r.cls == e.record.cls && decide (e.record.tide ≤ r.tide) && decide (r.tide ≤ e.record.tide + 1000000)

/-- A record enters the log under the next number; a full ring gives up its oldest (R453). -/
def mirror (r : FaultRec) (s : State) : State :=
  let f := s.faults
  let lost := if 8192 ≤ f.log.length then f.log.getLast? else none
  let s1 := s.modFaults fun f =>
    { f with log := ({ seq := f.next, record := r } :: f.log).take 8192, next := f.next + 1
             classes := bump f.classes (r.cls % 8) 1, lost := satCount f.lost (if lost.isSome then 1 else 0) }
  let s2 := foldState (recordVectors r) (fun t v => faultSignal v t) s1
  match lost with
  | some e => if f.readTo < e.seq then faultSignal 10 s2 else s2
  | none => s2

/-- REPEAT of the newest record rises and F_JOBS takes in the report's (R454). -/
def coalesce (r : FaultRec) (f : Faults) : Faults :=
  match f.log with
  | [] => f
  | e :: es => { f with log := { e with repeats := min 65535 (e.repeats + 1), record := { e.record with jobs := e.record.jobs ||| r.jobs } } :: es }

/-- One report is mirrored or coalesced. -/
def logRecord (r : FaultRec) (s : State) : State :=
  match s.faults.log with
  | e :: _ => if coalesces r e then s.modFaults (coalesce r) else mirror r s
  | [] => mirror r s

/-! ### The device-fatal order (R467) -/

/-- Steps 1 to 4: FATAL_N, FATAL_RECORD, BOOT_STATUS fatal and the I3C notice; vector 2 is signalled with the record (R466). -/
def fatalOrder (e : LogRec) (s : State) : State :=
  ibi 0x02 (bootStep (setBoot .fatal) (s.modFaults fun f => { f with fatalN := true, fatal := some e }))

/-- Step 5: a job end entry, reason DEVICE, for every job. -/
def endAllJobs (s : State) : State :=
  foldState (s.jobs.map (·.1)) (fun t j =>
    let t1 := endBySelf j 0x08 0 t
    match t1.job? j with
    | some x => (match x.ending with
      | some e => postEntry (endEntry j x (0x08, 0, e.2.2)) (t1.setJob j { x with ending := none })
      | none => t1)
    | none => t1) s

/-- A device-fatal record just mirrored: the first of a reset takes the fatal order, later ones are in the log alone. -/
def afterFatal (s : State) : State :=
  match s.faults.fatal, s.faults.log with
  | none, e :: _ => endAllJobs (fatalOrder e s)
  | _, _ => s

/-- A record is mirrored, with what a device-fatal one brings. -/
def mirrorRecord (r : FaultRec) (s : State) : State := if r.cls = 7 then afterFatal (mirror r s) else logRecord r s

/-- FAULT_MIRROR: the record received longest ago. -/
def faultMirror (s : State) : State :=
  match (if s.hif.coreRuns then s.faults.unmirrored else []) with
  | [] => s
  | r :: rest => mirrorRecord r (s.modFaults fun f => { f with unmirrored := rest })

def execFaultMirror : State → Host.Outcome State Fault Refusal := act true faultMirror

/-- The same fault, whenever it was seen. -/
def sameFault (a b : FaultRec) : Bool :=
  a.type == b.type && a.cls == b.cls && a.code == b.code && a.unitCls == b.unitCls && a.unitIdx == b.unitIdx

/-- DEVICE_FATAL: the report is taken from where it waits, if a unit has made it, and mirrored ahead of every other. -/
def deviceFatal (r : FaultRec) (s : State) : State :=
  if !s.hif.coreRuns then s
  else
    let f := s.faults
    let r1 : FaultRec := ((f.unmirrored ++ f.reports).find? (sameFault r)).getD { r with tide := s.now, epoch := s.boot.epoch }
    mirrorRecord r1 (s.modFaults fun f => { f with unmirrored := f.unmirrored.erase r1, reports := f.reports.erase r1 })

def execDeviceFatal (r : FaultRec) : State → Host.Outcome State Fault Refusal :=
  act (r.cls == 7 && decide (r.type < 256) && decide (r.code < 65536) && decide (r.unitCls < 16) && decide (r.unitIdx < 65536) &&
       decide (r.addr < 2 ^ 64) && decide (r.detail < 2 ^ 32) && decide (r.jobs < 65536)) (deviceFatal r)

/-! ### FAULT_READ (R453) -/

/-- The records a FAULT_READ returns, oldest first: a LOST record first when the log no longer holds FROM_SEQ. -/
def State.faultRead (s : State) (fromSeq max : Nat) : List LogRec :=
  let f := s.faults
  let held := f.log.reverse.filter fun e => decide (fromSeq ≤ e.seq)
  let lost : List LogRec :=
    if fromSeq ≠ 0 ∧ fromSeq < f.oldest then
      [{ seq := fromSeq, record := { type := RecType.lost, cls := 0, tide := s.now, detail := f.oldest - fromSeq, epoch := s.boot.epoch } }]
    else []
  (lost ++ held).take max

/-- FAULT_READ. The next number is one above the last real record returned; when none is returned the manual gives no number, and
it is a free value. -/
def faultRead (c : Cmd) (fromSeq : Nat) (buf : HostBuf) (max : Nat) (s : State) : State :=
  if buf.addr % 64 ≠ 0 then badField c 0x0F 0x18 s
  else if buf.cause ≠ 0 then finish c 0x0F Status.hostAccess buf.cause [] s
  else
    let rs := s.faultRead fromSeq max
    let s1 := { s with hostMem := writeBytes s.hostMem buf.addr (rs.map recordBytes).flatten }
    match (rs.filter fun e => e.record.type != RecType.lost).getLast? with
    | some e => finish c 0x0F 0 rs.length (words64 (e.seq + 1)) (s1.modFaults fun f => { f with readTo := Nat.max f.readTo e.seq })
    | none => let (v, s2) := s1.draw; finish c 0x0F 0 rs.length (words64 (v % 2 ^ 64)) s2

def execFaultRead (c : Cmd) (fromSeq : Nat) (buf : HostBuf) (max : Nat) : State → Host.Outcome State Fault Refusal :=
  act (cmdOk c && decide (fromSeq < 2 ^ 64) && decide (max < 2 ^ 32)) (command c 0x0F (faultRead c fromSeq buf max))

/-! ### Gauge windows (R459 to R463) -/

/-- A latency source (R457). -/
def latencySource (src : Nat) : Bool := decide (1 ≤ src) && decide (src ≤ 5)

/-- A level source, with its minimum SAMPLE_NS (R457). -/
def levelMin (src : Nat) : Option Nat :=
  if src = 0x10 ∨ src = 0x12 ∨ src = 0x14 then some 1000
  else if src = 0x11 then some 100000
  else if src = 0x13 then some 1000000
  else if src = 0x15 then some 10000000
  else none

/-- The units a source has (R457). -/
def sourceIndex (src i : Nat) : Bool :=
  if src = 0x01 then decide (i < 1344)
  else if src = 0x02 then decide (i < 5376 + 32)
  else if src = 0x03 then decide (1 ≤ i) && decide (i ≤ 0x17)
  else if src = 0x04 ∨ src = 0x05 then decide (i < 16)
  else if src = 0x10 ∨ src = 0x11 then decide (i < 108)
  else if src = 0x12 then decide (i < 12)
  else if src = 0x14 then decide (i < 1620)
  else i == 0

/-- The histogram bin of a value (R462); a scalar gauge has none. -/
def binOf (d : GaugeDesc) (v : Int) : Option Nat :=
  if d.kind = 0 then none
  else if v < d.base then some 0
  else if d.kind = 1 then some (min 31 (1 + ((v - d.base) / (d.width : Int)).toNat))
  else some (min 31 (1 + Nat.log2 ((v / d.base).toNat)))

/-- Count one value of an event time into a window (R461). -/
def addValue (d : GaugeDesc) (v : Int) (t : Nat) (w : Snapshot) : Snapshot :=
  let first := w.count == 0
  let low := first || decide (v < w.min) || (v == w.min && decide (t < w.minTide))
  let high := first || decide (w.max < v) || (v == w.max && decide (t < w.maxTide))
  { w with
    count := w.count + 1, sum := clampInt (-(2 ^ 63 - 1)) (2 ^ 63 - 1) (w.sum + v)
    min := if low then v else w.min, minTide := if low then t else w.minTide
    max := if high then v else w.max, maxTide := if high then t else w.maxTide
    bins := match binOf d v with | some i => bump w.bins i 1 | none => w.bins }

/-- Window k with nothing counted. -/
def emptyWindow (d : GaugeDesc) (k : Nat) : Snapshot :=
  { source := d.source, kind := d.kind, index := d.index, start := k * d.windowNs, stop := (k + 1) * d.windowNs }

/-- Window k as it stands. -/
def Gauge.window (g : Gauge) (k : Nat) : Snapshot := match g.opens.find? fun e => e.1 == k with | some e => e.2 | none => emptyWindow g.desc k

/-- A snapshot enters the ring of eight, replacing the oldest. -/
def pushSnapshot (w : Snapshot) (l : List Snapshot) : List Snapshot := (l ++ [w]).drop ((l.length + 1) - 8)

/-- LOW_HIT and HIGH_HIT of a window (R463). -/
def thresholds (d : GaugeDesc) (w : Snapshot) : Snapshot :=
  { w with lowHit := d.lowEn && decide (0 < w.count) && decide (w.min < d.low), highHit := d.highEn && decide (0 < w.count) && decide (d.high < w.max) }

/-- Window k of gauge i closes (R461, R463): its snapshot enters the ring, and a threshold hit writes a GAUGE record. -/
def closeWindow (i k : Nat) (s : State) : State :=
  let g := s.gauge i
  let w := thresholds g.desc (g.window k)
  let s1 := s.modGauge i fun g =>
    { g with opens := g.opens.filter fun e => e.1 != k, ring := pushSnapshot w g.ring, since := (k + 1) * g.desc.windowNs }
  if w.lowHit || w.highHit then
    hakarRecord { type := RecType.gauge, cls := 0, code := i, addr := w.start, detail := flag w.highHit 1 + flag w.lowHit 0 } s1
  else s1

/-- WINDOW_CLOSE: 10 µs after its end the oldest open window closes. -/
def windowClose (i : Nat) (s : State) : State :=
  let g := s.gauge i
  let k := g.since / g.desc.windowNs
  if g.enabled && decide ((k + 1) * g.desc.windowNs + 10000 ≤ s.now) then closeWindow i k s else s

def execWindowClose (i : Nat) : State → Host.Outcome State Fault Refusal := act (decide (i < 64)) (windowClose i)

/-- A value timed at t reaches gauge i: in its window, late, or before the configuration counts (R459, R461, R464). A window past its
closing time takes none, whether its snapshot has been copied yet or not. -/
def countValue (i : Nat) (v : Int) (t : Nat) (s : State) : State :=
  let g := s.gauge i
  if t < g.began then s
  else if t < g.since || decide ((t / g.desc.windowNs + 1) * g.desc.windowNs + 10000 < s.now) then
    s.modFaults fun f => { f with late := satCount f.late 1 }
  else
    let k := t / g.desc.windowNs
    s.modGauge i fun g => { g with opens := put k (addValue g.desc v t (g.window k)) g.opens }

/-- GAUGE_EVENT: an event of a latency source. -/
def gaugeEvent (i : Nat) (v : Int) (t : Nat) (s : State) : State :=
  if (s.gauge i).enabled && latencySource (s.gauge i).desc.source then countValue i v t s else s

def execGaugeEvent (i : Nat) (v : Int) (t : Nat) : State → Host.Outcome State Fault Refusal :=
  act (decide (i < 64) && decide (-(2 ^ 63) ≤ v) && decide (v < 2 ^ 63) && decide (t < 2 ^ 64)) (gaugeEvent i v t)

/-- The measured unit is powered and running (R460). -/
def State.measurable (s : State) (d : GaugeDesc) : Bool :=
  if d.source = 0x10 ∨ d.source = 0x11 then !s.regionDown d.index && (s.region d.index).clk == .running
  else if d.source = 0x14 then (s.router (d.index % 60) (d.index / 60)).state == 0
  else true

/-- Request-channel units in a router's buffers (R457). -/
def State.requestUnits (s : State) (gx gy : Nat) : Nat :=
  sumNat ((s.net.flight.filter fun t => t.k.vc == 1).map fun t =>
    (t.units.filter fun u => u.any fun a => a.gx == gx && a.gy == gy).length)

/-- What a level source reads (R457): the block's own latest value, and for VCORE what the detectors read, as the command brings it. -/
def State.levelValue (s : State) (d : GaugeDesc) (v : Int) : Int :=
  if d.source = 0x11 then (s.region d.index).temp
  else if d.source = 0x12 then (s.fieldPwr d.index).current
  else if d.source = 0x13 then s.power.now
  else if d.source = 0x14 then s.requestUnits (d.index % 60) (d.index / 60)
  else if d.source = 0x15 then s.power.budget.slack
  else v

/-- LEVEL_SAMPLE: a level source is sampled when the tide count is a multiple of SAMPLE_NS. -/
def levelSample (i : Nat) (v : Int) (s : State) : State :=
  let g := s.gauge i
  if g.enabled && (levelMin g.desc.source).isSome && s.now % g.desc.sampleNs == 0 && s.measurable g.desc then
    countValue i (s.levelValue g.desc v) s.now s
  else s

def execLevelSample (i : Nat) (v : Int) : State → Host.Outcome State Fault Refusal :=
  act (decide (i < 64) && decide (-(2 ^ 63) ≤ v) && decide (v < 2 ^ 63)) (levelSample i v)

/-! ### GAUGE_CONFIG, GAUGE_READ (R458, R464, R465) -/

/-- A signed 64-bit value. -/
def inI64 (v : Int) : Bool := decide (-(2 ^ 63) ≤ v) && decide (v < 2 ^ 63)

/-- The fields of a descriptor are in range (R458). -/
def descOk (d : GaugeDesc) : Bool :=
  d.reservedZero && inI64 d.base && inI64 d.low && inI64 d.high && decide (d.width < 2 ^ 64) &&
  decide (d.kind < 3) && (d.source == 0 ||
   (sourceIndex d.source d.index &&
    decide (1000 ≤ d.windowNs) && decide (d.windowNs ≤ 3600000000000) && d.windowNs % 1000 == 0 &&
    (match levelMin d.source with
     | some m => d.sampleNs % 1000 == 0 && decide (m ≤ d.sampleNs) && decide (d.sampleNs ≤ d.windowNs) && d.windowNs % d.sampleNs == 0
     | none => latencySource d.source && d.sampleNs == 0) &&
    (if d.kind = 1 then decide (1 ≤ d.width) else if d.kind = 2 then decide (0 < d.base) && d.width == 0 else true)))

/-- The windows of a gauge that have ended at t and are not closed, oldest first. -/
def Gauge.ended (g : Gauge) (t : Nat) : List Nat :=
  (List.range (t / g.desc.windowNs - g.since / g.desc.windowNs)).map fun k => g.since / g.desc.windowNs + k

/-- The windows of gauge i end at the tide count now (R464): those past their end close, the current one enters the ring with
PARTIAL set. -/
def endWindows (i : Nat) (s : State) : State :=
  let g := s.gauge i
  if !g.enabled then s
  else
    let w := g.desc.windowNs
    let s1 := foldState (g.ended s.now) (fun t k => closeWindow i k t) s
    if s.now < g.began then s1
    else s1.modGauge i fun g => { g with ring := pushSnapshot { g.window (s.now / w) with partialWin := true, stop := s.now } g.ring, opens := [] }

/-- The first boundary of a window length at or after t + 10 µs. -/
def firstBoundary (t w : Nat) : Nat := (t + 10000 + w - 1) / w * w

/-- GAUGE_CONFIG. -/
def gaugeConfig (c : Cmd) (i : Nat) (buf : HostBuf) (d : GaugeDesc) (s : State) : State :=
  if 63 < i then badField c 0x0D 0x10 s
  else if buf.addr % 64 ≠ 0 then badField c 0x0D 0x18 s
  else if buf.len ≠ 64 then badField c 0x0D 0x20 s
  else if buf.cause ≠ 0 then finish c 0x0D Status.hostAccess buf.cause [] s
  else if !descOk d then badField c 0x0D 0x18 s
  else
    let b := firstBoundary s.now d.windowNs
    finishWith c 0x0D 0 ((endWindows i s).modGauge i fun g =>
      { enabled := d.source != 0, desc := d, began := b, since := b, opens := [], ring := g.ring })

def execGaugeConfig (c : Cmd) (i : Nat) (buf : HostBuf) (d : GaugeDesc) : State → Host.Outcome State Fault Refusal :=
  act (cmdOk c && decide (i < 2 ^ 32)) (command c 0x0D (gaugeConfig c i buf d))

/-- A snapshot's 256 bytes (R465). -/
def snapshotBytes (isOpen : Bool) (w : Snapshot) : List Byte :=
  leBytes (field w.source 8 24 + field w.kind 2 22 + flag w.partialWin 21 + flag isOpen 20 + flag w.lowHit 19 + flag w.highHit 18 + w.index % 65536) 4 ++
  List.replicate 4 0 ++ leBytes w.start 8 ++ leBytes w.stop 8 ++ leBytes w.count 8 ++ leBytes (unsigned 64 w.sum) 8 ++
  leBytes (unsigned 64 w.min) 8 ++ leBytes (unsigned 64 w.max) 8 ++ leBytes w.minTide 8 ++ leBytes w.maxTide 8 ++ List.replicate 24 0 ++
  ((List.range 32).map fun i => leBytes (look 0 w.bins i) 4).flatten ++ List.replicate 32 0

/-- The windows of a gauge not yet closed, as a copy at t shows them. -/
def Gauge.openAt (g : Gauge) (t : Nat) : List Snapshot :=
  if !g.enabled || decide (t < g.began) then []
  else
    (g.ended t ++ [t / g.desc.windowNs]).map fun k => { g.window k with stop := t }

/-- GAUGE_READ: the ring, oldest first, then what is open, as many whole snapshots as the buffer holds. -/
def gaugeRead (c : Cmd) (i : Nat) (buf : HostBuf) (s : State) : State :=
  if 63 < i then badField c 0x0E 0x10 s
  else if buf.addr % 64 ≠ 0 then badField c 0x0E 0x18 s
  else
    let g := s.gauge i
    let all := g.ring.map (snapshotBytes false) ++ (g.openAt s.now).map (snapshotBytes true)
    if buf.len < 256 then finish c 0x0E Status.bufferShort (256 * all.length) [] s
    else toHost c 0x0E 0x18 buf (all.take (buf.len / 256)).flatten s

def execGaugeRead (c : Cmd) (i : Nat) (buf : HostBuf) : State → Host.Outcome State Fault Refusal :=
  act (cmdOk c && decide (i < 2 ^ 32)) (command c 0x0E (gaugeRead c i buf))

/-! ### The board's registers (R468) -/

/-- DIFF_OFFSET, a multiple of 4. -/
def execDiffOffset (v : Nat) : State → Host.Outcome State Fault Refusal :=
  act (decide (v < 2 ^ 32)) fun s => s.modBoot fun b => { b with diffOffset := v / 4 * 4 }

/-- DIFF_DATA: 4 bytes at DIFF_OFFSET, 0 beyond the record. -/
def State.diffData (s : State) : Nat := leNat (((diffBytes s.boot.diff).drop s.boot.diffOffset).take 4)

/-- DIFF_DATA: a read advances DIFF_OFFSET by 4. -/
def execDiffData : State → Host.Outcome State Fault Refusal :=
  act true fun s => s.modBoot fun b => { b with diffOffset := (b.diffOffset + 4) % 2 ^ 32 }

/-- TEMP_MAX: the highest region temperature read in the latest 100 µs. -/
def State.tempMax (s : State) : Int :=
  match s.power.temps.filter fun e => decide (s.now < e.1 + 100000) with
  | [] => 0
  | e :: es => es.foldl (fun m x => max m x.2) e.2

/-- The I3C registers, by index; DIFF_DATA's advance is the row of its own. -/
def State.i3cReg (s : State) (k : Nat) : Nat :=
  if k = 0x00 then readBoot s.boot 0
  else if k = 0x01 then readBoot s.boot 4
  else if k = 0x02 then
    (match s.faults.fatal with | some e => flag true 31 + field e.record.type 8 16 + e.record.code % 65536 | none => 0)
  else if k = 0x03 then unsigned 16 s.tempMax
  else if k = 0x04 then readPower s 0x08
  else if k = 0x05 then readFaults s 0
  else if 0x10 ≤ k ∧ k < 0x20 then readFaults s (0x40 + 4 * (k - 0x10))
  else if k = 0x20 then s.boot.diffOffset
  else if k = 0x21 then s.diffData
  else 0

/-! ### Hakar cores (R447, R449) -/

/-- HEARTBEAT. -/
def execHeartbeat : State → Host.Outcome State Fault Refusal :=
  act true fun s => if s.hif.coreRuns then s.modHif fun h => { h with heartbeat := s.now } else s

/-- Entries RING_HEAD to RING_TAIL − 1 are written again, each at its own index. -/
def rewriteEntries (s : State) : State :=
  if s.hif.ringOn then foldState s.hif.written (fun t e => ringSignal (putEntry e.1 e.2 t)) s else s

/-- The takeover entry stands ahead of the completions held (R447). -/
def postTakeover (e : Entry) (s : State) : State :=
  if s.hif.room then writeEntry e s else s.modHif fun h => { h with heldEntries := e :: h.heldEntries }

/-- CORE_TAKEOVER: 1 ms without a heartbeat. With no standby left the fault is device-fatal, and the watchdog alone acts. -/
def coreTakeover (s : State) : State :=
  if !s.hif.coreRuns || decide (s.now < s.hif.heartbeat + 1000000) then s
  else match s.hif.standby with
    | n :: rest =>
      let tail := s.hif.tail
      let s1 := rewriteEntries (s.modHif fun h => { h with lead := n, standby := rest, takeovers := satCount h.takeovers 1, heartbeat := s.now })
      let s2 := postTakeover { kind := 6, info := field s1.hif.takeovers 8 8 + n % 4, payload := words64 s.now ++ words64 tail } s1
      hakarRecord { type := RecType.hakar, cls := 0, code := n, unitCls := UnitCls.domain, unitIdx := 132, detail := s2.hif.takeovers } s2
    | [] =>
      let r : FaultRec := { type := RecType.hakar, cls := 7, code := 0xF, unitCls := UnitCls.domain, unitIdx := 132, tide := s.now
                            detail := s.hif.takeovers, jobs := s.allJobs, epoch := s.boot.epoch }
      let s1 := s.modHif fun h => { h with coreRuns := false }
      if s.faults.fatal.isSome then s1 else faultSignal 2 (fatalOrder { seq := 0, record := r } s1)

def execCoreTakeover : State → Host.Outcome State Fault Refusal := act true coreTakeover

/-! ### INTERNAL_CHECK_FAIL (R138) -/

/-- An internal check of a pan fails: HW_CHECK with the unit that failed, 0 to 6. A pan that is switched off has no check. -/
def internalCheck (p unit : Nat) (s : State) : State :=
  if s.regionDown (regionOf p) then s else panFault p PanCode.hwCheck unit none s

def execInternalCheckFail (p unit : Nat) : State → Host.Outcome State Fault Refusal :=
  act (decide (p < 1620) && decide (unit < 7)) (internalCheck p unit)

end Sys2Proof.Machine
end

