-- ==== Sys2Proof/Machine/Security.lean ====
section
/-! DEFINITION. The security subsystem's challenges, tokens and SPDM requests (chapter 17), and debug access to a pan store
(R169, R171). -/

namespace Sys2Proof.Machine
open Sys2Proof

/-- An answer goes out on JTAG or the DOE mailbox. -/
def reply (a : Answer) (s : State) : State := s.modSec fun c => { c with answers := c.answers ++ [a] }

/-- A request of the module: it offers no service when a self-test failed (R471). -/
def service (f : State → State) (s : State) : State := if s.sec.service then f s else s

/-! ### Debug unlock (R484 to R487) -/

/-- DBG_CHALLENGE (R485): the fresh nonce replaces any earlier one. -/
def dbgChallenge (nonce : Nat) (s : State) : State :=
  reply (.nonce s.boot.fuses.serial nonce) (s.modSec fun c => { c with nonce := some (nonce, s.now) })

def execDbgChallenge (nonce : Nat) : State → Host.Outcome State Fault Refusal :=
  act (decide (nonce < 2 ^ 256)) (service (dbgChallenge nonce))

/-- The nonce in force: it expires 600 s after its issue (R485). -/
def State.liveNonce (s : State) : Option Nat :=
  match s.sec.nonce with
  | some (n, t) => if s.now < t + 600000000000 then some n else none
  | none => none

/-- The token's signature and key are good: its layout is R484's, and its key slot is the running image's and is not revoked. -/
def State.tokenKeyOk (s : State) (t : DebugToken) : Bool :=
  t.sigOk && t.header == 0xDB61 && t.reservedZero && decide (t.scope < 8) &&
  (match s.sec.running.bind s.fwSlot with
   | some im => im.keySlot == t.keySlot && !bit s.sec.revoke t.keySlot
   | none => false)

/-- The status DBG_TOKEN returns (R485, R488). -/
def State.tokenStatus (s : State) (t : DebugToken) : Nat :=
  if s.sec.entropyFailed then 4
  else if !s.tokenKeyOk t then 1
  else if t.serial ≠ s.boot.fuses.serial ∨ s.liveNonce ≠ some t.nonce then 2
  else if !s.jobs.isEmpty || !s.hif.journal.isEmpty then 3
  else 0

/-- DBG_TOKEN: the nonce is consumed; an accepted token closes the doorbells and the zeroisation begins (R486 steps 1 and 2). -/
def dbgToken (t : DebugToken) (s : State) : State :=
  let st := s.tokenStatus t
  let s1 := reply (.token st) (s.modSec fun c => { c with nonce := none, tokenStatus := some st })
  if st = 0 then (s1.modSec fun c => { c with unlocking := some t.scope }).modHif fun h => { h with taking := false } else s1

def execDbgToken (t : DebugToken) : State → Host.Outcome State Fault Refusal :=
  act (decide (t.header < 65536) && decide (t.keySlot < 256) && decide (t.scope < 256) && decide (t.serial < 2 ^ 64) && decide (t.nonce < 2 ^ 256))
    (service (dbgToken t))

/-- Every memory with valid check bits holds zeros, and the journal, the tally lots, the fault log and FATAL_RECORD are empty
(R486 step 2). -/
def zeroiseMemories (s : State) : State :=
  { s with
    storeMem := [], brineMem := [], cellarMem := [], mirror := []
    pans := s.pans.map fun (e : Nat × Pan) => (e.1, { e.2 with store := { e.2.store with poison := [], errs := [] } })
    slices := s.slices.map fun (e : Nat × Slice) => (e.1, { e.2 with poison := [], errs := [] })
    chans := s.chans.map fun (e : Nat × Chan) => (e.1, { e.2 with poison := [], errs := [] })
    jobs := s.jobs.map fun (e : Nat × Job) => (e.1, { e.2 with tally := [] })
    hif := { s.hif with journal := [], completed := [] }
    faults := { s.faults with log := [], fatal := none } }

/-- DEBUG_ZEROISE_DONE: the zeroisation ends, the scope is enabled and doorbells are taken again (R486 steps 3 and 4). -/
def debugZeroiseDone (s : State) : State :=
  match s.sec.unlocking with
  | none => s
  | some sc => ((zeroiseMemories s).modSec fun c => { c with unlocking := none, scope := sc }).modHif fun h => { h with taking := true }

def execDebugZeroiseDone : State → Host.Outcome State Fault Refusal := act true debugZeroiseDone

/-- NONCE_EXPIRY (R485): 600 s after its issue. -/
def nonceExpiry (s : State) : State := if s.liveNonce.isNone then s.modSec fun c => { c with nonce := none } else s

def execNonceExpiry : State → Host.Outcome State Fault Refusal := act true nonceExpiry

/-- DEBUG_ACCESS (R169, R171, R484): one 64-bit word of a pan's store, as a narrow request of port 0xE. The port refuses it
while debug is locked, and answers asleep where the unit's bank is not awake. -/
def debugAccess (p addr : Nat) (write : Option Nat) (s : State) : State :=
  if !bit s.sec.scope 1 then reply (.debug 0 3) s
  else if (s.banksOf p addr 8).any fun b => s.bankMode p b != .awake then
    reply (.debug 0 1) s
  else enqueue p 0xE addr 8 (write.map fun v => leBytes v 8) [] { op := 0, bytes := 8 } s

def execDebugAccess (p addr : Nat) (write : Option Nat) : State → Host.Outcome State Fault Refusal :=
  act (decide (p < 1620) && decide (addr < 2 ^ 23) && decide (addr % 8 = 0) && (match write with | some v => decide (v < 2 ^ 64) | none => true))
    (debugAccess p addr write)

/-! ### SPDM (R480, R481, R483, R488) -/

/-- GET_VERSION: SPDM 1.3. -/
def execGetVersion : State → Host.Outcome State Fault Refusal := act true (service (reply (.version 1 3)))

/-- GET_CAPABILITIES. -/
def execGetCapabilities : State → Host.Outcome State Fault Refusal := act true (service (reply (.capabilities true true true false)))

/-- NEGOTIATE_ALGORITHMS. -/
def execNegotiateAlgorithms : State → Host.Outcome State Fault Refusal :=
  act true (service (reply (.algorithms "TPM_ALG_SHA3_512" 0x1F3D 0x0001)))

/-- A signed answer: a fresh nonce of the entropy source, a free value, and the next signature of the identity key (log 12). -/
def signedReply (f : Nat → Nat → Answer) (s : State) : State :=
  if s.sec.entropyFailed then reply .unspecified s
  else
    let (n, s1) := s.draw
    reply (f (n % 2 ^ 256) (Config.signature s1.sec.signed)) (s1.modSec fun c => { c with signed := c.signed + 1 })

/-- The five measurement blocks. -/
def State.measurements (s : State) : List (Nat × List Byte) := (List.range 5).map fun m => (m + 1, s.measurement (m + 1))

/-- CHALLENGE. -/
def challenge (nonce : Nat) (s : State) : State := signedReply (fun n g => .challenge nonce n (s.measurements.map (·.2)) g) s

def execChallenge (nonce : Nat) : State → Host.Outcome State Fault Refusal := act (decide (nonce < 2 ^ 256)) (service (challenge nonce))

/-- GET_MEASUREMENTS: the block of the index asked for, all of them for 0xFF, none for an index without one (log 24). -/
def getMeasurements (index : Nat) (s : State) : State :=
  signedReply (fun n g => .measurements (if index = 0xFF then s.measurements else s.measurements.filter fun (e : Nat × List Byte) => e.1 == index) n g) s

def execGetMeasurements (index : Nat) : State → Host.Outcome State Fault Refusal := act (decide (index < 256)) (service (getMeasurements index))

/-- SPDM_UNSUPPORTED_REQUEST: any other request. -/
def execSpdmUnsupportedRequest (code : Nat) : State → Host.Outcome State Fault Refusal :=
  act (decide (code < 256)) (service (reply .unsupportedRequest))

/-- ENTROPY_TEST_FAIL (R488). -/
def execEntropyTestFail : State → Host.Outcome State Fault Refusal := act true fun s => s.modSec fun c => { c with entropyFailed := true }

end Sys2Proof.Machine
end

