-- ==== Sys2Proof/Machine/Dispatch.lean ====
section
/-! DEFINITION. The one dispatch from a command to its meaning. -/

namespace Sys2Proof.Machine
open Sys2Proof

def exec (i : Instr) (s : State) : Host.Outcome State Fault Refusal :=
  match i with
  | .pwrgdRelease lands resetNLow selfTestOk => Sys2Proof.Machine.execPwrgdRelease lands resetNLow selfTestOk s
  | .pwrgdFall => Sys2Proof.Machine.execPwrgdFall s
  | .resetNRelease lowNs selfTestOk => Sys2Proof.Machine.execResetNRelease lowNs selfTestOk s
  | .perstNAssert lowNs selfTestOk => Sys2Proof.Machine.execPerstNAssert lowNs selfTestOk s
  | .pcieHotReset selfTestOk => Sys2Proof.Machine.execPcieHotReset selfTestOk s
  | .pllLockLoss => Sys2Proof.Machine.execPllLockLoss s
  | .firmwareSelect => Sys2Proof.Machine.execFirmwareSelect s
  | .firmwareBodyCheck => Sys2Proof.Machine.execFirmwareBodyCheck s
  | .factoryMapCheck record => Sys2Proof.Machine.execFactoryMapCheck record s
  | .assayListCheck torn => Sys2Proof.Machine.execAssayListCheck torn s
  | .assayComplete found => Sys2Proof.Machine.execAssayComplete found s
  | .assayListUpdate => Sys2Proof.Machine.execAssayListUpdate s
  | .cellarAssayPass ch => Sys2Proof.Machine.execCellarAssayPass ch s
  | .cellarFillDone => Sys2Proof.Machine.execCellarFillDone s
  | .brineFillDone => Sys2Proof.Machine.execBrineFillDone s
  | .portTrained port goodLanes peerDevice peerPort => Sys2Proof.Machine.execPortTrained port goodLanes peerDevice peerPort s
  | .peerTimeout port => Sys2Proof.Machine.execPeerTimeout port s
  | .topologyAgreement found hostPtm parentTide => Sys2Proof.Machine.execTopologyAgreement found hostPtm parentTide s
  | .configRequestRetry => Sys2Proof.Machine.execConfigRequestRetry s
  | .arbCommit => Sys2Proof.Machine.execArbCommit s
  | .idleReserveFail field => Sys2Proof.Machine.execIdleReserveFail field s
  | .go p => Sys2Proof.Machine.execGo p s
  | .stop p => Sys2Proof.Machine.execStop p s
  | .faultClear p => Sys2Proof.Machine.execFaultClear p s
  | .semClear p mask => Sys2Proof.Machine.execSemClear p mask s
  | .semNotify p sem n => Sys2Proof.Machine.execSemNotify p sem n s
  | .fnop p => Sys2Proof.Machine.execFnop p s
  | .wfeed p => Sys2Proof.Machine.execWfeed p s
  | .hload p => Sys2Proof.Machine.execHload p s
  | .tend p => Sys2Proof.Machine.execTend p s
  | .dnop p => Sys2Proof.Machine.execDnop p s
  | .dout p => Sys2Proof.Machine.execDout p s
  | .drld p => Sys2Proof.Machine.execDrld p s
  | .dwait p => Sys2Proof.Machine.execDwait p s
  | .rnop p => Sys2Proof.Machine.execRnop p s
  | .rld p => Sys2Proof.Machine.execRld p s
  | .rst p => Sys2Proof.Machine.execRst p s
  | .radds p => Sys2Proof.Machine.execRadds p s
  | .rsubs p => Sys2Proof.Machine.execRsubs p s
  | .rmin p => Sys2Proof.Machine.execRmin p s
  | .rmax p => Sys2Proof.Machine.execRmax p s
  | .rmsh p => Sys2Proof.Machine.execRmsh p s
  | .rshrv p => Sys2Proof.Machine.execRshrv p s
  | .rbc p => Sys2Proof.Machine.execRbc p s
  | .rqset p => Sys2Proof.Machine.execRqset p s
  | .rredq p => Sys2Proof.Machine.execRredq p s
  | .rfold p => Sys2Proof.Machine.execRfold p s
  | .rdiv p => Sys2Proof.Machine.execRdiv p s
  | .rexp2 p => Sys2Proof.Machine.execRexp2 p s
  | .rsig p => Sys2Proof.Machine.execRsig p s
  | .rpack p => Sys2Proof.Machine.execRpack p s
  | .rbnd p => Sys2Proof.Machine.execRbnd p s
  | .rxmax p => Sys2Proof.Machine.execRxmax p s
  | .rssq p => Sys2Proof.Machine.execRssq p s
  | .rnvar p => Sys2Proof.Machine.execRnvar p s
  | .rrsq p => Sys2Proof.Machine.execRrsq p s
  | .rnpack p => Sys2Proof.Machine.execRnpack p s
  | .mnop p => Sys2Proof.Machine.execMnop p s
  | .lset p => Sys2Proof.Machine.execLset p s
  | .loop p => Sys2Proof.Machine.execLoop p s
  | .jmp p => Sys2Proof.Machine.execJmp p s
  | .spin p => Sys2Proof.Machine.execSpin p s
  | .halt p => Sys2Proof.Machine.execHalt p s
  | .agld p => Sys2Proof.Machine.execAgld p s
  | .tile p => Sys2Proof.Machine.execTile p s
  | .notice p => Sys2Proof.Machine.execNotice p s
  | .swait p => Sys2Proof.Machine.execSwait p s
  | .ssig p => Sys2Proof.Machine.execSsig p s
  | .notify p => Sys2Proof.Machine.execNotify p s
  | .fence p => Sys2Proof.Machine.execFence p s
  | .wopen p => Sys2Proof.Machine.execWopen p s
  | .wclose p => Sys2Proof.Machine.execWclose p s
  | .hstart p => Sys2Proof.Machine.execHstart p s
  | .done p => Sys2Proof.Machine.execDone p s
  | .swaitResume p => Sys2Proof.Machine.execSwaitResume p s
  | .waitTimeout p => Sys2Proof.Machine.execWaitTimeout p s
  | .fenceComplete p => Sys2Proof.Machine.execFenceComplete p s
  | .chainRendezvous region => Sys2Proof.Machine.execChainRendezvous region s
  | .chainTimeout region => Sys2Proof.Machine.execChainTimeout region s
  | .dwaitRelease p => Sys2Proof.Machine.execDwaitRelease p s
  | .westFeedBegin p => Sys2Proof.Machine.execWestFeedBegin p s
  | .northLoadBegin p => Sys2Proof.Machine.execNorthLoadBegin p s
  | .heldColumnWrite p obs => Sys2Proof.Machine.execHeldColumnWrite p obs s
  | .westSlotIssue p obs => Sys2Proof.Machine.execWestSlotIssue p obs s
  | .burstHoldEnd p => Sys2Proof.Machine.execBurstHoldEnd p s
  | .entryUpdate p col => Sys2Proof.Machine.execEntryUpdate p col s
  | .drainEntry p => Sys2Proof.Machine.execDrainEntry p s
  | .drldGrain p => Sys2Proof.Machine.execDrldGrain p s
  | .doutComplete p => Sys2Proof.Machine.execDoutComplete p s
  | .feedLost p tag => Sys2Proof.Machine.execFeedLost p tag s
  | .narrowAccess p bank obs => Sys2Proof.Machine.execNarrowAccess p bank obs s
  | .starvation p bank => Sys2Proof.Machine.execStarvation p bank s
  | .correctionWriteback p => Sys2Proof.Machine.execCorrectionWriteback p s
  | .poisonRewrite p => Sys2Proof.Machine.execPoisonRewrite p s
  | .ceTableClear u => Sys2Proof.Machine.execCeTableClear u s
  | .ovfLogClear p => Sys2Proof.Machine.execOvfLogClear p s
  | .bankSleep p mask => Sys2Proof.Machine.execBankSleep p mask s
  | .bankDrained p bank => Sys2Proof.Machine.execBankDrained p bank s
  | .bankSleepBound p bank => Sys2Proof.Machine.execBankSleepBound p bank s
  | .bankWake p mask => Sys2Proof.Machine.execBankWake p mask s
  | .bankFillDone p => Sys2Proof.Machine.execBankFillDone p s
  | .storeFillDone p => Sys2Proof.Machine.execStoreFillDone p s
  | .patrolScrub p obs => Sys2Proof.Machine.execPatrolScrub p obs s
  | .winClose p mask => Sys2Proof.Machine.execWinClose p mask s
  | .debugAccess p addr write => Sys2Proof.Machine.execDebugAccess p addr write s
  | .sleep slice fromHakar => Sys2Proof.Machine.execSleep slice fromHakar s
  | .sliceDrained slice => Sys2Proof.Machine.execSliceDrained slice s
  | .sliceSleepBound slice => Sys2Proof.Machine.execSliceSleepBound slice s
  | .wake slice => Sys2Proof.Machine.execWake slice s
  | .sliceFillDone slice => Sys2Proof.Machine.execSliceFillDone slice s
  | .sliceFail slice code => Sys2Proof.Machine.execSliceFail slice code s
  | .standInSlice slice => Sys2Proof.Machine.execStandInSlice slice s
  | .refresh slice bank row wait => Sys2Proof.Machine.execRefresh slice bank row wait s
  | .refreshIntervalChange field temp16 => Sys2Proof.Machine.execRefreshIntervalChange field temp16 s
  | .sliceScrub slice obs => Sys2Proof.Machine.execSliceScrub slice obs s
  | .cellarScrub ch obs => Sys2Proof.Machine.execCellarScrub ch obs s
  | .cellarChannelFail ch code => Sys2Proof.Machine.execCellarChannelFail ch code s
  | .mr4Read ch value => Sys2Proof.Machine.execMr4Read ch value s
  | .wck2dqTracking ch => Sys2Proof.Machine.execWck2dqTracking ch s
  | .start c => Sys2Proof.Machine.execStart c s
  | .pause c => Sys2Proof.Machine.execPause c s
  | .rdData k => Sys2Proof.Machine.execRdData k s
  | .hostReadCompletion ch tag good data => Sys2Proof.Machine.execHostReadCompletion ch tag good data s
  | .wrAck k => Sys2Proof.Machine.execWrAck k s
  | .haulFlushComplete ch => Sys2Proof.Machine.execHaulFlushComplete ch s
  | .haulError k => Sys2Proof.Machine.execHaulError k s
  | .haulTimeout src tag => Sys2Proof.Machine.execHaulTimeout src tag s
  | .packetForward at_ check waited => Sys2Proof.Machine.execPacketForward at_ check waited s
  | .routerFail gx gy => Sys2Proof.Machine.execRouterFail gx gy s
  | .rowDeadSet gx gy => Sys2Proof.Machine.execRowDeadSet gx gy s
  | .rd k obs => Sys2Proof.Machine.execRd k obs s
  | .wr a => Sys2Proof.Machine.execWr a s
  | .mcWr a => Sys2Proof.Machine.execMcWr a s
  | .busWr k => Sys2Proof.Machine.execBusWr k s
  | .wrAckCombine src tag => Sys2Proof.Machine.execWrAckCombine src tag s
  | .urgWr k => Sys2Proof.Machine.execUrgWr k s
  | .atomic k => Sys2Proof.Machine.execAtomic k s
  | .atomicData k => Sys2Proof.Machine.execAtomicData k s
  | .reduce k => Sys2Proof.Machine.execReduce k s
  | .reduceAck k => Sys2Proof.Machine.execReduceAck k s
  | .commit k => Sys2Proof.Machine.execCommit k s
  | .commitBounce k => Sys2Proof.Machine.execCommitBounce k s
  | .commitResend => Sys2Proof.Machine.execCommitResend s
  | .arrive slot input => Sys2Proof.Machine.execArrive slot input s
  | .barrier k => Sys2Proof.Machine.execBarrier k s
  | .headerUnitReceive port h fec => Sys2Proof.Machine.execHeaderUnitReceive port h fec s
  | .payloadUnitReceive port fec bytes => Sys2Proof.Machine.execPayloadUnitReceive port fec bytes s
  | .linkIdle port ack crvc crcnt => Sys2Proof.Machine.execLinkIdle port ack crvc crcnt s
  | .linkNak port ack => Sys2Proof.Machine.execLinkNak port ack s
  | .linkLane port map codeword => Sys2Proof.Machine.execLinkLane port map codeword s
  | .laneJudge port lane lost => Sys2Proof.Machine.execLaneJudge port lane lost s
  | .linkReplayTimer port => Sys2Proof.Machine.execLinkReplayTimer port s
  | .creditReturn port vc => Sys2Proof.Machine.execCreditReturn port vc s
  | .packetTransmit k => Sys2Proof.Machine.execPacketTransmit k s
  | .stepDispatch job => Sys2Proof.Machine.execStepDispatch job s
  | .sharesDone device c => Sys2Proof.Machine.execSharesDone device c s
  | .stepCommit job => Sys2Proof.Machine.execStepCommit job s
  | .sharesDoneResend job => Sys2Proof.Machine.execSharesDoneResend job s
  | .shareReplay device c => Sys2Proof.Machine.execShareReplay device c s
  | .replayAck device c => Sys2Proof.Machine.execReplayAck device c s
  | .shareReplayResend job => Sys2Proof.Machine.execShareReplayResend job s
  | .faultRecordReceive => Sys2Proof.Machine.execFaultRecordReceive s
  | .replayQuiesced job => Sys2Proof.Machine.execReplayQuiesced job s
  | .replayResume job => Sys2Proof.Machine.execReplayResume job s
  | .memberFailure job device => Sys2Proof.Machine.execMemberFailure job device s
  | .zeroisation job => Sys2Proof.Machine.execZeroisation job s
  | .zeroisationDone job => Sys2Proof.Machine.execZeroisationDone job s
  | .gradeRequest grade => Sys2Proof.Machine.execGradeRequest grade s
  | .gradeChange => Sys2Proof.Machine.execGradeChange s
  | .vcoreRise => Sys2Proof.Machine.execVcoreRise s
  | .vcoreFall => Sys2Proof.Machine.execVcoreFall s
  | .tideResync => Sys2Proof.Machine.execTideResync s
  | .tideExchange port stamps => Sys2Proof.Machine.execTideExchange port stamps s
  | .tideStampMessage port mine peer => Sys2Proof.Machine.execTideStampMessage port mine peer s
  | .ptmMeasure hostTime => Sys2Proof.Machine.execPtmMeasure hostTime s
  | .tideHoldover => Sys2Proof.Machine.execTideHoldover s
  | .tideParentReselect => Sys2Proof.Machine.execTideParentReselect s
  | .powerEvaluation rails => Sys2Proof.Machine.execPowerEvaluation rails s
  | .fastCurrentLoop field milliAmps loop => Sys2Proof.Machine.execFastCurrentLoop field milliAmps loop s
  | .loadNoticeArrival region => Sys2Proof.Machine.execLoadNoticeArrival region s
  | .peakEnd region => Sys2Proof.Machine.execPeakEnd region s
  | .minvInterval region mv sampleTide samples => Sys2Proof.Machine.execMinvInterval region mv sampleTide samples s
  | .thermalSample region sensors => Sys2Proof.Machine.execThermalSample region sensors s
  | .restDeadline region => Sys2Proof.Machine.execRestDeadline region s
  | .regionWake region => Sys2Proof.Machine.execRegionWake region s
  | .wakeAdmit field => Sys2Proof.Machine.execWakeAdmit field s
  | .wakeAdmitTimeout field => Sys2Proof.Machine.execWakeAdmitTimeout field s
  | .wakeRampDone field => Sys2Proof.Machine.execWakeRampDone field s
  | .wakeRegulated field => Sys2Proof.Machine.execWakeRegulated field s
  | .phaseFail domain phase => Sys2Proof.Machine.execPhaseFail domain phase s
  | .budgetReport watts interval => Sys2Proof.Machine.execBudgetReport watts interval s
  | .budgetReassign => Sys2Proof.Machine.execBudgetReassign s
  | .budgetLimitReceive m => Sys2Proof.Machine.execBudgetLimitReceive m s
  | .energyCharge regions shared device => Sys2Proof.Machine.execEnergyCharge regions shared device s
  | .doorbell slot => Sys2Proof.Machine.execDoorbell slot s
  | .imageLoad c buf img => Sys2Proof.Machine.execImageLoad c buf img s
  | .jobCreate c regions jobId brineMib cellarMib lead => Sys2Proof.Machine.execJobCreate c regions jobId brineMib cellarMib lead s
  | .place c seed rpt => Sys2Proof.Machine.execPlace c seed rpt s
  | .run c first count => Sys2Proof.Machine.execRun c first count s
  | .step c number => Sys2Proof.Machine.execStep c number s
  | .kill c => Sys2Proof.Machine.execKill c s
  | .dump c area index offset buf => Sys2Proof.Machine.execDump c area index offset buf s
  | .lotAlloc c kind sizeMib => Sys2Proof.Machine.execLotAlloc c kind sizeMib s
  | .lotFree c addr => Sys2Proof.Machine.execLotFree c addr s
  | .powerPolicy c limit window gradeMax => Sys2Proof.Machine.execPowerPolicy c limit window gradeMax s
  | .budgetJoin c group total keeper buf members => Sys2Proof.Machine.execBudgetJoin c group total keeper buf members s
  | .energyQuery c => Sys2Proof.Machine.execEnergyQuery c s
  | .gaugeConfig c g buf desc => Sys2Proof.Machine.execGaugeConfig c g buf desc s
  | .gaugeRead c g buf => Sys2Proof.Machine.execGaugeRead c g buf s
  | .faultRead c fromSeq buf max => Sys2Proof.Machine.execFaultRead c fromSeq buf max s
  | .assayReport c buf => Sys2Proof.Machine.execAssayReport c buf s
  | .aliasSet c buf table => Sys2Proof.Machine.execAliasSet c buf table s
  | .fwUpdate c buf img => Sys2Proof.Machine.execFwUpdate c buf img s
  | .attest c nonce buf => Sys2Proof.Machine.execAttest c nonce buf s
  | .transfer c src dst count ctrl vector => Sys2Proof.Machine.execTransfer c src dst count ctrl vector s
  | .atomicCmd c addr aop low a b => Sys2Proof.Machine.execAtomicCmd c addr aop low a b s
  | .resume c number => Sys2Proof.Machine.execResume c number s
  | .tagQuery c tags => Sys2Proof.Machine.execTagQuery c tags s
  | .ringEnable log2E => Sys2Proof.Machine.execRingEnable log2E s
  | .ringHeadWrite value => Sys2Proof.Machine.execRingHeadWrite value s
  | .apertureWrite hi value => Sys2Proof.Machine.execApertureWrite hi value s
  | .bar2Write offset data => Sys2Proof.Machine.execBar2Write offset data s
  | .bar2Read offset len tag => Sys2Proof.Machine.execBar2Read offset len tag s
  | .intCoalesceExpiry => Sys2Proof.Machine.execIntCoalesceExpiry s
  | .heartbeat => Sys2Proof.Machine.execHeartbeat s
  | .coreTakeover => Sys2Proof.Machine.execCoreTakeover s
  | .gaugeEvent g value time => Sys2Proof.Machine.execGaugeEvent g value time s
  | .levelSample g value => Sys2Proof.Machine.execLevelSample g value s
  | .windowClose g => Sys2Proof.Machine.execWindowClose g s
  | .faultMirror => Sys2Proof.Machine.execFaultMirror s
  | .deviceFatal f => Sys2Proof.Machine.execDeviceFatal f s
  | .diffOffset value => Sys2Proof.Machine.execDiffOffset value s
  | .diffData => Sys2Proof.Machine.execDiffData s
  | .dbgChallenge nonce => Sys2Proof.Machine.execDbgChallenge nonce s
  | .dbgToken t => Sys2Proof.Machine.execDbgToken t s
  | .debugZeroiseDone => Sys2Proof.Machine.execDebugZeroiseDone s
  | .nonceExpiry => Sys2Proof.Machine.execNonceExpiry s
  | .getVersion => Sys2Proof.Machine.execGetVersion s
  | .getCapabilities => Sys2Proof.Machine.execGetCapabilities s
  | .negotiateAlgorithms => Sys2Proof.Machine.execNegotiateAlgorithms s
  | .challenge nonce => Sys2Proof.Machine.execChallenge nonce s
  | .getMeasurements index => Sys2Proof.Machine.execGetMeasurements index s
  | .spdmUnsupportedRequest code => Sys2Proof.Machine.execSpdmUnsupportedRequest code s
  | .entropyTestFail => Sys2Proof.Machine.execEntropyTestFail s
  | .registerWrite path value => Sys2Proof.Machine.execRegisterWrite path value s
  | .rcRead path => Sys2Proof.Machine.execRcRead path s
  | .internalCheckFail p unit => Sys2Proof.Machine.execInternalCheckFail p unit s
  | .regionClockFail region => Sys2Proof.Machine.execRegionClockFail region s
  | .reservedOpcode p => Sys2Proof.Machine.execReservedOpcode p s
  | .atomicRetry => Sys2Proof.Machine.execAtomicRetry s
  | .bar2ReadTimeout tag => Sys2Proof.Machine.execBar2ReadTimeout tag s
  | .vectorHoldoffExpiry vector => Sys2Proof.Machine.execVectorHoldoffExpiry vector s
  | .vectorUnmask vector => Sys2Proof.Machine.execVectorUnmask vector s
  | .rfm ch => Sys2Proof.Machine.execRfm ch s
  | .perBankRefresh ch bank => Sys2Proof.Machine.execPerBankRefresh ch bank s
  | .quiesceTimeLimit job => Sys2Proof.Machine.execQuiesceTimeLimit job s

end Sys2Proof.Machine
end

