-- ==== Sys2Proof/Safety.lean ====
section
/-! DEFINITION. What counts as a safe run, and the words in which the statements speak of one step: which bundle issues, and that
nothing but a named unit changed. -/

namespace Sys2Proof.Machine
open Sys2Proof

/-- Every memory of the device, and the host's and the slots' as the device sees them, has the canonical form: addresses
strictly rising and no zero listed. -/
abbrev State.memoriesCanonical (s : State) : Prop :=
  Memory.wf s.storeMem ∧ Memory.wf s.brineMem ∧ Memory.wf s.cellarMem ∧ Memory.wf s.hostMem ∧ Memory.wf s.slotMem

/-! ### Only one unit changed -/

/-- Pan p is now x, and nothing else changed. -/
def State.onlyPan (s t : State) (p : Nat) (x : Pan) : Prop :=
  t = { s with pans := t.pans } ∧ t.pan p = x ∧ ∀ q, q ≠ p → t.pan q = s.pan q

/-- Slice i is now x, and nothing else changed. -/
def State.onlySlice (s t : State) (i : Nat) (x : Slice) : Prop :=
  t = { s with slices := t.slices } ∧ t.slice i = x ∧ ∀ k, k ≠ i → t.slice k = s.slice k

/-- Cellar channel i is now x, and nothing else changed. -/
def State.onlyChan (s t : State) (i : Nat) (x : Chan) : Prop :=
  t = { s with chans := t.chans } ∧ t.chan i = x ∧ ∀ k, k ≠ i → t.chan k = s.chan k

/-- Region r is now x, and nothing else changed. -/
def State.onlyRegion (s t : State) (r : Nat) (x : Region) : Prop :=
  t = { s with regions := t.regions } ∧ t.region r = x ∧ ∀ k, k ≠ r → t.region k = s.region k

/-- Field i's power state is now x, and nothing else changed. -/
def State.onlyField (s t : State) (i : Nat) (x : FieldPwr) : Prop :=
  t = { s with fields := t.fields } ∧ t.fieldPwr i = x ∧ ∀ k, k ≠ i → t.fieldPwr k = s.fieldPwr k

/-- Finron port n is now x, and nothing else changed. -/
def State.onlyPort (s t : State) (n : Nat) (x : Port) : Prop :=
  t = { s with fin := { s.fin with ports := t.fin.ports } } ∧ t.port n = x ∧ ∀ k, k ≠ n → t.port k = s.port k

/-- Gauge g is now x, and nothing else changed. -/
def State.onlyGauge (s t : State) (g : Nat) (x : Gauge) : Prop :=
  t = { s with gauges := t.gauges } ∧ t.gauge g = x ∧ ∀ k, k ≠ g → t.gauge k = s.gauge k

/-- Haul channel c is now x, and nothing else changed. -/
def State.onlyHaul (s t : State) (c : HaulId) (x : Haul) : Prop :=
  t = { s with pans := t.pans, cc := t.cc } ∧ t.haul c = x ∧ (∀ d, d ≠ c → t.haul d = s.haul d) ∧
  ∀ p, t.pan p = { s.pan p with haul := (t.pan p).haul }

/-! ### A command Hakar performs -/

/-- Hakar performs the command with this header and opcode now: a core runs and serves it (R441), its tag is new (R432), its header is in
range and is that of the slot rung with the tag (R430), and its turn among the commands of its job has come (R431). -/
abbrev State.performs (s : State) (c : Cmd) (op : Nat) : Prop :=
  s.powered = true ∧ cmdOk c = true ∧ s.hif.coreRuns = true ∧ s.serves op = true ∧ (∀ e ∈ s.hif.completed, e.1 ≠ c.tag) ∧
  s.underWay c.tag = false ∧ c.tag ≠ 0 ∧ (c.job < 16 ∨ c.job = 255) ∧ c.flags ≤ flagsOf op ∧
  s.rung c op = true ∧ s.inTurn c op = true

/-! ### The issue of a bundle -/

/-- The pan's next bundle has these four slots, none of them reserved, and it issues in this cycle without a stall (R101, R103,
R105, R106). -/
abbrev State.issues (s : State) (p : Nat) (f : FeedOp) (d : DrainOp) (r : RakeOp) (m : MoveOp) : Prop :=
  p < 1620 ∧ s.powered = true ∧ s.canIssue p = true ∧ slotsOf (s.bundleAt p) = (f, d, r, m) ∧
  reservedSlot (s.bundleAt p) = none ∧ stalls (s.pan p) (s.bundleAt p) = false

/-- The descriptor reads of the bundle at the PC are granted in this cycle: their banks are free, or the queued requests have been
served (R142, R146). -/
abbrev State.descGranted (s : State) (p : Nat) (runs : List (Nat × Nat)) : Prop :=
  (descReads p .sequencer (s.pan p).seq.descServed runs s).1 = true

/-- The state with those descriptor reads granted: the banks they take are busy in this cycle. -/
def State.descTaken (s : State) (p : Nat) (runs : List (Nat × Nat)) : State :=
  (descReads p .sequencer (s.pan p).seq.descServed runs s).2.modSeq p fun q => { q with descServed := false }

/-- The bundle after the one at the PC lies in the program (R127). -/
abbrev State.follows (s : State) (p : Nat) : Prop := (s.pan p).seq.pc + 1 < (s.pan p).seq.progLen

/-- A pan whose bundle has issued: its sequencer is q but for the PC and the cycle of the next issue, and BUNDLE_COUNT has
counted. -/
def Pan.issued (x : Pan) (pc cost : Nat) (q : Seq) : Pan :=
  { x with seq := { q with pc := pc, nextIssue := x.seq.cycle + cost }, ctr := bump x.ctr PanCtr.bundle 1 }

/-- A pan whose bundle of one rake operation has issued: its sequencer is q but for the PC, the cycle of the next issue and the
results that take more than one cycle, which leave the registers as they were and wait with their values (`late`: each register with
its latency); BUNDLE_COUNT has counted, and RAKE_SAT_COUNT what saturated (R100, R123). -/
def Pan.raked (x : Pan) (q : Seq) (late : List (Nat × Nat)) (sats : Nat) : Pan :=
  { x with
    seq := { q with
      v := if late = [] then q.v else x.seq.v
      q := if late = [] then q.q else x.seq.q
      pend := q.pend ++ late.map fun e => { reg := e.1, at_ := x.seq.cycle + e.2, v := getV q e.1, q := getQ q (e.1 - 16) }
      pc := x.seq.pc + 1, nextIssue := x.seq.cycle + 1 }
    ctr := bump (bump x.ctr PanCtr.rakeSat sats) PanCtr.bundle 1 }

/-- How many numbers saturation to w bits changes. -/
def overflows (w : Nat) (l : List Int) : Nat := (l.filter fun x => satInt w x ≠ x).length

end Sys2Proof.Machine
end

