-- ==== Sys2Proof/WellFormed.lean ====
section
/-! DEFINITION. Which commands are well formed: their operands name units, registers, places and values the device has (R17,
R35, R153, R184, R255, R285, R317, R345, R371, R430, R439 and the like). An ill-formed
command names nothing the device has, and changes nothing (log 68). -/

namespace Sys2Proof
open Sys2Proof.Machine

/-- A command is well formed. -/
def Instr.wf : Instr → Bool
  | .pwrgdRelease _ _ _ => true
  | .pwrgdFall => true
  | .resetNRelease _ _ => true
  | .perstNAssert _ _ => true
  | .pcieHotReset _ => true
  | .pllLockLoss => true
  | .firmwareSelect => true
  | .firmwareBodyCheck => true
  | .factoryMapCheck record => record.length == 64 || record.isEmpty
  | .assayListCheck _ => true
  | .assayComplete _ => true
  | .assayListUpdate => true
  | .cellarAssayPass ch => decide (ch < 96)
  | .cellarFillDone => true
  | .brineFillDone => true
  | .portTrained n _ dev port => decide (n < 16) && decide (port < 16) && decide (dev < 8192)
  | .peerTimeout n => decide (n < 16)
  | .topologyAgreement _ _ _ => true
  | .configRequestRetry => true
  | .arbCommit => true
  | .idleReserveFail f => decide (f < 12)
  | .go p => decide (p < 1620)
  | .stop p => decide (p < 1620)
  | .faultClear p => decide (p < 1620)
  | .semClear p _ => decide (p < 1620)
  | .semNotify p sem _ => decide (p < 1620) && decide (sem < 16)
  | .fnop p => decide (p < 1620)
  | .wfeed p => decide (p < 1620)
  | .hload p => decide (p < 1620)
  | .tend p => decide (p < 1620)
  | .dnop p => decide (p < 1620)
  | .dout p => decide (p < 1620)
  | .drld p => decide (p < 1620)
  | .dwait p => decide (p < 1620)
  | .rnop p => decide (p < 1620)
  | .rld p => decide (p < 1620)
  | .rst p => decide (p < 1620)
  | .radds p => decide (p < 1620)
  | .rsubs p => decide (p < 1620)
  | .rmin p => decide (p < 1620)
  | .rmax p => decide (p < 1620)
  | .rmsh p => decide (p < 1620)
  | .rshrv p => decide (p < 1620)
  | .rbc p => decide (p < 1620)
  | .rqset p => decide (p < 1620)
  | .rredq p => decide (p < 1620)
  | .rfold p => decide (p < 1620)
  | .rdiv p => decide (p < 1620)
  | .rexp2 p => decide (p < 1620)
  | .rsig p => decide (p < 1620)
  | .rpack p => decide (p < 1620)
  | .rbnd p => decide (p < 1620)
  | .rxmax p => decide (p < 1620)
  | .rssq p => decide (p < 1620)
  | .rnvar p => decide (p < 1620)
  | .rrsq p => decide (p < 1620)
  | .rnpack p => decide (p < 1620)
  | .mnop p => decide (p < 1620)
  | .lset p => decide (p < 1620)
  | .loop p => decide (p < 1620)
  | .jmp p => decide (p < 1620)
  | .spin p => decide (p < 1620)
  | .halt p => decide (p < 1620)
  | .agld p => decide (p < 1620)
  | .tile p => decide (p < 1620)
  | .notice p => decide (p < 1620)
  | .swait p => decide (p < 1620)
  | .ssig p => decide (p < 1620)
  | .notify p => decide (p < 1620)
  | .fence p => decide (p < 1620)
  | .wopen p => decide (p < 1620)
  | .wclose p => decide (p < 1620)
  | .hstart p => decide (p < 1620)
  | .done p => decide (p < 1620)
  | .swaitResume p => decide (p < 1620)
  | .waitTimeout p => decide (p < 1620)
  | .fenceComplete p => decide (p < 1620)
  | .chainRendezvous r => decide (r < 108)
  | .chainTimeout r => decide (r < 108)
  | .dwaitRelease p => decide (p < 1620)
  | .westFeedBegin p => decide (p < 1620)
  | .northLoadBegin p => decide (p < 1620)
  | .heldColumnWrite p _ => decide (p < 1620)
  | .westSlotIssue p _ => decide (p < 1620)
  | .burstHoldEnd p => decide (p < 1620)
  | .entryUpdate p col => decide (p < 1620) && decide (col < 64)
  | .drainEntry p => decide (p < 1620)
  | .drldGrain p => decide (p < 1620)
  | .doutComplete p => decide (p < 1620)
  | .feedLost p _ => decide (p < 1620)
  | .narrowAccess p bank _ => decide (p < 1620) && decide (bank < 32)
  | .starvation p bank => decide (p < 1620) && decide (bank < 32)
  | .correctionWriteback p => decide (p < 1620)
  | .poisonRewrite p => decide (p < 1620)
  | .ceTableClear u => match u with | .pan p => decide (p < 1620) | .slice i => decide (i < 1620) | .channel ch => decide (ch < 96)
  | .ovfLogClear p => decide (p < 1620)
  | .bankSleep p _ => decide (p < 1620)
  | .bankDrained p b => decide (p < 1620) && decide (b < 32)
  | .bankSleepBound p b => decide (p < 1620) && decide (b < 32)
  | .bankWake p _ => decide (p < 1620)
  | .bankFillDone p => decide (p < 1620)
  | .storeFillDone p => decide (p < 1620)
  | .patrolScrub p _ => decide (p < 1620)
  | .winClose p _ => decide (p < 1620)
  | .debugAccess p addr write =>
      decide (p < 1620) && decide (addr < 2 ^ 23) && decide (addr % 8 = 0) && (match write with | some v => decide (v < 2 ^ 64) | none => true)
  | .sleep sl _ => decide (sl < 1620)
  | .sliceDrained sl => decide (sl < 1620)
  | .sliceSleepBound sl => decide (sl < 1620)
  | .wake sl => decide (sl < 1620)
  | .sliceFillDone sl => decide (sl < 1620)
  | .sliceFail sl code => decide (sl < 1620) && decide (code < 2)
  | .standInSlice sl => decide (sl < 1620)
  | .refresh sl bank row _ => decide (sl < 1620) && decide (bank < 16) && decide (row < 2048)
  | .refreshIntervalChange f _ => decide (f < 12)
  | .sliceScrub sl _ => decide (sl < 1620)
  | .cellarScrub ch _ => decide (ch < 96)
  | .cellarChannelFail ch code => decide (ch < 96) && decide (code < 2)
  | .mr4Read ch value => decide (ch < 96) && decide (value < 256)
  | .wck2dqTracking ch => decide (ch < 96)
  | .start c => haulOk c
  | .pause c => haulOk c
  | .rdData k => k.op == Op.rdData
  | .hostReadCompletion ch _ _ _ => decide (ch < 32)
  | .wrAck k => k.op == Op.wrAck
  | .haulFlushComplete ch => decide (ch < 32)
  | .haulError k => decide (k.status ≠ 0)
  | .haulTimeout _ _ => true
  | .packetForward o _ _ => decide (o.gx < 60) && decide (o.gy < 27) && decide (o.out < 10) && decide (o.lane < 2)
  | .routerFail gx gy => decide (gx < 60) && decide (gy < 27)
  | .rowDeadSet gx gy => decide (gx < 60) && decide (gy < 27)
  | .rd k _ => k.op == Op.rd
  | .wr a => a.k.op == Op.wr && a.k.data.length == a.k.bytes
  | .mcWr a => a.k.op == Op.mcWr && a.k.data.length == a.k.bytes
  | .busWr k => k.op == Op.busWr && k.data.length == k.bytes
  | .wrAckCombine _ _ => true
  | .urgWr k => k.op == Op.urgWr && k.data.length == k.bytes
  | .atomic k => k.op == Op.atomic && k.data.length == k.bytes
  | .atomicData k => k.op == Op.atomicData
  | .reduce k => k.op == Op.reduce
  | .reduceAck k => k.op == Op.reduceAck
  | .commit k => k.op == Op.commit && k.data.length == k.bytes
  | .commitBounce k => k.op == Op.urgWr && k.data.length == k.bytes
  | .commitResend => true
  | .arrive slot input => decide (slot < 64) && decide (input < 64)
  | .barrier k => k.op == Op.barrier
  | .headerUnitReceive n _ f => decide (n < 16) && decide (f.lane < 9)
  | .payloadUnitReceive n f bs => decide (n < 16) && decide (f.lane < 9) && bs.length == 64
  | .linkIdle n ack crvc crcnt => decide (n < 16) && decide (crvc < 4) && decide (ack < 4096) && decide (crcnt < 4096)
  | .linkNak n ack => decide (n < 16) && decide (ack < 4096)
  | .linkLane n map codeword => decide (n < 16) && decide (map < 2 ^ 32) && decide (codeword < 2 ^ 32)
  | .laneJudge n lane _ => decide (n < 16) && decide (lane < 9)
  | .linkReplayTimer n => decide (n < 16)
  | .creditReturn n vc => decide (n < 16) && decide (vc < 4)
  | .packetTransmit _ => true
  | .stepDispatch j => decide (j < 16)
  | .sharesDone dev _ => decide (dev < 8191)
  | .stepCommit j => decide (j < 16)
  | .sharesDoneResend j => decide (j < 16)
  | .shareReplay dev c => decide (dev < 8191) && c.kind == 3
  | .replayAck dev c => decide (dev < 8191) && c.kind == 4
  | .shareReplayResend j => decide (j < 16)
  | .faultRecordReceive => true
  | .replayQuiesced j => decide (j < 16)
  | .replayResume j => decide (j < 16)
  | .memberFailure j dev => decide (j < 16) && decide (dev < 8191)
  | .zeroisation j => decide (j < 16)
  | .zeroisationDone j => decide (j < 16)
  | .gradeRequest g => decide (g < 16)
  | .gradeChange => true
  | .vcoreRise => true
  | .vcoreFall => true
  | .tideResync => true
  | .tideExchange n _ => decide (n < 16)
  | .tideStampMessage n _ _ => decide (n < 16)
  | .ptmMeasure host => decide (host < 2 ^ 64)
  | .tideHoldover => true
  | .tideParentReselect => true
  | .powerEvaluation r => decide (devicePower r < 65536) && r.fields.length == 12
  | .fastCurrentLoop f _ l => decide (f < 12) && decide (l.bundPeriod < 65536) && l.regions.all fun e => decide (e.region < 108)
  | .loadNoticeArrival r => decide (r < 108)
  | .peakEnd r => decide (r < 108)
  | .minvInterval r mv _ e => decide (r < 108) && decide (mv < 1024) && e.more.all fun x => decide (x.1 < 1024)
  | .thermalSample r p => decide (r < 108) && [p.a, p.b].all fun t => decide (-32768 ≤ t) && decide (t < 32768)
  | .restDeadline r => decide (r < 108)
  | .regionWake r => decide (r < 108)
  | .wakeAdmit f => decide (f < 12)
  | .wakeAdmitTimeout f => decide (f < 12)
  | .wakeRampDone f => decide (f < 12)
  | .wakeRegulated f => decide (f < 12)
  | .phaseFail d ph => (decide (d < 108) && decide (ph < 12)) || (decide (108 ≤ d) && decide (d < 136) && decide (ph < 6))
  | .budgetReport watts interval => decide (watts < 65536) && decide (0 < interval)
  | .budgetReassign => true
  | .budgetLimitReceive m => decide (m.device < 8192) && decide (m.hi < 65536) && decide (m.lo < 65536)
  | .energyCharge regions shared _ => regions.all (fun e => decide (e.1 < 108)) && shared.all fun d => d.units.all fun e => decide (e.1 < 16)
  | .doorbell slot => decide (slot < 64)
  | .imageLoad c _ im => cmdOk c && imageOk im
  | .jobCreate c n id brine cellar lead =>
      cmdOk c && decide (n < 2 ^ 32) && decide (id < 2 ^ 32) && decide (brine < 2 ^ 32) && decide (cellar < 2 ^ 32) && decide (lead < 2 ^ 32)
  | .place c seed _ => cmdOk c && decide (seed < 2 ^ 64)
  | .run c first count => cmdOk c && decide (first < 2 ^ 32) && decide (count < 2 ^ 32)
  | .step c number => cmdOk c && decide (number < 2 ^ 32)
  | .kill c => cmdOk c
  | .dump c area index off buf =>
      cmdOk c && decide (area < 2 ^ 32) && decide (index < 2 ^ 32) && decide (off < 2 ^ 64) && decide (buf.len < 2 ^ 32) && decide (buf.addr < 2 ^ 64)
  | .lotAlloc c kind mib => cmdOk c && decide (kind < 2 ^ 32) && decide (mib < 2 ^ 32)
  | .lotFree c addr => cmdOk c && decide (addr < 2 ^ 64)
  | .powerPolicy c limit window grade => cmdOk c && decide (limit < 2 ^ 32) && decide (window < 2 ^ 32) && decide (grade < 2 ^ 32)
  | .budgetJoin c group total keeper buf ms =>
      cmdOk c && decide (group < 2 ^ 32) && decide (total < 2 ^ 32) && decide (keeper < 2 ^ 32) && decide (buf.len < 2 ^ 32) &&
        (ms.length == buf.len || decide (buf.len < 2) || decide (8191 < buf.len))
  | .energyQuery c => cmdOk c
  | .gaugeConfig c i _ _ => cmdOk c && decide (i < 2 ^ 32)
  | .gaugeRead c i _ => cmdOk c && decide (i < 2 ^ 32)
  | .faultRead c fromSeq _ max => cmdOk c && decide (fromSeq < 2 ^ 64) && decide (max < 2 ^ 32)
  | .assayReport c _ => cmdOk c
  | .aliasSet c _ table => cmdOk c && table.all fun w => decide (w < 2 ^ 32)
  | .fwUpdate c buf _ => cmdOk c && decide (buf.len < 2 ^ 64)
  | .attest c nonce _ => cmdOk c && decide (nonce < 2 ^ 256)
  | .transfer c src dst count ctrl vector =>
      cmdOk c && decide (src < 2 ^ 64) && decide (dst < 2 ^ 64) && decide (count < 2 ^ 32) && decide (ctrl < 2 ^ 32) && decide (vector < 2 ^ 32)
  | .atomicCmd c addr aop low a b => cmdOk c && decide (addr < 2 ^ 64) && decide (aop < 16) && decide (low < 2 ^ 28) && decide (a < 2 ^ 64) && decide (b < 2 ^ 32)
  | .resume c number => cmdOk c && decide (number < 2 ^ 32)
  | .tagQuery c tags => cmdOk c && tags.all fun t => decide (t < 2 ^ 64)
  | .ringEnable log2E => decide (6 ≤ log2E) && decide (log2E ≤ 16)
  | .ringHeadWrite v => decide (v < 2 ^ 32)
  | .apertureWrite _ v => decide (v < 2 ^ 32)
  | .bar2Write o data => decide (o + data.length ≤ 2 ^ 36) && decide (data.length ≤ 512)
  | .bar2Read o len tag => decide (o + len ≤ 2 ^ 36) && decide (1 ≤ len) && decide (len ≤ 4096) && decide (tag < 2 ^ 14)
  | .intCoalesceExpiry => true
  | .heartbeat => true
  | .coreTakeover => true
  | .gaugeEvent i v t => decide (i < 64) && decide (-(2 ^ 63) ≤ v) && decide (v < 2 ^ 63) && decide (t < 2 ^ 64)
  | .levelSample i v => decide (i < 64) && decide (-(2 ^ 63) ≤ v) && decide (v < 2 ^ 63)
  | .windowClose i => decide (i < 64)
  | .faultMirror => true
  | .deviceFatal r =>
      r.cls == 7 && decide (r.type < 256) && decide (r.code < 65536) && decide (r.unitCls < 16) && decide (r.unitIdx < 65536) && decide (r.addr < 2 ^ 64) && decide (r.detail < 2 ^ 32) && decide (r.jobs < 65536)
  | .diffOffset v => decide (v < 2 ^ 32)
  | .diffData => true
  | .dbgChallenge nonce => decide (nonce < 2 ^ 256)
  | .dbgToken t =>
      decide (t.header < 65536) && decide (t.keySlot < 256) && decide (t.scope < 256) && decide (t.serial < 2 ^ 64) && decide (t.nonce < 2 ^ 256)
  | .debugZeroiseDone => true
  | .nonceExpiry => true
  | .getVersion => true
  | .getCapabilities => true
  | .negotiateAlgorithms => true
  | .challenge nonce => decide (nonce < 2 ^ 256)
  | .getMeasurements index => decide (index < 256)
  | .spdmUnsupportedRequest code => decide (code < 256)
  | .entropyTestFail => true
  | .registerWrite _ v => decide (v < 2 ^ 32)
  | .rcRead _ => true
  | .internalCheckFail p unit => decide (p < 1620) && decide (unit < 7)
  | .regionClockFail r => decide (r < 108)
  | .reservedOpcode p => decide (p < 1620)
  | .atomicRetry => true
  | .bar2ReadTimeout _ => true
  | .vectorHoldoffExpiry v => decide (v < 256)
  | .vectorUnmask v => decide (v < 256)
  | .rfm ch => decide (ch < 96)
  | .perBankRefresh ch bank => decide (ch < 96) && decide (bank < 16)
  | .quiesceTimeLimit j => decide (j < 16)

end Sys2Proof
end

