-- ==== Sys2Proof/Certificates/Slice0/Obligations.lean ====
section
/-! DEFINITION. The statements put to the provers. A clause of the shape "exec of a command is next t", or "there is t with
exec of it next t", says that the command completes on every state and operand that meets the clause's premises. -/

open Sys2Proof Sys2Proof.Machine

/-- A step runs the command at the front of the queue: with c in front, step is exec of c on the state with the queue's rest; the
queue itself is the model's own. -/
def Obligations.StepRunsFrontCommand : Prop :=
  ∀ (s : State) (c : Instr) (rest : List Instr), s.pending = c :: rest →
    Machine.step s = exec c { s with pending := rest }

/-- Every command completes, whatever it names and whatever the state, and leaves the queue of waiting commands as it is: nothing stops
the machine. A command that is not well formed names a unit, a place or a value the device does not have, reaches none, and changes
nothing (the model's choice, log 68). So a step of a device with commands waiting answers a next state, with one command fewer. -/
def Obligations.WellFormedCommandsComplete : Prop :=
  (∀ (s : State) (i : Instr), ∃ t, exec i s = .next t ∧ t.pending = s.pending) ∧
  (∀ (s : State) (i : Instr), i.wf = false → exec i s = .next s) ∧
  (∀ (s : State), ∃ t, Machine.step s = .next t ∧ t.pending = s.pending.tail)

/-- When the package is unpowered no part of it operates or answers: no command but the release of PWRGD changes anything, and no
tide counts. No volatile state survives: what the device is after PWRGD's release depends on nothing but the OTP, the fused
factory map, what the board holds for it (the boot flash, the strap and the host's memory) and, only where VAUX has stayed in range,
the THERMTRIP_N land, with the model's own queue and counter of free values. -/
def Obligations.UnpoweredNothingOperates : Prop :=
  (∀ (s : State) (i : Instr), s.powered = false → (∀ lands held ok, i ≠ .pwrgdRelease lands held ok) → exec i s = .next s) ∧
  (∀ s : State, s.powered = false → s.pending = [] → Machine.step s = .next s) ∧
  (∀ (a b : State) strap vaux held ok,
    a.sec.vkd0 = b.sec.vkd0 → a.sec.vkd1 = b.sec.vkd1 → a.sec.revoke = b.sec.revoke → a.sec.arb = b.sec.arb →
    a.boot.fuses = b.boot.fuses → a.boot.bcrFlash = b.boot.bcrFlash →
    a.boot.list = b.boot.list → a.sec.slot0 = b.sec.slot0 → a.sec.slot1 = b.sec.slot1 →
    a.hostMem = b.hostMem → (vaux = true → a.faults.thermtripN = b.faults.thermtripN) → a.pending = b.pending → a.draws = b.draws →
    exec (.pwrgdRelease ⟨strap, vaux⟩ held ok) a = exec (.pwrgdRelease ⟨strap, vaux⟩ held ok) b ∧
    ∃ t, exec (.pwrgdRelease ⟨strap, vaux⟩ held ok) a = .next t ∧ t.powered = true ∧ t.sec.vkd0 = a.sec.vkd0 ∧ t.sec.vkd1 = a.sec.vkd1 ∧
      t.sec.revoke = a.sec.revoke ∧ t.sec.arb = a.sec.arb ∧ t.boot.fuses = a.boot.fuses ∧
      t.boot.bcrFlash = a.boot.bcrFlash ∧ t.boot.list = a.boot.list ∧
      (vaux = false → t.faults.thermtripN = false))

/-- Every step keeps the memories canonical: from any state whose five memories list addresses strictly rising and no zero, whatever
command is performed, so do those of the next. -/
def Obligations.MemoriesStayCanonical : Prop :=
  ∀ s t : State, s.memoriesCanonical → Machine.step s = .next t → t.memoriesCanonical

/-- The OTP only grows and debug opens only over zeroised memories: no step clears a bit of the OTP's vendor key digests, of
KEY_REVOKE or of the ARB count, and none changes a digest; and a step that changes the debug scope in force is a reset, which locks
it, or the end of the zeroisation that an accepted token began, after which the stores, brine and cellar, the command journal and the
fault log are empty. -/
def Obligations.OtpGrowsAndDebugZeroises : Prop :=
  ∀ s t : State, Machine.step s = .next t →
    t.sec.vkd0 = s.sec.vkd0 ∧ t.sec.vkd1 = s.sec.vkd1 ∧ s.sec.arb ≤ t.sec.arb ∧
    (∀ k, bit s.sec.revoke k = true → bit t.sec.revoke k = true) ∧
    (t.sec.scope = s.sec.scope ∨ t.sec.scope = 0 ∨
      (s.sec.unlocking = some t.sec.scope ∧ t.storeMem = [] ∧ t.brineMem = [] ∧ t.cellarMem = [] ∧ t.hif.journal = [] ∧ t.faults.log = []))

/-- What reset leaves: sequencers stopped with their registers at the Reset column, haul channels idle, the swizzle's rows, grade G12,
the default power limit, window and highest grade, the ring off, no command taken, debug locked, no job, no fault, and every memory
canonical and zero. The rest of State.reset that the Reset column does not give is the model's choice (logs 1 to 9). -/
def Obligations.ResetLeaves : Prop :=
  let s := State.reset
  s.memoriesCanonical ∧ s.pending = [] ∧ s.jobs = [] ∧ s.net.flight = [] ∧ s.faults.reports = [] ∧ s.faults.log = [] ∧
  (∀ p, (s.pan p).seq.mode = .stopped ∧ (s.pan p).seq.pc = 0 ∧ (s.pan p).seq.entry = 0 ∧ (s.pan p).seq.progLen = 0 ∧
    (s.pan p).seq.waitLimit = 0x01000000 ∧ (s.pan p).store.swz = [1, 2, 4, 8, 16] ∧
    (∀ k, look 0 (s.pan p).seq.sems k = 0) ∧ (∀ k, look 0 (s.pan p).ctr k = 0) ∧
    (∀ i, (s.haul (.pan p i)).mode = .idle ∧ (s.haul (.pan p i)).count = 0)) ∧
  (∀ a, readByte s.storeMem a = 0 ∧ readByte s.brineMem a = 0 ∧ readByte s.cellarMem a = 0) ∧
  s.clock.grade = 12 ∧ s.clock.pending = none ∧ s.power.limit = 5000 ∧ s.power.window = 2000 ∧ s.power.gradeMax = 12 ∧
  s.hif.ringOn = false ∧ s.hif.ringLog = 6 ∧ s.hif.tail = 0 ∧ s.hif.head = 0 ∧ s.hif.taking = false ∧ s.sec.scope = 0

/-- For each output and grain the lattice forms the partial as the sum over the grain's 32 element pairs of weight times activation,
exactly; its magnitude is at most 2 to the P, with P 19 for BS8 by BS8, 15 for BS4 by BS8 and 11 for BS4 by BS4. -/
def Obligations.PartialsAreExactAndBounded : Prop :=
  ∀ (ws as : List Int), ws.length = 32 → as.length = 32 →
    dot ws as = sumInt ((List.range 32).map fun i => ws.getD i 0 * as.getD i 0) ∧
    ((∀ w ∈ ws, -128 ≤ w ∧ w ≤ 127) → (∀ a ∈ as, -128 ≤ a ∧ a ≤ 127) → (dot ws as).natAbs ≤ 2 ^ 19) ∧
    ((∀ w ∈ ws, -8 ≤ w ∧ w ≤ 7) → (∀ a ∈ as, -128 ≤ a ∧ a ≤ 127) → (dot ws as).natAbs ≤ 2 ^ 15) ∧
    ((∀ w ∈ ws, -8 ≤ w ∧ w ≤ 7) → (∀ a ∈ as, -8 ≤ a ∧ a ≤ 7) → (dot ws as).natAbs ≤ 2 ^ 11) ∧
    productBits 1 = 19 ∧ productBits 2 = 15 ∧ productBits 3 = 11

/-- The pan store maps unit u to bank and row: bit k of the bank is bit k of u exclusive-or the parity of the row index and
SWZ_ROW[k], the row is u[16:5]; under any swizzle no two bytes of the store share a place, the two units of an aligned 128-byte
access lie in two banks, and at reset the bank is u[4:0] exclusive-or u[9:5]. -/
def Obligations.StoreMapping : Prop :=
  (∀ p, (State.reset.pan p).store.swz = [1 <<< 0, 1 <<< 1, 1 <<< 2, 1 <<< 3, 1 <<< 4]) ∧
  ∀ swz : List Nat, swz.length = 5 → (∀ w ∈ swz, w < 4096) →
    (∀ u, u < 2 ^ 17 →
      (∀ k, k < 5 → (bankOf swz (64 * u)).testBit k = (u.testBit k ^^ parity12 (u / 32 &&& swz.getD k 0))) ∧
      bankOf swz (64 * u) < 32 ∧
      (∀ i, i < 64 → placeOf swz (64 * u + i) = bankOf swz (64 * u) * 2 ^ 18 + u / 32 * 64 + i) ∧
      bankOf [1, 2, 4, 8, 16] (64 * u) = (u % 32) ^^^ (u / 32 % 32) ∧
      (u % 2 = 0 → bankOf swz (64 * u) ≠ bankOf swz (64 * (u + 1)))) ∧
    (∀ a b, a < 2 ^ 23 → b < 2 ^ 23 → placeOf swz a = placeOf swz b → a = b) ∧
    (∀ r k, r < 4096 → k < 32 → ∃ u, u / 32 = r ∧ u < 2 ^ 17 ∧ bankOf swz (64 * u) = k)

/-- GO from STOPPED or HALTED (R100, R127): the sequencer of a pan that is not a spare and has power runs from SEQ_ENTRY with cleared
registers, queues and lattice, keeping its program, semaphores and notify targets; the feeders' reads in flight are awaited no longer
(R97). An entry past the program stops it with PC_RANGE instead. STOP from RUNNING, WAITING or HALTED (R101, R102) discards the same
work and writes no record; in the other modes it has no effect. FAULT_CLEAR takes FAULTED to STOPPED and keeps the record (R140). A GO
during a whole-store fill is held (R159), one in another mode is ignored (R101), and so is one to a spare (R22) or to a region without
power. Each clause concludes that the command completes, and nothing it does not name changes. What the row lane count and a NOTICE
from before GO become is the model's choice (logs 83 and 84). -/
def Obligations.SequencerControl : Prop :=
  ∀ (s : State) (p : Nat), p < 1620 → s.powered = true →
    let x := s.pan p
    let q := x.seq
    let reads := s.outs.map fun o => match o.who with | .feeder k _ => if k = p then { o with who := .expired } else o | _ => o
    let idle : Machine.Lat := { wide := x.lat.wide.filter fun e => decide (e.1 ≤ q.cycle), nextSeq := x.lat.nextSeq }
    let kept : Store := { x.store with narrow := x.store.narrow.filter fun r => !r.use.ofWork }
    let gone (q : Machine.Seq) : Machine.Seq :=
      { q with feedq := [], northq := [], drainq := [], pend := [], loads := [], descServed := false, wait := .none, waited := 0
               tileOpen := false, openPair := [], tileArmed := false, hold := none, holdDone := false, peerStop := none }
    (s.isSpare p = false → s.regionDown (p / 15) = false → (q.mode = .stopped ∨ q.mode = .halted) → x.store.fillBusy = false →
      q.entry < q.progLen →
      ∃ t, exec (.go p) s = .next t ∧ t = { s with pans := t.pans, outs := reads } ∧ (∀ k, k ≠ p → t.pan k = s.pan k) ∧
        t.pan p = { x with lat := idle, store := kept, seq := { gone q with
          mode := .running, pc := q.entry, lcs := [], ags := [], tile := none, tileSeen := false, v := [], q := [], emin := -128
          emax := 127, rowLanes := 0, rowAny := false, rowNone := false, stalledAt := none, goCycle := q.cycle, nextIssue := q.cycle, notice := none, lastValid := none
          doneShare := none, heldGo := false } }) ∧
    (s.isSpare p = false → s.regionDown (p / 15) = false → (q.mode = .stopped ∨ q.mode = .halted) → x.store.fillBusy = false →
      q.progLen ≤ q.entry →
      ∃ t, exec (.go p) s = .next t ∧ (t.pan p).seq.mode = .faulted ∧ (t.pan p).seq.fault.code = 0x02 ∧
        (t.pan p).seq.fault.detail = q.entry % 65536 ∧ ∀ k, k ≠ p → t.pan k = s.pan k) ∧
    (s.isSpare p = false → s.regionDown (p / 15) = false → (q.mode = .stopped ∨ q.mode = .halted) → x.store.fillBusy = true →
      ∃ t, exec (.go p) s = .next t ∧ s.onlyPan t p { x with seq := { q with heldGo := true } }) ∧
    ((q.mode = .running ∨ q.mode = .waiting ∨ q.mode = .faulted ∨ s.isSpare p = true ∨ s.regionDown (p / 15) = true) →
      exec (.go p) s = .next s) ∧
    ((q.mode = .running ∨ q.mode = .waiting ∨ q.mode = .halted) →
      ∃ t, exec (.stop p) s = .next t ∧ t = { s with pans := t.pans, outs := reads } ∧ (∀ k, k ≠ p → t.pan k = s.pan k) ∧
        t.pan p = { x with lat := idle, store := kept, seq := { gone q with mode := .stopped } }) ∧
    ((q.mode = .stopped ∨ q.mode = .faulted) → exec (.stop p) s = .next s) ∧
    (∃ t, exec (.faultClear p) s = .next t ∧
      s.onlyPan t p { x with seq := { q with mode := if q.mode = .faulted then .stopped else q.mode } })

/-- The taking of a pan fault (R137), shown on HW_CHECK, which an internal check raises asynchronously in any mode but FAULTED: the
queues, the results in flight and the lattice are discarded, the haul channels paused, the fault recorded with its PC and the tide
count of the pan's replica (R366), the sequencer FAULTED, and one record of class 4 reported to Hakar, which names no job where the pan is a spare (R22); no other
pan changes, unless the schedule is chained (R139). A bundle with a reserved value takes ILLEGAL_OP from its lowest such slot (R103),
when no other slot of it raises a fault that R137 keeps. In a FAULTED pan a later fault is not recorded; one of the same cycle replaces
the record where it outranks it (R137). -/
def Obligations.PanFaultTaken : Prop :=
  ∀ (s : State) (p : Nat), p < 1620 → s.powered = true →
    let x := s.pan p
    let q := x.seq
    let reads := s.outs.map fun o => match o.who with | .feeder k _ => if k = p then { o with who := .expired } else o | _ => o
    let taken (code cls detail slot : Nat) (async : Bool) (t : State) : Prop :=
      (∀ k, k ≠ p → t.pan k = s.pan k) ∧ t = { s with pans := t.pans, outs := reads, faults := t.faults } ∧
      (t.pan p).seq.mode = .faulted ∧
      (t.pan p).seq.fault = { code := code, cls := cls, detail := detail, async := async, slot := slot, pc := q.pc, tide := s.panNow p } ∧
      (t.pan p).seq.feedq = [] ∧ (t.pan p).seq.northq = [] ∧ (t.pan p).seq.drainq = [] ∧ (t.pan p).seq.pend = [] ∧
      (t.pan p).lat = { wide := x.lat.wide.filter fun e => decide (e.1 ≤ q.cycle), nextSeq := x.lat.nextSeq } ∧
      (t.pan p).haul = x.haul.map (fun e => (e.1, pauseHaul e.2)) ∧
      (t.pan p).seq.sems = q.sems ∧ (t.pan p).seq.pc = q.pc ∧ (t.pan p).ctr = x.ctr ∧
      (t.pan p).store = { x.store with narrow := x.store.narrow.filter fun r => !r.use.ofWork } ∧
      t.faults = { s.faults with reports := s.faults.reports ++
        [{ type := 0x01, cls := recordClass cls, code := code, unitCls := 0x2, unitIdx := p
           addr := flag async 15 + field slot 2 13 + q.pc % 8192, detail := detail, jobs := if s.isSpare p then 0 else s.jobMask (p / 15)
           tide := s.panNow p, epoch := s.boot.epoch }] }
    (∀ unit, unit < 7 → q.mode ≠ .faulted → s.regionDown (p / 15) = false → s.regionChained (p / 15) = false →
      ∃ t, exec (.internalCheckFail p unit) s = .next t ∧ taken 0x31 1 unit 0 true t) ∧
    (∀ i r, s.canIssue p = true → reservedSlot (s.bundleAt p) = some i → s.regionChained (p / 15) = false →
      (slotsOf (s.bundleAt p)).2.2.1 = r → (r.rop = 0 ∨ r.isReserved = true) →
      ((slotsOf (s.bundleAt p)).2.2.2 = .reserved ∨ ((slotsOf (s.bundleAt p)).2.2.2 = .nop ∧ s.follows p)) →
      ∃ t, exec (.reservedOpcode p) s = .next t ∧ taken 0x01 3 i i false t) ∧
    (∀ unit, unit < 7 → q.mode = .faulted → (q.faultCycle ≠ q.cycle ∨ q.fault.tide ≠ s.panNow p ∨ q.fault.cls = 1 ∧ q.fault.code ≤ 0x31 ∧ q.fault.code ≠ 0x19) →
      exec (.internalCheckFail p unit) s = .next s)

/-- Semaphores (R128, R129, R140): SWAIT takes n from one that holds n or more; SSIG adds n when the sum stays within 16 bits, and
otherwise its bundle stops the pan from slot 3 and the semaphore keeps its value; a SEM_NOTIFY write adds and holds 65,535 at most;
SEM_CLEAR zeroes those its mask names. NOTIFY sends an urgent write of n to the register its notify target names. -/
def Obligations.Semaphores : Prop :=
  ∀ (s : State) (p : Nat), p < 1620 → s.powered = true →
    let x := s.pan p
    let q := x.seq
    let sem (i : Nat) : Nat := look 0 q.sems i
    (∀ r i n, r.rop = 0 → s.issues p .nop .nop r (.swait i n) → s.follows p → n ≤ sem i →
      ∃ t, exec (.swait p) s = .next t ∧ s.onlyPan t p (x.issued (q.pc + 1) 1 { q with sems := put i (sem i - n) q.sems })) ∧
    (∀ r i n, r.rop = 0 → s.issues p .nop .nop r (.swait i n) → sem i < n →
      ∃ t, exec (.swait p) s = .next t ∧ s.onlyPan t p { x with seq := { q with mode := .waiting, wait := .swait i n, waited := 0 } }) ∧
    (∀ r i n, r.rop = 0 → s.issues p .nop .nop r (.ssig i n) → s.follows p → sem i + n ≤ 65535 →
      ∃ t, exec (.ssig p) s = .next t ∧ s.onlyPan t p (x.issued (q.pc + 1) 1 { q with sems := put i (sem i + n) q.sems })) ∧
    (∀ r i n, r.rop = 0 → s.issues p .nop .nop r (.ssig i n) → s.follows p → 65535 < sem i + n →
      ∃ t, exec (.ssig p) s = .next t ∧ (t.pan p).seq.mode = .faulted ∧ (t.pan p).seq.fault.code = 0x05 ∧ (t.pan p).seq.fault.slot = 3 ∧
        (t.pan p).seq.fault.detail = i % 65536 ∧ (t.pan p).seq.sems = q.sems ∧ (t.pan p).seq.pc = q.pc) ∧
    (∀ i n, i < 16 → sem i + n % 65536 ≤ 65535 →
      ∃ t, exec (.semNotify p i n) s = .next t ∧ s.onlyPan t p { x with seq := { q with sems := put i (sem i + n % 65536) q.sems } }) ∧
    (∀ i n, i < 16 → 65535 < sem i + n % 65536 →
      ∃ t, exec (.semNotify p i n) s = .next t ∧ look 0 (t.pan p).seq.sems i = 65535 ∧
        ((q.mode = .running ∨ q.mode = .waiting) → (t.pan p).seq.mode = .faulted ∧ (t.pan p).seq.fault.code = 0x05 ∧
          (t.pan p).seq.fault.async = true) ∧
        (q.mode ≠ .running → q.mode ≠ .waiting → s.onlyPan t p { x with seq := { q with sems := put i 65535 q.sems } })) ∧
    (∀ mask, ∃ t, exec (.semClear p mask) s = .next t ∧ s.onlyPan t p { x with seq := { q with sems := (t.pan p).seq.sems } } ∧
      ∀ i, look 0 (t.pan p).seq.sems i = if i < 16 ∧ mask.testBit i then 0 else sem i) ∧
    (∀ r i n, r.rop = 0 → s.issues p .nop .nop r (.notify i n) → s.follows p →
      let k : Packet := { op := 0x10, vc := 0, addr := (look (0 : W64) q.ntt i).toNat, src := s.haulSrc (.pan p 0), bytes := 4
                          data := leBytes n 4, marks := [false] }
      let u := sendFrom (meshX p) (meshY p) k s
      ∃ t, exec (.notify p) s = .next t ∧ u.onlyPan t p (x.issued (q.pc + 1) 1 q))

/-- The move slot's control operations (R105, R126, R127), the other slots empty: LSET sets a counter, LOOP counts one down and
branches while it held 2 or more, JMP goes to its target, SPIN costs 1 + n cycles, HALT stops the PC where it is, NOTICE notes the
cycle (R134) and reaches the region's regulators, of a chain pan 0's alone (R136), and MNOP does nothing. A bundle that would send the PC past the program stops the pan with PC_RANGE from slot 3 and
takes no effect. Nothing else changes, and each command completes. -/
def Obligations.ProgramFlow : Prop :=
  ∀ (s : State) (p : Nat) (r : RakeOp), r.rop = 0 →
    let x := s.pan p
    let q := x.seq
    (s.issues p .nop .nop r .nop → s.follows p →
      ∃ t, exec (.mnop p) s = .next t ∧ s.onlyPan t p (x.issued (q.pc + 1) 1 q)) ∧
    (∀ lc v, s.issues p .nop .nop r (.lset lc v) → s.follows p →
      ∃ t, exec (.lset p) s = .next t ∧ s.onlyPan t p (x.issued (q.pc + 1) 1 { q with lcs := put lc v q.lcs })) ∧
    (∀ lc a, s.issues p .nop .nop r (.loop lc a) →
      let to_ := if 2 ≤ look 0 q.lcs lc then a else q.pc + 1
      to_ < q.progLen →
      ∃ t, exec (.loop p) s = .next t ∧ s.onlyPan t p (x.issued to_ 1 { q with lcs := put lc (look 0 q.lcs lc - 1) q.lcs })) ∧
    (∀ a, s.issues p .nop .nop r (.jmp a) → a < q.progLen →
      ∃ t, exec (.jmp p) s = .next t ∧ s.onlyPan t p (x.issued a 1 q)) ∧
    (∀ n, s.issues p .nop .nop r (.spin n) → s.follows p →
      ∃ t, exec (.spin p) s = .next t ∧ s.onlyPan t p (x.issued (q.pc + 1) (1 + n) q)) ∧
    (s.issues p .nop .nop r .halt →
      ∃ t, exec (.halt p) s = .next t ∧ s.onlyPan t p (x.issued q.pc 1 { q with mode := .halted })) ∧
    (s.issues p .nop .nop r .notice → s.follows p →
      let u := if x.chainedNow = true ∧ s.logicalCol p ≠ 0 then s else s.modRegion (p / 15) fun g => { g with notices := g.notices + 1 }
      ∃ t, exec (.notice p) s = .next t ∧ u.onlyPan t p (x.issued (q.pc + 1) 1 { q with notice := some q.cycle })) ∧
    (∀ a, s.issues p .nop .nop r (.jmp a) → q.progLen ≤ a →
      ∃ t, exec (.jmp p) s = .next t ∧ (t.pan p).seq.mode = .faulted ∧ (t.pan p).seq.fault.code = 0x02 ∧
        (t.pan p).seq.fault.detail = a % 65536 ∧ (t.pan p).seq.fault.slot = 3 ∧ (t.pan p).seq.fault.pc = q.pc ∧
        (t.pan p).seq.pc = q.pc ∧ (t.pan p).ctr = x.ctr)

/-- The move slot's loads (R115, R116, R130 to R133, R162, R163, R203, R325), the other slots empty, the descriptor reads granted and the
descriptor in an awake bank with no marked unit: AGLD loads a generator, TILE a tile context (a chained one waits for the rendezvous
instead, and an unchained one while other pans of the region wait there stops every logical pan with CHAIN_MISMATCH, R95), WOPEN and
WCLOSE change a window one or two cycles later, HSTART loads a channel and starts it, FENCE passes when no write of the pan's
channels is out and waits otherwise, and DONE notes the share and tells Hakar. Descriptor reads that are granted leave nothing but
their banks and their port busy (R142, R146). Nothing else changes, and each command completes. That an unchained TILE stops the region at once
is the model's reading (log 46). -/
def Obligations.DescriptorLoads : Prop :=
  ∀ (s : State) (p : Nat) (r : RakeOp), r.rop = 0 →
    let x := s.pan p
    let q := x.seq
    (∀ runs, s.descGranted p runs →
        let y := ((s.descTaken p runs).pan p).store
        s.onlyPan (s.descTaken p runs) p
          { x with seq := { q with descServed := false }, store := { x.store with busy := y.busy, served := y.served } }) ∧
    (∀ ag a d g, s.issues p .nop .nop r (.agld ag a) → s.follows p → s.descGranted p [(a, 64)] →
      let u := s.descTaken p [(a, 64)]
      localRead p a 64 u = (d, false, u) → agOf d = some g → (g.brine && q.tileOpen && q.openPair.contains ag) = false →
      ∃ t, exec (.agld p) s = .next t ∧
        u.onlyPan t p ((u.pan p).issued (q.pc + 1) 2 { (u.pan p).seq with ags := put ag g q.ags })) ∧
    (∀ copy a c, s.issues p .nop .nop r (.tile copy a) → s.descGranted p (moveRuns p (.tile copy a) s) →
      let u := s.descTaken p (moveRuns p (.tile copy a) s)
      readTile p a copy u = .ok c → moveRuns p (.tile copy a) u = moveRuns p (.tile copy a) s →
      touchRuns p (moveRuns p (.tile copy a) s) u = u →
      ∃ t, exec (.tile p) s = .next t ∧
        (c.chained = false → u.rendezvous (p / 15) = [] → s.follows p → u.onlyPan t p
          { (u.pan p).issued (q.pc + 1) 4 { (u.pan p).seq with tile := some c, tileSeen := true, tileArmed := true } with
            lat := { x.lat with chained := false } }) ∧
        (c.chained = false → u.rendezvous (p / 15) ≠ [] → ∀ e ∈ s.chainPans (p / 15), (s.pan e.1).seq.mode ≠ .faulted →
          (t.pan e.1).seq.mode = .faulted ∧ (t.pan e.1).seq.fault.code = 0x14 ∧ (t.pan e.1).seq.fault.detail = s.logicalCol p) ∧
        (c.chained = true →
          u.onlyPan t p { u.pan p with seq := { (u.pan p).seq with mode := .waiting, wait := .rendezvous c, waited := 0 } })) ∧
    (∀ w a d v, s.issues p .nop .nop r (.wopen w a) → s.follows p → s.descGranted p [(a, 64)] →
      let u := s.descTaken p [(a, 64)]
      localRead p a 64 u = (d, false, u) → windowOf d = some v →
      ∃ t, exec (.wopen p) s = .next t ∧ u.onlyPan t p
        { (u.pan p).issued (q.pc + 1) 2 (u.pan p).seq with
          store := { (u.pan p).store with winPend := x.store.winPend ++ [(q.cycle + 2, w, some v)] } }) ∧
    (∀ w, s.issues p .nop .nop r (.wclose w) → s.follows p →
      ∃ t, exec (.wclose p) s = .next t ∧ s.onlyPan t p
        { x.issued (q.pc + 1) 1 q with store := { x.store with winPend := x.store.winPend ++ [(q.cycle + 1, w, none)] } }) ∧
    (∀ ch a d, s.issues p .nop .nop r (.hstart ch a) → s.follows p → s.descGranted p [(a, 32)] →
      let u := s.descTaken p [(a, 32)]
      localRead p a 32 u = (d, false, u) → haulCtrlReserved (word d 0x14 4) = false →
      let v := haulStart (.pan p ch) (u.modHaul (.pan p ch) fun h =>
        { h with src := word d 0 8, dst := word d 8 8, count := word d 0x10 4, ctrl := word d 0x14 4 % 2 ^ 26 })
      ∃ t, exec (.hstart p) s = .next t ∧ v.onlyPan t p
        { v.pan p with seq := { (v.pan p).seq with pc := q.pc + 1, nextIssue := q.cycle + 2 }
                       ctr := bump (v.pan p).ctr PanCtr.bundle 1 }) ∧
    (s.issues p .nop .nop r .fence → s.follows p → (∀ o ∈ s.outs, o.write = true → o.serial ≤ s.issuedOuts →
        (∀ c, o.who ≠ .haul (.pan p c)) ∧ (o.who = .expired → o.src ≠ s.haulSrc (.pan p 0))) →
      ∃ t, exec (.fence p) s = .next t ∧ s.onlyPan t p (x.issued (q.pc + 1) 1 q)) ∧
    (∀ o ∈ s.outs, ∀ c, s.issues p .nop .nop r .fence → o.write = true → o.serial ≤ s.issuedOuts → o.who = .haul (.pan p c) →
      ∃ t, exec (.fence p) s = .next t ∧
        s.onlyPan t p { x with seq := { q with mode := .waiting, wait := .fence s.issuedOuts, waited := 0 } }) ∧
    (∀ share, s.issues p .nop .nop r (.done share) → s.follows p →
      ∃ u, s.onlyPan u p (x.issued (q.pc + 1) 1 { q with doneShare := some share }) ∧
        exec (.done p) s = .next (restOnDone (p / 15) (panDone p share u)))

/-- All four slots of a bundle take effect together, each from the state before the bundle (R104): a bundle with a feed and a drain
operation, a rake operation that does not fault and a move operation that does not fault, reads no descriptor and neither waits nor
sends the PC elsewhere leaves what the rake leaves, then the feed queue, the drain assignments and the move operation on top of it. The
row of every operation the bundle holds issues it. -/
def Obligations.SlotsActTogether : Prop :=
  ∀ (s : State) (p : Nat) (f : FeedOp) (d : DrainOp) (r : RakeOp) (m : MoveOp) (u : State) (run : State → State),
    s.issues p f d r m → s.follows p → nextPc m (s.pan p).seq = some ((s.pan p).seq.pc + 1) →
    (∀ i n, m ≠ .swait i n) → m ≠ .fence → moveRuns p m s = [] → (∀ i, m ≠ .done i) →
    rakeSlotEffect p r (s.pan p).seq s = .ok u → movePlan p m s = .ok run →
    let q := (s.pan p).seq
    let w := run (drainEffect p d q (feedEffect p f q u))
    ∃ t, (f = .nop → exec (.fnop p) s = .next t) ∧
      (∀ c st la z h wn n, f = .wfeed c st la z h wn n → exec (.wfeed p) s = .next t) ∧
      (∀ c dp, f = .hload c dp → exec (.hload p) s = .next t) ∧ (f = .tend → exec (.tend p) s = .next t) ∧
      (d = .nop → exec (.dnop p) s = .next t) ∧
      (∀ g sem n, d = .dout g sem n → exec (.dout p) s = .next t) ∧ (m = .nop → exec (.mnop p) s = .next t) ∧
      (∀ i n, m = .ssig i n → exec (.ssig p) s = .next t) ∧ (r.rop = 0x03 → exec (.radds p) s = .next t) ∧
      (r.rop = 0x0B → exec (.rredq p) s = .next t) ∧
      t = { w with pans := t.pans } ∧ (∀ k, k ≠ p → t.pan k = w.pan k) ∧
      t.pan p = { w.pan p with seq := { (w.pan p).seq with pc := q.pc + 1, nextIssue := q.cycle + issueCost m }
                               ctr := bump (w.pan p).ctr PanCtr.bundle 1 }

/-- The feed slot (R108 to R112), the other slots empty: FNOP changes only what every issue changes; WFEED and TEND enter the feed
order behind what it holds, HLOAD the north order, each to begin no earlier than the second cycle after its issue, and a WFEED
takes its generators, product mode and chaining from the tile context, and chained slots their numbers (R93). Before any TILE the manual
names no generator or mode: free values (log 14). Nothing else changes. Each clause concludes that the command
completes. -/
def Obligations.FeedSlotEntersItsQueue : Prop :=
  ∀ (s : State) (p : Nat) (r : RakeOp), r.rop = 0 → s.follows p →
    let x := s.pan p
    let q := x.seq
    (s.issues p .nop .nop r .nop →
      ∃ t, exec (.fnop p) s = .next t ∧ s.onlyPan t p (x.issued (q.pc + 1) 1 q)) ∧
    (∀ copy start last zero h w n c, s.issues p (.wfeed copy start last zero h w n) .nop r .nop → q.tile = some c →
      ∃ t, exec (.wfeed p) s = .next t ∧ s.onlyPan t p (x.issued (q.pc + 1) 1
        { q with feedq := q.feedq ++ [.run { id := q.feedSeq, copy := copy, start := start, last := last, zero := zero, h := h, w := w
                                             n := n, wag := c.wag, mode := c.mode, nag := c.nag, chained := c.chained
                                             chainNo := q.chainNext } q.tileArmed (q.cycle + 2)]
                 feedSeq := q.feedSeq + 1, tileArmed := false, chainNext := if c.chained then q.chainNext + n else q.chainNext })) ∧
    (∀ copy start last zero h w n, s.issues p (.wfeed copy start last zero h w n) .nop r .nop → q.tile = none →
      let v := Config.freeValue s.draws
      ∃ t, exec (.wfeed p) s = .next t ∧ t = { s with pans := t.pans, draws := s.draws + 1 } ∧ (∀ k, k ≠ p → t.pan k = s.pan k) ∧
        t.pan p = x.issued (q.pc + 1) 1
          { q with feedq := q.feedq ++ [.run { id := q.feedSeq, copy := copy, start := start, last := last, zero := zero, h := h, w := w
                                               n := n, wag := v % 4, mode := 1 + v / 4 % 3, nag := v / 12 % 4
                                               chainNo := q.chainNext } q.tileArmed (q.cycle + 2)]
                   feedSeq := q.feedSeq + 1, tileArmed := false }) ∧
    (∀ copy dp, s.issues p (.hload copy dp) .nop r .nop →
      ∃ t, exec (.hload p) s = .next t ∧ s.onlyPan t p (x.issued (q.pc + 1) 1
        { q with northq := q.northq ++ [{ id := q.feedSeq, copy := copy, dp := dp, readyAt := q.cycle + 2 }]
                 feedSeq := q.feedSeq + 1 })) ∧
    (s.issues p .tend .nop r .nop →
      ∃ t, exec (.tend p) s = .next t ∧ s.onlyPan t p (x.issued (q.pc + 1) 1 { q with feedq := q.feedq ++ [.tend (q.cycle + 2)] }))

/-- The drain slot (R119 to R122), the other slots empty: DOUT assigns n entries to the tile's generator DAG (before any TILE
the manual names no generator: a free value, log 14), and DRLD queues n
grains of a reload, behind the assignments already made; DNOP, and a DWAIT with no earlier work left, change only what every issue
changes. Nothing else changes. Each clause concludes that the command completes. -/
def Obligations.DrainSlotMakesAssignments : Prop :=
  ∀ (s : State) (p : Nat) (r : RakeOp), r.rop = 0 → s.follows p →
    let x := s.pan p
    let q := x.seq
    (s.issues p .nop .nop r .nop →
      ∃ t, exec (.dnop p) s = .next t ∧ s.onlyPan t p (x.issued (q.pc + 1) 1 q)) ∧
    (∀ sig sem n c, s.issues p .nop (.dout sig sem n) r .nop → q.tile = some c →
      ∃ t, exec (.dout p) s = .next t ∧
        s.onlyPan t p (x.issued (q.pc + 1) 1 { q with drainq := q.drainq ++ [.dout n c.dag sig sem] })) ∧
    (∀ sig sem n, s.issues p .nop (.dout sig sem n) r .nop → q.tile = none →
      ∃ t, exec (.dout p) s = .next t ∧ t = { s with pans := t.pans, draws := s.draws + 1 } ∧ (∀ k, k ≠ p → t.pan k = s.pan k) ∧
        t.pan p = x.issued (q.pc + 1) 1 { q with drainq := q.drainq ++ [.dout n (Config.freeValue s.draws % 4) sig sem] }) ∧
    (∀ sag dag n desc, s.issues p .nop (.drld sag dag n desc) r .nop →
      ∃ t, exec (.drld p) s = .next t ∧
        s.onlyPan t p (x.issued (q.pc + 1) 1 { q with drainq := q.drainq ++ [.drld n sag dag desc none] })) ∧
    (s.issues p .nop .dwait r .nop →
      ∃ t, exec (.dwait p) s = .next t ∧ s.onlyPan t p (x.issued (q.pc + 1) 1 q))

/-- The rake's lane operations (R123): with W the lanes are eight I32, otherwise sixteen I16. Each result lane is the operation on
the two source lanes, saturated where the table says so, the result's tag is the AND of the sources' tags, RAKE_SAT_COUNT counts the
lanes that saturated, and RMSH, REXP2 and RSIG leave their register as it is until two cycles after issue, their results in flight (R100). In a row that has
shown no valid lane nothing is counted (R61; the model's reading, log 81). Nothing else changes, and
each command completes. -/
def Obligations.RakeLaneOperations : Prop :=
  ∀ (s : State) (p : Nat) (r : RakeOp), s.issues p .nop .nop r .nop → s.follows p →
    let x := s.pan p
    let q := x.seq
    let b := laneBits r.w
    let va := getV q r.va
    let vb := getV q r.vb
    let A := vLanes r.w va
    let B := vLanes r.w vb
    let into (ls : List Int) (tag : Nat) := setV r.vd (vMake r.w ls tag) q
    let each (f : Int → Int → Int) := List.zipWith f A B
    let counted (n : Nat) : Nat := if q.rowNone then 0 else n
    (r.rop = 0x00 → ∃ t, exec (.rnop p) s = .next t ∧ s.onlyPan t p (x.raked q [] 0)) ∧
    (r.rop = 0x03 → ∃ t, exec (.radds p) s = .next t ∧
      s.onlyPan t p (x.raked (into (each fun u v => satInt b (u + v)) (va.tag &&& vb.tag)) [] (counted (overflows b (each (· + ·)))))) ∧
    (r.rop = 0x04 → ∃ t, exec (.rsubs p) s = .next t ∧
      s.onlyPan t p (x.raked (into (each fun u v => satInt b (u - v)) (va.tag &&& vb.tag)) [] (counted (overflows b (each (· - ·)))))) ∧
    (r.rop = 0x05 → ∃ t, exec (.rmin p) s = .next t ∧ s.onlyPan t p (x.raked (into (each min) (va.tag &&& vb.tag)) [] 0)) ∧
    (r.rop = 0x06 → ∃ t, exec (.rmax p) s = .next t ∧ s.onlyPan t p (x.raked (into (each max) (va.tag &&& vb.tag)) [] 0)) ∧
    (r.rop = 0x07 → ∃ t, exec (.rmsh p) s = .next t ∧
      s.onlyPan t p (x.raked (into (each fun u v => satInt b (align (u * v) r.simm)) (va.tag &&& vb.tag)) [(r.vd, 2)]
        (counted (overflows b (each fun u v => align (u * v) r.simm))))) ∧
    (r.rop = 0x08 → ∃ t, exec (.rshrv p) s = .next t ∧
      s.onlyPan t p (x.raked (into (each fun u v => u / 2 ^ (clampInt 0 ((b : Int) - 1) v).toNat) (va.tag &&& vb.tag)) [] 0)) ∧
    (r.rop = 0x09 → ∃ t, exec (.rbc p) s = .next t ∧
      let n := if r.w then 8 else 16
      s.onlyPan t p (x.raked (into (List.replicate n (satInt b (getQ q 0))) 0xFFFF) []
        (counted (overflows b (List.replicate n (getQ q 0)))))) ∧
    (r.rop = 0x0E → ∃ t, exec (.rexp2 p) s = .next t ∧
      s.onlyPan t p (x.raked
        (into (A.zipIdx.map fun e => if laneValid r.w va.tag e.2 then expOf (clampInt 0 32767 e.1) else 0) va.tag) [(r.vd, 2)] 0)) ∧
    (r.rop = 0x0F → ∃ t, exec (.rsig p) s = .next t ∧ s.onlyPan t p (x.raked (into (A.map sigmoidOf) va.tag) [(r.vd, 2)] 0))

/-- The rake's reduction registers (R123, R125): RQSET sets all four and the row lane count; RREDQ adds the valid lanes of group g
to Qg, or takes their maximum, and counts every lane of the row; RFOLD leaves one value in all four; RDIV divides into 2^IMM;
RBND takes the bounds from two bytes; RNVAR and RRSQ are R63's. A sum that leaves 64 bits saturates and is counted. RDIV's one
quotient the register cannot hold, 2^63, is a free value (log 14). Nothing else changes, but for the free value RDIV sets aside
(log 10), and each command completes. -/
def Obligations.RakeReductions : Prop :=
  ∀ (s : State) (p : Nat) (r : RakeOp), s.issues p .nop .nop r .nop → s.follows p →
    let x := s.pan p
    let q := x.seq
    let va := getV q r.va
    let A := vLanes r.w va
    let all (y : Int) : Sparse Int := [(0, y), (1, y), (2, y), (3, y)]
    let Q := (List.range 4).map (getQ q)
    let valid (g : Nat) := ((groupLanes r.w g).filter fun i => laneValid r.w va.tag i).map fun i => A.getD i 0
    (r.rop = 0x0A → ∃ t, exec (.rqset p) s = .next t ∧
      s.onlyPan t p (x.raked { q with q := all (if bit r.imm 0 then -(2 ^ 63) else 0), rowLanes := 0,
                                          rowAny := q.rowAny && !bit r.imm 0, rowNone := q.rowNone && !bit r.imm 0 } [] 0)) ∧
    (r.rop = 0x0B → q.rowLanes + A.length ≤ 65536 → ∃ t, exec (.rredq p) s = .next t ∧
      t = { s with pans := t.pans } ∧ (∀ k, k ≠ p → t.pan k = s.pan k) ∧
      (t.pan p).seq.rowLanes = q.rowLanes + A.length ∧ (t.pan p).seq.pc = q.pc + 1 ∧
      (t.pan p).seq.rowAny = (q.rowAny || (List.range A.length).any fun i => laneValid r.w va.tag i) ∧
      (t.pan p).seq.rowNone = !(t.pan p).seq.rowAny ∧
      (∀ g, g < 4 → getQ (t.pan p).seq g =
        if bit r.imm 0 then (valid g).foldl max (getQ q g) else satInt 64 (getQ q g + sumInt (valid g))) ∧
      (t.pan p).ctr = bump (bump x.ctr PanCtr.rakeSat (if bit r.imm 0 then 0 else
        ((List.range 4).filter fun g => satInt 64 (getQ q g + sumInt (valid g)) ≠ getQ q g + sumInt (valid g)).length)) PanCtr.bundle 1 ∧
      t.pan p = { x with ctr := (t.pan p).ctr, seq := { q with q := (t.pan p).seq.q, rowLanes := (t.pan p).seq.rowLanes,
                                                               rowAny := (t.pan p).seq.rowAny, rowNone := (t.pan p).seq.rowNone,
                                                               pc := (t.pan p).seq.pc, nextIssue := q.cycle + 1 } }) ∧
    (r.rop = 0x0C → ∃ t, exec (.rfold p) s = .next t ∧
      s.onlyPan t p (x.raked { q with q := all (if bit r.imm 0 then Q.foldl max (getQ q 0) else satInt 64 (sumInt Q)) } []
        (if bit r.imm 0 then 0 else if satInt 64 (sumInt Q) ≠ sumInt Q then 4 else 0))) ∧
    (r.rop = 0x0D → ∃ t, exec (.rdiv p) s = .next t ∧
      t = { s with pans := t.pans, draws := s.draws + 1 } ∧ (∀ k, k ≠ p → t.pan k = s.pan k) ∧
      t.pan p = x.raked (setQ 0 (if getQ q 0 ≤ 0 then 0 else if 2 ^ r.imm / getQ q 0 < 2 ^ 63 then 2 ^ r.imm / getQ q 0
        else signed 64 (Config.freeValue s.draws)) q) [(16, 66)] 0) ∧
    (r.rop = 0x11 → ∃ t, exec (.rbnd p) s = .next t ∧
      s.onlyPan t p (x.raked { q with emin := signed 8 ((vBytes va).getD 0 0).toNat, emax := signed 8 ((vBytes va).getD 1 0).toNat } [] 0)) ∧
    (r.rop = 0x14 → ∃ t, exec (.rnvar p) s = .next t ∧
      let h := (vLanes true va).getD 0 0
      let e := (vLanes true va).getD 2 0 - 2 * clampInt (-128) 127 (getQ q 1) + 24
      let y := align (h * (vLanes true va).getD 1 0) (clampInt (-192) 192 e)
      let w := (getQ q 0 + satInt 64 y) * 65536 / h
      s.onlyPan t p (if h ≤ 0 then x.raked (setQ 0 0 q) [(16, 66)] 0
        else x.raked (setQ 0 (satInt 64 w) q) [(16, 66)] (if satInt 64 y ≠ y ∨ satInt 64 w ≠ w then 1 else 0))) ∧
    (r.rop = 0x15 → ∃ t, exec (.rrsq p) s = .next t ∧
      s.onlyPan t p (x.raked (setQ 2 (rsqrt (getQ q 0)).2 (setQ 0 (rsqrt (getQ q 0)).1 q)) [(16, 40), (18, 40)] 0))

/-- The rake and grains (R123, R63, R59, R125): RXMAX takes the exponent of a grain with a nonzero element into Q1 when it is
greater; RSSQ adds the grain's aligned sum of squares and counts 32 elements of the row. The exponent is the one the
register's grain was loaded with, and a free value where nothing has loaded one (log 14). RLD loads 32 bytes from its generator and moves
it on, one unit read in each cycle (R142); RST stores 32; RPACK and RNPACK convert 32 values
to one grain under the rake bounds, store its elements and exponent, and count what saturated or was clamped. A store made in its
cycle takes its bank (R146); a load whose bank is not free waits with its register unread (R124). All of it lies in awake banks with
no marked unit. That IMM of RPACK and RNPACK is signed is the model's reading (log 82). Nothing else changes, but for the free value some of them set aside (log 10), and each command
completes. -/
def Obligations.RakeGrainOperations : Prop :=
  ∀ (s : State) (p : Nat) (r : RakeOp), s.issues p .nop .nop r .nop → s.follows p →
    let x := s.pan p
    let q := x.seq
    let va := getV q r.va
    let emx := clampInt (-128) 127 (getQ q 1)
    let e := expOfV va s.draws
    (r.rop = 0x12 → ∃ t, exec (.rxmax p) s = .next t ∧
      t = { s with pans := t.pans, draws := s.draws + 1 } ∧ (∀ k, k ≠ p → t.pan k = s.pan k) ∧
      t.pan p = x.raked (if (grainOf va).any (· ≠ 0) then setQ 1 (max (getQ q 1) e) q else q) [] 0) ∧
    (r.rop = 0x13 → q.rowLanes + 32 ≤ 32768 → ∃ t, exec (.rssq p) s = .next t ∧
      t = { s with pans := t.pans, draws := s.draws + 1 } ∧ (∀ k, k ≠ p → t.pan k = s.pan k) ∧
      let sg := sumInt ((grainOf va).map fun a => a * a)
      let y := if (grainOf va).any (· ≠ 0) then align sg (clampInt (-192) 192 (max (2 * (e - emx) + 24) (-24))) else 0
      let z := getQ q 0 + satInt 64 y
      t.pan p = x.raked { setQ 0 (satInt 64 z) q with rowLanes := q.rowLanes + 32 } [(16, 2)]
        (if satInt 64 y ≠ y ∨ satInt 64 z ≠ z then 1 else 0)) ∧
    (∀ bs xs, r.rop = 0x01 →
      let g : Ag := look {} q.ags (r.imm % 4)
      let n := if bit r.imm 2 then (if r.w then 1 else 2) else if bit r.imm 3 then 1 else 0
      let runs := [(g.ecur.toNat, 32), (g.xcur.toNat, n)]
      let u := occupyRuns p 0x8 runs false s
      agCheck q (r.imm % 4) unitRake 32 n = none → s.narrowFree p 0x8 runs false = true →
      localRead p g.ecur.toNat 32 u = (bs, false, u) → localRead p g.xcur.toNat n u = (xs, false, u) →
      ∃ t, exec (.rld p) s = .next t ∧
        u.onlyPan t p ((u.pan p).raked
          (setV r.vd { lanes := lanesOf bs, tag := if bit r.imm 2 then tagOf r.w xs else 0xFFFF
                       exponent := if bit r.imm 3 then some (signed 8 (xs.getD 0 0).toNat) else none } (stepAg (r.imm % 4) q))
          [(r.vd, 2 + ((s.awakeUnits p runs).length - 2))] 0)) ∧
    (r.rop = 0x01 →
      let g : Ag := look {} q.ags (r.imm % 4)
      let n := if bit r.imm 2 then (if r.w then 1 else 2) else if bit r.imm 3 then 1 else 0
      agCheck q (r.imm % 4) unitRake 32 n = none → s.narrowFree p 0x8 [(g.ecur.toNat, 32), (g.xcur.toNat, n)] false = false →
      ∃ t, exec (.rld p) s = .next t ∧ t = { s with pans := t.pans } ∧ (∀ k, k ≠ p → t.pan k = s.pan k) ∧
        (t.pan p).seq.v = q.v ∧ (t.pan p).seq.pc = q.pc + 1 ∧ (t.pan p).seq.loads.map (·.vd) = q.loads.map (·.vd) ++ [r.vd] ∧
        (t.pan p).ctr = bump x.ctr PanCtr.bundle 1) ∧
    (r.rop = 0x02 → agCheck q (r.imm % 4) unitRake 32 0 = none →
      let a := (look {} q.ags (r.imm % 4) : Ag).ecur.toNat
      s.narrowFree p 0x8 [(a, (vBytes va).length)] true = true →
      let u := localWrite p a (vBytes va) false (occupyRuns p 0x8 [(a, (vBytes va).length)] true s)
      ∃ t, exec (.rst p) s = .next t ∧
        u.onlyPan t p ((u.pan p).raked (stepAg (r.imm % 4) (u.pan p).seq) [] 0)) ∧
    (∀ fmt, r.rop = 0x10 ∨ r.rop = 0x16 → (fmt = if bit r.vd 2 then 2 else 1) →
      agCheck q (r.vd % 4) unitRake (if fmt = 2 then 16 else 32) 1 = none →
      let g : Ag := look {} q.ags (r.vd % 4)
      let gain := (getV q r.vb).lanes ++ (getV q (r.vb + 1)).lanes
      let vals := if r.rop = 0x10 then va.lanes ++ (getV q (r.va + 1)).lanes
                  else List.zipWith (fun a c => a * c * getQ q 0) (grainOf va) gain
      let scale := if r.rop = 0x10 then r.simm else e + r.simm + getQ q 2 + 20 - emx
      let d := drainGrain { fmt := fmt, emin := q.emin, emax := q.emax } scale 0 vals []
      let s0 := if r.rop = 0x10 then s else { s with draws := s.draws + 1 }
      let u := rakeWrite p g.xcur.toNat [expByte (d.exponent.getD 0)] (rakeWrite p g.ecur.toNat (grainBytes fmt d.elems) s0)
      let v := ((u.bumpPan p PanCtr.drainSat d.sats).bumpPan p PanCtr.expHigh (if d.high then 1 else 0)).bumpPan p PanCtr.expLow
        (if d.low then 1 else 0)
      ∃ t, exec (if r.rop = 0x10 then .rpack p else .rnpack p) s = .next t ∧
        v.onlyPan t p ((v.pan p).raked (stepAg (r.vd % 4) (v.pan p).seq) [] 0))

/-- The ends of waits (R101, R117, R122, R128 to R130), the held bundle's other slots empty: an SWAIT whose semaphore has its n, a
FENCE whose earlier writes are all acknowledged and a DWAIT whose drain work is written issue their bundle; an SWAIT that has waited
WAIT_LIMIT cycles stops the pan with WAIT_TIMEOUT from slot 3 and takes nothing; the pans that issued a chained TILE and waited
4,096 cycles for the rest stop with CHAIN_TIMEOUT and the mask of those columns; 14 that differ in mode or copy stop with
CHAIN_MISMATCH; and 14 of one mode and copy, none with a brine generator, become chained, number their chained slots alike and
each install the tile they brought. Each clause concludes that the command completes. -/
def Obligations.SequencerWaitsEnd : Prop :=
  ∀ (s : State) (p : Nat) (r : RakeOp), p < 1620 → s.powered = true → r.rop = 0 →
    let x := s.pan p
    let q := x.seq
    let v := s.modSeq p fun q => { q with mode := .running, wait := .none, waited := 0 }
    let q' : Machine.Seq := { q with mode := .running, wait := .none, waited := 0 }
    (∀ i n, q.mode = .waiting → q.wait = .swait i n → n ≤ look 0 q.sems i → v.issues p .nop .nop r (.swait i n) → s.follows p →
      ∃ t, exec (.swaitResume p) s = .next t ∧
        s.onlyPan t p (x.issued (q.pc + 1) 1 { q' with sems := put i (look 0 q.sems i - n) q.sems })) ∧
    (∀ i n, q.mode = .waiting → q.wait = .swait i n → q.waitLimit ≠ 0 → q.waitLimit ≤ q.waited →
      ∃ t, exec (.waitTimeout p) s = .next t ∧ (t.pan p).seq.mode = .faulted ∧ (t.pan p).seq.fault.code = 0x06 ∧
        (t.pan p).seq.fault.slot = 3 ∧ (t.pan p).seq.fault.async = false ∧ (t.pan p).seq.fault.detail = i % 65536 ∧
        (t.pan p).seq.sems = q.sems ∧ (t.pan p).seq.pc = q.pc) ∧
    (∀ n, q.mode = .waiting → q.wait = .fence n →
      (∀ o ∈ s.outs, o.write = true → o.serial ≤ n →
        (∀ c, o.who ≠ .haul (.pan p c)) ∧ (o.who = .expired → o.src ≠ s.haulSrc (.pan p 0))) → v.issues p .nop .nop r .fence → s.follows p →
      ∃ t, exec (.fenceComplete p) s = .next t ∧ s.onlyPan t p (x.issued (q.pc + 1) 1 q')) ∧
    (q.drainq = [] → x.lat.pipe = [] → s.issues p .nop .dwait r .nop → s.follows p →
      ∃ t, exec (.dwaitRelease p) s = .next t ∧ s.onlyPan t p (x.issued (q.pc + 1) 1 q)) ∧
    (∀ g, g < 108 → (s.rendezvous g).length < 14 → (∃ e ∈ s.rendezvous g, 4096 ≤ (s.pan e.1).seq.waited) →
      ∃ t, exec (.chainTimeout g) s = .next t ∧ ∀ e ∈ s.rendezvous g, (t.pan e.1).seq.mode = .faulted ∧
        (t.pan e.1).seq.fault.code = 0x15 ∧ (t.pan e.1).seq.fault.async = true ∧
        (t.pan e.1).seq.fault.detail = maskOf ((s.rendezvous g).map fun w => w.2.1) % 65536) ∧
    (∀ g e0 rest, g < 108 → s.regionDown g = false → (s.region g).clk = .running → s.rendezvous g = e0 :: rest → rest.length = 13 →
      (∃ e ∈ rest, e.2.2.mode ≠ e0.2.2.mode ∨ e.2.2.copy ≠ e0.2.2.copy) →
      ∃ t, exec (.chainRendezvous g) s = .next t ∧ ∀ e ∈ s.rendezvous g, (t.pan e.1).seq.mode = .faulted ∧
        (t.pan e.1).seq.fault.code = 0x14 ∧ (t.pan e.1).seq.pc = (s.pan e.1).seq.pc) ∧
    (∀ g mode copy, g < 108 → s.regionDown g = false → (s.region g).clk = .running → (s.rendezvous g).length = 14 →
      (∀ e ∈ s.rendezvous g, e.2.2.mode = mode ∧ e.2.2.copy = copy ∧ brineOf (s.pan e.1).seq e.2.2 = none ∧ s.follows e.1 ∧
        reservedSlot (s.bundleAt e.1) = none ∧
        ∃ r a, r.rop = 0 ∧ slotsOf (s.bundleAt e.1) = (.nop, .nop, r, .tile copy a)) →
      ∃ t, exec (.chainRendezvous g) s = .next t ∧ t = { s with pans := t.pans } ∧
        (∀ k, (∀ e ∈ s.rendezvous g, e.1 ≠ k) → t.pan k = s.pan k) ∧
        ∀ e ∈ s.rendezvous g,
          let y := s.pan e.1
          t.pan e.1 = { y with
            lat := { y.lat with chained := e.2.2.chained }
            seq := { y.seq with
              mode := .running, wait := .none, waited := 0, tile := some e.2.2, tileSeen := true, tileArmed := true
              chainNext := ((s.rendezvous g).map fun w => (s.pan w.1).seq.chainNext).foldl max 0
              pc := y.seq.pc + 1, nextIssue := y.seq.cycle + 4 }
            ctr := bump y.ctr PanCtr.bundle 1 })

/-- The feeders of a pan that works (R76 to R82, R88 to R94, R106, R109 to R114, R123, R134, R135), with pan store generators, no brine and
no notice rule in the way: the west feeder begins a queued run or closes its tile at TEND, and stops the pan where no TILE or no load
came before; the north feeder begins a load, which captures the tile context, writes its columns cycle by cycle while no earlier slot
is in the way, and gives the copy all of it at its end; a valid slot carries the generator's bytes through the held copy's columns, in
a chain by pan 0's decision, as a bubble is there; with none to issue, a closed tile passes the cycle and an open one counts a dry bubble; a cycle that
passes lands the rake results that are due and counts a stall of the bundle that would issue in the next; a burst hold ends when its cycles have run; and a
feeder read unanswered for 1 ms stops the pan with FEED_LOST. Each clause concludes that the command completes. -/
def Obligations.FeedersRun : Prop :=
  ∀ (s : State) (p : Nat), p < 1620 → s.powered = true →
    let x := s.pan p
    let q := x.seq
    let works := s.regionDown (p / 15) = false ∧ (s.region (p / 15)).clk = .running ∧ s.isSpare p = false ∧
      x.faultsNow (s.panNow p) = false
    let flat := (∀ k, (look ({} : Ag) q.ags k).brine = false) ∧ q.mode ≠ .waiting ∧ x.store.winPend = [] ∧ q.peerStop = none ∧
      ∀ w ∈ x.lat.pipe, q.cycle < w.at_
    let idle := q.hold = none ∧ x.lat.run = none ∧ q.feedq = [] ∧ x.lat.decisions = []
    let later (y : Pan) : Pan := { y with before := none, seq := { y.seq with cycle := q.cycle + 1, waited := 0, pend := [] } }
    let passed (y : Pan) (t : State) : Prop := s.onlyPan t p (if (s.modPan p fun _ => later y).stalled p then
      { later y with seq := { (later y).seq with stalledAt := some (q.cycle + 1) }, ctr := bump y.ctr PanCtr.hazard 1 } else later y)
    (works → ∀ r opens c rest, x.lat.run = none → x.lat.westFree ≤ q.cycle → q.feedq = .run r opens c :: rest → c ≤ q.cycle → flat → q.tileSeen = true →
      (copyOf x.lat r.copy).ready = true →
      ∃ t, exec (.westFeedBegin p) s = .next t ∧ s.onlyPan t p
        { x with seq := { q with feedq := rest, tileOpen := q.tileOpen || opens
                                 openPair := if opens then (if r.chained then [r.wag, r.nag] else []) else q.openPair }
                 lat := { x.lat with run := some r } }) ∧
    (works → ∀ r opens c rest, x.lat.run = none → x.lat.westFree ≤ q.cycle → q.feedq = .run r opens c :: rest → c ≤ q.cycle → q.mode ≠ .faulted →
      (q.tileSeen = false ∨ (copyOf x.lat r.copy).ready = false ∧ x.lat.load = none ∧ q.northq = []) →
      ∃ t, exec (.westFeedBegin p) s = .next t ∧ (t.pan p).seq.mode = .faulted ∧ (t.pan p).seq.fault.code = 0x17 ∧
        (t.pan p).seq.fault.detail = if q.tileSeen then 1 else 0) ∧
    (works → ∀ c rest, x.lat.run = none → x.lat.westFree ≤ q.cycle → q.feedq = .tend c :: rest → c ≤ q.cycle →
      ∃ t, exec (.westFeedBegin p) s = .next t ∧ s.onlyPan t p
        { x with seq := { q with feedq := rest, tileOpen := false, openPair := [] }, lat := { x.lat with westFree := q.cycle + 1 } }) ∧
    (works → ∀ e rest c, x.lat.load = none → x.lat.northFree ≤ q.cycle → q.northq = e :: rest → e.readyAt ≤ q.cycle → q.tile = some c →
      e.dp = false → flat →
      ∃ t, exec (.northLoadBegin p) s = .next t ∧ s.onlyPan t p
        { x with seq := { q with northq := rest }
                 lat := { x.lat with load := some { id := e.id, copy := e.copy, dp := false, nag := c.nag, mode := c.mode, b := c.b
                                                    len := c.len, window := c.window, ddesc := c.ddesc } } }) ∧
    (works → ∀ ld cols u, x.lat.load = some ld → ld.lastCycle ≠ some q.cycle → ld.next < 64 * ld.len →
      heldBlocked x ld (ld.next % 64) = false → heldBlocked x ld (ld.next % 64 + heldPer ld.mode - 1) = false →
      let ld1 := { ld with lastCycle := some q.cycle }
      heldFetch p ld1 (s.modLat p fun l => { l with load := some ld1 }) = (.data cols false, u) →
      let ld2 := cols.foldl (fun (l : NorthLoad) c =>
        { l with next := l.next + 1, cols := put l.next (heldColumn l.mode c.1 c.2) l.cols
                 arrived := drop (2 * l.next) (drop (2 * l.next + 1) l.arrived) }) ld1
      (ld2.next = 64 * ld.len ∧ ld.dp = false →
        ∃ t, exec (.heldColumnWrite p []) s = .next t ∧ (t.pan p).lat.load = none ∧ (t.pan p).lat.northFree = (u.pan p).seq.cycle + 1 ∧
          copyOf (t.pan p).lat ld.copy =
            { ready := true, readyFrom := (u.pan p).seq.cycle + 1, mode := ld.mode, b := ld.b, len := ld.len, window := ld.window
              cols := ld2.cols, drain := (copyOf (u.pan p).lat ld.copy).drain }) ∧
      (¬ (ld2.next = 64 * ld.len ∧ ld.dp = false) →
        exec (.heldColumnWrite p []) s = .next (heldAhead p 64 (u.modLat p fun l => { l with load := some ld2 })))) ∧
    (works → ∀ ld, x.lat.load = some ld → ld.lastCycle ≠ some q.cycle → ld.next < 64 * ld.len → heldBlocked x ld (ld.next % 64) = true →
      ∃ t, exec (.heldColumnWrite p []) s = .next t ∧ s.onlyPan t p
        { x with lat := { x.lat with load := some { ld with lastCycle := some q.cycle } }, ctr := bump x.ctr PanCtr.heldWait 1 }) ∧
    (works → flat → idle → q.pend = [] → q.tileOpen = false → ∃ t, exec (.westSlotIssue p []) s = .next t ∧ passed x t) ∧
    (works → flat → idle → ∀ e, q.pend = [e] → e.reg < 16 → e.at_ ≤ q.cycle + 1 → q.tileOpen = false →
      ∃ t, exec (.westSlotIssue p []) s = .next t ∧ passed { x with seq := setV e.reg e.v q } t) ∧
    (works → flat → idle → q.pend = [] → q.tileOpen = true → x.chainedNow = false →
      ∃ t, exec (.westSlotIssue p []) s = .next t ∧ passed { x with ctr := bump x.ctr PanCtr.bubbleDry 1 } t) ∧
    (works → ∀ r es xs u, q.hold = none → x.lat.run = some r → r.chained = false →
      let c := copyOf x.lat r.copy
      let hw := slotPhase c r
      notReady x r.copy r.id = false → (c.window = true ∨ hw.1 < c.len) →
      startBlocked x (some 65) c.window r.start c.len hw.1 hw.2 = false → noticeRule q = none →
      westFetch p r c.mode s = (.data es xs false, u) →
      exec (.westSlotIssue p []) s = .next (passCycle p (feedAhead p 64 (issueSlot p r c es xs u)))) ∧
    (works → ∀ r es xs u, q.hold = none → x.lat.run = some r → r.chained = true → s.logicalCol p = 0 →
      let c := copyOf x.lat r.copy
      let hw := slotPhase c r
      let k := r.chainNo + r.next
      notReady x r.copy r.id = false → (∀ e ∈ s.chainPans (p / 15), chainLoaded (s.pan e.1) r.copy k = true) →
      (c.window = true ∨ hw.1 < c.len) →
      startBlocked (s.pan (((s.chainPans (p / 15)).getLast?.map (·.1)).getD p)) none c.window r.start c.len hw.1 hw.2 = false →
      noticeRule q = none → westFetch p r c.mode s = (.data es xs false, u) →
      exec (.westSlotIssue p []) s = .next (passCycle p (feedAhead p 64 (sendDecision p k true (issueSlot p r c es xs u))))) ∧
    (works → ∀ r es xs u rest, q.hold = none → x.lat.run = some r → r.chained = true → s.logicalCol p ≠ 0 →
      let c := copyOf x.lat r.copy
      let k := r.chainNo + r.next
      x.lat.decisions = (k, true) :: rest → notReady x r.copy r.id = false → (c.window = true ∨ (slotPhase c r).1 < c.len) →
      westFetch p r c.mode s = (.data es xs false, u) →
      exec (.westSlotIssue p []) s = .next (passCycle p (feedAhead p 64 ((issueSlot p r c es xs u).modLat p fun l =>
        { l with decisions := l.decisions.drop 1 })))) ∧
    (works → ∀ k rest, q.hold = none → x.chainedNow = true → s.logicalCol p ≠ 0 → x.lat.run = none → x.lat.decisions = (k, false) :: rest →
      exec (.westSlotIssue p []) s = .next (passCycle p (feedAhead p 64
        ((s.modLat p fun l => { l with decisions := rest }).bumpPan p PanCtr.bubbleChain 1)))) ∧
    (works → ∀ k, q.hold = some k → k ≤ q.cycle →
      ∃ t, exec (.burstHoldEnd p) s = .next t ∧ s.onlyPan t p { x with seq := { q with hold := none, holdDone := true } }) ∧
    (∀ tag o north, q.mode ≠ .faulted →
      s.out? (mkSrc s.deviceId 0 ((s.logicalPan p).getD 2047)) tag = some o → o.who = .feeder p north → o.issued + 1000000 ≤ s.clock.tide →
      ∃ t, exec (.feedLost p tag) s = .next t ∧ (t.pan p).seq.mode = .faulted ∧ (t.pan p).seq.fault.code = 0x33 ∧
        (t.pan p).seq.fault.async = true ∧ (t.pan p).lat.run = none ∧ (t.pan p).seq.pc = q.pc)

/-- The accumulator file and the drain of a pan that works (R84 to R86, R92, R93, R118, R120, R121): one column's sum of the oldest slot
in flight, once it has reached the south edge (with what a chain brought it), enters its entry, anew under START and added otherwise,
and leaves the slot, while in a chain's pans 0 to 12 it enters the next pan's north edge; the slot that completes an entry gives it its
base exponent and drain parameters, and a later LAST changes neither; the drain reads the oldest complete assigned entry, converts its
two grains, whose writes are made from five cycles later on, and frees it; a write reaches the store in its cycle; a reload converts the 32 numbers of a spilled grain; and a finished DOUT with SIG adds 1 to its semaphore.
Each clause concludes that the command completes. -/
def Obligations.EntriesAndDrain : Prop :=
  ∀ (s : State) (p : Nat), p < 1620 → s.powered = true → s.regionDown (p / 15) = false → (s.region (p / 15)).clk = .running →
    s.isSpare p = false → (s.pan p).faultsNow (s.panNow p) = false →
    let x := s.pan p
    let q := x.seq
    (∀ col f inc oc, col < 64 → nextFlight x.lat col = some f → f.issued + 65 + col ≤ q.cycle →
      ((f.chain = none ∧ inc = 0 ∧ oc = false) ∨ (∃ k, f.chain = some k ∧ s.logicalCol p = 13 ∧
        (x.lat.chainIn.find? fun e => e.1 == k && e.2.1 == col) = some (k, col, inc, oc))) →
      let own := f.cols.getD col {}
      let ei := colEntry f.window f.len f.h f.w col
      let e := look ({} : AccEntry) x.lat.acc ei
      let old := look ({} : AccCol) e.cols col
      let st := colStart f.window f.start f.len f.h col
      let sum := if st then own.sum + inc else old.sum + (own.sum + inc)
      let e' := accUpdate f col sum (own.flag || oc) e
      (if st then e.complete = false else ∀ b, old.b = some b → b = f.b) → satInt 72 sum = sum →
      (e'.complete = true → e.complete = false → copiesDiffer e' = false ∧ e'.drain ≠ none) →
      ∃ t, exec (.entryUpdate p col) s = .next t ∧ s.onlyPan t p
        { x with lat := flightTaken f col { x.lat with
                   acc := put ei e' x.lat.acc
                   completeq := if e'.complete && !e.complete then x.lat.completeq ++ [ei] else x.lat.completeq
                   chainIn := match f.chain with
                     | some k => x.lat.chainIn.filter fun e => !(e.1 == k && e.2.1 == col)
                     | none => x.lat.chainIn }
                 ctr := if own.clamps = 0 then x.ctr else bump x.ctr PanCtr.clampHigh own.clamps }) ∧
    (∀ col f k n, col < 64 → nextFlight x.lat col = some f → f.issued + 65 + col ≤ q.cycle → f.chain = some k → s.logicalCol p = 0 →
      (s.chainPans (p / 15)).find? (fun e => e.2 == 1) = some (n, 1) → n ≠ p →
      let own := f.cols.getD col {}
      ∃ t, exec (.entryUpdate p col) s = .next t ∧ t = { s with pans := t.pans } ∧ (∀ m, m ≠ p → m ≠ n → t.pan m = s.pan m) ∧
        t.pan n = { s.pan n with lat := { (s.pan n).lat with chainIn := (s.pan n).lat.chainIn ++ [(k, col, own.sum, own.flag)] } } ∧
        (t.pan p).lat.acc = x.lat.acc ∧ (t.pan p).seq = q) ∧
    (∀ f col sum ovf e,
      let st := colStart f.window f.start f.len f.h col
      let last := colLast f.window f.last f.len f.h col
      let old := look ({} : AccCol) e.cols col
      let u := accUpdate f col sum ovf e
      let c := look ({} : AccCol) u.cols col
      c.sum = sum ∧ c.flag = (if st then ovf else old.flag || ovf) ∧ c.b = (if st then some f.b else old.b) ∧
      c.copy = (if last = true ∧ e.complete = false then some f.copy else old.copy) ∧
      (∀ j, j ≠ col → look ({} : AccCol) u.cols j = look {} e.cols j) ∧
      (e.complete = true → u.complete = true ∧ u.b = e.b ∧ u.drain = e.drain) ∧
      (e.complete = false → u.complete = true → last = true ∧ u.b = f.b ∧ u.drain = f.drain)) ∧
    (∀ ei rest n ag sig sem d a, x.lat.completeq = ei :: rest → firstDout q.drainq = some (n, ag, sig, sem) →
      let e := look ({} : AccEntry) x.lat.acc ei
      let g := look ({} : Ag) q.ags ag
      let len := grainLen d.fmt
      e.drain = some d → x.lat.drainFrom ≤ q.cycle → agCheck q ag unitDrain (2 * len) (if d.fmt = 3 then 0 else 2) = none →
      biasOutOfRange d e.b = false → drainWide p g.ecur.toNat (2 * len) s = (true, a) →
      let vs := (List.range 64).map fun j => presented (look ({} : AccCol) e.cols j).sum (look ({} : AccCol) e.cols j).flag
      let b := a.modPan p fun x =>
        { x with seq := { stepAg ag x.seq with drainq := stepDrain true x.seq.drainq }
                 lat := { x.lat with completeq := rest, acc := put ei (freedEntry e) x.lat.acc
                                     drainFrom := x.seq.cycle + (if d.fmt = 3 then 2 else 1) } }
      let c0 := convertGrain p d e.b 0 (vs.take 32) g.ecur.toNat g.xcur.toNat b
      let c1 := convertGrain p d e.b 32 (vs.drop 32) (g.ecur.toNat + len) (g.xcur.toNat + 1) c0.2
      let w := pipeElems p g.ecur.toNat (c0.1 ++ c1.1) false c1.2
      exec (.drainEntry p) s = .next (if n ≤ 1 then (if sig then pipeEnd p sem (flushExps p w) else flushExps p w) else w)) ∧
    (∀ w, x.lat.pipe = [w] → w.at_ ≤ q.cycle → w.part = [] → w.sem = none → q.hold = none → x.lat.run = none → q.feedq = [] →
      x.lat.decisions = [] → q.tileOpen = false → q.peerStop = none →
      let u := nextCycle p (localWrite p w.addr w.bytes w.mark (s.modLat p fun l => { l with pipe := [] }))
      exec (.westSlotIssue p []) s = .next (if u.stalled p then
        (u.bumpPan p PanCtr.hazard 1).modSeq p fun q => { q with stalledAt := some q.cycle } else u)) ∧
    (∀ n sag dag desc pr a bs mark s4 s5, x.lat.completeq = [] → x.lat.drainFrom ≤ q.cycle →
      firstDrld q.drainq = some (n, sag, dag, desc, some pr) → agCheck q sag unitDrain 128 0 = none →
      agCheck (stepAg sag q) dag unitDrain (grainLen pr.fmt) (if pr.fmt = 3 then 0 else 1) = none → biasOutOfRange pr pr.esIn = false →
      let ga := look ({} : Ag) q.ags sag
      wideAccess p [(4, ga.ecur.toNat, 128)] s = (true, a) → localRead p ga.ecur.toNat 128 a = (bs, mark, s4) →
      let gd := look ({} : Ag) (stepAg sag (s4.pan p).seq).ags dag
      drainWide p gd.ecur.toNat (grainLen pr.fmt) s4 = (true, s5) →
      let c := convertGrain p pr pr.esIn 0 ((intsOf 4 32 bs).map fun v => (v, false)) gd.ecur.toNat gd.xcur.toNat
        (s5.modPan p fun x => { x with seq := { stepAg dag (stepAg sag x.seq) with drainq := stepDrain false x.seq.drainq }
                                       lat := { x.lat with drainFrom := x.seq.cycle + 1 } })
      let w := pipeElems p gd.ecur.toNat c.1 mark c.2
      exec (.drldGrain p) s = .next (if n ≤ 1 then flushExps p w else w)) ∧
    (∀ n sag dag desc u d pr, x.lat.completeq = [] → x.lat.drainFrom ≤ q.cycle →
      firstDrld q.drainq = some (n, sag, dag, desc, none) →
      descReads p .reload x.lat.descServed ((desc, 32) :: vectorRuns (localRead p desc 32 s).1 32) s = (true, u) →
      let u1 := u.modLat p fun l => { l with descServed := false }
      localRead p desc 32 u1 = (d, false, u1) → bit (leNat (d.take 4)) 10 = true → fmtReserved d = false → drainBroken d = false →
      drainVectors p d 32 u1 = (pr, false, u1) → (u1.pan p).seq.drainq = q.drainq →
      exec (.drldGrain p) s = .next (drldOne p n sag dag pr (u1.modSeq p fun q => { q with drainq := keepParams pr q.drainq }))) ∧
    (∀ sem rest, x.lat.owed = sem :: rest → look 0 q.sems sem < 65535 →
      ∃ t, exec (.doutComplete p) s = .next t ∧ s.onlyPan t p
        { x with seq := { q with sems := put sem (look 0 q.sems sem + 1) q.sems }, lat := { x.lat with owed := rest } })

/-- The store's narrow side (R142, R146, R147, R150, R152 to R157, R160, R165, R169, R171), where no error stands in a word of the store: a
bank that nothing holds serves its oldest request, which a write does byte for byte at the unit's place in the bank and a read
answers with the unit's bytes and mark; a bank that is held serves nothing; a starved bank stops the pan and then serves; a queued
correction, when its bank serves it, leaves its word without its error, and a queued poison rewrite leaves its word poisoned; the scrub
waits 655 ms, reads one unit and moves on, past a sleeping bank too; and a debug access is refused while locked, answered asleep by a
bank that is not awake, and otherwise queued at port 0xE. Each clause concludes that the command completes. -/
def Obligations.NarrowAccessesServed : Prop :=
  ∀ (s : State) (p : Nat), p < 1620 → s.powered = true →
    let x := s.pan p
    let q := x.seq
    (∀ bank r bs, bank < 32 → nextNarrow bank x.store.narrow = some r → grantNow p r s = true → r.write = some bs →
      ((∃ id, r.use = .reply id) ∨ r.use = .rakeWrite) → x.store.errs = [] → Memory.wf s.storeMem = true →
      ∃ t, exec (.narrowAccess p bank []) s = .next t ∧
        t = { s with pans := t.pans, storeMem := t.storeMem, net := t.net, sec := t.sec } ∧ (∀ k, k ≠ p → t.pan k = s.pan k) ∧
        (t.pan p).seq = q ∧ (t.pan p).lat = x.lat ∧ (t.pan p).haul = x.haul ∧ (t.pan p).ovfLog = x.ovfLog ∧
        (t.pan p).store.narrow = (x.store.narrow.erase r).filter (fun v => !v.use.ofWords (partWords x.store.swz r.addr bs.length)) ∧
        (∀ i (h : i < bs.length), readByte t.storeMem (storeKey p x.store.swz r.addr + i) = bs[i]) ∧
        (∀ a, (a < storeKey p x.store.swz r.addr ∨ storeKey p x.store.swz r.addr + bs.length ≤ a) →
          readByte t.storeMem a = readByte s.storeMem a)) ∧
    (∀ bank r w id, bank < 32 → nextNarrow bank x.store.narrow = some r → grantNow p r s = true → r.write = none →
      r.use = .reply id → x.store.errs = [] → (x.store.writes.find? fun v => v.id == id) = some w → w.left ≤ 1 → w.ack.op ≠ 0 →
      let m := unitMarked x.store r.addr
      let y := takePort r.port 0 (occupy 0 bank false x)
      let u := ((s.modPan p fun _ => { y with store := { y.store with narrow := y.store.narrow.erase r } }).bumpPan
        p PanCtr.poisonRead (if m then 1 else 0)).modStore p fun st => { st with writes := st.writes.filter fun v => v.id != id }
      exec (.narrowAccess p bank []) s = .next (sendBack (meshX p) (meshY p)
        { w.ack with data := patch w.ack.data (r.addr - w.base) (readBytes s.storeMem (storeKey p x.store.swz r.addr) r.len)
                     marks := setAt w.ack.marks (r.addr / 64 - w.base / 64) m } u)) ∧
    (∀ bank r, bank < 32 → nextNarrow bank x.store.narrow = some r → bankHeld p 0 bank s = true → r.bank = bank →
      exec (.narrowAccess p bank []) s = .next s) ∧
    (∀ bank r, bank < 32 → nextNarrow bank x.store.narrow = some r → r.since + 4096 < q.cycle → q.mode ≠ .faulted →
      ∃ t, exec (.starvation p bank) s = .next t ∧ (t.pan p).seq.mode = .faulted ∧ (t.pan p).seq.fault.code = 0x21 ∧
        (t.pan p).seq.fault.detail = bank ∧ (t.pan p).seq.fault.async = true ∧ (t.pan p).store.starve = (r.port, bank) ∧
        (s.clocked (p / 15) = true → x.store.errs = [] → r.write = none → (∃ id, r.use = .reply id) →
          (t.pan p).store.narrow = (x.store.narrow.filter fun v => !v.use.ofWork).erase r) ∧
        (s.clocked (p / 15) = true → x.store.errs = [] → r.write = none → r.use.ofWork = true → (∀ v ∈ x.store.narrow, v.use ≠ .scrub) →
          (t.pan p).store.narrow = x.store.narrow.filter fun v => !v.use.ofWork)) ∧
    (∀ r w, x.store.narrow.find? (fun v => v.use.isFixup) = some r → nextNarrow r.bank x.store.narrow = some r →
      grantNow p r s = true → r.use = .fixup w → r.write = none →
      let y := takePort r.port 0 (occupy 0 r.bank false x)
      ∃ t, exec (.correctionWriteback p) s = .next t ∧ s.onlyPan t p { y with store := { y.store with
        narrow := x.store.narrow.erase r, errs := x.store.errs.filter fun e => e.word != w } }) ∧
    (x.store.narrow.find? (fun v => v.use.isFixup) = none → exec (.correctionWriteback p) s = .next s) ∧
    (∀ r w, x.store.narrow.find? (fun v => v.use.isRewrite) = some r → nextNarrow r.bank x.store.narrow = some r →
      grantNow p r s = true → r.use = .rewrite w → r.write = none →
      let y := takePort r.port 0 (occupy 0 r.bank false x)
      ∃ t, exec (.poisonRewrite p) s = .next t ∧ s.onlyPan t p { y with store := { y.store with
        narrow := x.store.narrow.erase r, errs := x.store.errs.filter (fun e => e.word != w)
        poison := insertRising w x.store.poison } }) ∧
    (x.store.narrow.find? (fun v => v.use.isRewrite) = none → exec (.poisonRewrite p) s = .next s) ∧
    (let u := x.store.scrubPos
     let b := s.bankAt p (64 * u)
     let st := s.bankMode p b
     let next (v : Store) : Store :=
       if u = 131071 then { v with scrubPos := 0, scrubPass := min 0xFFFFFFFF (v.scrubPass + 1), scrubAt := s.clock.tide }
       else { v with scrubPos := u + 1, scrubAt := s.clock.tide }
     let due := x.store.scrubAt + 655000000 ≤ s.clock.tide
     (¬ due → exec (.patrolScrub p []) s = .next s) ∧
     (due → (st = .asleep ∨ st = .filling) →
       ∃ t, exec (.patrolScrub p []) s = .next t ∧ s.onlyPan t p { x with store := next x.store }) ∧
     (due → (st = .awake ∨ st = .draining) → x.store.errs = [] → bankGrants p 0 b false s = true → portTaken p 0xF s = false →
       (∀ r ∈ x.store.narrow, r.bank ≠ b ∧ r.port ≠ 0xF) →
       let y := takePort 0xF 0 (occupy 0 b false x)
       ∃ t, exec (.patrolScrub p []) s = .next t ∧ s.onlyPan t p { y with
         store := next y.store, ctr := if unitMarked x.store (64 * u) = true then bump x.ctr PanCtr.poisonRead 1 else x.ctr }) ∧
     (due → (st = .awake ∨ st = .draining) → bankGrants p 0 b false s = false →
       ∃ t, exec (.patrolScrub p []) s = .next t ∧ s.onlyPan t p { x with store := next { x.store with
         narrow := x.store.narrow ++ [{ port := 0xF, bank := b, addr := 64 * u, len := 64, write := none, use := .scrub
                                        since := q.cycle }] } })) ∧
    (∀ a w, a < 2 ^ 23 → a % 8 = 0 → (∀ v, w = some v → v < 2 ^ 64) → s.sec.scope.testBit 1 = false →
      ∃ t, exec (.debugAccess p a w) s = .next t ∧ t = { s with sec := { s.sec with answers := s.sec.answers ++ [.debug 0 3] } }) ∧
    (∀ a w, a < 2 ^ 23 → a % 8 = 0 → (∀ v, w = some v → v < 2 ^ 64) → s.sec.scope.testBit 1 = true →
      s.bankMode p (s.bankAt p a) ≠ .awake →
      ∃ t, exec (.debugAccess p a w) s = .next t ∧ t = { s with sec := { s.sec with answers := s.sec.answers ++ [.debug 0 1] } }) ∧
    (∀ a w, a < 2 ^ 23 → a % 8 = 0 → (∀ v, w = some v → v < 2 ^ 64) → s.sec.scope.testBit 1 = true →
      s.bankMode p (s.bankAt p a) = .awake →
      let b := s.bankAt p a
      ∃ t, exec (.debugAccess p a w) s = .next t ∧ s.onlyPan t p { x with store := { x.store with
        nextWrite := x.store.nextWrite + 1
        narrow := x.store.narrow ++ [{ port := 0xE, bank := b, addr := a, len := 8, write := w.map fun v => leBytes v 8
                                       marked := false, use := .reply x.store.nextWrite, since := q.cycle }]
        outstanding := if w.isSome then upd 0 b (· + 1) x.store.outstanding else x.store.outstanding
        writes := x.store.writes ++ [{ id := x.store.nextWrite, ack := { op := 0, bytes := 8 }, base := a, left := 1 }] } })

/-- Bank sleep, wake and fill (R159, R167, R168, R170), in a region not about to be gated for a rest: BANK_SLEEP and BANK_WAKE act on each
bank of their mask in turn, and BANK_SLEEP not at all while the sequencer is RUNNING or WAITING; an awake bank drains with its
windows closed, a drained one loses its bytes and marks and sleeps, and after 64 µs with writes outstanding an internal check is
raised first; an asleep bank fills, its fill leaves zeros and it wakes, or drains where a sleep was held; the whole store's fill ends with
every bank awake, and a GO it held is taken. Each clause concludes that the command completes. The clears of a unit's tables (R67, R154, R163, R193): CE_TABLE_CLEAR empties the table of the pan, slice or channel named,
OVF_LOG_CLEAR the overflow log, and WIN_CLOSE closes the windows of its mask. Each completes, and nothing else changes. -/
def Obligations.BanksSleepAndTablesClear : Prop :=
  (∀ (s : State) (p : Nat), p < 1620 → s.powered = true → (s.region (p / 15)).restGate = false →
    let x := s.pan p
    let lost (b : Nat) (t : State) : Prop := ∀ a, readByte t.storeMem a =
      if p * 2 ^ 23 + b * 2 ^ 18 ≤ a ∧ a < p * 2 ^ 23 + (b + 1) * 2 ^ 18 then 0 else readByte s.storeMem a
    let out (b w : Nat) : Bool := decide (w < b * 2 ^ 15) || decide ((b + 1) * 2 ^ 15 ≤ w)
    let gone (b : Nat) (st : Store) : Store :=
      { st with poison := st.poison.filter (out b), errs := st.errs.filter fun e => out b e.word
                narrow := st.narrow.filter fun r => !((r.use.isFixup || r.use.isRewrite) && r.bank == b) }
    let plain := (∀ slow t0, (s.fieldPwr (p / 15 / 9)).wake ≠ some (p / 15, .fill, slow, t0)) ∧ s.boot.phase ≠ 8 ∧ x.store.heldSleep = []
    (∀ mask, x.seq.mode ≠ .running → x.seq.mode ≠ .waiting →
      exec (.bankSleep p mask) s = .next (((List.range 32).filter fun b => mask.testBit b).foldl (sleepBank p) s)) ∧
    (∀ mask, (x.seq.mode = .running ∨ x.seq.mode = .waiting) → exec (.bankSleep p mask) s = .next s) ∧
    (∀ b, s.bankMode p b = .awake → s.onlyPan (sleepBank p s b) p { x with store := { x.store with
      windows := x.store.windows.filter fun w => !windowHolds x.store.swz b w.2
      winPend := x.store.winPend.map fun e => match e.2.2 with
        | some w => if windowHolds x.store.swz b w then (e.1, e.2.1, none) else e
        | none => e
      banks := put b .draining x.store.banks, drainSince := put b s.clock.tide x.store.drainSince } }) ∧
    (∀ b, s.bankMode p b = .filling → s.onlyPan (sleepBank p s b) p
      { x with store := { x.store with heldSleep := addOnce b x.store.heldSleep } }) ∧
    (∀ b, (s.bankMode p b = .asleep ∨ s.bankMode p b = .draining) → sleepBank p s b = s) ∧
    (∀ b, b < 32 → s.bankMode p b = .draining → look 0 x.store.outstanding b = 0 → x.store.heldWake.contains b = false →
      ∃ t, exec (.bankDrained p b) s = .next t ∧ lost b t ∧ t = { s with pans := t.pans, storeMem := t.storeMem } ∧
        t.pan p = { x with store := { gone b x.store with banks := put b .asleep x.store.banks } } ∧ ∀ k, k ≠ p → t.pan k = s.pan k) ∧
    (∀ b, b < 32 → s.bankMode p b = .draining → look 0 x.store.outstanding b = 0 → x.store.heldWake.contains b = true →
      ∃ t, exec (.bankDrained p b) s = .next t ∧ lost b t ∧ t = { s with pans := t.pans, storeMem := t.storeMem } ∧
        t.pan p = { x with store := { gone b x.store with
          banks := put b .filling x.store.banks, fillq := x.store.fillq ++ [b], heldWake := x.store.heldWake.erase b } } ∧
        ∀ k, k ≠ p → t.pan k = s.pan k) ∧
    (∀ b, b < 32 → s.bankMode p b = .draining → look 0 x.store.outstanding b ≠ 0 →
      look 0 x.store.drainSince b + 64000 ≤ s.clock.tide → x.store.heldWake.contains b = false →
      ∃ t, exec (.bankSleepBound p b) s = .next t ∧ lost b t ∧ (t.pan p).seq.mode = .faulted ∧
        (x.seq.mode ≠ .faulted → (t.pan p).seq.fault.code = 0x31 ∧ (t.pan p).seq.fault.detail = 8 ∧ (t.pan p).seq.fault.async = true) ∧
        (x.seq.mode = .faulted → (t.pan p).seq = x.seq ∧ t.faults.reports.length = s.faults.reports.length + 1) ∧
        look .awake (t.pan p).store.banks b = .asleep ∧ (∀ r ∈ (t.pan p).store.narrow, r.bank ≠ b)) ∧
    (∀ mask, exec (.bankWake p mask) s = .next (((List.range 32).filter fun b => mask.testBit b).foldl (wakeBank p) s)) ∧
    (∀ b, s.bankMode p b = .asleep → s.isSpare p = false → s.regionDown (p / 15) = false → s.onlyPan (wakeBank p s b) p
      { x with store := { x.store with banks := put b .filling x.store.banks, fillq := addOnce b x.store.fillq } }) ∧
    (∀ b, s.bankMode p b = .asleep → (s.isSpare p = true ∨ s.regionDown (p / 15) = true) → wakeBank p s b = s) ∧
    (∀ b, s.bankMode p b = .draining → s.onlyPan (wakeBank p s b) p { x with store := { x.store with heldWake := addOnce b x.store.heldWake } }) ∧
    (∀ b, s.bankMode p b = .filling → s.onlyPan (wakeBank p s b) p { x with store := { x.store with heldSleep := x.store.heldSleep.erase b } }) ∧
    (∀ b, s.bankMode p b = .awake → wakeBank p s b = s) ∧
    (∀ b rest, x.store.fillq = b :: rest → x.store.heldSleep.contains b = false →
      ∃ t, exec (.bankFillDone p) s = .next t ∧ lost b t ∧ t = { s with pans := t.pans, storeMem := t.storeMem } ∧
        t.pan p = { x with store := { gone b x.store with banks := put b .awake x.store.banks, fillq := rest } } ∧
        ∀ k, k ≠ p → t.pan k = s.pan k) ∧
    (∀ b rest, x.store.fillq = b :: rest → x.store.heldSleep.contains b = true → s.isSpare p = false → s.regionDown (p / 15) = false →
      x.store.fillBusy = false →
      ∃ t, exec (.bankFillDone p) s = .next t ∧ lost b t ∧ t.bankMode p b = .draining) ∧
    (plain → x.store.fillBusy = true → x.seq.heldGo = false →
      ∃ t, exec (.storeFillDone p) s = .next t ∧ s.onlyPan t p { x with store := { x.store with fillBusy := false, banks := [], scrubPos := 0 } }) ∧
    (plain → x.store.fillBusy = true → x.seq.heldGo = true →
      (x.seq.mode = .stopped ∨ x.seq.mode = .halted) → x.seq.entry < x.seq.progLen → s.isSpare p = false → s.regionDown (p / 15) = false →
      ∃ t, exec (.storeFillDone p) s = .next t ∧ (t.pan p).seq.mode = .running ∧ (t.pan p).seq.pc = x.seq.entry ∧
        (t.pan p).seq.heldGo = false ∧ (t.pan p).store.fillBusy = false ∧ (t.pan p).store.banks = [] ∧ (t.pan p).store.scrubPos = 0) ∧
    (x.store.fillBusy = false → exec (.storeFillDone p) s = .next s)) ∧
  (∀ (s : State) (p : Nat), p < 1620 → s.powered = true →
    let x := s.pan p
    (∃ t, exec (.ceTableClear (.pan p)) s = .next t ∧ s.onlyPan t p { x with store := { x.store with ce := [] } }) ∧
    (∃ t, exec (.ceTableClear (.slice p)) s = .next t ∧ s.onlySlice t p { s.slice p with ce := [] }) ∧
    (∀ c, c < 96 → ∃ t, exec (.ceTableClear (.channel c)) s = .next t ∧ s.onlyChan t c { s.chan c with ce := [] }) ∧
    (∃ t, exec (.ovfLogClear p) s = .next t ∧ s.onlyPan t p { x with ovfLog := [] }) ∧
    (∀ mask, ∃ t, exec (.winClose p mask) s = .next t ∧ s.onlyPan t p { x with store := { x.store with windows := (t.pan p).store.windows } } ∧
      ∀ w, w ∈ (t.pan p).store.windows ↔ w ∈ x.store.windows ∧ ¬ (w.1 < 16 ∧ mask.testBit w.1)))

/-- Brine slices (R185 to R187): Hakar's SLEEP begins the drain of an awake slice that no lot needs, and is ignored otherwise; a
drained one loses its bytes and marks and sleeps; 64 µs with admitted requests unperformed, an internal check, or more than 64 new
uncorrectable codewords within 1 s make it fail with a record; WAKE of a sleeping slice begins a fill, whose end leaves zeros and
an awake slice with every row refreshed (R196); a failed slice answers nothing it had admitted; and a failed slice's near extents move to the first slice in order with room for them, which its record then
names. Each clause concludes that the command completes. -/
def Obligations.SlicesSleepFillAndFail : Prop :=
  ∀ (s : State) (i : Nat), i < 1620 → s.powered = true →
    let x := s.slice i
    let zeros (t : State) : Prop := ∀ a, readByte t.brineMem a = if i * 2 ^ 25 ≤ a ∧ a < (i + 1) * 2 ^ 25 then 0 else readByte s.brineMem a
    let only (t : State) (y : Slice) : Prop :=
      t = { s with slices := t.slices, brineMem := t.brineMem } ∧ t.slice i = y ∧ (∀ k, k ≠ i → t.slice k = s.slice k) ∧ zeros t
    let fails (code : Nat) (t : State) : Prop :=
      t = { s with slices := t.slices, brineMem := t.brineMem, memdev := t.memdev, faults := t.faults } ∧ zeros t ∧
      t.slice i = { x with mode := .failed, queue := [], poison := [], errs := [] } ∧ (∀ k, k ≠ i → t.slice k = s.slice k) ∧
      t.memdev = { s.memdev with slicesFailed := min 65535 (s.memdev.slicesFailed + 1)
                                 writing := s.memdev.writing.filter fun w => !(x.queue.map (·.id)).contains w.id } ∧
      t.faults = { s.faults with reports := s.faults.reports ++
        [{ type := 0x07, cls := 5, code := code, unitCls := 0x8, unitIdx := i, addr := 0xFFFF, jobs := maskOf (s.sliceJobs i)
           tide := s.fieldNow (i / 135), epoch := s.boot.epoch }] }
    (x.mode = .awake → s.sliceUsed i = false →
      ∃ t, exec (.sleep i true) s = .next t ∧ s.onlySlice t i { x with mode := .draining, drainSince := s.clock.tide }) ∧
    (∀ h, (h = false ∨ s.sliceUsed i = true ∨ x.mode ≠ .awake) → exec (.sleep i h) s = .next s) ∧
    (x.mode = .draining → x.queue = [] → ∃ t, exec (.sliceDrained i) s = .next t ∧ only t { x with mode := .asleep, poison := [], errs := [] }) ∧
    (x.mode = .draining → x.queue ≠ [] → x.drainSince + 64000 ≤ s.clock.tide →
      ∃ t, exec (.sliceSleepBound i) s = .next t ∧ fails 2 t) ∧
    (x.mode = .asleep → ∃ t, exec (.wake i) s = .next t ∧ only t { x with mode := .filling, poison := [], errs := [] }) ∧
    (x.mode = .filling → ∃ t, exec (.sliceFillDone i) s = .next t ∧ only t { x with
      mode := .awake, poison := [], errs := [], refreshed := [], filledAt := s.clock.tide, postponed := [] }) ∧
    (x.mode ≠ .failed → x.mode ≠ .bad → ∃ t, exec (.sliceFail i 0) s = .next t ∧ fails 0 t) ∧
    (x.mode ≠ .failed → x.mode ≠ .bad → 64 < (x.ueTides.filter fun t => decide (s.clock.tide < t + 1000000000)).length →
      ∃ t, exec (.sliceFail i 1) s = .next t ∧ fails 1 t) ∧
    (∀ c rest u, x.mode = .failed → standInOrder i = c :: rest → (s.slice c).mode = .awake → moveExtents i c (s.extentsIn i) s = some u →
      u.hasEven = false → u.spreadOf i = [] → (u.slice c).mode = .awake →
      let named (f : FaultRec) : FaultRec := if f.type = 0x07 && f.unitIdx = i && f.addr = 0xFFFF then { f with addr := c } else f
      ∃ t, exec (.standInSlice i) s = .next t ∧
        t = { u with faults := { u.faults with reports := u.faults.reports.map named, unmirrored := u.faults.unmirrored.map named } }) ∧
    (x.mode ≠ .failed → exec (.standInSlice i) s = .next s)

/-- The upkeep of brine and cellar (R176, R191, R192, R195): a row due in the refresh interval is refreshed and remembered with the
requests that waited, or postponed while its bank is busy, up to eight times; the interval is halved above 85 °C and whole again at 80 °C or below; a scrub, once 80 ms and 240 µs have passed,
reads its unit, in which no error stands, counts one that reads marked and moves on, past a pass's end to the start; a channel fails for lost training or for more than 64 new
uncorrectable words within 1 s, and Hakar is told; MR4 is read, WCK2DQ tracked, RFM counted and a bank refreshed on a
channel that runs. Each clause concludes that the command completes, and nothing it does not name changes. -/
def Obligations.MemoryUpkeep : Prop :=
  ∀ (s : State) (i c f : Nat), i < 1620 → c < 96 → f < 12 → s.powered = true →
    let x := s.slice i
    let h := s.chan c
    let runs := h.mode = .active ∨ h.mode = .filling
    (∀ bank row waited busy, bank < 16 → row < 2048 → (x.mode = .awake ∨ x.mode = .draining ∨ x.mode = .filling) →
      s.refreshDue i bank row = true → (busy = false ∨ 8 ≤ look 0 x.postponed bank) →
      ∃ t, exec (.refresh i bank row ⟨waited, busy⟩) s = .next t ∧ s.onlySlice t i
        { x with refreshed := put (2048 * bank + row) s.clock.tide x.refreshed, postponed := put bank 0 x.postponed
                 ctr := if waited = 0 then x.ctr else bump x.ctr sliceWait waited }) ∧
    (∀ bank row waited, bank < 16 → row < 2048 → (x.mode = .awake ∨ x.mode = .draining ∨ x.mode = .filling) →
      s.refreshDue i bank row = true → look 0 x.postponed bank < 8 →
      ∃ t, exec (.refresh i bank row ⟨waited, true⟩) s = .next t ∧ s.onlySlice t i { x with postponed := upd 0 bank (· + 1) x.postponed }) ∧
    (∀ bank row waited busy, bank < 16 → row < 2048 → (x.mode = .asleep ∨ x.mode = .failed ∨ x.mode = .bad ∨
      s.refreshDue i bank row = false) → exec (.refresh i bank row ⟨waited, busy⟩) s = .next s) ∧
    (∀ temp, 85 * 16 < temp → ∃ t, exec (.refreshIntervalChange f temp) s = .next t ∧ s.onlyField t f { s.fieldPwr f with brineHot := true }) ∧
    (∀ temp, temp ≤ 80 * 16 → ∃ t, exec (.refreshIntervalChange f temp) s = .next t ∧ s.onlyField t f { s.fieldPwr f with brineHot := false }) ∧
    (∀ temp, 80 * 16 < temp → temp ≤ 85 * 16 → ∃ t, exec (.refreshIntervalChange f temp) s = .next t ∧ s.onlyField t f (s.fieldPwr f)) ∧
    ((x.mode = .awake ∨ x.mode = .draining) → x.scrubAt + 80000000 ≤ s.clock.tide → x.errs = [] →
      let y : Slice :=
        if x.scrubPos = 524287 then { x with scrubPos := 0, scrubPass := min 0xFFFFFFFF (x.scrubPass + 1), scrubAt := s.clock.tide }
        else { x with scrubPos := x.scrubPos + 1, scrubAt := s.clock.tide }
      ∃ t, exec (.sliceScrub i []) s = .next t ∧ s.onlySlice t i
        { y with ctr := if brineMarked x (64 * x.scrubPos) then bump x.ctr slicePoison 1 else x.ctr }) ∧
    ((x.mode = .asleep ∨ x.mode = .filling ∨ x.mode = .failed ∨ x.mode = .bad ∨ s.clock.tide < x.scrubAt + 80000000) → exec (.sliceScrub i []) s = .next s) ∧
    (h.mode = .active → h.scrubAt + 240000 ≤ s.clock.tide → h.errs = [] →
      let y : Chan :=
        if s.chanUnits ≤ h.scrubPos + 1 then { h with scrubPos := 0, scrubPass := min 0xFFFFFFFF (h.scrubPass + 1), scrubAt := s.clock.tide }
        else { h with scrubPos := h.scrubPos + 1, scrubAt := s.clock.tide }
      ∃ t, exec (.cellarScrub c []) s = .next t ∧ s.onlyChan t c
        { y with ctr := if cellarMarked h (64 * h.scrubPos) then bump h.ctr chanPoison 1 else h.ctr }) ∧
    (∀ code, code < 2 → h.mode = .active →
      (code = 1 → 64 < (h.ueTides.filter fun t => decide (s.clock.tide < t + 1000000000)).length) →
      ∃ t, exec (.cellarChannelFail c code) s = .next t ∧ t = { s with chans := t.chans, faults := t.faults } ∧
        t.chan c = { h with mode := .failed } ∧ (∀ k, k ≠ c → t.chan k = s.chan k) ∧
        t.faults = { s.faults with reports := s.faults.reports ++
          [{ type := 0x0C, cls := 7, code := code, unitCls := 0x9, unitIdx := c, detail := c, jobs := maskOf (s.jobs.map (·.1))
             tide := s.clock.tide, epoch := s.boot.epoch }] }) ∧
    (∀ v, v < 256 → runs → ∃ t, exec (.mr4Read c v) s = .next t ∧ s.onlyChan t c { h with mr4 := v }) ∧
    (runs → ∃ t, exec (.wck2dqTracking c) s = .next t ∧ s.onlyChan t c { h with trackings := h.trackings + 1 }) ∧
    (runs → ∃ t, exec (.rfm c) s = .next t ∧ s.onlyChan t c { h with ctr := bump h.ctr chanRfm 1 }) ∧
    (∀ bank, bank < 16 → runs → ∃ t, exec (.perBankRefresh c bank) s = .next t ∧ s.onlyChan t c { h with refreshBank := bank })

/-- Haul channels start, pause and stop (R204, R207 to R209, R216 to R218, R220, R222, R223): START of a sound descriptor makes an
idle channel run and read, giving up what an earlier transfer still awaits; one of COUNT 0 is done at once, and one that fails
R209's check is in error with its cause; a channel that is not at rest ignores START, and one that does not run ignores PAUSE; a
pause with nothing on its way leaves the remainder in the registers; the flush read of a host destination ends the transfer; an
error response or 1 ms without one stops the channel and records the cause, the side and the address. No TRANSFER waits here, and no
other channel for the host. Each
clause concludes that the command completes. -/
def Obligations.HaulStartsAndStops : Prop :=
  ∀ (s : State) (c : HaulId), haulOk c = true → s.powered = true → s.hif.transfers = [] →
    let h := s.haul c
    let h0 : Haul := { h with cause := 0, side := 0, failAddr := 0, failOff := none, readPos := 0, writePos := 0, buffer := []
                              unread := 0, unacked := 0, flushing := false }
    let rest := h.mode = .idle ∨ h.mode = .paused ∨ h.mode = .done ∨ h.mode = .error
    let lone := ∀ j, HaulId.cc j ≠ c → s.hostBusy (.cc j) = false
    let settledOuts := ∀ e ∈ s.outs, e.who ≠ .haul c ∧ e.who ≠ .haulFlush c
    let fixed (b : Nat) : Bool := h.ctrl.testBit b
    let quiet := h.cmd = none ∧ h.ctrl.testBit 20 = false ∧ h.ctrl.testBit 21 = false
    let settled (n : Nat) : Haul :=
      { h0 with src := if fixed 22 then h.src else h.src + n, dst := if fixed 23 then h.dst else h.dst + n, count := h.count - n }
    let stops (o : Outst) (cause : Nat) (u : State) : Prop :=
      (∀ e ∈ u.outs, e.src = o.src → e.tag = o.tag → e.who = .expired) ∧ ((u.haul c).mode = .stopping ∨ (u.haul c).mode = .error) ∧
      (u.haul c).cause = cause ∧ (u.haul c).side = (if o.write then 1 else 0) ∧ (u.haul c).failAddr = o.addr ∧ u.storeMem = s.storeMem ∧
      u.brineMem = s.brineMem ∧ u.cellarMem = s.cellarMem ∧ u.hostMem = s.hostMem
    (rest → haulCheck (haulIsPan c) h0 = none → h.count ≠ 0 →
      let u : State := { s with outs := s.outs.map fun e => if e.ofHaul c then { e with who := .expired } else e }
      ∃ t, exec (.start c) s = .next t ∧ t = haulAfter (haulRun c (u.modHaul c fun _ => { h0 with mode := .running }))) ∧
    (rest → haulCheck (haulIsPan c) h0 = none → h.count = 0 → quiet → lone → settledOuts →
      ∃ t, exec (.start c) s = .next t ∧ s.onlyHaul t c { settled 0 with mode := .done }) ∧
    (∀ cause side addr k, rest → c = .cc k → haulCheck false h0 = some (cause, side, addr) → h.cmd = none → lone → settledOuts →
      ∃ t, exec (.start c) s = .next t ∧ s.onlyHaul t c
        { settled 0 with mode := .error, cause := cause, side := side, failAddr := addr, errors := satCount h.errors 1 }) ∧
    ((h.mode = .running ∨ h.mode = .pausing ∨ h.mode = .stopping) → exec (.start c) s = .next s) ∧
    (h.mode = .running → h.unread = 0 → h.unacked = 0 → h.buffer = [] → h.writePos < h.count → (h.writePos = 0 ∨ h.ctrl.testBit 25 = false) →
      h.failOff = none → h.cause = 0 → h.side = 0 → h.failAddr = 0 → h.flushing = false → lone →
      ∃ t, exec (.pause c) s = .next t ∧ s.onlyHaul t c { settled h.writePos with mode := .paused }) ∧
    (h.mode ≠ .running → exec (.pause c) s = .next s) ∧
    (∀ k, c = .cc k → h.flushing = true → h.mode = .running → h.count ≤ h.writePos → quiet → lone →
      ∃ t, exec (.haulFlushComplete k) s = .next t ∧ (t.haul c).mode = .done ∧ (t.haul c).flushing = false ∧
        (t.haul c).count = 0 ∧ t = { s with cc := t.cc, outs := s.outs.filter fun e => decide (e.who ≠ .haulFlush c) } ∧
        ∀ j, j ≠ k → t.haul (.cc j) = s.haul (.cc j)) ∧
    (∀ (k : Packet) o v, k.status ≠ 0 → packetValid k = true → arrive k s = some v → s.out? k.src k.tag = some o → o.who = .haul c →
      h.mode = .running → h.failOff = none → h.cmd = none → lone →
      ∃ t, exec (.haulError k) s = .next t ∧ stops o k.status t) ∧
    (∀ src tag o, s.out? src tag = some o → o.who = .haul c → o.issued + 1000000 ≤ s.clock.tide → h.mode = .running → h.failOff = none →
      h.cmd = none → lone →
      ∃ t, exec (.haulTimeout src tag) s = .next t ∧ stops o 0x07 t)

/-- Responses reach their requesters (R113, R211, R212, R214, R222, R309, R511), once they have arrived (u): read data are taken by the
feeder or the channel that waits for them, which goes on; host data, padded to the length asked for, by the channel that asked; an
acknowledgement counts one write less; a response of which no requester is known, or whose request was given up, is discarded; and
one that is still behind another of its stream waits. Each clause concludes that the command completes. -/
def Obligations.ResponsesReachRequesters : Prop :=
  ∀ (s : State) (k : Packet) (o : Outst), s.powered = true → packetValid k = true →
    (∀ u, arrive k s = some u →
      let v := dropOut k.src k.tag u
      let awaited := u.out? k.src k.tag = some o
      (∀ c, k.op = 0x21 → awaited → o.who = .haul c → o.write = false → k.status = 0 →
        exec (.rdData k) s = .next (haulAfter (haulReadBack c o k v))) ∧
      (∀ p, k.op = 0x21 → awaited → o.who = .feeder p true → k.status = 0 →
        let w := v.modLat p fun l => { l with load := l.load.map fun ld =>
          if ld.id = o.off / 4096 then { ld with arrived := put (o.off % 4096) (k.data, k.marks.any id) ld.arrived } else ld }
        exec (.rdData k) s = .next (heldAhead p 64 w)) ∧
      (∀ p, k.op = 0x21 → awaited → o.who = .feeder p false → k.status = 0 →
        let w := v.modPan p fun x => modRun (o.off / 1024) (fun r => { r with arrived := put (o.off % 1024) (k.data, k.marks.any id) r.arrived }) x
        exec (.rdData k) s = .next (feedAhead p 64 w)) ∧
      (k.op = 0x21 → u.out? k.src k.tag = none → exec (.rdData k) s = .next u) ∧
      (k.op = 0x21 → awaited → o.who = .expired → exec (.rdData k) s = .next (releaseCommits v)) ∧
      (∀ c, k.op = 0x22 → awaited → o.who = .haul c → o.write = true → k.status = 0 →
        exec (.wrAck k) s = .next (haulAfter (haulRun c (v.modHaul c fun h => { h with unacked := h.unacked - 1 })))) ∧
      (∀ c, k.op = 0x26 → awaited → o.who = .haul c → o.write = true → k.status = 0 →
        exec (.reduceAck k) s = .next (haulAfter (haulRun c (v.modHaul c fun h => { h with unacked := h.unacked - 1 })))) ∧
      (∀ g, k.op = 0x22 → awaited → o.who = .rootWrite g → o.write = true → k.status = 0 →
        let w := (releaseCommits v).modSlot g fun x => { x with unacked := x.unacked - 1 }
        exec (.wrAck k) s = .next (if (w.slot g).unacked = 0 then sendNotes (w.slot g).notes w else w))) ∧
    (arrive k s = none → (k.op = 0x21 → exec (.rdData k) s = .next s) ∧ (k.op = 0x22 → exec (.wrAck k) s = .next s) ∧
      (k.op = 0x26 → exec (.reduceAck k) s = .next s)) ∧
    (∀ ch tag bs, ch < 32 → s.out? (s.haulSrc (.cc ch)) tag = some o → o.who = .haul (.cc ch) → o.write = false → bs.length ≤ o.len →
      let w := dropOut (s.haulSrc (.cc ch)) tag s
      exec (.hostReadCompletion ch tag true bs) s = .next (haulAfter (haulReadBack (.cc ch) o
        { bytes := o.len, data := bs ++ List.replicate (o.len - bs.length) 0 } w)))

/-- Units on the mesh (R226, R228, R230, R231, R233, R234, R237, R238, R240, R241): in a unit time an output lane sends a ready urgent
head first, else the next unit of the packet in the middle of which it stands; where nothing is ready nothing changes. A packet of
one unit that has the mesh to itself goes one router along its row first and then along its column, or leaves by its port at its
destination, and is counted where it left; one with a reserved or invalid field is discarded, counted and recorded; a failed router
loses what it held and takes the pan and the slice beneath with it; and its row's ROW_DEAD then names it. Each clause concludes
that the command completes. -/
def Obligations.PacketsCrossTheMesh : Prop :=
  ∀ (s : State) (gx gy : Nat), s.powered = true → gx < 60 → gy < 27 →
    let r := s.router gx gy
    let headHere (lane : Nat) (e : Transit) : Prop := e.k.lane = lane ∧ ∃ u l, e.units = some u :: l ∧ u.gx = gx ∧ u.gy = gy
    (∀ out lane, out < 10 → lane < 2 → s.routerFailed gx gy = false → (∀ e ∈ s.net.flight, headHere lane e → packetValid e.k = true) →
      (∀ a ∈ s.net.flight, ∀ b ∈ s.net.flight, a.id = b.id → a = b) →
      let send (d : Ready) : Prop :=
        exec (.packetForward ⟨gx, gy, out, lane, .good⟩ .good false) s = .next (sendUnit gx gy out lane .good false d s)
      ((∃ d ∈ s.readyUnits gx gy out lane, d.t.k.vc = 0 ∧ d.i = 0) →
        ∃ d ∈ s.readyUnits gx gy out lane, d.t.k.vc = 0 ∧ d.i = 0 ∧ send d) ∧
      (∀ id, (∀ d ∈ s.readyUnits gx gy out lane, d.t.k.vc ≠ 0) → look none r.held (2 * out + lane) = some id →
        (∃ d ∈ s.readyUnits gx gy out lane, d.t.id = id) → ∃ d ∈ s.readyUnits gx gy out lane, d.t.id = id ∧ send d) ∧
      (s.readyUnits gx gy out lane = [] → exec (.packetForward ⟨gx, gy, out, lane, .good⟩ .good false) s = .next s)) ∧
    (∀ (e : Transit) u out lane, s.net.flight = [e] → e.units = [some u] → u.gx = gx → u.gy = gy → u.detour = false → e.start ≤ s.bundNow →
      packetValid e.k = true → e.k.op ≠ 0x04 → e.k.op ≠ 0x05 → e.k.detour = false → e.k.lane = lane → lane < 2 → out < 10 →
      s.routerFailed gx gy = false → look none r.held (2 * out + lane) = none →
      let sent (t : State) : Prop := (t.router gx gy).ctr = bump r.ctr (if e.k.vc = 0 then 0x020 else if e.k.vc = 1 then 0x024 else 0x028) 1 ∧
        ∀ x y, y * 60 + x ≠ gy * 60 + gx → t.router x y = s.router x y
      let moves (x y port : Nat) : Prop := ∃ t, exec (.packetForward ⟨gx, gy, out, lane, .good⟩ .good false) s = .next t ∧ sent t ∧
        t = { s with net := { s.net with routers := t.net.routers, moved := s.net.moved + 1
                                         flight := [{ e with k := { e.k with gx := x, gy := y, onDetour := false }
                                                             units := [some { gx := x, gy := y, port := port, seq := s.net.moved + 1 }] }] } }
      (gx < e.k.dgx → s.routerFailed (gx + 1) gy = false → out = 0 → moves (gx + 1) gy 1) ∧
      (e.k.dgx < gx → s.routerFailed (gx - 1) gy = false → out = 1 → moves (gx - 1) gy 0) ∧
      (gx = e.k.dgx → gy < e.k.dgy → s.routerFailed gx (gy + 1) = false → out = 3 → moves gx (gy + 1) 2) ∧
      (gx = e.k.dgx → e.k.dgy < gy → s.routerFailed gx (gy - 1) = false → out = 2 → moves gx (gy - 1) 3) ∧
      (gx = e.k.dgx → gy = e.k.dgy → out = s.diePort gx gy e.k true →
        ∃ t, exec (.packetForward ⟨gx, gy, out, lane, .good⟩ .good false) s = .next t ∧ sent t ∧
          t = { s with net := { s.net with routers := t.net.routers, flight := [{ e with units := [none] }] } })) ∧
    (∀ (e : Transit) out lane check waited, out < 10 → lane < 2 → s.routerFailed gx gy = false → s.net.flight = [e] → headHere lane e →
      packetValid e.k = false →
      ∃ t, exec (.packetForward ⟨gx, gy, out, lane, .good⟩ check waited) s = .next t ∧ t.net.flight = [] ∧
        (t.router gx gy).ctr = bump r.ctr 0x03C 1 ∧
        t.faults = { s.faults with reports := s.faults.reports ++
          [{ type := 0x06, cls := 2, unitCls := 0x3, unitIdx := gy * 60 + gx, detail := look 0 (bump r.ctr 0x03C 1) 0x03C
             tide := s.panNow (posAt gx gy), epoch := s.boot.epoch }] } ∧
        t = { s with net := t.net, faults := t.faults }) ∧
    (s.routerFailed gx gy = false →
      ∃ t, exec (.routerFail gx gy) s = .next t ∧ t.routerFailed gx gy = true ∧
        (∀ e ∈ t.net.flight, ∀ u, some u ∈ e.units → u.gx ≠ gx ∨ u.gy ≠ gy) ∧
        t.net.failedEpoch = min 2047 (s.net.failedEpoch + 1) ∧ (t.pan (posAt gx gy)).seq.mode = .faulted ∧
        ((t.slice (posAt gx gy)).mode = .failed ∨ (t.slice (posAt gx gy)).mode = .bad) ∧
        (∀ x y, y * 60 + x ≠ gy * 60 + gx → t.router x y = { s.router x y with held := (t.router x y).held })) ∧
    (s.routerFailed gx gy = true →
      ∃ t, exec (.rowDeadSet gx gy) s = .next t ∧ t = { s with net := { s.net with rowDead := t.net.rowDead } } ∧
        look 0 t.net.rowDead gy = look 0 s.net.rowDead gy ||| 2 ^ gx ∧ ∀ y, y ≠ gy → look 0 t.net.rowDead y = look 0 s.net.rowDead y)

/-- Reads and writes at their targets, once they have arrived (u) (R164 to R166, R174, R183, R190, R287, R292, R293): an admitted
access to a pan store queues at its network port; brine and cellar answer a read with the bytes and marks of their units, and a write
after every byte is in place; brine may admit a write first and perform it later; control space answers with its registers or takes
the write; the cause of a refusal goes back in the response; a packet with a reserved or invalid field is discarded (R230); and a
packet for another device is left alone. Each clause
concludes that the command completes. -/
def Obligations.RequestsPerformed : Prop :=
  ∀ (s : State) (k : Packet) (obs : List WordObs), s.powered = true →
    let off := addrOffset k.addr
    let sized := k.op = 0x02 ∧ k.data.length = k.bytes
    (∀ u, arrive k s = some u → packetValid k = true → s.isOwn k.addr = true →
      let v := memFlips (addrSpace k.addr) obs u
      let r := u.destOf k.src k.addr
      let new := s.writingOf k = none
      (∀ p b, k.op = 0x01 → addrSpace k.addr = 0 → u.panByte off k.bytes = some (p, b) →
        (∀ m ∈ u.banksOf p b k.bytes, u.bankMode p m = .awake ∨ u.bankMode p m = .draining) →
        exec (.rd k obs) s = .next (enqueue p 0xD b k.bytes none [] (ackOf k 0x21 k.bytes) u)) ∧
      (∀ ps bs ms w, k.op = 0x01 → addrSpace k.addr = 1 → v.brinePieces k.src off k.bytes = .ok ps → brineRead ps v = (0, bs, ms, w) →
        exec (.rd k obs) s = .next (respond (v.destOf k.src k.addr).1 (v.destOf k.src k.addr).2 k 0x21 0 bs ms w)) ∧
      (∀ bs ms w, k.op = 0x01 → addrSpace k.addr = 2 → off + max 1 k.bytes ≤ v.cellarUsable →
        cellarRead (unitParts (k.bytes / 64 + 2) off k.bytes) v = (bs, ms, w) →
        exec (.rd k obs) s = .next (respond (v.destOf k.src k.addr).1 (v.destOf k.src k.addr).2 k 0x21 0 bs ms w)) ∧
      (∀ bs w, k.op = 0x01 → addrSpace k.addr = 3 → u.debugAt k.src off = none → controlRead k.src off k.bytes u = (0, bs, w) →
        exec (.rd k obs) s = .next (respond r.1 r.2 k 0x21 0 bs (List.replicate (unitsOf k.addr bs.length).length false) w)) ∧
      (∀ p b later, sized → new → addrSpace k.addr = 0 → u.panByte off k.bytes = some (p, b) → u.admits p k.src b k.bytes = none →
        0 < k.bytes → exec (.wr ⟨k, later⟩) s = .next (enqueue p 0xD b k.bytes (some k.data) k.marks (ackOf k 0x22 0) u)) ∧
      (∀ p b c later, sized → new → addrSpace k.addr = 0 → u.panByte off k.bytes = some (p, b) → u.admits p k.src b k.bytes = some c →
        exec (.wr ⟨k, later⟩) s = .next (respond (meshX p) (meshY p) k 0x22 c [] [] (recordReject p k.src b c u))) ∧
      (∀ ps c w, sized → new → addrSpace k.addr = 1 → u.brinePieces k.src off k.bytes = .ok ps →
        brineWrite k.addr 0 k.data k.marks ps u = (c, w) → exec (.wr ⟨k, false⟩) s = .next (respond r.1 r.2 k 0x22 c [] [] w)) ∧
      (∀ ps, sized → new → addrSpace k.addr = 1 → u.brinePieces k.src off k.bytes = .ok ps →
        exec (.wr ⟨k, true⟩) s = .next (brineAdmitted k ps u)) ∧
      (∀ later, sized → new → addrSpace k.addr = 2 → off + max 1 k.bytes ≤ u.cellarUsable →
        exec (.wr ⟨k, later⟩) s = .next (respond r.1 r.2 k 0x22 0 [] [] (cellarWrite off k.data k.marks u))) ∧
      (∀ later, sized → new → addrSpace k.addr = 3 → u.debugAt k.src off = none →
        let w := controlWrite k.src off k.data u
        exec (.wr ⟨k, later⟩) s = .next (respond r.1 r.2 k 0x22 w.1 [] [] w.2))) ∧
    (∀ w later, sized → s.writingOf k = some w → exec (.wr ⟨k, later⟩) s = .next (performWrite w.id s)) ∧
    (k.op = 0x01 → s.isOwn k.addr = true → packetValid k = false → exec (.rd k obs) s = .next (discardAt k.gx k.gy k s)) ∧
    (k.op = 0x01 → s.isOwn k.addr = false → exec (.rd k obs) s = .next s) ∧
    (∀ later, sized → s.writingOf k = none → s.isOwn k.addr = false → exec (.wr ⟨k, later⟩) s = .next s)

/-- Group writes (R243 to R248, R287): MC_WR runs over its group's tree to each logical pan router in its rectangles once and BUS_WR to
every one of its fields, when the bus grants it, the units leaving by its router's local port; each member admits or rejects it; a write that must wait changes nothing; one to
control space is REFUSED and one without a valid entry answered ADDR; when every member has answered and every router of the tree
has sent its response up, one WR_ACK goes to the source with the cause of the rejecting member first by gy and then gx. Each clause
about a command concludes that it completes. -/
def Obligations.GroupWritesCombine : Prop :=
  ∀ (s : State) (k : Packet) (checks : List ReplicaCheck), s.powered = true → k.data.length = k.bytes →
    (∀ u, arrive k s = some u → packetValid k = true →
      (∀ g b, k.op = 0x04 → s.mcHeld k = false → addrSpace k.addr = 0 → u.groupOf k.addr = some (g, b) →
        exec (.mcWr ⟨k, checks⟩) s = .next (mcastWrite b g k checks u)) ∧
      (∀ g b, k.op = 0x05 → s.busHeld k = false → addrSpace k.addr = 0 → u.groupOf k.addr = some (g, b) →
        let v := u.modNet fun n => { n with busGrant := put (k.sgy / 9 * 4 + k.sgx / 15) (k.sgy % 9 * 15 + k.sgx % 15) n.busGrant }
        exec (.busWr k) s = .next (groupDeliver b k (combineOf k true []) ((u.groupMembers g).map fun m => (m, k.marks)) []
          (foldState (u.groupMembers g) (fun t m => t.bumpRouter m.1 m.2 0x048 (Packet.units k k.bytes))
            (v.bumpRouter k.sgx k.sgy 0x024 (Packet.units k k.bytes))))) ∧
      (k.op = 0x04 → addrSpace k.addr = 3 → exec (.mcWr ⟨k, checks⟩) s = .next (respond k.sgx k.sgy k 0x22 0x0A [] [] u)) ∧
      (k.op = 0x05 → addrSpace k.addr = 3 → exec (.busWr k) s = .next (respond k.sgx k.sgy k 0x22 0x0A [] [] u)) ∧
      (k.op = 0x04 → addrSpace k.addr = 0 → u.groupOf k.addr = none →
        exec (.mcWr ⟨k, checks⟩) s = .next (respond k.sgx k.sgy k 0x22 0x02 [] [] u)) ∧
      (k.op = 0x05 → addrSpace k.addr = 0 → u.groupOf k.addr = none →
        exec (.busWr k) s = .next (respond k.sgx k.sgy k 0x22 0x02 [] [] u))) ∧
    (k.op = 0x04 → s.mcHeld k = true → exec (.mcWr ⟨k, checks⟩) s = .next s) ∧
    (k.op = 0x05 → s.busHeld k = true → exec (.busWr k) s = .next s) ∧
    (∀ (b : Nat) (c : Combine) (v : State), groupDeliver b k c [] [] v =
      { v with net := { v.net with combine := v.net.combine ++ [{ c with waiting := [] }] } }) ∧
    (∀ (b : Nat) (c : Combine) (v : State) gx gy marks,
      (k.bytes + b ≤ 2 ^ 23 → ∀ cause, v.admits (posAt gx gy) k.src b k.bytes = some cause → memberWrite b k (c, v) ((gx, gy), marks) =
        ({ c with causes := c.causes ++ [(gy, gx, cause)] }, recordReject (posAt gx gy) k.src b cause v)) ∧
      (k.bytes + b ≤ 2 ^ 23 → 0 < k.bytes → v.admits (posAt gx gy) k.src b k.bytes = none → memberWrite b k (c, v) ((gx, gy), marks) =
        ({ c with waiting := c.waiting ++ [(gx, gy)] },
          enqueue (posAt gx gy) 0xD b k.bytes (some k.data) marks (ackOf k 0x22 0) v))) ∧
    (∀ l : List (Nat × Nat × Nat), l ≠ [] → ∃ e ∈ l, firstCause l = e.2.2 ∧ ∀ d ∈ l, e.1 * 60 + e.2.1 ≤ d.1 * 60 + d.2.1) ∧
    (∀ src tag c left v, (s.net.combine.find? fun c => c.src == src && c.tag == tag) = some c → combineUp c.waiting c.links s = (left, v) →
      (left = [] → c.waiting = [] → exec (.wrAckCombine src tag) s = .next (inject c.gx c.gy c.gx c.gy
        { op := 0x22, vc := 2, addr := c.addr, src := src, tag := tag, sgx := c.gx, sgy := c.gy, status := firstCause c.causes }
        { v with net := { v.net with combine := s.net.combine.erase c } })) ∧
      (left ≠ [] ∨ c.waiting ≠ [] → ∃ t, exec (.wrAckCombine src tag) s = .next t ∧
        t.net.combine = s.net.combine.map (fun e => if e = c then { c with links := left } else e) ∧
        t = { s with net := { s.net with combine := t.net.combine, routers := t.net.routers } }))

/-- Atomics, once they have arrived (u) (R295 to R298): on a cellar word that reads unmarked the old value goes back and the new one is
stored (here ADD, SWAP and compare-and-swap, of 4 or 8 bytes); the source's record remembers the number; a number performed
before is answered from the record and stores nothing; a reserved operation is refused. ATOMIC_DATA completes the waiting command
with the old value, or has it wait to be sent again when refused. Each clause concludes that the command completes. -/
def Obligations.AtomicsPerformed : Prop :=
  ∀ (s : State) (k : Packet) (u : State), s.powered = true → k.data.length = k.bytes → packetValid k = true → arrive k s = some u →
    let h := leNat (k.data.take 4)
    let aop := bits h 31 28
    let n := if bit h 27 then 8 else 4
    let a := leNat ((k.data.drop 4).take n)
    let b := leNat ((k.data.drop 8).take 4)
    let off := addrOffset k.addr
    let sound := aop ≠ 0 ∧ aop ≤ 7 ∧ (aop = 3 → n = 4) ∧ bits h 26 24 = 0 ∧ k.bytes = (if n = 8 ∨ aop = 3 then 12 else 8) ∧
      k.addr % 16 = 0 ∧ addrSpace k.addr ≠ 3
    let old := readBytes s.cellarMem off n
    let place := s.cellarPlace off
    let new := if aop = 1 then (leNat old + a) % 2 ^ (8 * n) else if aop = 2 then a % 2 ^ (8 * n)
               else if leNat old = a % 2 ^ (8 * n) then b % 2 ^ (8 * n) else leNat old
    (k.op = 0x03 → s.isOwn k.addr = true → sound → (aop = 1 ∨ aop = 2 ∨ aop = 3) → addrSpace k.addr = 2 → off + n ≤ s.cellarUsable →
      s.svc.records = [] → cellarMarked (s.chan place.1) place.2 = false → (∀ e ∈ (s.chan place.1).errs, e.word / 8 ≠ place.2 / 64) →
      Memory.wf s.cellarMem = true →
      ∃ v t, exec (.atomic k) s = .next t ∧
        t = respond controlRouter.1 controlRouter.2 k 0x23 0 (leBytes (leNat old) n) [false] v ∧
        (∀ i, i < n → readByte v.cellarMem (off + i) = (leBytes new n).getD i 0) ∧
        (∀ j, (j < off ∨ off + n ≤ j) → readByte v.cellarMem j = readByte s.cellarMem j) ∧
        v.svc.records = [{ src := k.src, high := bits h 23 0, done := [(bits h 23 0, leNat old, false)], used := s.clock.tide }] ∧
        v = { u with chans := v.chans, cellarMem := v.cellarMem, svc := v.svc }) ∧
    (∀ r e, k.op = 0x03 → s.isOwn k.addr = true → sound → (s.svc.records.find? fun r => r.src == k.src) = some r →
      s.svc.records.length ≤ 256 →
      (r.high + 2 ^ 24 - bits h 23 0) % 2 ^ 24 < 64 → 2 ^ 23 ≤ (bits h 23 0 + 2 ^ 24 - r.high) % 2 ^ 24 ∨ bits h 23 0 = r.high →
      r.high < 2 ^ 24 → (r.done.find? fun e => e.1 == bits h 23 0) = some e →
      ∃ v t, exec (.atomic k) s = .next t ∧
        t = respond controlRouter.1 controlRouter.2 k 0x23 0 (leBytes e.2.1 n) (if leBytes e.2.1 n = [] then [] else [e.2.2]) v ∧
        v = { u with svc := v.svc }) ∧
    (k.op = 0x03 → s.isOwn k.addr = true → (aop = 0 ∨ bits h 26 24 ≠ 0 ∨ k.addr % 16 ≠ 0 ∨ addrSpace k.addr = 3) →
      exec (.atomic k) s = .next (respond controlRouter.1 controlRouter.2 k 0x23 0x0A [] [] u)) ∧
    (∀ o w, k.op = 0x23 → s.out? k.src k.tag = some o → o.who = .atomic → (s.hif.atomics.find? fun w => w.aseq == o.off) = some w →
      k.status = 0 → (∀ m ∈ k.marks, m = false) →
      exec (.atomicData k) s = .next (finishTag w.tag (commandEntry w.tag 0x15 w.job 0 0 (words64 (leNat k.data)))
        ((dropOut k.src k.tag u).modHif fun h => { h with atomics := h.atomics.filter fun x => x.tag != w.tag }))) ∧
    (∀ o w, k.op = 0x23 → s.out? k.src k.tag = some o → o.who = .atomic → (s.hif.atomics.find? fun w => w.aseq == o.off) = some w →
      k.status = 0x0A →
      exec (.atomicData k) s = .next ((dropOut k.src k.tag u).modHif fun h => { h with atomics := h.atomics.map fun x =>
        if x.tag = w.tag then { x with refused := true } else x }))

/-- Contributions and barriers, once they have arrived (u) (R309 to R314): a REDUCE of whole chunks of its slot is taken in chunk by chunk and answered,
any other is refused, and one whose address names no slot has no place (R283); a chunk's first contribution enters as it is and later ones combine (sum, minimum or maximum), and a repeated
input is only counted; an arrival marks its input, and the last one expected passes the barrier up or, at the root, releases it;
a BARRIER of the slot's generation arrives or releases. Each clause concludes that the command completes. -/
def Obligations.CollectivesCombine : Prop :=
  ∀ (s : State) (k : Packet) (u : State), s.powered = true → packetValid k = true → arrive k s = some u →
    let atArrive := s.isOwn k.addr = true ∧ addrSpace k.addr = 3 ∧ addrOffset k.addr = 9 * 2 ^ 40 + 0x14 ∧ k.bytes = 4
    (∀ g input off, k.op = 0x06 → s.isOwn k.addr = true → addrSpace k.addr = 0 → panForm (addrOffset k.addr) = .reduction g input off →
      reduceOk (s.slot g) input off k = true →
      exec (.reduce k) s = .next (respond controlRouter.1 controlRouter.2 k 0x26 0 [] []
        (foldState (reduceChunks input off k) (fun t c => takeChunk g c.1 input c.2.1 c.2.2 t) u))) ∧
    (∀ g input off, k.op = 0x06 → s.isOwn k.addr = true → panForm (addrOffset k.addr) = .reduction g input off →
      reduceOk (s.slot g) input off k = false →
      exec (.reduce k) s = .next (respond controlRouter.1 controlRouter.2 k 0x26 0x0A [] [] u)) ∧
    (k.op = 0x06 → s.isOwn k.addr = true → addrSpace k.addr = 0 → panForm (addrOffset k.addr) = .bad →
      exec (.reduce k) s = .next (respond controlRouter.1 controlRouter.2 k 0x26 0x02 [] [] u)) ∧
    (∀ g ci input vals m, let x := s.slot g; let c := look ({} : Chunk) x.data ci
      c.seen = [] → (∃ j ∈ x.expect, j ≠ input) →
      takeChunk g ci input vals m s = s.modSlot g fun y =>
        { y with data := put ci { acc := vals, seen := [input], marked := c.marked || m } y.data, status := if y.status = 0 then 1 else y.status }) ∧
    (∀ g ci input vals m, let x := s.slot g; let c := look ({} : Chunk) x.data ci
      c.seen ≠ [] → c.seen.contains input = false → allSeen x.expect (insertRising input c.seen) = false →
      takeChunk g ci input vals m s = s.modSlot g fun y =>
        { y with data := put ci { acc := List.zipWith (fun p q => if y.rop = 0 then p + q else if y.rop = 1 then (if p ≤ q then p else q)
                                                         else if p ≤ q then q else p) c.acc vals
                                  seen := insertRising input c.seen, marked := c.marked || m } y.data
                 status := if y.status = 0 then 1 else y.status }) ∧
    (∀ g ci input vals m, (look ({} : Chunk) (s.slot g).data ci).seen.contains input = true →
      takeChunk g ci input vals m s = s.modSlot g fun y => { y with dups := satCount y.dups 1 }) ∧
    (∀ g input, g < 64 → input < 64 → (s.slot g).valid = true → (s.slot g).rop = 3 → (s.slot g).arrived.contains input = false →
      allSeen (s.slot g).expect (insertRising input (s.slot g).arrived) = false →
      ∃ t, exec (.arrive g input) s = .next t ∧ t = s.modSlot g fun y =>
        { y with arrived := insertRising input y.arrived, status := if y.status = 0 then 1 else y.status }) ∧
    (∀ g input, g < 64 → input < 64 → (s.slot g).valid = true → (s.slot g).rop = 3 → (s.slot g).arrived.contains input = false →
      allSeen (s.slot g).expect (s.slot g).arrived = false → allSeen (s.slot g).expect (insertRising input (s.slot g).arrived) = true →
      let v := s.modSlot g fun y => { y with arrived := insertRising input y.arrived, status := 2 }
      exec (.arrive g input) s = .next (if (s.slot g).root then releaseSlot g v
        else sendBarrier (s.slot g).parent false (s.slot g).parentInput g (s.slot g).gen v)) ∧
    (let w := leNat (k.data.take 4)
     let g := bits w 21 16
     k.op = 0x12 → atArrive → (s.slot g).valid = true → (s.slot g).rop = 3 → bits w 15 0 = (s.slot g).gen % 65536 → w.testBit 31 = false →
      exec (.barrier k) s = .next (barrierArrive g (bits w 30 24) (some (srcDevice k.src)) u)) ∧
    (let w := leNat (k.data.take 4)
     let g := bits w 21 16
     k.op = 0x12 → atArrive → (s.slot g).valid = true → (s.slot g).rop = 3 → bits w 15 0 = (s.slot g).gen % 65536 → w.testBit 31 = true →
      (s.slot g).status ≠ 3 → exec (.barrier k) s = .next (releaseSlot g u))

/-- Urgent writes and commit records, once they have arrived (u) (R287, R294, R299, R300): a URG_WR writes the control registers it names and nobody answers; a
COMMIT of 16 bytes joins COMMIT_IN, or, with 64 there, is counted and goes back to its sender's COMMIT_BOUNCE, and one of 4 bytes
adds to a semaphore; a bounced record joins its queue with the tide count, and after 100 µs the
oldest goes out again, once the writes before it are acknowledged. Each clause
concludes that the command completes. -/
def Obligations.CommitsAndUrgentWrites : Prop :=
  ∀ (s : State) (k : Packet) (u : State), s.powered = true → k.data.length = k.bytes → packetValid k = true → arrive k s = some u →
    let own := s.isOwn k.addr = true ∧ addrSpace k.addr = 3
    (k.op = 0x10 → own → exec (.urgWr k) s = .next (controlWrite k.src (addrOffset k.addr) k.data u).2) ∧
    (k.op = 0x10 → s.isOwn k.addr = false → exec (.urgWr k) s = .next s) ∧
    (k.op = 0x11 → own → addrOffset k.addr = 9 * 2 ^ 40 + 0x20 → k.bytes = 16 → s.svc.commitIn.length < 64 →
      ∃ t, exec (.commit k) s = .next t ∧
        t = { u with svc := { s.svc with commitIn := s.svc.commitIn ++ [(srcDevice k.src, commitOf k.data)] } }) ∧
    (k.op = 0x11 → own → addrOffset k.addr = 9 * 2 ^ 40 + 0x20 → k.bytes = 16 → 64 ≤ s.svc.commitIn.length →
      exec (.commit k) s = .next (sendFrom controlRouter.1 controlRouter.2
        { op := 0x10, vc := 0, addr := mkAddr (srcDevice k.src) 3 (9 * 2 ^ 40 + 0x30), src := s.hakarSrc, bytes := 16, data := k.data }
        (u.bumpSvc 0x18 1))) ∧
    (k.op = 0x11 → own → k.bytes = 4 → exec (.commit k) s = .next (controlWrite k.src (addrOffset k.addr) k.data u).2) ∧
    (k.op = 0x10 → own → addrOffset k.addr = 9 * 2 ^ 40 + 0x30 → k.bytes = 16 → s.svc.bounced.length < 64 →
      ∃ t, exec (.commitBounce k) s = .next t ∧
        t = { u with svc := { s.svc with bounced := s.svc.bounced ++ [(srcDevice k.src, commitOf k.data, s.clock.tide)] } }) ∧
    (k.op = 0x10 → own → addrOffset k.addr = 9 * 2 ^ 40 + 0x30 → k.bytes = 16 → 64 ≤ s.svc.bounced.length →
      ∃ t, exec (.commitBounce k) s = .next t ∧ t = { u with svc := { s.svc with ctr := bump s.svc.ctr 0x18 1 } }) ∧
    (∀ d c t0 rest, s.svc.bounced = (d, c, t0) :: rest → t0 + 100000 ≤ s.clock.tide →
      let m : Packet := { op := 0x11, vc := 0, addr := mkAddr d 3 (9 * 2 ^ 40 + 0x20), src := s.hakarSrc, bytes := 16, data := commitBytes c }
      exec .commitResend s = .next (if s.unackedUpTo s.hakarSrc s.issuedOuts then
          { s with svc := { s.svc with bounced := rest, commits := s.svc.commits ++ [(m, s.issuedOuts)] } }
        else sendFrom controlRouter.1 controlRouter.2 m { s with svc := { s.svc with bounced := rest } })) ∧
    (∀ d c t0 rest, s.svc.bounced = (d, c, t0) :: rest → s.clock.tide < t0 + 100000 → exec .commitResend s = .next s)

/-- Receiving on a Finron port that carries traffic (R261, R262, R264 to R269, R276, R279): a header whose codeword or CRC fails is
counted and asks for replay, and its payload is discarded with it; a good one first gives its ACK and credits, and, in sequence, is
accepted: its packet is delivered at once without payload or kept until its payload has come, or discarded with a record when a
field is reserved; one accepted before, and what follows it, is discarded, and one out of order asks for replay once; a payload unit
joins the packet arriving, marked where its codeword failed; credit, NAK and lane-map headers do what they carry; a map of fewer than
four lanes takes the port down, and a reserved one is discarded; and a port that is down ignores all. Each clause concludes that
the command completes. -/
def Obligations.LinkReceives : Prop :=
  ∀ (s : State) (n : Nat), n < 16 → s.powered = true →
    let p := s.port n
    let up := p.state = 2 ∨ p.state = 3
    let heard (h : FinHeader) : State := ackFrom n h.ack (creditFrom n h.crvc h.crcnt s)
    let next (h : FinHeader) : State := flushPort n ((heard h).modPort n fun p => { p with rxSeq := (p.rxSeq + 1) % 4096, nak := false })
    let drop (h : FinHeader) (t : State) : State :=
      if h.punits = 0 then t else t.modPort n fun p => { p with arriving := (h, [], [], true) :: p.arriving }
    let nak (t : State) : State := sendControl n 0x3E 0 0 (t.modPort n fun p => { p with nak := true })
    let ahead (h : FinHeader) : Nat := (h.seq + 4096 - p.rxSeq) % 4096
    (∀ h (f : Fec), up → f.lane < 9 → f.first = false → (f.uncorrectable = true ∨ h.crc ≠ headerCrc h) →
      exec (.headerUnitReceive n h f) s = .next (nak ((if h.op < 0x3D then drop h s else s).bumpPort n 0x018 1))) ∧
    (∀ h (f : Fec), up → f.lane < 9 → f.first = false → f.uncorrectable = false → h.crc = headerCrc h → h.op < 0x3D →
      (ahead h = 0 → headerBad h = false → h.punits = 0 → exec (.headerUnitReceive n h f) s = .next (packetIn n h [] [] (next h))) ∧
      (ahead h = 0 → headerBad h = false → h.punits ≠ 0 → exec (.headerUnitReceive n h f) s =
        .next ((next h).modPort n fun p => { p with arriving := (h, [], [], false) :: p.arriving })) ∧
      (ahead h = 0 → headerBad h = true → exec (.headerUnitReceive n h f) s =
        .next (freedHere n h.vc (1 + 2 * h.punits) (drop h (linkDiscard n (next h))))) ∧
      (2048 ≤ ahead h → exec (.headerUnitReceive n h f) s = .next (drop h (heard h))) ∧
      (0 < ahead h → ahead h < 2048 → exec (.headerUnitReceive n h f) s =
        .next (if p.nak then drop h (heard h) else nak (drop h (heard h))))) ∧
    (∀ h (f : Fec), up → f.lane < 9 → f.first = false → f.uncorrectable = false → h.crc = headerCrc h →
      (0x3D ≤ h.op → headerBad h = true → exec (.headerUnitReceive n h f) s = .next (linkDiscard n s)) ∧
      (h.op = 0x3D → headerBad h = false → exec (.headerUnitReceive n h f) s = .next (flushPort n (heard h))) ∧
      (h.op = 0x3E → headerBad h = false → exec (.headerUnitReceive n h f) s = .next (resend n false (heard h))) ∧
      (h.op = 0x3F → headerBad h = false → exec (.headerUnitReceive n h f) s =
        .next (linkLane n (h.addr / 2 ^ 32) (h.addr % 2 ^ 32) (flushPort n (heard h))))) ∧
    (∀ h ds ms rest bs (f : Fec), up → f.lane < 9 → f.first = false → bs.length = 64 →
      (p.arriving = (h, ds, ms, false) :: rest → f.uncorrectable = false → ms.length + 1 < h.punits →
        ∃ t, exec (.payloadUnitReceive n f bs) s = .next t ∧
          s.onlyPort t n { p with arriving := (h, ds ++ bs, ms ++ [h.pmark.testBit ms.length], false) :: rest }) ∧
      (p.arriving = (h, ds, ms, false) :: rest → h.punits ≤ ms.length + 1 →
        let u := (s.bumpPort n 0x024 (if f.uncorrectable then 1 else 0)).modPort n fun p => { p with arriving := rest }
        exec (.payloadUnitReceive n f bs) s =
          .next (packetIn n h (ds ++ bs) (ms ++ [f.uncorrectable || h.pmark.testBit ms.length]) u)) ∧
      (p.arriving = (h, ds, ms, true) :: rest → h.punits ≤ ms.length + 1 →
        ∃ t, exec (.payloadUnitReceive n f bs) s = .next t ∧ s.onlyPort t n { p with arriving := rest })) ∧
    (∀ ack crvc crcnt, up → ack < 4096 → crvc < 4 → crcnt < 4096 →
      exec (.linkIdle n ack crvc crcnt) s = .next (flushPort n (ackFrom n ack (creditFrom n crvc crcnt s)))) ∧
    (∀ ack, up → ack < 4096 → exec (.linkNak n ack) s = .next (resend n false (ackFrom n ack s))) ∧
    (∀ map cw, up → map < 2 ^ 32 → cw < 2 ^ 32 →
      let lanes := mapOf map
      let sound := ∀ l ∈ lanes, l < 9 ∨ l = 15
      let moved := ((List.range 8).filter fun i => p.laneMap.getD i 15 != lanes.getD i 15).length
      (sound → 4 ≤ (lanes.filter fun l => l < 9).length → look 0 p.ctr 0x02C ≤ 0xFFFFFFFF →
        ∃ t, exec (.linkLane n map cw) s = .next t ∧
          t.port n = { p with laneMap := lanes, mapFrom := cw, spareUsed := lanes.contains 8, ctr := (t.port n).ctr
                              usable := giveUp p.usable (p.laneMap.filter fun l => !lanes.contains l)
                              state := if ∀ l ∈ lanes, l < 9 then 2 else 3 } ∧
          look 0 (t.port n).ctr 0x02C = min 0xFFFFFFFF (look 0 p.ctr 0x02C + moved) ∧
          t.faults.reports.length = s.faults.reports.length + moved ∧ (∀ k, k ≠ n → t.port k = s.port k) ∧
          t = { s with fin := { s.fin with ports := t.fin.ports }, faults := t.faults }) ∧
      (sound → (lanes.filter fun l => l < 9).length < 4 → ∃ t, exec (.linkLane n map cw) s = .next t ∧ (t.port n).state = 4) ∧
      (¬ sound → exec (.linkLane n map cw) s = .next (linkDiscard n s))) ∧
    (∀ ack crvc crcnt, ¬ up → ack < 4096 → crvc < 4 → crcnt < 4096 → exec (.linkIdle n ack crvc crcnt) s = .next s ∧
      exec (.linkNak n ack) s = .next s) ∧
    (∀ h (f : Fec), ¬ up → f.lane < 9 → exec (.headerUnitReceive n h f) s = .next s)

/-- Sending on Finron (R262 to R264, R266 to R269, R273, R277, R289, R311): PACKET_TRANSMIT hands a packet for another device, once it has
come to its attachment router (u), to the port its route takes, and answers ADDR to a request that no route reaches; 320 ns without
an acknowledgement resend the whole replay buffer in order, under the same sequence numbers and with the latest acknowledgement;
freed slots are reported once; and a degraded or lost lane's logical number moves to the spare lane, from a codeword the manual does
not give (log 10), with a record. Each clause concludes that the command completes. -/
def Obligations.LinkSends : Prop :=
  ∀ (s : State) (n : Nat), n < 16 → s.powered = true →
    let p := s.port n
    let up := p.state = 2 ∨ p.state = 3
    (∀ (k : Packet) u, Packet.finDest k ≠ s.deviceId → Packet.finDest k ≠ 8191 → packetValid k = true → k ∉ s.net.bulk →
      arrive k s = some u →
      (∀ q dirs det exp, u.egress k.src (Packet.finDest k) = some (q, dirs, det, exp) → u.requantises k = false →
        ∃ h : FinHeader, exec (.packetTransmit k) s =
            .next (handOut q h (k.data.take (Packet.carried k)) none (portTraffic q (u.trafficJobs k.src k.addr) u)) ∧
          h.op = (if k.op = 0x04 ∨ k.op = 0x05 then 0x02 else k.op) ∧ h.src = k.src ∧ h.tag = k.tag ∧ h.bytes = k.bytes ∧
          (k.op = 0x02 ∨ k.op = 0x04 ∨ k.op = 0x05 ∨ k.op = 0x06 → h.vc = 3) ∧
          h.status = k.status ∧ h.dirs = dirs ∧ h.detour = det ∧ h.exp = exp ∧ h.xform = false ∧
          h.punits = ((k.data.take (Packet.carried k)).length + 63) / 64 ∧ (k.op < 0x20 → h.addr = k.addr)) ∧
      (u.egress k.src (Packet.finDest k) = none → k.op = 0x02 → k.vc = 1 →
        exec (.packetTransmit k) s = .next (respond k.sgx k.sgy k 0x22 0x02 [] [] u))) ∧
    (∀ k : Packet, Packet.finDest k ≠ s.deviceId → Packet.finDest k ≠ 8191 → k ∈ s.net.bulk →
      exec (.packetTransmit k) s = .next (sendOut k { s with net := { s.net with bulk := s.net.bulk.erase k } })) ∧
    (∀ e rest, p.replay = e :: rest → e.2.2.2 + 320 ≤ s.clock.tide →
      ∃ t, exec (.linkReplayTimer n) s = .next t ∧ t = { s with fin := t.fin } ∧
        t.fin = { s.fin with ports := t.fin.ports, sent := s.fin.sent ++ (e :: rest).map fun r => (n, freshHeader p r.2.1, r.2.2.1) } ∧
        t.port n = { p with replay := (e :: rest).map fun r => (r.1, r.2.1, r.2.2.1, s.clock.tide)
                            ctr := bump (bump p.ctr 0x01C 1) 0x020 1 } ∧
        ∀ k, k ≠ n → t.port k = s.port k) ∧
    (∀ e rest, p.replay = e :: rest → s.clock.tide < e.2.2.2 + 320 → exec (.linkReplayTimer n) s = .next s) ∧
    (∀ vc, vc < 4 → look 0 p.unreported vc ≠ 0 →
      ∃ t, exec (.creditReturn n vc) s = .next t ∧ t = { s with fin := t.fin } ∧
        t.fin = { s.fin with ports := t.fin.ports, control := s.fin.control ++
          [(n, sealHeader { op := 0x3D, addr := 0, ack := p.lastGood, crvc := vc, crcnt := look 0 p.freed vc })] } ∧
        t.port n = { p with unreported := put vc 0 p.unreported } ∧ ∀ k, k ≠ n → t.port k = s.port k) ∧
    (∀ vc, vc < 4 → look 0 p.unreported vc = 0 → exec (.creditReturn n vc) s = .next s) ∧
    (∀ lane lost i spare, lane < 9 → up → (lost = true ∨ laneDegraded p lane s.clock.tide = true) →
      (p.laneMap.findIdx? fun l => l == lane) = some i →
      ((List.range 9).find? fun l => p.usable.testBit l && !p.laneMap.contains l && l != lane) = some spare →
      4 ≤ ((setAt p.laneMap i spare).filter fun l => decide (l < 9)).length →
      let cw := Config.freeValue s.draws % 2 ^ 32
      ∃ t, exec (.laneJudge n lane lost) s = .next t ∧
        t.port n = { p with laneMap := setAt p.laneMap i spare, mapFrom := cw, spareUsed := true, usable := giveUp p.usable [lane]
                            ctr := bump p.ctr 0x02C 1, unreported := put 0 0 p.unreported } ∧
        t.draws = s.draws + 1 ∧ (∀ k, k ≠ n → t.port k = s.port k) ∧
        t.fin.control = s.fin.control ++ [(n, sealHeader { op := 0x3F, addr := mapWord (setAt p.laneMap i spare) * 2 ^ 32 + cw
                                                           ack := p.lastGood, crvc := 0, crcnt := look 0 p.freed 0 })] ∧
        t.faults = { s.faults with reports := s.faults.reports ++
          [{ type := 0x05, cls := 1, code := 1, unitCls := 0xA, unitIdx := n * 16 + lane
             detail := ((setAt p.laneMap i spare).filter fun l => decide (l < 9)).length, tide := s.clock.tide, epoch := s.boot.epoch }] }) ∧
    (∀ lane, lane < 9 → laneDegraded p lane s.clock.tide = false → exec (.laneJudge n lane false) s = .next s)

/-- A step's course (R325, R327, R329 to R333): a written step of a job that is neither held nor ending is dispatched, its pans
prepared, its record and mirror dispatched at this tide count, every region's first share begun, and a fault record that waited for it
answered; a step that is decided here is committed, with
its record, the next step's number, the atomic sequence number and one completion entry; at the lead a member's SHARES_DONE is
remembered, or answered anew when the step is committed already; 1 ms without an answer SHARES_DONE and SHARE_REPLAY go out
again; and a REPLAY_ACK ends the wait for its record. Each clause concludes that the command completes. -/
def Obligations.StepsDispatchAndCommit : Prop :=
  ∀ (s : State) (j : Nat) (x : Job), j < 16 → s.powered = true → s.job? j = some x →
    let send (d : Nat) (c : CommitRecord) (t : State) : State := injectCommit
      { op := 0x11, vc := 0, addr := mkAddr d 3 (9 * 2 ^ 40 + 0x20), src := s.hakarSrc, bytes := 16, data := commitBytes c } t
    let taken (d : Nat) (c : CommitRecord) : State := { s with svc := { s.svc with commitIn := s.svc.commitIn.erase (d, c) } }
    (x.inFlight = true → x.head.state = 1 → x.mode ≠ .held → x.mode ≠ .ending → x.replay = none →
      let u := foldState (s.stepPans x) (fun t p => winClose p 0xFFFF (semClear p 0xFFFF (faultClear p (stop p t)))) (readySlots j s)
      let quiet (q : Port) : Port := { q with jobs := if bit q.jobs j then q.jobs - 2 ^ j else q.jobs }
      let v := { u with fin := { u.fin with ports := u.fin.ports.map fun (e : Nat × Port) => (e.1, quiet e.2) } }
      let w := kickJob j (mirrorTally j (v.modJob j fun y => y.modHead fun t =>
        { t with state := 2, dispatched := s.clock.tide, placeVer := x.placeVer }))
      (∀ y, w.job? j = some y → y.head.state = 2 → y.later = [] → exec (.stepDispatch j) s = .next (w.setJob j y)) ∧
      (∀ y f a, w.job? j = some y → y.head.state = 2 → y.later = [f] → recordRegion f = some a →
        (∃ q ∈ y.runs, w.physRegion (y.shareLogical y.head.layer q.share) = some a) →
        exec (.stepDispatch j) s = .next (actOnFault f j (w.setJob j { y with later := [] })))) ∧
    (x.commitHere = true → x.order = none → x.killed = none → x.tally ≠ [] →
      (∀ im, x.image = some im → ∀ e ∈ im.commitMarks, e.1 ≠ x.head.layer) →
      let t : Tally := { x.head with state := 4, committed := s.clock.tide, arith := arithTotals x.runs }
      let y : Job := { x with tally := t :: x.tally.drop 1, mode := .running, inFlight := false, nextStep := (x.head.step + 1) % 2 ^ 32
                              doneSent := none, commitHere := false, replay := none
                              ranBefore := (x.runs.map fun q => (x.head.step, q.share, q.runs)) ++
                                x.ranBefore.filter fun e => decide (x.head.step < e.1 + 8) && e.1 != x.head.step }
      exec (.stepCommit j) s = .next (postEntry
        { jobValid := true, kind := 2, job := j, info := x.head.step, payload := stepPayload t, opcode := 0, tag := 0 }
        { s with jobs := put j y s.jobs, mirror := put j y.tally s.mirror
                 svc := { s.svc with aseq := put (16 + j) ((x.head.aseq + x.head.atomics) % 2 ^ 24) s.svc.aseq } })) ∧
    (∀ d (c : CommitRecord), d < 8191 → s.jobSlot c.jobId = some (j, x) → x.lead = s.deviceId → c.kind = 1 →
      ((x.tally.any fun t => t.step == c.step && t.state == 4) = true ∨ (x.inFlight = true ∧ x.head.step = c.step ∧ x.commitHere = true)) →
      exec (.sharesDone d c) s = .next (send d { kind := 2, jobId := x.jobId, step := c.step } (taken d c))) ∧
    (∀ d (c : CommitRecord), d < 8191 → s.jobSlot c.jobId = some (j, x) → x.lead = s.deviceId → c.kind = 1 →
      (x.tally.any fun t => t.step == c.step && t.state == 4) = false → x.inFlight = true → x.head.step = c.step → x.commitHere = false →
      (x.membersDone.any fun m => m.1 == d) = false →
      exec (.sharesDone d c) s =
        .next (tryDecide j ((taken d c).setJob j { x with membersDone := x.membersDone ++ [(d, c.aseq)] }))) ∧
    (∀ t0, x.doneSent = some t0 → t0 + 1000000 ≤ s.clock.tide →
      exec (.sharesDoneResend j) s = .next (send x.lead
        { kind := 1, jobId := x.jobId, step := x.head.step, aseq := (x.head.aseq + x.head.atomics) % 2 ^ 24 }
        (s.setJob j { x with doneSent := some s.clock.tide }))) ∧
    (∀ t0, x.doneSent = some t0 → s.clock.tide < t0 + 1000000 → exec (.sharesDoneResend j) s = .next s) ∧
    (∀ d (c : CommitRecord), d < 8191 → c.kind = 4 → s.jobSlot c.jobId = some (j, x) →
      exec (.replayAck d c) s = .next ((taken d c).setJob j { x with replaySent := x.replaySent.filter fun e =>
        !(e.1 == d && e.2.1.step == c.step && e.2.1.share == c.share && e.2.1.replay == c.replay) })) ∧
    (∀ d c t0, x.replaySent = [(d, c, t0)] → t0 + 1000000 ≤ s.clock.tide →
      exec (.shareReplayResend j) s = .next (send d c (s.setJob j { x with replaySent := [(d, c, s.clock.tide)] })))

/-- Replays (R334 to R343): Hakar takes the report that has waited longest for the log and has each job it names answer it, or
keep it for the next step when the step's commit is decided or none runs; a
SHARE_REPLAY for the step in flight is answered and starts the share's replay once, and a repeat is answered as the first; when the old writes are acknowledged, or 1 ms
after the latest was issued, the fenced regions are taken over and the shares loaded again; the replay then resumes, or
finishes at once when no earlier share runs again; a KILL that waited takes effect; and the failure of another member settles pending fences, stops the job's work and holds it. Each
clause concludes that the command completes. The end of a job (R345 to R347): an ending job's groups, collective slots and notify targets are cleared and, unless its residue
is retained, its lots become zero and its stores begin their fill; when they are filled its lots are free, its tally mirror and slot
are gone, and its end entry is written, the last of the job's (DESIGN CHOICES, logs 113 and 117). Each clause concludes that the command completes. -/
def Obligations.ReplaysAndZeroisation : Prop :=
  (∀ (s : State) (j : Nat) (x : Job), j < 16 → s.powered = true → s.job? j = some x →
    (∀ f rest, s.hif.coreRuns = true → s.faults.reports = f :: rest → f.jobs = 0 → f.type ≠ 0x04 → f.cls ≠ 4 →
      let u := { s with faults := { s.faults with reports := rest, unmirrored := s.faults.unmirrored ++ [f] } }
      exec .faultRecordReceive s = .next (foldState (s.jobs.map (·.1)) (fun t i => tryDecide i t) u)) ∧
    (∀ f rest, s.hif.coreRuns = true → s.faults.reports = f :: rest → f.jobs = 2 ^ j → f.type = 0x01 → f.cls = 3 → f.unitCls = 0x2 →
      f.code ≠ 0x19 → f.code ≠ 0x30 → x.mode ≠ .ending → f.passive = false → s.priorAt x (f.unitIdx / 15) = false →
      let u := { s with faults := { s.faults with reports := rest, unmirrored := s.faults.unmirrored ++ [f] } }
      let every (v : State) : State := foldState (v.jobs.map (·.1)) (fun t i => tryDecide i t) v
      (x.live = true → x.commitHere = false →
        exec .faultRecordReceive s = .next (every (replayShares j (s.sharesOn x (f.unitIdx / 15)) u))) ∧
      ((x.live = false ∨ x.commitHere = true) →
        exec .faultRecordReceive s = .next (every (u.setJob j { x with later := x.later ++ [f] })))) ∧
    (∀ d (c : CommitRecord), d < 8191 → c.kind = 3 → s.jobSlot c.jobId = some (j, x) → x.inFlight = true → x.head.step = c.step →
      x.commitHere = false → x.replaySeen.contains (d, c) = false → x.live = true →
      let u := { s with svc := { s.svc with commitIn := s.svc.commitIn.erase (d, c) } }
      exec (.shareReplay d c) s = .next (sendRecord d { kind := 4, replay := c.replay, share := c.share, jobId := c.jobId, step := c.step }
        (startReplay j { shares := [c.share], asked := true } (u.setJob j { x with replaySeen := x.replaySeen ++ [(d, c)] })))) ∧
    (∀ d (c : CommitRecord), d < 8191 → c.kind = 3 → s.jobSlot c.jobId = some (j, x) → x.replaySeen.contains (d, c) = true →
      exec (.shareReplay d c) s = .next (sendRecord d { kind := 4, replay := c.replay, share := c.share, jobId := c.jobId, step := c.step }
        { s with svc := { s.svc with commitIn := s.svc.commitIn.erase (d, c) } })) ∧
    (∀ r t, x.replay = some r → r.phase = 4 → s.oldWrites x r = [] → x.killed = some (t, false) →
      exec (.replayQuiesced j) s = .next (killNow j t false s)) ∧
    (∀ r, x.replay = some r → r.phase = 4 → s.oldWrites x r = [] → x.killed = none →
      exec (.replayQuiesced j) s = .next (reloadShares j (foldState r.fence (fun t q => takeRegion j q t) s))) ∧
    (∀ r, x.replay = some r → r.phase = 4 → s.oldWrites x r ≠ [] → exec (.replayQuiesced j) s = .next s) ∧
    (∀ r, x.replay = some r → r.phase = 4 → s.oldWrites x r ≠ [] → (∀ o ∈ s.oldWrites x r, o.issued + 1000000 ≤ s.clock.tide) →
      x.killed = none →
      let u := { s with outs := s.outs.map fun o => if (s.oldWrites x r).contains o then { o with who := .expired } else o }
      exec (.quiesceTimeLimit j) s = .next (reloadShares j (foldState r.fence (fun t q => takeRegion j q t) u))) ∧
    (∀ r, x.replay = some r → r.phase = 6 → x.killed = none → s.standInDue j = false → r.prior = [] →
      exec (.replayResume j) s = .next (finishReplay j (s.setJob j { x with replay := some { r with phase := 7 } }))) ∧
    (∀ r, x.replay = some r → r.phase = 6 → x.killed = none → s.standInDue j = false → r.prior ≠ [] →
      exec (.replayResume j) s = .next (kickPriors j
        (s.setJob j { x with replay := some { r with phase := 7 } }))) ∧
    (∀ d, d < 8191 → (s.otherMembers x).contains d = true → (x.mode = .placed ∨ x.mode = .running ∨ x.mode = .replaying) →
      let u := foldState (match x.replay with | some r => r.fence | none => []) (fun t q => takeRegion j q t)
        (foldState (s.jobPans x) (fun t p => idleChannels p (stop p t)) (markDead d s))
      ∀ y, u.job? j = some y → y.mode ≠ .ending →
        let z : Job := { (if y.inFlight then y.modHead fun t => { t with state := 5 } else y) with
          mode := .held, inFlight := false, replay := none, commitHere := false, doneSent := none, replaySent := [], later := [] }
        exec (.memberFailure j d) s = .next (postEntry { jobValid := true, kind := 5, job := j, info := d, payload := [x.head.step] }
          (endOrder j 0x12 (mirrorTally j (u.setJob j z))))) ∧
    (∀ d, d < 8191 → (s.otherMembers x).contains d = true → x.mode = .held →
      exec (.memberFailure j d) s = .next (postEntry { jobValid := true, kind := 5, job := j, info := d, payload := [x.head.step] }
        (markDead d s)))) ∧
  (∀ (s : State) (j : Nat) (x : Job), j < 16 → s.powered = true → s.job? j = some x → x.mode = .ending →
    (x.zeroing = false → (x.retain = false ∨ x.released = true) →
      exec (.zeroisation j) s = .next (foldState (s.jobPans x) (fun t p => beginStoreFill p t)
        (zeroLots j x ((clearTables j x s).setJob j { x with zeroing := true })))) ∧
    (x.zeroing = false → x.retain = true → x.released = false → exec (.zeroisation j) s = .next (clearTables j x s)) ∧
    (∀ e, x.zeroing = true → (∀ p ∈ s.jobPans x, (s.pan p).store.fillBusy = false) → x.ending = some e →
      s.carriesFor j = false → s.queuedFor j none = [] →
      let u := freeLots j { s with mirror := drop j s.mirror }
      exec (.zeroisationDone j) s = .next (postEntry (endEntry j x e) { u with jobs := drop j u.jobs })) ∧
    (x.zeroing = true → s.carriesFor j = true → exec (.zeroisationDone j) s = .next s) ∧
    (x.zeroing = true → (∃ p ∈ s.jobPans x, (s.pan p).store.fillBusy = true) → exec (.zeroisationDone j) s = .next s) ∧
    ((∀ g, look ({} : Group) (clearTables j x s).net.groups g =
        if (look ({} : Group) s.net.groups g).job = j then {} else look {} s.net.groups g) ∧
     ∀ p ∈ s.jobPans x, ((clearTables j x s).pan p).seq.ntt = []))

/-- The frequency ladder (R360 to R363): a request schedules a change for the first slot boundary 64,000 ns or more ahead, waits its
turn behind a pending one, or does nothing when the grade is in force; at the slot the change lands in every region and a
waiting request is scheduled from there; VCORE rises 40 µs before a rise's slot and falls 4,096 ns after a fall's. Each
clause concludes that the command completes. -/
def Obligations.GradeChangesLand : Prop :=
  ∀ (s : State), s.powered = true →
    let c := s.clock
    (∀ g, g < 16 → c.pending = none → g < c.grade →
      ∃ t, exec (.gradeRequest g) s = .next t ∧
        t = { s with clock := { c with pending := some g, slot := (c.tide + 64000 + 4095) / 4096 * 4096 } }) ∧
    (∀ g, g < 16 → c.pending = none → c.grade < g →
      ∃ t, exec (.gradeRequest g) s = .next t ∧ t = { s with clock := t.clock, fields := t.fields, power := t.power } ∧
        t.clock = { c with pending := some g, slot := (c.tide + 64000 + 4095) / 4096 * 4096 }) ∧
    (∀ g, g < 16 → c.pending = none → g = c.grade → exec (.gradeRequest g) s = .next s) ∧
    (∀ g p, g < 16 → c.pending = some p →
      ∃ t, exec (.gradeRequest g) s = .next t ∧
        t = { s with clock := { c with held := if g = p then none else some g }, fields := t.fields, power := t.power } ∧
        (g ≤ p → t.fields = s.fields ∧ t.power = s.power)) ∧
    (∀ g, c.pending = some g → c.slot ≤ c.tide → c.held = none →
      ∃ t, exec .gradeChange s = .next t ∧ t = { s with clock := t.clock, regions := t.regions } ∧
        t.clock = { c with grade := g, pending := none, held := none, landed := some (c.slot, decide (c.grade < g))
                           landings := (c.slot, c.grade) :: c.landings.filter fun e => decide (c.tide < e.1 + 2000000)
                           changes := satCount c.changes 1 } ∧
        ∀ r, r < 108 → t.region r = { s.region r with grade := g }) ∧
    (∀ g h, c.pending = some g → c.slot ≤ c.tide → c.held = some h → h < g →
      ∃ t, exec .gradeChange s = .next t ∧ t.clock.grade = g ∧ t.clock.pending = some h ∧
        t.clock.slot = (c.slot + 64000 + 4095) / 4096 * 4096) ∧
    (∀ g, c.pending = some g → c.tide < c.slot → exec .gradeChange s = .next s) ∧
    (∀ g, c.pending = some g → c.vcore < g → c.grade < g → c.slot ≤ c.tide + 40000 →
      ∃ t, exec .vcoreRise s = .next t ∧ t = { s with clock := { c with vcore := g } }) ∧
    (∀ t0, c.landed = some (t0, false) → t0 + 4096 ≤ c.tide → c.grade < c.vcore →
      ∃ t, exec .vcoreFall s = .next t ∧ t = { s with clock := { c with vcore := c.grade } })

/-- The tide (R365 to R370): a resynchronisation clears the replicas' differences; a port's exchange keeps this end's stamps and
sends them; a child, at the first port of the pair toward its parent, takes half the difference of the two one-way differences as its offset from its parent; the host's time sets
the measured offset, and the master alone steers by it; without a parent a device keeps its rate and is no longer locked;
and the lowest live position is the master, a device whose primary route is blocked having no parent (log 124). The steering rate itself is a free value within 200,000 either way (log 23). Each clause concludes
that the command completes. -/
def Obligations.TideKeepsTime : Prop :=
  ∀ (s : State), s.powered = true →
    let c := s.clock
    (∃ t, exec .tideResync s = .next t ∧ t = { s with clock := { c with replica := [] } }) ∧
    (∀ n st, n < 16 → ((s.port n).state = 2 ∨ (s.port n).state = 3) →
      ∃ t, exec (.tideExchange n st) s = .next t ∧
        t = { s with clock := { c with stamps := put n st c.stamps, stampsSent := c.stampsSent ++ [(n, st)] } }) ∧
    (∀ n (mine peer : TideStamps), n < 16 → c.master = false → c.parentPort = some n → ((s.port n).state = 2 ∨ (s.port n).state = 3) →
      (c.stamps.find? fun e => e.1 == n) = some (n, mine) →
      let off : Int := (((mine.rx : Int) - peer.tx) - ((peer.rx : Int) - mine.tx)) / 2
      ∃ t, exec (.tideStampMessage n mine peer) s = .next t ∧ t.clock.offset = off ∧ -200000 ≤ t.clock.rate ∧ t.clock.rate ≤ 200000 ∧
        t.clock.locked = (c.locked || (decide (-8000 ≤ off) && decide (off ≤ 8000))) ∧
        t = { s with clock := { c with offset := t.clock.offset, rate := t.clock.rate, locked := t.clock.locked, holdover := false }
                     draws := s.draws + 1 }) ∧
    (∀ n (mine peer : TideStamps), n < 16 → (c.master = true ∨ c.parentPort ≠ some n ∨ (c.stamps.find? fun e => e.1 == n) = none ∨
      ((s.port n).state ≠ 2 ∧ (s.port n).state ≠ 3)) → exec (.tideStampMessage n mine peer) s = .next s) ∧
    (∀ h, h < 2 ^ 64 → c.master = false →
      ∃ t, exec (.ptmMeasure h) s = .next t ∧ t = { s with clock := { c with ptmOffset := (h : Int) - c.tide, ptmValid := true } }) ∧
    (∀ h, h < 2 ^ 64 → c.master = true →
      ∃ t, exec (.ptmMeasure h) s = .next t ∧ -200000 ≤ t.clock.rate ∧ t.clock.rate ≤ 200000 ∧
        t = { s with clock := { c with ptmOffset := (h : Int) - c.tide, ptmValid := true, rate := t.clock.rate }, draws := s.draws + 1 }) ∧
    (c.master = false → c.holdover = false → (∀ n, c.parentPort = some n → (s.port n).state ≠ 2 ∧ (s.port n).state ≠ 3) →
      ∃ t, exec .tideHoldover s = .next t ∧
        t = { s with clock := { c with locked := false, holdover := true, relocks := satCount c.relocks 1 } }) ∧
    (∀ me, s.fin.selfPos = some me → s.posNumber me.1 me.2.1 me.2.2 = s.masterPos →
      ∃ t, exec .tideParentReselect s = .next t ∧
        t = { s with clock := { c with
          master := true, locked := true, holdover := false, parent := 8191, parentPort := none
          rate := if c.master then c.rate else 0 } }) ∧
    (∀ me r d, s.fin.selfPos = some me → s.posNumber me.1 me.2.1 me.2.2 ≠ s.masterPos → s.route me (s.coordsOf s.masterPos) = some r →
      r.detour = false → s.deviceAt (s.neighbour me r.first) = some d →
      ∃ t, exec .tideParentReselect s = .next t ∧
        t = { s with clock := { c with master := false, parent := d, parentPort := some (firstPort r.first) } }) ∧
    (∀ me r, s.fin.selfPos = some me → s.posNumber me.1 me.2.1 me.2.2 ≠ s.masterPos → s.route me (s.coordsOf s.masterPos) = some r →
      r.detour = true →
      ∃ t, exec .tideParentReselect s = .next t ∧ t = { s with clock := { c with master := false, parentPort := none } })

/-- The power limit (R373, R386, R387): each evaluation takes the sum over the rails of voltage times current, shifts that sample into its window and takes the average; a sample above 1.25 times
the limit, or the fifty-first above it, raises the cap level by 4; a window above the limit lowers the grade while the level is below 8
and otherwise raises the level by 2; a window below 97 % of it lowers the level by 1, and at level 0 raises the grade up to
its maximum; and in between nothing changes. Each clause concludes that the command completes. Budgets and energy (R390 to R394): a member reports its slack to the keeper, which keeps the latest of each; the keeper moves
limits between the members as R392 pairs them and sends those that changed; a limit it sends is taken at the next
evaluation; and energies are charged to the jobs whose regions spent them and whose units a shared domain carried, in proportion, and otherwise to the
device. Each clause
concludes that the command completes. -/
def Obligations.PowerLimitAndBudgets : Prop :=
  (∀ (s : State) (e : RailSample),
    let w := (e.vin * sumNat e.fields + (e.vsd.1 * e.vsd.2 + e.vlq.1 * e.vlq.2 + e.vhq.1 * e.vhq.2 + e.vaux.1 * e.vaux.2)) / 1000000
    w < 65536 → e.fields.length = 12 → s.powered = true → s.power.newLimit = none → s.clock.pending = none → s.clock.held = none →
    s.clock.grade ≤ s.power.gradeMax →
    let q := s.power
    let c := s.clock
    let win := (w :: q.samples).take q.window
    let sum := sumNat win
    let ovs := if q.limit < w then q.overs + 1 else 0
    let cut := 5 * q.limit < 4 * w ∨ 50 < ovs
    let above := q.limit * win.length < sum
    let low := 100 * sum < 97 * q.limit * win.length ∧ ovs = 0
    let next (cap : Nat) : Power := { q with
      rails := [e.vsd.2, e.vlq.2, e.vhq.2, e.vaux.2], samples := win, now := w, avg := if win.length = 0 then 0 else sum / win.length, overs := min 255 ovs, cap := cap
      capEvents := satCount q.capEvents (if q.cap < cap then 1 else 0), excursions := satCount q.excursions (if ovs = 51 then 1 else 0) }
    let slot := (c.tide + 64000 + 4095) / 4096 * 4096
    (cut → ∃ t, exec (.powerEvaluation e) s = .next t ∧ t = { s with power := next (min (q.cap + 4) 60) }) ∧
    (¬ cut → above → (8 ≤ q.cap ∨ c.grade = 0) →
      ∃ t, exec (.powerEvaluation e) s = .next t ∧ t = { s with power := next (min (q.cap + 2) 60) }) ∧
    (¬ cut → above → q.cap < 8 → 0 < c.grade →
      ∃ t, exec (.powerEvaluation e) s = .next t ∧
        t = { s with power := next q.cap, clock := { c with pending := some (c.grade - 1), slot := slot } }) ∧
    (¬ cut → ¬ above → low → 0 < q.cap → ∃ t, exec (.powerEvaluation e) s = .next t ∧ t = { s with power := next (q.cap - 1) }) ∧
    (¬ cut → ¬ above → low → q.cap = 0 → c.grade < q.gradeMax →
      ∃ t, exec (.powerEvaluation e) s = .next t ∧ t = { s with power := t.power, fields := t.fields, clock := t.clock } ∧
        t.clock = { c with pending := some (c.grade + 1), slot := slot } ∧
        t.power = { next 0 with slowWakes := t.power.slowWakes }) ∧
    (¬ cut → ¬ above → (¬ low ∨ (q.cap = 0 ∧ c.grade = q.gradeMax)) →
      ∃ t, exec (.powerEvaluation e) s = .next t ∧ t = { s with power := next q.cap })) ∧
  (∀ (s : State), s.powered = true →
    let b := s.power.budget
    (∀ w n, w < 65536 → 0 < n → b.joined = true → b.keeper = false →
      let k := min 10000 (b.idle * 10000 / n)
      ∃ t, exec (.budgetReport w n) s = .next t ∧ t = { s with power := { s.power with budget := { b with
        slack := k, idle := 0, seq := (b.seq + 1) % 2 ^ 32
        sent := b.sent ++ [(b.keeperId, { kind := 1, group := b.group, device := s.deviceId, hi := w, lo := k, seq := b.seq })] } } }) ∧
    (∀ w n, w < 65536 → 0 < n → b.joined = true → b.keeper = true →
      let k := min 10000 (b.idle * 10000 / n)
      ∃ t, exec (.budgetReport w n) s = .next t ∧ t = { s with power := { s.power with budget := { b with
        slack := k, idle := 0, seq := (b.seq + 1) % 2 ^ 32
        reports := (b.reports.filter fun r => r.1 != s.deviceId) ++ [(s.deviceId, k, s.clock.tide)] } } }) ∧
    (b.keeper = true → reassign s.clock.tide b = b.members → (∀ m ∈ b.members, limitOf b.members m.1 = m.2) →
      exec .budgetReassign s = .next s) ∧
    (b.keeper = true →
      let ms := reassign s.clock.tide b
      exec .budgetReassign s = .next (sendLimits (ms.filter fun m => limitOf b.members m.1 != m.2)
        { s with power := { s.power with budget := { b with members := ms } } })) ∧
    (∀ m : BudgetMsg, m.device < 8192 → m.hi < 65536 → m.lo < 65536 → b.joined = true → b.group = m.group → m.kind = 2 →
      m.device = b.keeperId →
      ∃ t, exec (.budgetLimitReceive m) s = .next t ∧ t = { s with power := { s.power with newLimit := some m.lo } }) ∧
    (∀ m : BudgetMsg, m.device < 8192 → m.hi < 65536 → m.lo < 65536 → b.joined = true → b.group = m.group → m.kind = 1 → b.keeper = true →
      ∃ t, exec (.budgetLimitReceive m) s = .next t ∧ t = { s with power := { s.power with budget := { b with
        reports := (b.reports.filter fun r => r.1 != m.device) ++ [(m.device, m.lo, s.clock.tide)] } } }) ∧
    (∀ dev, s.jobs = [] → ∃ t, exec (.energyCharge [] [] dev) s = .next t ∧
      t = { s with power := { s.power with devUj := (s.power.devUj + dev) % 2 ^ 64 } }) ∧
    (∀ r uj l j (x : Job), r < 108 → ((s.region r).pwr = .running ∨ (s.region r).pwr = .waking) → (s.region r).fenced = false →
      s.logicalRegion r = some l → (s.jobsOfRegion l).head? = some j → s.job? j = some x →
      ∃ t, exec (.energyCharge [(r, uj)] [] 0) s = .next t ∧
        t.job? j = some { x with regionUj := x.regionUj + uj, chargedTo := s.clock.tide }) ∧
    (∀ r uj, r < 108 → s.jobs = [] → ((s.region r).pwr = .rested ∨ (s.region r).pwr = .gated ∨ (s.region r).fenced = true) →
      ∃ t, exec (.energyCharge [(r, uj)] [] 0) s = .next t ∧ t.power.devUj = (s.power.devUj + uj) % 2 ^ 64) ∧
    (∀ i j uj u v (x y : Job), i < 16 → j < 16 → i ≠ j → 0 < u → s.job? i = some x → s.job? j = some y →
      ∃ t, exec (.energyCharge [] [{ uj := uj, units := [(i, u), (j, v)] }] 0) s = .next t ∧
        t.job? i = some { x with sharedUj := x.sharedUj + uj * u / (u + v), chargedTo := s.clock.tide } ∧
        t.job? j = some { y with sharedUj := y.sharedUj + uj * v / (u + v), chargedTo := s.clock.tide }))

/-- Currents and heat (R136, R364, R374, R376, R379 to R381, R384, R385): the fast loop raises a field's level by 8 above its limit
and lowers it by 1 after ten quiet steps, and counts the stretched and withheld edges of its oscillators (log 120); a notice puts a running region at peak, and quiet pans end it; an interval's lowest
voltage enters the log; a sample sets the temperature and its level, and at 110 °C gates the region; a rest whose DONE has not come
in 50 ms stops the pans and gates the region, once its draining banks sleep; a failed phase is recorded, five in a region as a region fault and three of a shared domain as device-fatal; and a region whose clock fails
stops its pans. Each clause concludes that the command completes. -/
def Obligations.CurrentsAndHeat : Prop :=
  ∀ (s : State) (f r : Nat), f < 12 → r < 108 → s.powered = true →
    let x := s.fieldPwr f
    let q := s.region r
    let stretched (bund : List (Nat × Nat)) (bp : Nat) : FieldPwr :=
      let k := stretchRuns 7 x.bundLevel bund
      { x with bundLevel := k.1, bundStretch := satCount x.bundStretch k.2.1, bundPeriod := bp }
    (∀ d, droopLevel 3 d = if d ≤ 30 then 0 else if d ≤ 60 then 1 else if d ≤ 90 then 2 else 3) ∧
    (∀ mA bund bp, bp < 65536 → s.peakCurrent f = 0 → s.fieldDroops f = false → 263000 < mA →
      ∃ t, exec (.fastCurrentLoop f mA ⟨[], bund, bp⟩) s = .next t ∧ s.onlyField t f { stretched bund bp with current := mA / 10, level := min 60 (x.level + 8), below := 0 }) ∧
    (∀ mA bund bp, bp < 65536 → s.peakCurrent f = 0 → s.fieldDroops f = false → mA < 253000 → x.below < 9 →
      ∃ t, exec (.fastCurrentLoop f mA ⟨[], bund, bp⟩) s = .next t ∧ s.onlyField t f { stretched bund bp with current := mA / 10, below := x.below + 1 }) ∧
    (∀ mA bund bp, bp < 65536 → s.peakCurrent f = 0 → s.fieldDroops f = false → mA < 253000 → 9 ≤ x.below →
      ∃ t, exec (.fastCurrentLoop f mA ⟨[], bund, bp⟩) s = .next t ∧ s.onlyField t f { stretched bund bp with current := mA / 10, level := x.level - 1, below := 0 }) ∧
    (∀ mA bund bp, bp < 65536 → s.peakCurrent f = 0 → s.fieldDroops f = false → 253000 ≤ mA → mA ≤ 263000 →
      ∃ t, exec (.fastCurrentLoop f mA ⟨[], bund, bp⟩) s = .next t ∧ s.onlyField t f { stretched bund bp with current := mA / 10, below := 0 }) ∧
    (∀ e : RegionSample, e.region = r → q.clk = .running → q.failedPhases < 3 → e.burst = false →
      let k := stretchRuns 3 q.level (e.cycles.map fun y => (y.1, shortfall (vcoreTarget s.boot.fuses.trim q.grade) y.2))
      let owed := q.owedEdges + s.throttle r * sumNat (e.cycles.map (·.1))
      ∃ t, exec (.fastCurrentLoop (r / 9) 0 ⟨[e], [], 0⟩) s = .next t ∧ t.region r = { q with
        level := k.1, stretch := satCount q.stretch k.2.1, highLevel := max q.highLevel k.2.2
        throttled := satCount q.throttled (owed / 64), owedEdges := owed % 64, fresh := false, ran := true
        current := e.current / 10, phaseLevel := 0, below := 0 }) ∧
    (0 < q.notices → q.pwr = .running → ∃ t, exec (.loadNoticeArrival r) s = .next t ∧
      s.onlyRegion t r { q with notices := q.notices - 1, peak := true, peakFrom := some s.clock.tide }) ∧
    (q.notices = 0 → exec (.loadNoticeArrival r) s = .next s) ∧
    (q.peak = true → (∀ p ∈ regionPans r, (∀ c, (s.pan p).seq.lastValid = some c → c + 1024 ≤ (s.pan p).seq.cycle) ∧
        ∀ c, (s.pan p).seq.notice = some c → c + 1024 ≤ (s.pan p).seq.cycle) →
      ∃ t, exec (.peakEnd r) s = .next t ∧ s.onlyRegion t r { q with peak := false, peakFrom := none }) ∧
    (∀ mv t0 more, mv < 1024 → (∀ y ∈ more, y.1 < 1024) →
      let entry (low : Nat × Nat) : MinvEntry := { stretch := q.highLevel, grade := s.clock.gradeAt low.2, mv := low.1, tide := low.2 }
      let head := (q.minvHead + 1) % 16
      ((q.clk = .running ∨ q.ran = true) → ∃ low ∈ (mv, t0) :: more, (∀ y ∈ (mv, t0) :: more, low.1 ≤ y.1) ∧
        ∃ t, exec (.minvInterval r mv t0 ⟨more⟩) s = .next t ∧ s.onlyRegion t r { q with
          minvHead := head, minvAll := min q.minvAll low.1, minv := put head (entry low) q.minv
          highLevel := 0, ran := q.clk == .running }) ∧
      (q.clk ≠ .running → q.ran = false → ∃ t, exec (.minvInterval r mv t0 ⟨more⟩) s = .next t ∧ s.onlyRegion t r { q with
        minvHead := head, minv := put head { off := true, grade := q.grade } q.minv, highLevel := 0, ran := false })) ∧
    (∀ a b : Int, -32768 ≤ a → -32768 ≤ b → max a b < 95 * 16 → (∀ k, k < 9 → (s.region (9 * (r / 9) + k)).hotSince = none) →
      let t16 := max a b
      ∃ t, exec (.thermalSample r ⟨a, b⟩) s = .next t ∧ t = { s with regions := t.regions, power := t.power } ∧
        t.region r = { q with temp := t16, thermal := 0, hotSince := none, coolSince := some (q.coolSince.getD s.clock.tide), wasCool := true } ∧
        (∀ k, k ≠ r → t.region k = s.region k) ∧
        t.power = { s.power with temps := (s.power.temps.filter fun e => decide (s.clock.tide < e.1 + 100000)) ++ [(s.clock.tide, t16)] }) ∧
    (∀ a b : Int, -32768 ≤ a → -32768 ≤ b → 110 * 16 ≤ max a b → max a b < 115 * 16 →
      ¬ (q.pwr = .gated ∧ (q.fenced = true ∨ 110 * 16 ≤ q.temp)) → (∀ k, k < 9 → 9 * (r / 9) + k ≠ r → (s.region (9 * (r / 9) + k)).hotSince = none) →
      let t16 := max a b
      ∃ t, exec (.thermalSample r ⟨a, b⟩) s = .next t ∧ (t.region r).pwr = .gated ∧ (t.region r).clk = .gated ∧ (t.region r).temp = t16 ∧
        (∀ k, k ≠ r → t.region k = s.region k) ∧
        ∃ l, t.faults.reports = l ++
          [{ type := 0x09, cls := 4, code := (t16 / 16).toNat, unitCls := 0xB, unitIdx := r
             detail := unsigned 32 t16, jobs := s.jobMask r, tide := s.clock.tide, epoch := s.boot.epoch }]) ∧
    (∀ t0, q.restSince = some t0 → t0 + 50000000 ≤ s.clock.tide → s.jobs = [] →
      ∃ t, exec (.restDeadline r) s = .next t ∧ (∀ p ∈ regionPans r, (t.pan p).seq.mode = .stopped ∨ (t.pan p).seq.mode = .faulted) ∧
        (s.regionDrains r = false → (t.region r).pwr = .rested ∧ (t.region r).clk = .gated ∧ (t.region r).restSince = none) ∧
        (s.regionDrains r = true → t.region r = { q with restGate := true })) ∧
    (∀ t0, q.restSince = some t0 → s.clock.tide < t0 + 50000000 → exec (.restDeadline r) s = .next s) ∧
    (∀ ph, ph < 12 → q.phases.testBit ph = false →
      let n := (bitList 12 (q.phases + 2 ^ ph)).length
      (n < 5 ∨ ∀ w, (s.fieldPwr (r / 9)).wake = some w → w.1 ≠ r) →
      ∃ t, exec (.phaseFail r ph) s = .next t ∧ t = { s with regions := t.regions, faults := t.faults } ∧
        t.region r = { q with phases := q.phases + 2 ^ ph, limited := n == 3 || n == 4 } ∧ (∀ k, k ≠ r → t.region k = s.region k) ∧
        t.faults = { s.faults with reports := s.faults.reports ++
          [{ type := 0x08, cls := if 5 ≤ n then 4 else 0, code := n
             unitCls := 0xB, unitIdx := r, detail := q.phases + 2 ^ ph, jobs := s.jobMask r, tide := s.clock.tide, epoch := s.boot.epoch }] }) ∧
    (∀ d ph, 108 ≤ d → d < 136 → ph < 6 → (look 0 s.power.domPhases d).testBit ph = false →
      let v := look 0 s.power.domPhases d + 2 ^ ph
      let n := (bitList 6 v).length
      ∃ t, exec (.phaseFail d ph) s = .next t ∧ t = { s with power := { s.power with domPhases := put d v s.power.domPhases }, faults := t.faults } ∧
        t.faults = { s.faults with reports := s.faults.reports ++
          [{ type := 0x08, cls := if n = 3 then 7 else 0, code := n
             unitCls := 0xB, unitIdx := d, detail := v, jobs := if n = 3 then maskOf (s.jobs.map (·.1)) else 0
             tide := s.clock.tide, epoch := s.boot.epoch }] }) ∧
    (q.fenced = false → (∃ w, (s.fieldPwr (r / 9)).wake = some w ∧ w.1 = r) → ∃ t, exec (.regionClockFail r) s = .next t ∧
      (t.region r).pwr = .gated ∧ (t.region r).clk = .gated ∧ ∀ k, k ≠ r → t.region k = s.region k) ∧
    (q.fenced = false → (∀ w, (s.fieldPwr (r / 9)).wake = some w → w.1 ≠ r) → ∃ t, exec (.regionClockFail r) s = .next t ∧ t.region r = { q with clk := .stopped } ∧
      (∀ k, k ≠ r → t.region k = s.region k) ∧ (∀ p ∈ regionPans r, (t.pan p).seq.mode = .stopped ∨ (t.pan p).seq.mode = .faulted) ∧
      t = { s with regions := t.regions, pans := t.pans, outs := t.outs, faults := t.faults })

/-- Wakes, field by field (R362, R382, R383): a rested region that has been cool for 10 ms takes its field's free turn; with 40 A to
spare and no rise pending, or after 50 µs by the slow ramp, its ramp begins; the switch closed, the regulators bring VCORE up; and
then its oscillator runs at the grade in force and its stores fill. Each clause concludes that the command completes. -/
def Obligations.WakesTakeTheirTurn : Prop :=
  ∀ (s : State) (f r : Nat), f < 12 → r < 108 → s.powered = true →
    let x := s.fieldPwr f
    let q := s.region r
    (∀ t0, q.pwr = .rested → q.coolSince = some t0 → t0 + 10000000 ≤ s.clock.tide → (s.fieldPwr (r / 9)).queue = [] →
      (s.fieldPwr (r / 9)).wake = none →
      ∃ t, exec (.regionWake r) s = .next t ∧ s.onlyField t (r / 9) { s.fieldPwr (r / 9) with
        wake := some (r, .waiting, false, s.clock.tide), wakeAsked := s.clock.tide, paused := 0 }) ∧
    (∀ t0 o slow t1, q.pwr = .rested → q.coolSince = some t0 → t0 + 10000000 ≤ s.clock.tide → (s.fieldPwr (r / 9)).queue = [] →
      (s.fieldPwr (r / 9)).wake = some (o, .waiting, slow, t1) → (s.fieldPwr (r / 9)).wakeAsked = s.clock.tide → r < o →
      ∃ t, exec (.regionWake r) s = .next t ∧ s.onlyField t (r / 9) { s.fieldPwr (r / 9) with
        wake := some (r, .waiting, false, s.clock.tide), wakeAsked := s.clock.tide, paused := 0, queue := [(s.clock.tide, o)] }) ∧
    (∀ slow t0, x.wake = some (r, .waiting, slow, t0) → x.current + 4000 ≤ 26300 → s.risePending = false →
      ∃ t, exec (.wakeAdmit f) s = .next t ∧ t = { s with fields := t.fields, regions := t.regions } ∧
        t.fieldPwr f = { x with wake := some (r, .ramp, false, s.clock.tide) } ∧ t.region r = { q with pwr := .waking } ∧
        (∀ k, k ≠ f → t.fieldPwr k = s.fieldPwr k) ∧ ∀ k, k ≠ r → t.region k = s.region k) ∧
    (∀ slow t0, x.wake = some (r, .waiting, slow, t0) → (26300 < x.current + 4000 ∨ s.risePending = true) → exec (.wakeAdmit f) s = .next s) ∧
    (∀ slow t0, x.wake = some (r, .waiting, slow, t0) → t0 + 50000 ≤ s.clock.tide →
      ∃ t, exec (.wakeAdmitTimeout f) s = .next t ∧ t = { s with fields := t.fields, regions := t.regions, power := t.power } ∧
        t.fieldPwr f = { x with wake := some (r, .ramp, true, s.clock.tide) } ∧ t.region r = { q with pwr := .waking } ∧
        t.power = { s.power with slowWakes := satCount s.power.slowWakes 1 }) ∧
    (∀ slow t0, x.wake = some (r, .ramp, slow, t0) → s.rampPaused f = true → exec (.wakeRampDone f) s = .next s) ∧
    (∀ slow t0, x.wake = some (r, .ramp, slow, t0) → s.rampPaused f = false →
      ∃ t, exec (.wakeRampDone f) s = .next t ∧ s.onlyField t f { x with wake := some (r, .regulate, slow, s.clock.tide) }) ∧
    (∀ slow t0, x.wake = some (r, .regulate, slow, t0) → q.pwr ≠ .waking → exec (.wakeRegulated f) s = .next s) ∧
    (∀ slow t0, x.wake = some (r, .regulate, slow, t0) → q.pwr = .waking →
      ∃ t, exec (.wakeRegulated f) s = .next t ∧
        t = { s with fields := t.fields, regions := t.regions, pans := t.pans, storeMem := t.storeMem } ∧
        t.fieldPwr f = { x with wake := some (r, .fill, slow, s.clock.tide) } ∧
        t.region r = { q with
          pwr := .running, clk := .running, grade := s.clock.grade, level := 0, owedEdges := 0, ran := true, fresh := true } ∧
        (∀ p ∈ regionPans r, (t.pan p).store.fillBusy = true ∧ (t.pan p).store.windows = []) ∧
        ∀ k, k ∉ regionPans r → t.pan k = s.pan k)

/-- Power-on and resets (R397, R398, R471, R502, R503, R505): PWRGD's release begins a cold bring-up at phase 1, held there while RESET_N
is low; its fall stops all work and takes the ports down; a low of 1 µs or more on a reset pin, and a hot reset, begin a warm
bring-up that keeps what the fuses, the flash, the OTP and the host hold, and the THERMTRIP_N latch while VAUX stays in range; one of 500 ns or less does nothing; loss of PLL lock asserts
FATAL_N and stops the device. Each clause concludes that the command completes. -/
def Obligations.PowerAndResets : Prop :=
  ∀ (s : State),
    let after (ok : Bool) (t : State) : State :=
      if ok then t else { t with sec := { t.sec with service := false }, boot := { t.boot with state := .refused } }
    let shown (t : State) : State := if bootStatus t.boot = bootStatus s.boot then t else ibi 0x01 (signalVector 1 t)
    (∀ strap ok kept, strap < 4 →
      let b := bringUp false kept s
      exec (.pwrgdRelease ⟨strap, kept⟩ false ok) s =
        .next (ibi 0x01 (signalVector 1 (after ok { b with boot := { b.boot with strap := strap, heldReset := false } }))) ∧
      exec (.pwrgdRelease ⟨strap, kept⟩ true ok) s =
        .next (ibi 0x01 (signalVector 1 { b with boot := { b.boot with strap := strap, heldReset := true } }))) ∧
    (∀ warm kept, let b := bringUp warm kept s
      b.powered = true ∧ b.boot.state = .inProgress ∧ b.boot.phase = 1 ∧ b.boot.warm = warm ∧ b.boot.fuses = s.boot.fuses ∧
      b.boot.list = s.boot.list ∧ b.boot.strap = s.boot.strap ∧ b.sec.vkd0 = s.sec.vkd0 ∧ b.sec.vkd1 = s.sec.vkd1 ∧
      b.sec.revoke = s.sec.revoke ∧ b.sec.arb = s.sec.arb ∧ b.sec.slot0 = s.sec.slot0 ∧ b.sec.slot1 = s.sec.slot1 ∧
      b.sec.scope = 0 ∧ b.sec.running = none ∧ b.hif.coreRuns = false ∧ b.hostMem = s.hostMem ∧ b.jobs = [] ∧ b.storeMem = [] ∧
      b.brineMem = [] ∧ b.cellarMem = [] ∧ b.clock.tide = 0 ∧ b.faults.thermtripN = (kept && s.faults.thermtripN)) ∧
    (s.powered = true → ∃ t, exec .pwrgdFall s = .next t ∧ t.powered = false ∧ t.net.flight = [] ∧ t.outs = [] ∧ t.boot = s.boot ∧
      t.sec = s.sec ∧ t.faults = s.faults ∧ ∀ n, (t.port n).state = if (s.port n).state = 0 then 0 else 4) ∧
    (s.powered = true → ∃ t, exec .pllLockLoss s = .next t ∧ t.powered = false ∧ t.faults = { s.faults with fatalN := true } ∧
      t.net.flight = [] ∧ t.outs = []) ∧
    (∀ low ok, s.powered = true → low ≤ 500 → s.boot.heldReset = false →
      exec (.perstNAssert low ok) s = .next s ∧ exec (.resetNRelease low ok) s = .next s) ∧
    (∀ low ok, s.powered = true → 1000 ≤ low → s.boot.heldReset = false →
      exec (.perstNAssert low ok) s = .next (shown (after ok (bringUp true true s))) ∧
      exec (.resetNRelease low ok) s = .next (shown (after ok (bringUp true true s))) ∧
      exec (.pcieHotReset ok) s = .next (shown (after ok (bringUp true true s)))) ∧
    (∀ low ok, s.powered = true → s.boot.heldReset = true →
      exec (.resetNRelease low ok) s = .next (shown (after ok { s with boot := { s.boot with heldReset := false } })) ∧
      exec (.pcieHotReset ok) s = .next s)

/-- Firmware comes up (R417, R476 to R478): the eligible slot of the higher H_SVN, then the higher H_BUILD, then slot 0 is selected;
a body that matches its digest runs, and one that does not fails its slot for the other; with none left firmware is refused; the
port answers a configuration request with Configuration Request Retry before phase 2 ends, and later with the space of R420, its identities among them (at
the places of log 97); after READY the image's ARB and KEY_REVOKE bits are committed. Each
clause concludes that the command completes. -/
def Obligations.FirmwareComesUp : Prop :=
  ∀ (s : State), s.powered = true →
    let shown (t : State) : State := if bootStatus t.boot = bootStatus s.boot then t else ibi 0x01 (signalVector 1 t)
    let fits (k : Nat) : Prop := k ∉ s.sec.failed ∧ ∃ im, s.fwSlot k = some im ∧ s.eligible im = true
    let selecting := s.boot.state = .inProgress ∧ s.boot.heldReset = false ∧ s.boot.phase = 1
    let selected (k : Nat) : State := { s with sec := { s.sec with chosen := some k }, boot := { s.boot with phase := 2 } }
    (∀ a b, selecting → fits 0 → fits 1 → s.sec.slot0 = some a → s.sec.slot1 = some b →
      exec .firmwareSelect s = .next (shown (selected (if a.svn < b.svn ∨ (a.svn = b.svn ∧ a.build < b.build) then 1 else 0)))) ∧
    (selecting → fits 0 → ¬ fits 1 → exec .firmwareSelect s = .next (shown (selected 0))) ∧
    (selecting → ¬ fits 0 → fits 1 → exec .firmwareSelect s = .next (shown (selected 1))) ∧
    (selecting → ¬ fits 0 → ¬ fits 1 → exec .firmwareSelect s = .next (shown { s with
      sec := { s.sec with chosen := none }, boot := { s.boot with phase := 2, state := .refused } })) ∧
    (∀ k im, s.boot.state = .inProgress → s.boot.phase = 2 → s.sec.chosen = some k → s.fwSlot k = some im →
      (im.bodyDigest = im.headDigest → exec .firmwareBodyCheck s = .next (shown { s with
        sec := { s.sec with running := some k }, hif := { s.hif with coreRuns := true }, boot := { s.boot with phase := 3 } })) ∧
      (im.bodyDigest ≠ im.headDigest → k < 2 → fits (1 - k) → exec .firmwareBodyCheck s = .next { s with
        sec := { s.sec with failed := addOnce k s.sec.failed, chosen := some (1 - k) } }) ∧
      (im.bodyDigest ≠ im.headDigest → k < 2 → ¬ fits (1 - k) → exec .firmwareBodyCheck s = .next (shown { s with
        sec := { s.sec with failed := addOnce k s.sec.failed, chosen := none }, boot := { s.boot with state := .refused } }))) ∧
    ((s.boot.phase = 1 ∨ s.boot.phase = 2) → exec .configRequestRetry s =
      .next { s with hif := { s.hif with configRetries := s.hif.configRetries + 1 } }) ∧
    (s.boot.phase ≠ 1 → s.boot.phase ≠ 2 → exec .configRequestRetry s =
      .next { s with hif := { s.hif with configReads := s.hif.configReads ++ s.hif.configDwords } }) ∧
    (∀ d ∈ [(0x00, s.hif.config.device * 65536 + s.hif.config.vendor), (0x08, s.hif.config.classCode * 256 + s.hif.config.revision),
      (0x80, 0x11 + field (s.hif.config.msixVectors - 1) 11 16 + flag s.hif.functionMask 30 + flag s.hif.msixEnable 31)],
      d ∈ s.hif.configDwords) ∧
    (∀ k im, s.boot.state = .ready → s.boot.commitDue = true → s.sec.running = some k → s.fwSlot k = some im →
      exec .arbCommit s = .next { s with
        sec := { s.sec with
          arb := if im.arbCommit then max s.sec.arb im.svn else s.sec.arb
          revoke := if im.revokeOther = true ∧ bit s.sec.revoke (1 - im.keySlot) = false then s.sec.revoke + 2 ^ (1 - im.keySlot)
                    else s.sec.revoke }
        boot := { s.boot with commitDue := false } }) ∧
    ((s.boot.state ≠ .ready ∨ s.boot.commitDue = false) → exec .arbCommit s = .next s)

/-- The assay and its repairs (R24, R196, R401, R403 to R410): the factory map's and the record's checks are found; the list is
verified and the cellar begins to train; the assay's marks join the list's; the update numbers the epoch, appends its records and puts
the repairs in force; channels and slices come up with zeros once filled; a field whose idle reserve fails has its reserve marked
failed. Each clause concludes that the command completes. -/
def Obligations.AssayAndRepairs : Prop :=
  ∀ (s : State), s.powered = true →
    let at_ (k : Nat) : Prop := s.boot.state = .inProgress ∧ s.boot.phase = k
    (∀ record : List Byte, at_ 3 → (record.length = 64 ∨ record = []) →
      let flash := if record = [] then s.boot.bcrFlash else record
      let b := parseBcr flash
      exec (.factoryMapCheck record) s = .next { s with boot := { s.boot with
        bcrFlash := flash
        bcr := if b.good then b else { good := false, sites := 0 }
        found := flag (s.boot.fuses.stepping != 0xA1 || !fuseDigestOk s.boot.fuses) 0 + flag (!b.good) 1 } }) ∧
    (∀ rs : List AssayRecord, let l := chainRecords listTag 0 rs
      tagChain listTag 0 l = (l, false) ∧ l.map assayBody = rs.map assayBody) ∧
    (∀ torn : List Nat, at_ 3 → ∃ t, exec (.assayListCheck torn) s = .next t ∧
      let l := tearRecords torn s.boot.list
      let c := tagChain listTag 0 l
      t.boot = { s.boot with list := l, verified := c.1, listUsed := l.length, phase := 4, found := s.boot.found + flag c.2 2 } ∧
      t.memdev.sites = s.boot.bcr.sites ∧ t.memdev.capacity = s.boot.bcr.capacity ∧ t.pans = s.pans ∧ t.sec = s.sec ∧
      ∀ ch, ch < 96 → (t.chan ch).mode = if bit s.boot.bcr.sites (ch / 4) then .training else .unpopulated) ∧
    (∀ found : AssayFound, (at_ 4 ∨ at_ 5) → ∃ t, exec (.assayComplete found) s = .next t ∧ t.boot.phase = 6 ∧
      t.boot.bad = unitsOnce (fuseMarks s.boot.fuses ++ defects s.boot.verified ++ found.bad) ∧ t.boot.badOsc = found.oscillators ∧
      t.boot.badChain = found.chains ∧ t.boot.repairs = found.repairs ∧ t.boot.list = s.boot.list ∧ t.pans = s.pans ∧
      ∀ ch c, (ch, c) ∈ t.chans → ∃ d, (ch, d) ∈ s.chans ∧
        c = if listed found.bad 9 ch then { d with mode := .failed } else d) ∧
    (at_ 6 →
      let routers := badRouters s.boot.bad
      ∃ t, exec .assayListUpdate s = .next t ∧ t.boot.phase = 8 ∧
        t.boot.epoch = (match (s.boot.verified.filter fun r => r.type == 1).getLast? with | some r => r.epoch + 1 | none => 1) ∧
        (s.boot.list.length + s.boot.fresh.length + 1 ≤ 16384 →
          t.boot.list.length = s.boot.list.length + s.boot.fresh.length + 1 ∧ s.boot.list <+: t.boot.list ∧ t.boot.listUsed = t.boot.list.length) ∧
        (16384 < s.boot.list.length + s.boot.fresh.length + 1 → t.boot.list = s.boot.list) ∧
        t.memdev.n = ((List.range 1620).filter fun i => !badSlice s.boot.bad routers i).length ∧
        (∀ i, i < 1620 → (t.slice i).mode = if badSlice s.boot.bad routers i then .bad else .filling) ∧
        (∀ f, f < 12 → t.topoOf f = assayTopo (fun py => goodRegion (s.boot.badOsc ++ s.boot.badChain) s.boot.bad routers (9 * f + py))
          (fun i => !badPosition s.boot.bad routers (135 * f + i))) ∧
        t.hif.journal = s.hif.journal ∧ t.clock = s.clock ∧ t.storeMem = s.storeMem) ∧
    (∀ ch, ch < 96 → (s.chan ch).mode = .training → s.boot.state = .inProgress → ∃ t, exec (.cellarAssayPass ch) s = .next t ∧
      (t.chan ch).mode = .filling ∧ t.memdev.cellarFill = true ∧ t.boot.phase = (if s.boot.phase = 4 then 5 else s.boot.phase) ∧ ∀ k, k ≠ ch → t.chan k = s.chan k) ∧
    (∀ ch, ch < 96 → ((s.chan ch).mode ≠ .training ∨ s.boot.state ≠ .inProgress) → exec (.cellarAssayPass ch) s = .next s) ∧
    (s.memdev.cellarFill = true → ∃ t, exec .cellarFillDone s = .next t ∧ t.memdev.cellarFill = false ∧ t.cellarMem = [] ∧
      ∀ ch c, (ch, c) ∈ t.chans → c.mode ≠ .filling) ∧
    (s.memdev.brineFill = true → s.boot.phase ≠ 8 → ∃ t, exec .brineFillDone s = .next t ∧ t.memdev.brineFill = false ∧ t.brineMem = [] ∧
      t.fin = s.fin ∧ ∀ i x, (i, x) ∈ t.slices → x.mode ≠ .filling) ∧
    (s.memdev.brineFill = true → at_ 8 → (∀ e ∈ s.fields, e.2.wake = none) → ∃ t, exec .brineFillDone s = .next t ∧ t.boot.phase = 9 ∧
      ∀ n, n < 16 → if s.expectedPort n = true ∧ (s.port n).enable = true then
        (t.port n).state = 1 ∧ (t.port n).trainFrom = some s.clock.tide else t.port n = s.port n) ∧
    (s.memdev.brineFill = true → at_ 8 → (∃ e ∈ s.fields, e.2.wake ≠ none) → ∃ t, exec .brineFillDone s = .next t ∧ t.boot = s.boot ∧
      t.fin = s.fin) ∧
    (∀ f, f < 12 → (s.topoOf f).resState = 0 → (s.topoOf f).resRow < 9 →
      ∃ t, exec (.idleReserveFail f) s = .next t ∧ (t.topoOf f).resState = 3 ∧ (t.topoOf f).resCarried = 0 ∧
        (t.region (9 * f + (s.topoOf f).resRow)).fenced = true ∧ (t.region (9 * f + (s.topoOf f).resRow)).pwr = .gated ∧
        ∀ r, r ≠ 9 * f + (s.topoOf f).resRow → t.region r = s.region r) ∧
    (∀ f, f < 12 → (s.topoOf f).resState ≠ 0 → exec (.idleReserveFail f) s = .next s)

/-- Ports and topology agreement (R411 to R415, R418, R441): a port with eight good lanes comes up with its implied peer and is put
down with another; a peer that does not answer within 2 s puts its port down; when every condition of R413 holds the device is READY,
otherwise NOT_READY with the causes in the difference record; identity and tide are set, and doorbells are taken. Each clause
concludes that the command completes. -/
def Obligations.PortsAndTopologyAgreement : Prop :=
  ∀ (s : State), s.powered = true →
    (∀ n good dev port, n < 16 → port < 16 → dev < 8192 → 8 ≤ good → ((s.port n).state = 1 ∨ (s.port n).state = 4) →
      15 ∉ (s.port n).laneMap →
      (s.peerOk n dev port = true → ∃ t, exec (.portTrained n good dev port) s = .next t ∧ s.onlyPort t n (trained dev port true (s.port n))) ∧
      (s.peerOk n dev port = false → ∃ t, exec (.portTrained n good dev port) s = .next t ∧ (t.port n).state = 4 ∧
        (t.port n).peer = some (dev, port) ∧ bit t.boot.found 8 = true ∧ ∀ k, k ≠ n → t.port k = s.port k)) ∧
    (∀ n good dev port, n < 16 → port < 16 → dev < 8192 → good < 8 → exec (.portTrained n good dev port) s = .next s) ∧
    (∀ n t0, n < 16 → (s.port n).state = 1 → (s.port n).trainFrom = some t0 →
      (t0 + 2000000000 ≤ s.clock.tide → ∃ t, exec (.peerTimeout n) s = .next t ∧ (t.port n).state = 4 ∧ bit t.boot.found 8 = true ∧
        ∀ k, k ≠ n → t.port k = s.port k) ∧
      (s.clock.tide < t0 + 2000000000 → exec (.peerTimeout n) s = .next s)) ∧
    (∀ n, n < 16 → (s.port n).state ≠ 1 → exec (.peerTimeout n) s = .next s) ∧
    (∀ (found : Discovery) host parent, s.boot.state = .inProgress → s.boot.phase = 9 → s.hif.heldBells = [] →
      let diff := (3, s.diffFields) :: (4, s.diffRouters ++ s.diffProbe found) :: (5, s.diffDomains) :: (6, s.diffLanes) :: (7, s.diffCellar found.densities) ::
        (8, s.diffPeers) :: []
      let noPan := found.pans.any fun l => (s.panPos l).isSome
      let cause := sumNat (diff.map fun g => flag (!g.2.isEmpty || (g.1 == 4 && noPan)) g.1) + (s.boot.found % 8 + flag (bit s.boot.found 9) 9)
      ∃ t, exec (.topologyAgreement found host parent) s = .next t ∧ t.boot.phase = 10 ∧ t.hif.taking = true ∧
        t.svc.ident = (if s.svc.homeId = 8191 then none else some s.svc.homeId) ∧
        (s.memdev.cellarFill = false → (∀ e ∈ s.chans, e.2.mode ≠ .training ∧ e.2.mode ≠ .filling) →
          (cause = 0 → t.boot.state = .ready ∧ t.boot.diff = s.boot.diff) ∧
          (cause % 512 ≠ 0 → t.boot.state = .notReady ∧
            t.boot.diff = { cause := cause, epoch := s.boot.epoch, entries := (diff.map (·.2)).flatten }))) ∧
    (∀ (found : Discovery) host parent, s.boot.state ≠ .inProgress → exec (.topologyAgreement found host parent) s = .next s)

/-- Jobs are loaded, created and placed (R317, R320 to R323, R443): an image that passes its checks is kept and its payloads stand
in the job's cellar bytes, one that fails leaves the job CREATED without it; a job is granted the lowest free regions in the lowest
free slot; and PLACE puts tensors, groups and collective slots in place, loads each region's first share and writes the report.
Each clause concludes that the command completes. -/
def Obligations.JobsAreCreatedAndPlaced : Prop :=
  ∀ (s : State) (c : Cmd),
    (∀ buf im x, s.performs c 0x01 → imageOk im = true → buf.addr % 4096 = 0 → buf.cause = 0 → c.job < 16 → s.job? c.job = some x →
      x.mode = .created → x.image = none →
      (∀ ls t, imageFault im = none → stagePayloads c.job (x.cellarMib * 2 ^ 20) (staged im) (journalled c 0x01 s) = some (ls, t) →
        exec (.imageLoad c buf im) s =
          .next (finish c 0x01 0 0 (digestWords im.digest) (t.setJob c.job { x with image := some im, cellar := ls }))) ∧
      (∀ st, imageFault im = some st → exec (.imageLoad c buf im) s = .next (finish c 0x01 st 0 [] (journalled c 0x01 s)))) ∧
    (∀ n id brine cellar lead j, s.performs c 0x02 → 1 ≤ n → n ≤ 96 → id < 2 ^ 32 → brine < 2 ^ 32 → cellar < 2 ^ 32 → lead < 8192 →
      (if c.job = 255 then j < 16 ∧ s.job? j = none ∧ ∀ i, i < j → s.job? i ≠ none else j = c.job ∧ s.job? j = none) →
      n ≤ s.freeRegions.length →
      sumNat (s.jobs.map fun e => e.2.brineMib) + brine ≤ 32 * s.memdev.n →
      (sumNat (s.jobs.map fun e => e.2.cellarMib) + cellar) * 2 ^ 20 ≤ s.cellarUsable →
      let m := maskOf (s.freeRegions.take n)
      exec (.jobCreate c n id brine cellar lead) s =
        .next (finish { c with job := j } 0x02 0 j [m % 2 ^ 32, (m >>> 32) % 2 ^ 32, (m >>> 64) % 2 ^ 32]
          ((journalled c 0x02 s).setJob j
            { mode := .created, regions := s.freeRegions.take n, jobId := id, brineMib := brine, cellarMib := cellar, lead := lead
              retain := bit c.flags 0, created := s.now, chargedTo := s.now, jrt := List.replicate n 1 }))) ∧
    (∀ seed rpt im x0 ps t, s.performs c 0x03 → seed < 2 ^ 64 → rpt.addr % 64 = 0 → rpt.cause = 0 → c.job < 16 →
      s.job? c.job = some x0 → x0.mode = .created → x0.image = some im →
      let x := x0.freshPlacement (journalled c 0x03 s) seed rpt
      (x.jrt.any fun v => v == 1) = true →
      placeTensors c.job x ((staged im).zip x.cellar |>.map fun e => (e.1.1, e.2.base / 2 ^ 21)) im.tensors.zipIdx
        (journalled c 0x03 s) = some (ps, t) →
      t.brineUsed c.job ≤ x.brineMib * 2 ^ 20 →
      let gs := ((im.groups.map fun g => t.groupsFor c.job x g).flatten).map (·.1)
      gs.length ≤ (t.freeGroups x).length → t.slotsFree im.collectives = true →
      let y := { x with mode := .placed, placed := ps, groups := (t.freeGroups x).take gs.length, slots := im.collectives.map (·.rid) }
      let v := (writeTables c.job y gs im.collectives (writeReqs im ps (writePayloads im ps t))).setJob c.job y
      (v.reportBytes c.job y).length ≤ rpt.len →
      exec (.place c seed rpt) s = .next (finish c 0x03 0 (v.reportEntries y).length [] (writeReport c.job (loadFirst y v)))) ∧
    (∀ seed rpt, s.performs c 0x03 → seed < 2 ^ 64 → rpt.addr % 64 = 0 → c.job < 16 → s.job? c.job = none →
      exec (.place c seed rpt) s = .next (finish c 0x03 0x05 0 [] (journalled c 0x03 s)))

/-- Orders and ends of a job (R342, R344, R345, R347, R431, R438, R445): RUN, STEP and RESUME take force and begin their first
step; KILL acts at once on a job that is not replaying, waits for the phase of a replay and for the step in flight when GRACEFUL, and releases the residue of a
job that is ENDING; DUMP reads a retained job's tally ring. A state that does not allow the command is answered BAD_STATE, and a
command whose turn among the job's has not come, or that its slot does not name, waits. Each
clause concludes that the command completes. -/
def Obligations.OrdersAndEndsOfJobs : Prop :=
  ∀ (s : State) (c : Cmd) (x : Job), c.job < 16 → s.job? c.job = some x →
    let u (op : Nat) : State := journalled c op s
    let idle := x.mode = .placed ∨ (x.mode = .running ∧ x.inFlight = false ∧ x.order = none)
    let order (op : Nat) (left : Option Nat) (step : Nat) : State :=
      beginStep c.job step ((u op).setJob c.job { x with order := some (c.tag, op, left) })
    (∀ first count, s.performs c 0x04 → first < 2 ^ 32 → count < 2 ^ 32 → idle →
      exec (.run c first count) s = .next (order 0x04 (if count = 0 then none else some count) first)) ∧
    (∀ n, s.performs c 0x05 → n < 2 ^ 32 → idle → exec (.step c n) s = .next (order 0x05 (some 1) n)) ∧
    (∀ n, s.performs c 0x16 → n < 2 ^ 32 → x.mode = .held → exec (.resume c n) s = .next (order 0x16 (some 1) n)) ∧
    (∀ n, s.performs c 0x05 → n < 2 ^ 32 → ¬ idle → exec (.step c n) s = .next (finish c 0x05 0x05 0 [] (u 0x05))) ∧
    (∀ n, s.performs c 0x16 → n < 2 ^ 32 → x.mode ≠ .held → exec (.resume c n) s = .next (finish c 0x16 0x05 0 [] (u 0x16))) ∧
    (s.performs c 0x06 → x.mode ≠ .ending → x.replay = none → (bit c.flags 0 = false ∨ x.inFlight = false) →
      let reason := if x.mode = .held then 9 else if bit c.flags 0 then 0 else 1
      exec (.kill c) s = .next (finish c 0x06 0 (if x.inFlight then 1 else 0) [] (endJob c.job reason 0 c.tag (u 0x06)))) ∧
    (s.performs c 0x06 → x.mode ≠ .ending → bit c.flags 0 = true → x.inFlight = true → x.killed = none →
      exec (.kill c) s = .next ((u 0x06).setJob c.job { x with killed := some (c.tag, true) })) ∧
    (∀ r, s.performs c 0x06 → x.mode ≠ .ending → (bit c.flags 0 = false ∨ x.inFlight = false) → x.replay = some r → r.phase ≤ 6 →
      x.killed = none → exec (.kill c) s = .next ((u 0x06).setJob c.job { x with killed := some (c.tag, false) })) ∧
    (∀ n, n < 2 ^ 32 → (s.inTurn c 0x05 = false ∨ s.rung c 0x05 = false) → exec (.step c n) s = .next s) ∧
    (s.performs c 0x06 → x.mode = .ending → x.retain = true → x.released = false →
      exec (.kill c) s = .next (finish c 0x06 0 0 []
        ((u 0x06).setJob c.job { x with released := true, ending := x.ending.map fun e => (e.1, e.2.1, c.tag), endingOp := 0x06 }))) ∧
    (∀ off buf, s.performs c 0x07 → x.retain = true → x.mode = .ending → x.released = false → off + buf.len ≤ 2048 →
      buf.addr % 64 = 0 → buf.addr < 2 ^ 64 → buf.cause = 0 →
      let bs := ((tallyRing c.job x).drop off).take buf.len
      exec (.dump c 2 0 off buf) s = .next (finish c 0x07 0 bs.length []
        (releaseResidue c { u 0x07 with hostMem := writeBytes s.hostMem buf.addr bs }))) ∧
    (∀ area index off buf, s.performs c 0x07 → area < 2 ^ 32 → index < 2 ^ 32 → off < 2 ^ 64 → buf.len < 2 ^ 32 → buf.addr < 2 ^ 64 →
      x.retain = false → exec (.dump c area index off buf) s = .next (finish c 0x07 0x10 0 [] (u 0x07)))

/-- Lots on request (R446): LOT_ALLOC takes brine or cellar bytes of the job's own and answers their address; what would exceed them
completes with NO_MEMORY; LOT_FREE zeroises a lot that LOT_ALLOC gave before it completes, and answers BAD_STATE for one the placer
gave. Each clause concludes that the command completes. -/
def Obligations.LotsOnRequest : Prop :=
  ∀ (s : State) (c : Cmd) (x : Job), c.job < 16 → s.job? c.job = some x →
    (x.mode = .created ∨ x.mode = .placed ∨ x.mode = .running) →
    let u (op : Nat) : State := journalled c op s
    (∀ mib l t, s.performs c 0x08 → 0 < mib → mib < 2 ^ 32 → allocEven c.job (mib * 2 ^ 20) (u 0x08) = some (l, t) →
      exec (.lotAlloc c 2 mib) s = .next (if t.brineUsed c.job ≤ x.brineMib * 2 ^ 20 then
        finish c 0x08 0 l (words64 (mkAddr s.deviceId 1 (l * 2 ^ 36))) (t.modMem fun d => { d with allocated := insertRising l d.allocated })
      else finish c 0x08 0x08 0 [] (u 0x08))) ∧
    (∀ mib l t, s.performs c 0x08 → 0 < mib → mib < 2 ^ 32 → allocCellar c.job (mib * 2 ^ 20) (u 0x08) = some (l, t) →
      exec (.lotAlloc c 3 mib) s = .next (if t.cellarUsed c.job ≤ x.cellarMib * 2 ^ 20 then
        finish c 0x08 0 0 (words64 (mkAddr s.deviceId 2 l.base)) t
      else finish c 0x08 0x08 0 [] (u 0x08))) ∧
    (∀ kind mib, s.performs c 0x08 → kind < 2 ^ 32 → mib < 2 ^ 32 → kind ≠ 2 → kind ≠ 3 →
      exec (.lotAlloc c kind mib) s = .next (finish c 0x08 0x02 0x10 [] (u 0x08))) ∧
    (∀ l e, s.performs c 0x09 → l < 2 ^ 11 → s.deviceId < 2 ^ 13 → s.lot? l = some e → e.job = c.job →
      exec (.lotFree c (mkAddr s.deviceId 1 (l * 2 ^ 36))) s = .next (if l ∈ s.memdev.allocated
        then finish c 0x09 0 0 [] (freeLot l (zeroLot e (u 0x09))) else finish c 0x09 0x05 0 [] (u 0x09))) ∧
    (∀ base l, s.performs c 0x09 → base < 2 ^ 48 → s.deviceId < 2 ^ 13 →
      (s.memdev.cellarLots.find? fun l => l.base == base && l.job == c.job) = some l → l ∉ x.cellar →
      exec (.lotFree c (mkAddr s.deviceId 2 base)) s = .next (finish c 0x09 0 0 []
        ((zeroCellar l (u 0x09)).modMem fun d => { d with cellarLots := d.cellarLots.filter fun e => e != l })))

/-- Power policy, budgets, energy and the difference record (R386, R390, R394, R414, R439): the host's limit, window and highest
grade take effect at the next evaluation; BUDGET_JOIN makes the device a member with its bounds, as keeper sends the limits, and a
second join fails unless it names another keeper for the same group (log 122); leaving gives the host's limit back; ENERGY_QUERY answers the job's energy record; ASSAY_REPORT writes the latest
difference record. Each clause concludes that the command completes. -/
def Obligations.PolicyBudgetEnergyAndAssay : Prop :=
  ∀ (s : State) (c : Cmd),
    let u (op : Nat) : State := journalled c op s
    (∀ limit window grade, s.performs c 0x0A → 2500 ≤ limit → limit ≤ 5500 → 500 ≤ window → window ≤ 8000 → grade ≤ 15 →
      exec (.powerPolicy c limit window grade) s = .next (finish c 0x0A 0 0 [] { u 0x0A with power :=
        { s.power with hostLimit := limit, window := window, gradeMax := grade
                       samples := if window = s.power.window then s.power.samples else []
                       newLimit := if s.power.budget.joined then s.power.newLimit else some limit } })) ∧
    (∀ limit window grade, s.performs c 0x0A → limit < 2500 ∨ 5500 < limit → limit < 2 ^ 32 → window < 2 ^ 32 → grade < 2 ^ 32 →
      exec (.powerPolicy c limit window grade) s = .next (finish c 0x0A 0x02 0x10 [] (u 0x0A))) ∧
    (∀ group total keeper buf ms, s.performs c 0x0B → bit c.flags 0 = false → group < 65536 → keeper < 8192 → total < 2 ^ 32 →
      2 ≤ ms.length → ms.length < 8192 → buf.len = ms.length → buf.addr % 64 = 0 → buf.cause = 0 → s.membersOk ms = true →
      sumNat (ms.map (·.lower)) ≤ total → total ≤ sumNat (ms.map (·.upper)) → (∃ m ∈ ms, m.device = keeper) →
      (s.power.budget.joined = true → (s.power.budget.group ≠ group ∨ s.power.budget.keeperId = keeper) →
        exec (.budgetJoin c group total keeper buf ms) s = .next (finish c 0x0B 0x11 0 [] (u 0x0B))) ∧
      (s.power.budget.joined = false ∨ (s.power.budget.group = group ∧ s.power.budget.keeperId ≠ keeper) →
        let lims := joinLimits total ms
        let own := limitOf lims s.deviceId
        let v : State := { u 0x0B with power := { s.power with budget :=
          { s.power.budget with
            joined := true, keeper := keeper == s.deviceId, keeperId := keeper, group := group, total := total
            members := if keeper == s.deviceId then lims else [], reports := [], lower := own.1, upper := own.2.1, slack := 0, idle := 0 } } }
        exec (.budgetJoin c group total keeper buf ms) s =
          .next (finish c 0x0B 0 0 [] (if keeper = s.deviceId then sendLimits lims v else v)))) ∧
    (∀ group total keeper buf ms, s.performs c 0x0B → bit c.flags 0 = true → group < 2 ^ 32 → total < 2 ^ 32 → keeper < 2 ^ 32 →
      ms.length = buf.len → buf.len < 2 ^ 32 → s.power.budget.joined = true →
      exec (.budgetJoin c group total keeper buf ms) s = .next (finish c 0x0B 0 0 [] { u 0x0B with power :=
        { s.power with newLimit := some s.power.hostLimit
                       budget := { seq := s.power.budget.seq, sent := s.power.budget.sent } } })) ∧
    (∀ x, s.performs c 0x0C → c.job < 16 → s.job? c.job = some x →
      exec (.energyQuery c) s = .next (finish c 0x0C 0 0 (energyRecord 2 c.job x) (u 0x0C))) ∧
    (s.performs c 0x0C → (c.job = 255 ∨ s.job? c.job = none) →
      exec (.energyQuery c) s = .next (finish c 0x0C 0x05 0 [] (u 0x0C))) ∧
    (∀ buf, s.performs c 0x10 → buf.addr % 64 = 0 → buf.cause = 0 →
      let bs := diffBytes s.boot.diff
      exec (.assayReport c buf) s = .next (if buf.len < bs.length then finish c 0x10 0x15 bs.length [] (u 0x10)
        else finish c 0x10 0 bs.length [] { u 0x10 with hostMem := writeBytes s.hostMem buf.addr bs }))

/-- What the keeper assigns at join sums to the total, within every member's bounds (R390). -/
def Obligations.JoinLimitsSumToTheTotal : Prop :=
  ∀ (total : Nat) (ms : List BudgetMember),
    (∀ m ∈ ms, m.lower ≤ m.upper ∧ m.upper ≤ m.lower + 3000) → sumNat (ms.map (·.lower)) ≤ total → total ≤ sumNat (ms.map (·.upper)) →
    let lims := joinLimits total ms
    sumNat (lims.map fun m => m.2.2.2) = total ∧
    (∀ m ∈ lims, m.2.1 ≤ m.2.2.2 ∧ m.2.2.2 ≤ m.2.2.1) ∧
    (lims.map fun m => (m.1, m.2.1, m.2.2.1)).Perm (ms.map fun m => (m.device, m.lower, m.upper))

/-- Aliases, firmware updates and attestation (R290, R476, R479, R482, R488): ALIAS_SET binds ids to other positions and marks the
positions they left; FW_UPDATE writes an eligible image whole into the slot the running image does not occupy, and with AUTH leaves
the flash unchanged; ATTEST writes the response with its signature, and answers AUTH when the entropy source has failed. Each
clause concludes that the command completes. -/
def Obligations.AliasesUpdatesAndAttestation : Prop :=
  ∀ (s : State) (c : Cmd) (buf : HostBuf), buf.addr % 64 = 0 → buf.cause = 0 →
    let u (op : Nat) : State := journalled c op s
    (∀ table, s.performs c 0x11 → table.length ≤ 64 → (∀ w ∈ table, w < 2 ^ 32) → table.all s.aliasOk = true →
      exec (.aliasSet c buf table) s = .next (finish c 0x11 0 0 []
        (foldState table.zipIdx (fun t e => takeAlias (if bit c.flags 0 then u 0x11 else t) e.2 e.1 t)
          (if bit c.flags 0 then clearAliases (u 0x11) else u 0x11)))) ∧
    (∀ table w, s.performs c 0x11 → table.length ≤ 64 → (∀ w ∈ table, w < 2 ^ 32) → w ∈ table → s.aliasOk w = false →
      exec (.aliasSet c buf table) s = .next (finish c 0x11 0x02 0x18 [] (u 0x11))) ∧
    (∀ im, s.performs c 0x12 → buf.len ≤ 12582912 → (u 0x12).fwBusy c.tag = false →
      let good := s.sec.service = true ∧ s.eligible im = true ∧ im.bodyDigest = im.headDigest
      (good → s.sec.running = some 0 → exec (.fwUpdate c buf im) s =
        .next (finish c 0x12 0 1 [] { u 0x12 with sec := { s.sec with slot1 := some im } })) ∧
      (good → s.sec.running = some 1 → exec (.fwUpdate c buf im) s =
        .next (finish c 0x12 0 0 [] { u 0x12 with sec := { s.sec with slot0 := some im } })) ∧
      (¬ good → exec (.fwUpdate c buf im) s = .next (finish c 0x12 0x13 0 [] (u 0x12)))) ∧
    (∀ nonce, s.performs c 0x13 → nonce < 2 ^ 256 →
      (buf.len < 50304 → exec (.attest c nonce buf) s = .next (finish c 0x13 0x15 50304 [] (u 0x13))) ∧
      (50304 ≤ buf.len → s.sec.entropyFailed = true → exec (.attest c nonce buf) s = .next (finish c 0x13 0x13 0 [] (u 0x13))) ∧
      (50304 ≤ buf.len → s.sec.entropyFailed = false → s.sec.service = true →
        let bs := s.attestation nonce ++ leBytes (Config.signature s.sec.signed) 49856
        exec (.attest c nonce buf) s = .next (finish c 0x13 0 bs.length []
          { u 0x13 with sec := { s.sec with signed := s.sec.signed + 1 }, hostMem := writeBytes s.hostMem buf.addr bs })))

/-- Transfers, atomics and tags (R430 to R432, R442, R444, R448): TRANSFER waits for or takes an idle channel; ATOMIC takes the next
number of channel 14 and is sent, again every 1 ms while refused and ends with ATOMIC_BUSY after 20 ms; TAG_QUERY answers for each
tag; a doorbell journals the slot's command, a repeated tag with another digest is TAG_REUSE, a busy slot's doorbell is ignored and
counted, and one rung during bring-up is held. Each clause concludes that the command completes. -/
def Obligations.TransfersAtomicsAndTags : Prop :=
  ∀ (s : State) (c : Cmd),
    let u (op : Nat) : State := journalled c op s
    (∀ src dst count ctrl vector, s.performs c 0x14 → src < 2 ^ 64 → dst < 2 ^ 64 → count < 2 ^ 32 → ctrl % 2 ^ 22 = 0 → ctrl < 2 ^ 26 →
      (vector = 0 ∨ (16 ≤ vector ∧ vector ≤ 255)) →
      exec (.transfer c src dst count ctrl vector) s = .next (haulAfter ((u 0x14).modHif fun h =>
        { h with transfers := h.transfers ++
                   [{ tag := c.tag, src := src, dst := dst, count := count, modes := ctrl / 2 ^ 22, vector := vector }] }))) ∧
    (∀ addr aop (w64 : Bool) a b, s.performs c 0x15 → addr < 2 ^ 64 → 1 ≤ aop → aop ≤ 7 → ¬ (aop = 3 ∧ w64 = true) → a < 2 ^ 64 → b < 2 ^ 32 →
      let n := look 0 s.svc.aseq 14
      let w : AtomicWait :=
        { tag := c.tag, job := c.job, addr := addr, aop := aop, w64 := w64, a := a, b := b, aseq := n, first := s.now, sent := s.now }
      exec (.atomicCmd c addr aop (if w64 then 2 ^ 27 else 0) a b) s = .next (sendAtomic w { u 0x15 with
        svc := { s.svc with aseq := put 14 ((n + 1) % 2 ^ 24) s.svc.aseq }
        hif := { (u 0x15).hif with atomics := s.hif.atomics ++ [w] } })) ∧
    (∀ addr aop low a b, s.performs c 0x15 → addr < 2 ^ 64 → aop < 16 → low < 2 ^ 28 → a < 2 ^ 64 → b < 2 ^ 32 →
      (aop = 0 ∨ 7 < aop ∨ (aop = 3 ∧ bit low 27 = true) ∨ low % 2 ^ 27 ≠ 0) →
      exec (.atomicCmd c addr aop low a b) s = .next (finish c 0x15 0x02 0x18 [] (u 0x15))) ∧
    (s.powered = true → s.hif.atomics = [] → exec .atomicRetry s = .next s) ∧
    (∀ w, s.powered = true → s.hif.atomics = [w] →
      let v : State := { s with outs := s.outs.map fun o => if o.who == Requester.atomic && o.off == w.aseq then { o with who := .expired } else o }
      (s.now < w.sent + 1000000 → exec .atomicRetry s = .next s) ∧
      (w.sent + 1000000 ≤ s.now → s.now < w.first + 20000000 → exec .atomicRetry s =
        .next (sendAtomic w { v with hif := { s.hif with atomics := [{ w with sent := s.now }] } })) ∧
      (w.sent + 1000000 ≤ s.now → w.first + 20000000 ≤ s.now → w.refused = true →
        exec .atomicRetry s = .next (atomicDone w 0x16 0 [] v))) ∧
    (∀ tags, s.performs c 0x17 → tags ≠ [] → tags.length ≤ 28 → (∀ t ∈ tags, t < 2 ^ 64) →
      exec (.tagQuery c tags) s = .next (finish c 0x17 0 tags.length [] (foldState tags (fun t g => queryTag g t) (u 0x17)))) ∧
    (∀ slot, s.powered = true → slot < 64 →
      (slot ∈ s.hif.busy → exec (.doorbell slot) s =
        .next { s with hif := { s.hif with doorbellIgnored := satCount s.hif.doorbellIgnored 1 } }) ∧
      (slot ∉ s.hif.busy → s.boot.state = .inProgress → exec (.doorbell slot) s =
        .next { s with hif := { s.hif with busy := insertRising slot s.hif.busy, heldBells := s.hif.heldBells ++ [slot] } }) ∧
      (slot ∉ s.hif.busy → s.boot.state = .ready → s.hif.taking = true → s.hif.heldEntries.length < 4096 → s.hif.coreRuns = true →
        let bs := readBytes s.slotMem (256 * slot) 256
        let w (o n : Nat) : Nat := leNat ((bs.drop o).take n)
        let tag := w 8 8
        (∀ j ∈ s.hif.journal, j.tag ≠ tag) → (∀ e ∈ s.hif.completed, e.1 ≠ tag) →
        let op := bits (w 0 4) 31 24
        let job := bits (w 0 4) 23 16
        let v : State := { s with hif := { s.hif with
          journal := s.hif.journal ++ [{ tag := tag, digest := slotDigest bs, opcode := op, job := job }] } }
        exec (.doorbell slot) s = .next (if op = 0 ∨ 0x17 < op then finishTag tag (commandEntry tag op job 0x01 0 []) v
          else match badHeader (w 0 4) (w 4 4) tag with
            | some o => finishTag tag (commandEntry tag op job 0x02 o []) v
            | none => v)))

/-- The host interface (R424, R425, R427 to R429, R434, R436, R437): enabling the ring zeroes its indexes and writes the entries
held; RING_HEAD moves forward up to the tail and is otherwise ignored and counted; the aperture registers keep their writable bits;
a BAR2 write becomes a WR of channel 0 and a BAR2 read RDs, or a record and a Completer Abort. Each clause concludes that the
command completes. Messages to the host (R426, R437, R466): vector 0 goes out c µs after the first entry since the last message; a fault or gauge
vector at most once in 100 µs, what came meanwhile sharing the next message; and a vector the host unmasks sends its pending
message, where MSI-X is enabled and its Function Mask clear. Each clause concludes that the command completes. -/
def Obligations.HostInterface : Prop :=
  (∀ (s : State), s.powered = true →
    (∀ n, 6 ≤ n → n ≤ 16 → s.hif.ringOn = false →
      let v : State := { s with hif := { s.hif with ringLog := n, ringOn := true, tail := 0, head := 0, written := [] } }
      exec (.ringEnable n) s = .next (flushHeld s.hif.heldEntries.length v)) ∧
    (∀ n, 6 ≤ n → n ≤ 16 → s.hif.ringOn = true → exec (.ringEnable n) s = .next s) ∧
    (∀ v, v < 2 ^ 32 → s.hif.head < 2 ^ 32 → s.hif.tail < 2 ^ 32 →
      (s.hif.tail + 2 ^ 32 - s.hif.head) % 2 ^ 32 < (v + 2 ^ 32 - s.hif.head) % 2 ^ 32 →
      exec (.ringHeadWrite v) s = .next { s with hif := { s.hif with headErr := satCount s.hif.headErr 1 } }) ∧
    (∀ v, v < 2 ^ 32 → s.hif.head ≤ v → v ≤ s.hif.tail → s.hif.tail < 2 ^ 32 → s.hif.heldEntries = [] →
      exec (.ringHeadWrite v) s = .next { s with hif := { s.hif with
        head := v, written := s.hif.written.filter fun e => decide ((e.1 + 2 ^ 32 - v) % 2 ^ 32 < (s.hif.tail + 2 ^ 32 - v) % 2 ^ 32) } }) ∧
    (∀ v, v < 2 ^ 32 → exec (.apertureWrite true v) s =
      .next { s with hif := { s.hif with aperture := s.hif.aperture % 2 ^ 32 + (v % 2 ^ 31) * 2 ^ 32 } }) ∧
    (∀ v, v < 2 ^ 32 → exec (.apertureWrite false v) s =
      .next { s with hif := { s.hif with aperture := s.hif.aperture / 2 ^ 32 * 2 ^ 32 + v / 2 ^ 30 * 2 ^ 30 } }) ∧
    (∀ o data, o + data.length ≤ 2 ^ 36 → data.length ≤ 512 →
      let a := s.hif.aperture + o
      let src := mkSrc s.deviceId 1 0
      exec (.bar2Write o data) s =
        .next (if bit a 63 = true ∨ (addrSpace a = 3 ∧ isSemNotify (addrOffset a) data.length = false) then
          hostAccessEvent 0 (a % 2 ^ 64) 0 s
        else issueFrom pcieRouter
          { op := 0x02, vc := 1, addr := a, src := src, tag := s.freeTag src, bytes := data.length, data := data
            marks := List.replicate (unitsOf a data.length).length false, sgx := pcieRouter.1, sgy := pcieRouter.2 }
          (addOut { src := src, tag := s.freeTag src, who := Requester.bar2 0, addr := a, len := data.length, off := 0, write := true
                    issued := s.now } s))) ∧
    (∀ o len tag, o + len ≤ 2 ^ 36 → 1 ≤ len → len ≤ 512 → tag < 2 ^ 14 → bit (s.hif.aperture + o) 63 = false →
      let a := s.hif.aperture + o
      let src := mkSrc s.deviceId 1 0
      let v : State := { s with hif := { s.hif with
        bar2Reads := s.hif.bar2Reads ++ [{ tag := tag, addr := a % 2 ^ 64, len := len, since := s.now }] } }
      exec (.bar2Read o len tag) s =
        .next (sendFrom pcieRouter.1 pcieRouter.2 { op := 0x01, vc := 1, addr := a, src := src, tag := s.freeTag src, bytes := len }
          (addOut { src := src, tag := s.freeTag src, who := Requester.bar2 tag, addr := a, len := len, off := 0, write := false
                    issued := s.now } v))) ∧
    (∀ o len tag, o + len ≤ 2 ^ 36 → 1 ≤ len → len ≤ 4096 → tag < 2 ^ 14 → bit (s.hif.aperture + o) 63 = true →
      (∀ r ∈ s.hif.bar2Reads, r.tag ≠ tag) →
      exec (.bar2Read o len tag) s = .next (hostAccessEvent 1 ((s.hif.aperture + o) % 2 ^ 64) tag { s with
        outs := s.outs.map fun x => if x.who == Requester.bar2 tag && !x.write then { x with who := .expired } else x
        hif := { s.hif with bar2Done := s.hif.bar2Done ++ [(tag, none)] } })) ∧
    (∀ tag r, (s.hif.bar2Reads.find? fun r => r.tag == tag) = some r →
      exec (.bar2ReadTimeout tag) s = .next (if r.since + 1000000 ≤ s.now then bar2Abort tag s else s))) ∧
  (∀ (s : State), s.powered = true →
    (∀ t, s.hif.coalesceFrom = some t → exec .intCoalesceExpiry s =
      .next (if t + 1000 * s.hif.coalesce ≤ s.now then signalVector 0 { s with hif := { s.hif with coalesceFrom := none } } else s)) ∧
    (s.hif.coalesceFrom = none → exec .intCoalesceExpiry s = .next s) ∧
    (∀ v e, v < 256 → (s.faults.holdoff.find? fun e => e.1 == v) = some e →
      let u : State := { s with faults := { s.faults with holdoff := s.faults.holdoff.filter fun e => e.1 != v } }
      exec (.vectorHoldoffExpiry v) s = .next (if s.now < e.2 + 100000 then s else if v ∈ s.faults.owed then
        signalVector v { s with faults := { s.faults with
          holdoff := (s.faults.holdoff.filter fun e => e.1 != v) ++ [(v, s.now)], owed := s.faults.owed.filter fun w => w != v } }
        else u)) ∧
    (∀ v, v < 256 → (s.faults.holdoff.find? fun e => e.1 == v) = none → exec (.vectorHoldoffExpiry v) s = .next s) ∧
    (∀ v, v < 256 →
      let h : HostIf := { s.hif with unmasked := insertRising v s.hif.unmasked, msixTable := put (4 * v + 3) 0 s.hif.msixTable }
      exec (.vectorUnmask v) s = .next { s with hif := if v ∈ s.hif.pendingBits ∧ s.hif.msixEnable = true ∧ s.hif.functionMask = false then
        { h with pendingBits := s.hif.pendingBits.filter fun b => b != v, messages := s.hif.messages ++ [v] } else h }) ∧
    (∀ v, s.hif.msixEnable = false → signalVector v s = s) ∧
    (∀ v, s.hif.msixEnable = true → v ∈ s.hif.unmasked → s.hif.functionMask = false → signalVector v s = { s with hif := { s.hif with messages := s.hif.messages ++ [v] } }) ∧
    (∀ v, s.hif.msixEnable = true → (v ∉ s.hif.unmasked ∨ s.hif.functionMask = true) → signalVector v s = { s with hif := { s.hif with pendingBits := insertRising v s.hif.pendingBits } }))

/-- Registers from outside (R8, R99, R171, R285, R287, R425, R468): a write of a pan's registers by BAR0 does what the register's
access code says; the program store and the swizzle ignore it while the sequencer runs; the ring's base ignores it while the ring is
on; an RO register ignores it; a read of an RC register clears it; control space takes writes of its own agents, and of others only
to the open registers. Each clause concludes that the command completes. -/
def Obligations.RegistersReadAndWritten : Prop :=
  ∀ (s : State), s.powered = true →
    (∀ o v b k, v < 2 ^ 32 → bar0Block (o / 4 * 4) = some (b, k) →
      exec (.registerWrite (.bar0 o) v) s = .next (writeReg false b k v s) ∧
      exec (.rcRead (.bar0 o)) s = .next (readSide false s b k)) ∧
    (∀ o v, v < 2 ^ 32 → bar0Block (o / 4 * 4) = none →
      exec (.registerWrite (.bar0 o) v) s = .next s ∧ exec (.rcRead (.bar0 o)) s = .next s) ∧
    (∀ src a v, v < 2 ^ 32 → s.isOwn a = true → addrSpace a = 3 → bit a 63 = true →
      exec (.registerWrite (.control src a) v) s = .next s ∧ exec (.rcRead (.control src a)) s = .next s) ∧
    (∀ src a v, v < 2 ^ 32 → s.isOwn a = true → addrSpace a = 3 → bit a 63 = false →
      exec (.registerWrite (.control src a) v) s = .next (controlWrite src (addrOffset a) (leBytes v 4) s).2 ∧
      exec (.rcRead (.control src a)) s = .next (controlRead src (addrOffset a) 4 s).2.2) ∧
    (∀ src off bs l r, s.controlSpan src off bs.length = .ok l → r ∈ l → s.ownControl src = false → s.debugOpen src = false →
      openReg r.1 r.2 = false → controlWrite src off bs s = (0x0A, s)) ∧
    (∀ hakar p v, writeReg hakar (.seq p) 0x00 v s = s.modSeq p fun q => { q with entry := v % 2 ^ 13 }) ∧
    (∀ hakar p v, bit v 1 = true → writeReg hakar (.seq p) 0x04 v s = stop p s) ∧
    (∀ hakar p v, bit v 1 = false → bit v 0 = true → writeReg hakar (.seq p) 0x04 v s = go p s) ∧
    (∀ hakar p o v, (s.pan p).seq.busy = true → p < 1620 → ∃ t, writeReg hakar (.prog p) o v s = t ∧ s.onlyPan t p (s.pan p)) ∧
    (∀ hakar p i v, (s.pan p).seq.busy = false → p < 1620 → i < 5 →
      ∃ t, writeReg hakar (.store p) (0x10 + 4 * i) v s = t ∧ s.onlyPan t p
        { s.pan p with store := { (s.pan p).store with swz := setAt (s.pan p).store.swz i (v % 2 ^ 12) } }) ∧
    (∀ hakar v, s.hif.ringOn = true → writeReg hakar .hif 0x08 v s = s ∧ writeReg hakar .hif 0x0C v s = s) ∧
    (∀ hakar p v, writeReg hakar (.seq p) 0x10 v s = s)

/-- Gauges (R458 to R465): GAUGE_CONFIG ends the gauge's windows and begins at the first boundary at least 10 µs on; an event counts
in the window of its time, before the configuration not at all, and more than 10 µs after its window's end as late; a level source's
value is sampled at multiples of SAMPLE_NS; a window closes 10 µs after its end, with a GAUGE record on a threshold hit; GAUGE_READ writes the ring and
what is open. Each clause concludes that the command completes. -/
def Obligations.GaugesMeasure : Prop :=
  ∀ (s : State) (c : Cmd) (i : Nat), i < 64 →
    let g := s.gauge i
    let u (op : Nat) : State := journalled c op s
    (∀ buf d, s.performs c 0x0D → buf.addr % 64 = 0 → buf.len = 64 → buf.cause = 0 → descOk d = true →
      let b := (s.now + 10000 + d.windowNs - 1) / d.windowNs * d.windowNs
      exec (.gaugeConfig c i buf d) s = .next (finish c 0x0D 0 0 [] ((endWindows i (u 0x0D)).modGauge i fun g =>
        { enabled := d.source != 0, desc := d, began := b, since := b, opens := [], ring := g.ring }))) ∧
    (∀ buf d, s.performs c 0x0D → buf.addr % 64 = 0 → buf.len = 64 → buf.cause = 0 → descOk d = false →
      exec (.gaugeConfig c i buf d) s = .next (finish c 0x0D 0x02 0x18 [] (u 0x0D))) ∧
    (∀ buf, s.performs c 0x0E → buf.addr % 64 = 0 → buf.cause = 0 → 256 ≤ buf.len →
      let bs := ((g.ring.map (snapshotBytes false) ++ (g.openAt s.now).map (snapshotBytes true)).take (buf.len / 256)).flatten
      bs.length ≤ buf.len →
      exec (.gaugeRead c i buf) s = .next (finish c 0x0E 0 bs.length [] { u 0x0E with hostMem := writeBytes s.hostMem buf.addr bs })) ∧
    (∀ v t, s.powered = true → -(2 ^ 63) ≤ v → v < 2 ^ 63 → t < 2 ^ 64 →
      (g.enabled = true → 1 ≤ g.desc.source → g.desc.source ≤ 5 → g.began ≤ t → g.since ≤ t →
        let k := t / g.desc.windowNs
        s.now ≤ (k + 1) * g.desc.windowNs + 10000 →
        ∃ n, exec (.gaugeEvent i v t) s = .next n ∧ s.onlyGauge n i { g with opens := put k (addValue g.desc v t (g.window k)) g.opens }) ∧
      (g.enabled = true → 1 ≤ g.desc.source → g.desc.source ≤ 5 → g.began ≤ t →
        t < g.since ∨ (t / g.desc.windowNs + 1) * g.desc.windowNs + 10000 < s.now →
        exec (.gaugeEvent i v t) s = .next { s with faults := { s.faults with late := satCount s.faults.late 1 } }) ∧
      (g.enabled = false ∨ t < g.began → exec (.gaugeEvent i v t) s = .next s)) ∧
    (∀ v, s.powered = true → -(2 ^ 63) ≤ v → v < 2 ^ 63 → g.enabled = true → levelMin g.desc.source ≠ none →
      s.measurable g.desc = true → g.began ≤ s.now → g.since ≤ s.now →
      let k := s.now / g.desc.windowNs
      s.now ≤ (k + 1) * g.desc.windowNs + 10000 →
      (s.now % g.desc.sampleNs = 0 → ∃ n, exec (.levelSample i v) s = .next n ∧
        s.onlyGauge n i { g with opens := put k (addValue g.desc (s.levelValue g.desc v) s.now (g.window k)) g.opens }) ∧
      (s.now % g.desc.sampleNs ≠ 0 → exec (.levelSample i v) s = .next s)) ∧
    (s.powered = true → g.enabled = true →
      let k := g.since / g.desc.windowNs
      let w := thresholds g.desc (g.window k)
      let x : Gauge := { g with opens := g.opens.filter fun e => e.1 != k, ring := pushSnapshot w g.ring, since := (k + 1) * g.desc.windowNs }
      (s.now < (k + 1) * g.desc.windowNs + 10000 → exec (.windowClose i) s = .next s) ∧
      ((k + 1) * g.desc.windowNs + 10000 ≤ s.now → w.lowHit = false → w.highHit = false →
        ∃ n, exec (.windowClose i) s = .next n ∧ s.onlyGauge n i x) ∧
      ((k + 1) * g.desc.windowNs + 10000 ≤ s.now → (w.lowHit = true ∨ w.highHit = true) →
        ∃ n, exec (.windowClose i) s = .next n ∧ n.gauge i = x ∧ (∀ j, j ≠ i → n.gauge j = s.gauge j) ∧
          n = { s with gauges := n.gauges, faults := { s.faults with unmirrored := s.faults.unmirrored ++
            [{ type := 0x10, cls := 0, code := i, addr := w.start, detail := flag w.highHit 1 + flag w.lowHit 0
               tide := s.now, epoch := s.boot.epoch }] } }))

/-- The fault log and the Hakar cores (R447, R449, R453, R454, R463, R467): the report received longest ago is coalesced into the newest
record or mirrored under the next number; a device-fatal record is mirrored and takes the fatal order; FAULT_READ returns the
records from a number on; a heartbeat keeps the lead, and 1 ms without one hands over to the next core, with its takeover entry and
record; the difference record is read over I3C four bytes at a time. Each clause concludes that the command completes. -/
def Obligations.FaultLogAndCores : Prop :=
  ∀ (s : State), s.powered = true →
    (∀ r rest e es, s.hif.coreRuns = true → s.faults.unmirrored = r :: rest → r.cls < 7 → s.faults.log = e :: es → coalesces r e = true →
      exec .faultMirror s = .next { s with faults := { s.faults with
        unmirrored := rest
        log := { e with repeats := min 65535 (e.repeats + 1), record := { e.record with jobs := e.record.jobs ||| r.jobs } } :: es } }) ∧
    (∀ r rest, s.hif.coreRuns = true → s.faults.unmirrored = r :: rest → r.cls < 7 →
      (s.faults.log = [] ∨ ∃ e es, s.faults.log = e :: es ∧ coalesces r e = false ∧ s.faults.log.length < 8192) →
      exec .faultMirror s = .next (foldState (recordVectors r) (fun t v => faultSignal v t) { s with faults := { s.faults with
        unmirrored := rest, log := ({ seq := s.faults.next, record := r } :: s.faults.log).take 8192, next := s.faults.next + 1
        classes := bump s.faults.classes (r.cls % 8) 1, lost := satCount s.faults.lost 0 } })) ∧
    ((s.hif.coreRuns = false ∨ s.faults.unmirrored = []) → exec .faultMirror s = .next s) ∧
    (∀ r : FaultRec, r.cls = 7 → r.type < 256 → r.code < 65536 → r.unitCls < 16 → r.unitIdx < 65536 → r.addr < 2 ^ 64 → r.detail < 2 ^ 32 →
      r.jobs < 65536 → s.hif.coreRuns = true → s.faults.unmirrored = [] → s.faults.reports = [] →
      exec (.deviceFatal r) s = .next (afterFatal (mirror { r with tide := s.now, epoch := s.boot.epoch } s))) ∧
    (∀ c fromSeq buf max, s.performs c 0x0F → fromSeq < 2 ^ 64 → max < 2 ^ 32 → buf.addr % 64 = 0 → buf.cause = 0 →
      let rs := s.faultRead fromSeq max
      let v : State := { journalled c 0x0F s with hostMem := writeBytes s.hostMem buf.addr (rs.map recordBytes).flatten }
      ∃ n w, exec (.faultRead c fromSeq buf max) s = .next (finish c 0x0F 0 rs.length (words64 n) w) ∧
        match (rs.filter fun e => e.record.type != 0x1F).getLast? with
        | some e => n = e.seq + 1 ∧ w = { v with faults := { s.faults with readTo := Nat.max s.faults.readTo e.seq } }
        | none => w = { v with draws := s.draws + 1 }) ∧
    (s.hif.coreRuns = true → exec .heartbeat s = .next { s with hif := { s.hif with heartbeat := s.now } }) ∧
    (s.hif.coreRuns = false → exec .heartbeat s = .next s) ∧
    (s.hif.coreRuns = true → s.now < s.hif.heartbeat + 1000000 → exec .coreTakeover s = .next s) ∧
    (∀ n rest, s.hif.coreRuns = true → s.hif.heartbeat + 1000000 ≤ s.now → s.hif.standby = n :: rest → s.hif.ringOn = false →
      let k := satCount s.hif.takeovers 1
      exec .coreTakeover s = .next { s with
        hif := { s.hif with
          lead := n, standby := rest, takeovers := k, heartbeat := s.now
          heldEntries :=
            { kind := 6, info := field k 8 8 + n % 4, payload := words64 s.now ++ words64 s.hif.tail } :: s.hif.heldEntries }
        faults := { s.faults with unmirrored := s.faults.unmirrored ++
          [{ type := 0xB, cls := 0, code := n, unitCls := 0xB, unitIdx := 132, detail := k, tide := s.now, epoch := s.boot.epoch }] } }) ∧
    (s.hif.coreRuns = true → s.hif.heartbeat + 1000000 ≤ s.now → s.hif.standby = [] → s.faults.fatal ≠ none →
      exec .coreTakeover s = .next { s with hif := { s.hif with coreRuns := false } }) ∧
    (∀ v, v < 2 ^ 32 → exec (.diffOffset v) s = .next { s with boot := { s.boot with diffOffset := v / 4 * 4 } }) ∧
    exec .diffData s = .next { s with boot := { s.boot with diffOffset := (s.boot.diffOffset + 4) % 2 ^ 32 } } ∧
    s.i3cReg 0x21 = leNat (((diffBytes s.boot.diff).drop s.boot.diffOffset).take 4)

/-- Debug unlock (R484 to R488): a challenge answers a fresh nonce that replaces any earlier one; a token is refused by its signature,
its serial or nonce, or by jobs and commands present, and consumes the nonce; an accepted one closes the doorbells until every
memory has been zeroised, and then its scope is in force; a nonce ends after 600 s. Each clause concludes that the command
completes. -/
def Obligations.DebugUnlocks : Prop :=
  ∀ (s : State), s.powered = true →
    (∀ n, n < 2 ^ 256 → s.sec.service = true → exec (.dbgChallenge n) s = .next { s with sec := { s.sec with
      nonce := some (n, s.now), answers := s.sec.answers ++ [.nonce s.boot.fuses.serial n] } }) ∧
    (∀ n, n < 2 ^ 256 → s.sec.service = false → exec (.dbgChallenge n) s = .next s) ∧
    (∀ t : DebugToken, t.header < 65536 → t.keySlot < 256 → t.scope < 256 → t.serial < 2 ^ 64 → t.nonce < 2 ^ 256 →
      s.sec.service = true →
      let keyOk := t.sigOk = true ∧ t.header = 0xDB61 ∧ t.reservedZero = true ∧ t.scope < 8 ∧
        ∃ k im, s.sec.running = some k ∧ s.fwSlot k = some im ∧ im.keySlot = t.keySlot ∧ bit s.sec.revoke t.keySlot = false
      let fits := t.serial = s.boot.fuses.serial ∧ ∃ at_, s.sec.nonce = some (t.nonce, at_) ∧ s.now < at_ + 600000000000
      let idle := s.jobs = [] ∧ s.hif.journal = []
      let done (st : Nat) : State := { s with sec := { s.sec with
        nonce := none, tokenStatus := some st, answers := s.sec.answers ++ [.token st] } }
      (s.sec.entropyFailed = true → exec (.dbgToken t) s = .next (done 4)) ∧
      (s.sec.entropyFailed = false → ¬ keyOk → exec (.dbgToken t) s = .next (done 1)) ∧
      (s.sec.entropyFailed = false → keyOk → ¬ fits → exec (.dbgToken t) s = .next (done 2)) ∧
      (s.sec.entropyFailed = false → keyOk → fits → ¬ idle → exec (.dbgToken t) s = .next (done 3)) ∧
      (s.sec.entropyFailed = false → keyOk → fits → idle → exec (.dbgToken t) s = .next { done 0 with
        sec := { (done 0).sec with unlocking := some t.scope }, hif := { s.hif with taking := false } })) ∧
    (∀ sc, s.sec.unlocking = some sc → ∃ t, exec .debugZeroiseDone s = .next t ∧
      t.sec = { s.sec with unlocking := none, scope := sc } ∧ t.hif = { s.hif with taking := true, journal := [], completed := [] } ∧
      t.storeMem = [] ∧ t.brineMem = [] ∧ t.cellarMem = [] ∧ t.faults = { s.faults with log := [], fatal := none } ∧
      t.net = s.net ∧ t.boot = s.boot ∧ t.clock = s.clock ∧ (∀ p, (t.pan p).store.poison = [] ∧ (t.pan p).seq = (s.pan p).seq)) ∧
    (s.sec.unlocking = none → exec .debugZeroiseDone s = .next s) ∧
    (∀ n at_, s.sec.nonce = some (n, at_) → exec .nonceExpiry s =
      .next (if at_ + 600000000000 ≤ s.now then { s with sec := { s.sec with nonce := none } } else s))

/-- SPDM requests (R480, R481, R483, R488): the version, capabilities and algorithms are fixed; CHALLENGE and GET_MEASUREMENTS answer
with a fresh nonce and the next signature over the measurements; any other request is UnsupportedRequest; and a failed entropy
source ends signed answers. Each clause concludes that the command completes. -/
def Obligations.SpdmAnswers : Prop :=
  ∀ (s : State), s.powered = true → s.sec.service = true →
    let said (a : Answer) : Host.Outcome State Fault Refusal := .next { s with sec := { s.sec with answers := s.sec.answers ++ [a] } }
    let signs (a : Answer) : Host.Outcome State Fault Refusal := .next { s with
      draws := s.draws + 1, sec := { s.sec with signed := s.sec.signed + 1, answers := s.sec.answers ++ [a] } }
    let sig := Config.signature s.sec.signed
    let rnd := Config.freeValue s.draws % 2 ^ 256
    exec .getVersion s = said (.version 1 3) ∧
    exec .getCapabilities s = said (.capabilities true true true false) ∧
    exec .negotiateAlgorithms s = said (.algorithms "TPM_ALG_SHA3_512" 0x1F3D 0x0001) ∧
    (∀ code, code < 256 → exec (.spdmUnsupportedRequest code) s = said .unsupportedRequest) ∧
    (∀ n, n < 2 ^ 256 → s.sec.entropyFailed = false →
      exec (.challenge n) s = signs (.challenge n rnd ((List.range 5).map fun m => s.measurement (m + 1)) sig)) ∧
    (∀ n, n < 2 ^ 256 → s.sec.entropyFailed = true → exec (.challenge n) s = said .unspecified) ∧
    (∀ k, 1 ≤ k → k ≤ 5 → s.sec.entropyFailed = false →
      exec (.getMeasurements k) s = signs (.measurements [(k, s.measurement k)] rnd sig)) ∧
    (s.sec.entropyFailed = false →
      exec (.getMeasurements 0xFF) s = signs (.measurements ((List.range 5).map fun m => (m + 1, s.measurement (m + 1))) rnd sig)) ∧
    s.measurement 3 = sha3_512 (otpBytes s.sec) ∧
    s.measurement 4 = sha3_512 (fuseBytes s.boot.fuses) ∧
    s.measurement 5 = sha3_512 (leBytes s.aState 8) ∧
    exec .entropyTestFail s = .next { s with sec := { s.sec with entropyFailed := true } }
end

