-- ==== Sys2Proof/Laws/Map.lean ====
section
/-! SUPPORT. What the operations on sparse maps and memories do: reading after writing, and the canonical form. -/

namespace Sys2Proof.Machine
open Sys2Proof

/-! ### Sparse maps -/

section maps
variable {α : Type} (d : α)

@[simp] theorem look_nil (k : Nat) : look d ([] : Sparse α) k = d := rfl

theorem look_put (k k' : Nat) (v : α) (m : Sparse α) : look d (put k v m) k' = if k' = k then v else look d m k' := by
  induction m with
  | nil => simp [put, look]
  | cons e m ih =>
    obtain ⟨a, b⟩ := e
    simp only [put]
    split
    · simp only [look]
    · split
      · next h => subst h; by_cases h' : k' = k <;> simp [look, h']
      · next h1 h2 =>
        simp only [look, ih]
        by_cases h' : k' = k
        · subst h'; simp [h2]
        · simp [h']

@[simp] theorem look_put_same (k : Nat) (v : α) (m : Sparse α) : look d (put k v m) k = v := by simp [look_put]

@[simp] theorem look_put_other {k k' : Nat} (h : k' ≠ k) (v : α) (m : Sparse α) : look d (put k v m) k' = look d m k' := by
  simp [look_put, h]

@[simp] theorem look_upd_same (k : Nat) (f : α → α) (m : Sparse α) : look d (upd d k f m) k = f (look d m k) := by simp [upd]

@[simp] theorem look_upd_other {k k' : Nat} (h : k' ≠ k) (f : α → α) (m : Sparse α) : look d (upd d k f m) k' = look d m k' := by
  simp [upd, h]

theorem find?_put (k k' : Nat) (v : α) (m : Sparse α) : find? (put k v m) k' = if k' = k then some v else find? m k' := by
  induction m with
  | nil => simp [put, find?]
  | cons e m ih =>
    obtain ⟨a, b⟩ := e
    simp only [put]
    split
    · simp only [find?]
    · split
      · next h => subst h; by_cases h' : k' = k <;> simp [find?, h']
      · next h1 h2 =>
        simp only [find?, ih]
        by_cases h' : k' = k
        · subst h'; simp [h2]
        · simp [h']

@[simp] theorem find?_put_same (k : Nat) (v : α) (m : Sparse α) : find? (put k v m) k = some v := by simp [find?_put]

@[simp] theorem find?_put_other {k k' : Nat} (h : k' ≠ k) (v : α) (m : Sparse α) : find? (put k v m) k' = find? m k' := by
  simp [find?_put, h]

theorem find?_drop (k k' : Nat) (m : Sparse α) : find? (drop k m) k' = if k' = k then none else find? m k' := by
  induction m with
  | nil => simp [drop, find?]
  | cons e m ih =>
    obtain ⟨a, b⟩ := e
    simp only [drop, List.filter_cons]
    by_cases h : a = k
    · subst h
      simp only [bne_self_eq_false, Bool.false_eq_true, if_false]
      rw [show List.filter (fun e => e.1 != a) m = drop a m from rfl, ih]
      by_cases h' : k' = a <;> simp [find?, h']
    · simp only [bne_iff_ne, ne_eq, h, not_false_eq_true, if_true, find?]
      rw [show List.filter (fun e => e.1 != k) m = drop k m from rfl, ih]
      by_cases h' : k' = a
      · subst h'; simp [h]
      · simp [h']

/-- Putting back what a map already answers changes no reading of it. -/
theorem look_put_look (k k' : Nat) (m : Sparse α) : look d (put k (look d m k) m) k' = look d m k' := by
  rw [look_put]; split
  · next h => rw [h]
  · rfl

end maps

/-- A saturating counter counts, and the others stay. -/
theorem look_bump (m : Sparse Nat) (k k' n : Nat) (h : look 0 m k ≤ 0xFFFFFFFF) :
    look 0 (bump m k n) k' = if k' = k then satCount (look 0 m k) n else look 0 m k' := by
  unfold bump
  split
  · next h0 => subst h0; split
               · next h' => subst h'; simp [satCount]; omega
               · rfl
  · by_cases h' : k' = k
    · subst h'; simp
    · simp [h']

@[simp] theorem look_bump_other {m : Sparse Nat} {k k' : Nat} (h : k' ≠ k) (n : Nat) : look 0 (bump m k n) k' = look 0 m k' := by
  unfold bump; split
  · rfl
  · simp [h]

/-! ### Memories -/

theorem readByte_of_wfFrom {lo : Nat} {m : Mem} (h : Memory.wfFrom (some lo) m = true) {a : Nat} (ha : a ≤ lo) : readByte m a = 0 := by
  induction m generalizing lo with
  | nil => rfl
  | cons e m ih =>
    obtain ⟨k, v⟩ := e
    simp only [Memory.wfFrom, Bool.and_eq_true, decide_eq_true_eq] at h
    have hk : a ≠ k := by omega
    simp only [readByte, hk, if_false]
    exact ih h.2 (by omega)

theorem wfFrom_weaken {lo k : Nat} {m : Mem} (h : Memory.wfFrom (some k) m = true) (hl : lo ≤ k) :
    Memory.wfFrom (some lo) m = true := by
  cases m with
  | nil => rfl
  | cons e m =>
    obtain ⟨a, v⟩ := e
    simp only [Memory.wfFrom, Bool.and_eq_true, decide_eq_true_eq] at h ⊢
    exact ⟨⟨by omega, h.1.2⟩, h.2⟩

/-- A byte reads as it was written, and every other byte as before. -/
theorem readByte_writeByte {m : Mem} (h : Memory.wf m = true) (a a' : Nat) (b : Byte) :
    readByte (writeByte a b m) a' = if a' = a then b else readByte m a' := by
  suffices H : ∀ (lo : Option Nat) (m : Mem), Memory.wfFrom lo m = true →
      readByte (writeByte a b m) a' = if a' = a then b else readByte m a' from H none m h
  intro lo m
  induction m generalizing lo with
  | nil =>
    intro _
    by_cases hb : b = 0#8
    · simp [writeByte, hb, readByte]
    · by_cases ha : a' = a <;> simp [writeByte, hb, readByte, ha]
  | cons e m ih =>
    obtain ⟨k, v⟩ := e
    intro hw
    simp only [Memory.wfFrom, Bool.and_eq_true, decide_eq_true_eq] at hw
    simp only [writeByte]
    split
    · next hlt =>
      by_cases hb : b = 0#8
      · subst hb
        simp only [BitVec.ofNat_eq_ofNat, if_true]
        by_cases ha : a' = a
        · subst ha
          simp only [readByte]
          have : a' ≠ k := by omega
          simp only [this, if_false]
          exact readByte_of_wfFrom hw.2 (by omega)
        · simp [ha]
      · by_cases ha : a' = a
        · simp [hb, readByte, ha]
        · simp [hb, readByte, ha]
    · split
      · next hnlt heq =>
        subst heq
        by_cases hb : b = 0#8
        · subst hb
          by_cases ha : a' = a
          · subst ha
            simp only [if_true]
            exact readByte_of_wfFrom hw.2 (Nat.le_refl _)
          · simp [readByte, ha]
        · by_cases ha : a' = a <;> simp [hb, readByte, ha]
      · next hnlt hne =>
        simp only [readByte, ih (some k) hw.2]
        by_cases ha : a' = a
        · have : a' ≠ k := by omega
          simp only [this, if_false]
        · simp [ha]

theorem wfFrom_writeByte {lo : Option Nat} {m : Mem} (h : Memory.wfFrom lo m = true) (a : Nat) (b : Byte)
    (ha : ∀ l, lo = some l → l < a) : Memory.wfFrom lo (writeByte a b m) = true := by
  induction m generalizing lo with
  | nil =>
    by_cases hb : b = 0#8
    · simp [writeByte, hb, Memory.wfFrom]
    · cases lo with
      | none => simp [writeByte, hb, Memory.wfFrom]
      | some l => simp [writeByte, hb, Memory.wfFrom, ha l rfl]
  | cons e m ih =>
    obtain ⟨k, v⟩ := e
    have hw := h
    simp only [Memory.wfFrom, Bool.and_eq_true, decide_eq_true_eq] at hw
    simp only [writeByte]
    split
    · next hlt =>
      by_cases hb : b = 0#8
      · simpa [hb] using h
      · simp only [BitVec.ofNat_eq_ofNat, hb, if_false, Memory.wfFrom, Bool.and_eq_true, decide_eq_true_eq]
        refine ⟨⟨?_, hb⟩, ⟨hlt, hw.1.2⟩, hw.2⟩
        cases lo with
        | none => rfl
        | some l => simpa using ha l rfl
    · split
      · next heq =>
        subst heq
        by_cases hb : b = 0#8
        · simp only [BitVec.ofNat_eq_ofNat, hb, if_true]
          cases lo with
          | none =>
            cases m with
            | nil => rfl
            | cons e m =>
              obtain ⟨x, y⟩ := e
              have := hw.2
              simp only [Memory.wfFrom, Bool.and_eq_true, decide_eq_true_eq] at this ⊢
              exact ⟨⟨trivial, this.1.2⟩, this.2⟩
          | some l => exact wfFrom_weaken hw.2 (Nat.le_of_lt (ha l rfl))
        · simp only [BitVec.ofNat_eq_ofNat, hb, if_false, Memory.wfFrom, Bool.and_eq_true, decide_eq_true_eq]
          refine ⟨⟨?_, hb⟩, hw.2⟩
          cases lo with
          | none => rfl
          | some l => simpa using ha l rfl
      · next hnlt hne =>
        simp only [Memory.wfFrom, Bool.and_eq_true, decide_eq_true_eq]
        refine ⟨⟨hw.1.1, hw.1.2⟩, ih hw.2 ?_⟩
        intro l hl; injection hl with hl; omega

/-- Writing a byte keeps the canonical form. -/
theorem wf_writeByte {m : Mem} (h : Memory.wf m = true) (a : Nat) (b : Byte) : Memory.wf (writeByte a b m) = true :=
  wfFrom_writeByte h a b (by simp)

/-- Writing bytes keeps the canonical form. -/
theorem wf_writeBytes {m : Mem} (h : Memory.wf m = true) (a : Nat) (bs : List Byte) : Memory.wf (writeBytes m a bs) = true := by
  induction bs generalizing m a with
  | nil => exact h
  | cons b bs ih => exact ih (wf_writeByte h a b) (a + 1)

theorem wfFrom_filter {lo : Option Nat} {m : Mem} (h : Memory.wfFrom lo m = true) (p : Nat × BitVec 8 → Bool) :
    Memory.wfFrom lo (m.filter p) = true := by
  induction m generalizing lo with
  | nil => exact h
  | cons e m ih =>
    obtain ⟨k, v⟩ := e
    have hw := h
    simp only [Memory.wfFrom, Bool.and_eq_true, decide_eq_true_eq] at hw
    rw [List.filter_cons]
    split
    · simp only [Memory.wfFrom, Bool.and_eq_true, decide_eq_true_eq]
      exact ⟨hw.1, ih hw.2⟩
    · cases lo with
      | none =>
        have h2 := ih hw.2
        revert h2
        cases m.filter p with
        | nil => intro _; rfl
        | cons e m' =>
          obtain ⟨x, y⟩ := e
          intro h2
          simp only [Memory.wfFrom, Bool.and_eq_true, decide_eq_true_eq] at h2 ⊢
          exact ⟨⟨trivial, h2.1.2⟩, h2.2⟩
      | some l =>
        refine wfFrom_weaken (ih hw.2) ?_
        have := hw.1.1
        simp only [decide_eq_true_eq] at this
        omega

/-- Taking bytes out keeps the canonical form. -/
theorem wf_filter {m : Mem} (h : Memory.wf m = true) (p : Nat × BitVec 8 → Bool) : Memory.wf (m.filter p) = true := wfFrom_filter h p

/-- Zeroing a range keeps the canonical form. -/
theorem wf_clearRange {m : Mem} (h : Memory.wf m = true) (lo hi : Nat) : Memory.wf (clearRange lo hi m) = true := wf_filter h _

/-- Zeroed bytes read zero, and every other byte reads as before. -/
theorem readByte_clearRange (m : Mem) (lo hi a : Nat) :
    readByte (clearRange lo hi m) a = if lo ≤ a ∧ a < hi then 0 else readByte m a := by
  induction m with
  | nil => simp [clearRange, readByte]
  | cons e m ih =>
    obtain ⟨k, v⟩ := e
    simp only [clearRange, List.filter_cons] at ih ⊢
    by_cases hk : k < lo ∨ hi ≤ k
    · simp only [hk, Bool.or_eq_true, decide_eq_true_eq, if_true, readByte]
      by_cases ha : a = k
      · subst ha
        simp only [if_true]
        have : ¬ (lo ≤ a ∧ a < hi) := by omega
        simp [this]
      · simp only [ha, if_false]; exact ih
    · simp only [Bool.or_eq_true, decide_eq_true_eq, hk, if_false, readByte]
      by_cases ha : a = k
      · subst ha
        have : lo ≤ a ∧ a < hi := by omega
        rw [ih]; simp [this]
      · simp only [ha, if_false]; exact ih

/-- A byte outside the written run reads as before. -/
theorem readByte_writeBytes_outside {m : Mem} (h : Memory.wf m = true) (a : Nat) (bs : List Byte) (a' : Nat)
    (ha : a' < a ∨ a + bs.length ≤ a') : readByte (writeBytes m a bs) a' = readByte m a' := by
  induction bs generalizing m a with
  | nil => rfl
  | cons b bs ih =>
    simp only [writeBytes]
    simp only [List.length_cons] at ha
    rw [ih (wf_writeByte h a b) (a + 1) (by omega), readByte_writeByte h]
    have : a' ≠ a := by omega
    simp [this]

/-- A byte within the written run reads as written. -/
theorem readByte_writeBytes_inside {m : Mem} (h : Memory.wf m = true) (a : Nat) (bs : List Byte) (i : Nat) (hi : i < bs.length) :
    readByte (writeBytes m a bs) (a + i) = bs[i] := by
  induction bs generalizing m a i with
  | nil => simp at hi
  | cons b bs ih =>
    cases i with
    | zero =>
      simp only [writeBytes, Nat.add_zero, List.getElem_cons_zero]
      rw [readByte_writeBytes_outside (wf_writeByte h a b) (a + 1) bs a (by omega), readByte_writeByte h]
      simp
    | succ i =>
      simp only [writeBytes, List.getElem_cons_succ]
      rw [show a + (i + 1) = a + 1 + i by omega]
      exact ih (wf_writeByte h a b) (a + 1) i (by simpa using hi)

@[simp] theorem readBytes_length (m : Mem) (a n : Nat) : (readBytes m a n).length = n := by
  induction n generalizing a with
  | zero => rfl
  | succ n ih => simp [readBytes, ih]

@[simp] theorem leBytes_length (v n : Nat) : (leBytes v n).length = n := by
  induction n generalizing v with
  | zero => rfl
  | succ n ih => simp [leBytes, ih]

/-- The bytes of a number spell it. -/
theorem leNat_leBytes (v n : Nat) : leNat (leBytes v n) = v % 256 ^ n := by
  induction n generalizing v with
  | zero => simp [leBytes, leNat, Nat.mod_one]
  | succ n ih =>
    have h256 : v % 2 ^ 8 + 256 * (v / 256 % 256 ^ n) = v % 256 ^ (n + 1) := by
      rw [Nat.pow_succ' (n := n), Nat.mod_mul, show (2:Nat) ^ 8 = 256 from rfl]
    simp only [leBytes, leNat, ih, BitVec.toNat_ofNat]
    exact h256

end Sys2Proof.Machine
end

