-- ==== Sys2Proof/Laws/State.lean ====
section
/-! SUPPORT. One lemma per field per update of the state, so that no proof unfolds a record update. -/

namespace Sys2Proof.Machine
open Sys2Proof

variable (s : State)

/-! ### modPan -/

@[simp] theorem modPan_pending (p : Nat) (f : Pan → Pan) : (s.modPan p f).pending = s.pending := rfl
@[simp] theorem modPan_powered (p : Nat) (f : Pan → Pan) : (s.modPan p f).powered = s.powered := rfl
@[simp] theorem modPan_boot (p : Nat) (f : Pan → Pan) : (s.modPan p f).boot = s.boot := rfl
@[simp] theorem modPan_topo (p : Nat) (f : Pan → Pan) : (s.modPan p f).topo = s.topo := rfl
@[simp] theorem modPan_regions (p : Nat) (f : Pan → Pan) : (s.modPan p f).regions = s.regions := rfl
@[simp] theorem modPan_fields (p : Nat) (f : Pan → Pan) : (s.modPan p f).fields = s.fields := rfl
@[simp] theorem modPan_pans (p : Nat) (f : Pan → Pan) : (s.modPan p f).pans = upd {} p f s.pans := rfl
@[simp] theorem modPan_cc (p : Nat) (f : Pan → Pan) : (s.modPan p f).cc = s.cc := rfl
@[simp] theorem modPan_slices (p : Nat) (f : Pan → Pan) : (s.modPan p f).slices = s.slices := rfl
@[simp] theorem modPan_chans (p : Nat) (f : Pan → Pan) : (s.modPan p f).chans = s.chans := rfl
@[simp] theorem modPan_memdev (p : Nat) (f : Pan → Pan) : (s.modPan p f).memdev = s.memdev := rfl
@[simp] theorem modPan_net (p : Nat) (f : Pan → Pan) : (s.modPan p f).net = s.net := rfl
@[simp] theorem modPan_fin (p : Nat) (f : Pan → Pan) : (s.modPan p f).fin = s.fin := rfl
@[simp] theorem modPan_svc (p : Nat) (f : Pan → Pan) : (s.modPan p f).svc = s.svc := rfl
@[simp] theorem modPan_jobs (p : Nat) (f : Pan → Pan) : (s.modPan p f).jobs = s.jobs := rfl
@[simp] theorem modPan_mirror (p : Nat) (f : Pan → Pan) : (s.modPan p f).mirror = s.mirror := rfl
@[simp] theorem modPan_clock (p : Nat) (f : Pan → Pan) : (s.modPan p f).clock = s.clock := rfl
@[simp] theorem modPan_power (p : Nat) (f : Pan → Pan) : (s.modPan p f).power = s.power := rfl
@[simp] theorem modPan_hif (p : Nat) (f : Pan → Pan) : (s.modPan p f).hif = s.hif := rfl
@[simp] theorem modPan_faults (p : Nat) (f : Pan → Pan) : (s.modPan p f).faults = s.faults := rfl
@[simp] theorem modPan_gauges (p : Nat) (f : Pan → Pan) : (s.modPan p f).gauges = s.gauges := rfl
@[simp] theorem modPan_sec (p : Nat) (f : Pan → Pan) : (s.modPan p f).sec = s.sec := rfl
@[simp] theorem modPan_outs (p : Nat) (f : Pan → Pan) : (s.modPan p f).outs = s.outs := rfl
@[simp] theorem modPan_issuedOuts (p : Nat) (f : Pan → Pan) : (s.modPan p f).issuedOuts = s.issuedOuts := rfl
@[simp] theorem modPan_storeMem (p : Nat) (f : Pan → Pan) : (s.modPan p f).storeMem = s.storeMem := rfl
@[simp] theorem modPan_brineMem (p : Nat) (f : Pan → Pan) : (s.modPan p f).brineMem = s.brineMem := rfl
@[simp] theorem modPan_cellarMem (p : Nat) (f : Pan → Pan) : (s.modPan p f).cellarMem = s.cellarMem := rfl
@[simp] theorem modPan_hostMem (p : Nat) (f : Pan → Pan) : (s.modPan p f).hostMem = s.hostMem := rfl
@[simp] theorem modPan_slotMem (p : Nat) (f : Pan → Pan) : (s.modPan p f).slotMem = s.slotMem := rfl
@[simp] theorem modPan_draws (p : Nat) (f : Pan → Pan) : (s.modPan p f).draws = s.draws := rfl

/-! ### modSeq -/

@[simp] theorem modSeq_pending (p : Nat) (f : Seq → Seq) : (s.modSeq p f).pending = s.pending := rfl
@[simp] theorem modSeq_powered (p : Nat) (f : Seq → Seq) : (s.modSeq p f).powered = s.powered := rfl
@[simp] theorem modSeq_boot (p : Nat) (f : Seq → Seq) : (s.modSeq p f).boot = s.boot := rfl
@[simp] theorem modSeq_topo (p : Nat) (f : Seq → Seq) : (s.modSeq p f).topo = s.topo := rfl
@[simp] theorem modSeq_regions (p : Nat) (f : Seq → Seq) : (s.modSeq p f).regions = s.regions := rfl
@[simp] theorem modSeq_fields (p : Nat) (f : Seq → Seq) : (s.modSeq p f).fields = s.fields := rfl
@[simp] theorem modSeq_cc (p : Nat) (f : Seq → Seq) : (s.modSeq p f).cc = s.cc := rfl
@[simp] theorem modSeq_slices (p : Nat) (f : Seq → Seq) : (s.modSeq p f).slices = s.slices := rfl
@[simp] theorem modSeq_chans (p : Nat) (f : Seq → Seq) : (s.modSeq p f).chans = s.chans := rfl
@[simp] theorem modSeq_memdev (p : Nat) (f : Seq → Seq) : (s.modSeq p f).memdev = s.memdev := rfl
@[simp] theorem modSeq_net (p : Nat) (f : Seq → Seq) : (s.modSeq p f).net = s.net := rfl
@[simp] theorem modSeq_fin (p : Nat) (f : Seq → Seq) : (s.modSeq p f).fin = s.fin := rfl
@[simp] theorem modSeq_svc (p : Nat) (f : Seq → Seq) : (s.modSeq p f).svc = s.svc := rfl
@[simp] theorem modSeq_jobs (p : Nat) (f : Seq → Seq) : (s.modSeq p f).jobs = s.jobs := rfl
@[simp] theorem modSeq_mirror (p : Nat) (f : Seq → Seq) : (s.modSeq p f).mirror = s.mirror := rfl
@[simp] theorem modSeq_clock (p : Nat) (f : Seq → Seq) : (s.modSeq p f).clock = s.clock := rfl
@[simp] theorem modSeq_power (p : Nat) (f : Seq → Seq) : (s.modSeq p f).power = s.power := rfl
@[simp] theorem modSeq_hif (p : Nat) (f : Seq → Seq) : (s.modSeq p f).hif = s.hif := rfl
@[simp] theorem modSeq_faults (p : Nat) (f : Seq → Seq) : (s.modSeq p f).faults = s.faults := rfl
@[simp] theorem modSeq_gauges (p : Nat) (f : Seq → Seq) : (s.modSeq p f).gauges = s.gauges := rfl
@[simp] theorem modSeq_sec (p : Nat) (f : Seq → Seq) : (s.modSeq p f).sec = s.sec := rfl
@[simp] theorem modSeq_outs (p : Nat) (f : Seq → Seq) : (s.modSeq p f).outs = s.outs := rfl
@[simp] theorem modSeq_issuedOuts (p : Nat) (f : Seq → Seq) : (s.modSeq p f).issuedOuts = s.issuedOuts := rfl
@[simp] theorem modSeq_storeMem (p : Nat) (f : Seq → Seq) : (s.modSeq p f).storeMem = s.storeMem := rfl
@[simp] theorem modSeq_brineMem (p : Nat) (f : Seq → Seq) : (s.modSeq p f).brineMem = s.brineMem := rfl
@[simp] theorem modSeq_cellarMem (p : Nat) (f : Seq → Seq) : (s.modSeq p f).cellarMem = s.cellarMem := rfl
@[simp] theorem modSeq_hostMem (p : Nat) (f : Seq → Seq) : (s.modSeq p f).hostMem = s.hostMem := rfl
@[simp] theorem modSeq_slotMem (p : Nat) (f : Seq → Seq) : (s.modSeq p f).slotMem = s.slotMem := rfl
@[simp] theorem modSeq_draws (p : Nat) (f : Seq → Seq) : (s.modSeq p f).draws = s.draws := rfl

/-! ### modLat -/

@[simp] theorem modLat_pending (p : Nat) (f : Lat → Lat) : (s.modLat p f).pending = s.pending := rfl
@[simp] theorem modLat_powered (p : Nat) (f : Lat → Lat) : (s.modLat p f).powered = s.powered := rfl
@[simp] theorem modLat_boot (p : Nat) (f : Lat → Lat) : (s.modLat p f).boot = s.boot := rfl
@[simp] theorem modLat_topo (p : Nat) (f : Lat → Lat) : (s.modLat p f).topo = s.topo := rfl
@[simp] theorem modLat_regions (p : Nat) (f : Lat → Lat) : (s.modLat p f).regions = s.regions := rfl
@[simp] theorem modLat_fields (p : Nat) (f : Lat → Lat) : (s.modLat p f).fields = s.fields := rfl
@[simp] theorem modLat_cc (p : Nat) (f : Lat → Lat) : (s.modLat p f).cc = s.cc := rfl
@[simp] theorem modLat_slices (p : Nat) (f : Lat → Lat) : (s.modLat p f).slices = s.slices := rfl
@[simp] theorem modLat_chans (p : Nat) (f : Lat → Lat) : (s.modLat p f).chans = s.chans := rfl
@[simp] theorem modLat_memdev (p : Nat) (f : Lat → Lat) : (s.modLat p f).memdev = s.memdev := rfl
@[simp] theorem modLat_net (p : Nat) (f : Lat → Lat) : (s.modLat p f).net = s.net := rfl
@[simp] theorem modLat_fin (p : Nat) (f : Lat → Lat) : (s.modLat p f).fin = s.fin := rfl
@[simp] theorem modLat_svc (p : Nat) (f : Lat → Lat) : (s.modLat p f).svc = s.svc := rfl
@[simp] theorem modLat_jobs (p : Nat) (f : Lat → Lat) : (s.modLat p f).jobs = s.jobs := rfl
@[simp] theorem modLat_mirror (p : Nat) (f : Lat → Lat) : (s.modLat p f).mirror = s.mirror := rfl
@[simp] theorem modLat_clock (p : Nat) (f : Lat → Lat) : (s.modLat p f).clock = s.clock := rfl
@[simp] theorem modLat_power (p : Nat) (f : Lat → Lat) : (s.modLat p f).power = s.power := rfl
@[simp] theorem modLat_hif (p : Nat) (f : Lat → Lat) : (s.modLat p f).hif = s.hif := rfl
@[simp] theorem modLat_faults (p : Nat) (f : Lat → Lat) : (s.modLat p f).faults = s.faults := rfl
@[simp] theorem modLat_gauges (p : Nat) (f : Lat → Lat) : (s.modLat p f).gauges = s.gauges := rfl
@[simp] theorem modLat_sec (p : Nat) (f : Lat → Lat) : (s.modLat p f).sec = s.sec := rfl
@[simp] theorem modLat_outs (p : Nat) (f : Lat → Lat) : (s.modLat p f).outs = s.outs := rfl
@[simp] theorem modLat_issuedOuts (p : Nat) (f : Lat → Lat) : (s.modLat p f).issuedOuts = s.issuedOuts := rfl
@[simp] theorem modLat_storeMem (p : Nat) (f : Lat → Lat) : (s.modLat p f).storeMem = s.storeMem := rfl
@[simp] theorem modLat_brineMem (p : Nat) (f : Lat → Lat) : (s.modLat p f).brineMem = s.brineMem := rfl
@[simp] theorem modLat_cellarMem (p : Nat) (f : Lat → Lat) : (s.modLat p f).cellarMem = s.cellarMem := rfl
@[simp] theorem modLat_hostMem (p : Nat) (f : Lat → Lat) : (s.modLat p f).hostMem = s.hostMem := rfl
@[simp] theorem modLat_slotMem (p : Nat) (f : Lat → Lat) : (s.modLat p f).slotMem = s.slotMem := rfl
@[simp] theorem modLat_draws (p : Nat) (f : Lat → Lat) : (s.modLat p f).draws = s.draws := rfl

/-! ### modStore -/

@[simp] theorem modStore_pending (p : Nat) (f : Store → Store) : (s.modStore p f).pending = s.pending := rfl
@[simp] theorem modStore_powered (p : Nat) (f : Store → Store) : (s.modStore p f).powered = s.powered := rfl
@[simp] theorem modStore_boot (p : Nat) (f : Store → Store) : (s.modStore p f).boot = s.boot := rfl
@[simp] theorem modStore_topo (p : Nat) (f : Store → Store) : (s.modStore p f).topo = s.topo := rfl
@[simp] theorem modStore_regions (p : Nat) (f : Store → Store) : (s.modStore p f).regions = s.regions := rfl
@[simp] theorem modStore_fields (p : Nat) (f : Store → Store) : (s.modStore p f).fields = s.fields := rfl
@[simp] theorem modStore_cc (p : Nat) (f : Store → Store) : (s.modStore p f).cc = s.cc := rfl
@[simp] theorem modStore_slices (p : Nat) (f : Store → Store) : (s.modStore p f).slices = s.slices := rfl
@[simp] theorem modStore_chans (p : Nat) (f : Store → Store) : (s.modStore p f).chans = s.chans := rfl
@[simp] theorem modStore_memdev (p : Nat) (f : Store → Store) : (s.modStore p f).memdev = s.memdev := rfl
@[simp] theorem modStore_net (p : Nat) (f : Store → Store) : (s.modStore p f).net = s.net := rfl
@[simp] theorem modStore_fin (p : Nat) (f : Store → Store) : (s.modStore p f).fin = s.fin := rfl
@[simp] theorem modStore_svc (p : Nat) (f : Store → Store) : (s.modStore p f).svc = s.svc := rfl
@[simp] theorem modStore_jobs (p : Nat) (f : Store → Store) : (s.modStore p f).jobs = s.jobs := rfl
@[simp] theorem modStore_mirror (p : Nat) (f : Store → Store) : (s.modStore p f).mirror = s.mirror := rfl
@[simp] theorem modStore_clock (p : Nat) (f : Store → Store) : (s.modStore p f).clock = s.clock := rfl
@[simp] theorem modStore_power (p : Nat) (f : Store → Store) : (s.modStore p f).power = s.power := rfl
@[simp] theorem modStore_hif (p : Nat) (f : Store → Store) : (s.modStore p f).hif = s.hif := rfl
@[simp] theorem modStore_faults (p : Nat) (f : Store → Store) : (s.modStore p f).faults = s.faults := rfl
@[simp] theorem modStore_gauges (p : Nat) (f : Store → Store) : (s.modStore p f).gauges = s.gauges := rfl
@[simp] theorem modStore_sec (p : Nat) (f : Store → Store) : (s.modStore p f).sec = s.sec := rfl
@[simp] theorem modStore_outs (p : Nat) (f : Store → Store) : (s.modStore p f).outs = s.outs := rfl
@[simp] theorem modStore_issuedOuts (p : Nat) (f : Store → Store) : (s.modStore p f).issuedOuts = s.issuedOuts := rfl
@[simp] theorem modStore_storeMem (p : Nat) (f : Store → Store) : (s.modStore p f).storeMem = s.storeMem := rfl
@[simp] theorem modStore_brineMem (p : Nat) (f : Store → Store) : (s.modStore p f).brineMem = s.brineMem := rfl
@[simp] theorem modStore_cellarMem (p : Nat) (f : Store → Store) : (s.modStore p f).cellarMem = s.cellarMem := rfl
@[simp] theorem modStore_hostMem (p : Nat) (f : Store → Store) : (s.modStore p f).hostMem = s.hostMem := rfl
@[simp] theorem modStore_slotMem (p : Nat) (f : Store → Store) : (s.modStore p f).slotMem = s.slotMem := rfl
@[simp] theorem modStore_draws (p : Nat) (f : Store → Store) : (s.modStore p f).draws = s.draws := rfl

/-! ### modSlice -/

@[simp] theorem modSlice_pending (i : Nat) (f : Slice → Slice) : (s.modSlice i f).pending = s.pending := rfl
@[simp] theorem modSlice_powered (i : Nat) (f : Slice → Slice) : (s.modSlice i f).powered = s.powered := rfl
@[simp] theorem modSlice_boot (i : Nat) (f : Slice → Slice) : (s.modSlice i f).boot = s.boot := rfl
@[simp] theorem modSlice_topo (i : Nat) (f : Slice → Slice) : (s.modSlice i f).topo = s.topo := rfl
@[simp] theorem modSlice_regions (i : Nat) (f : Slice → Slice) : (s.modSlice i f).regions = s.regions := rfl
@[simp] theorem modSlice_fields (i : Nat) (f : Slice → Slice) : (s.modSlice i f).fields = s.fields := rfl
@[simp] theorem modSlice_pans (i : Nat) (f : Slice → Slice) : (s.modSlice i f).pans = s.pans := rfl
@[simp] theorem modSlice_cc (i : Nat) (f : Slice → Slice) : (s.modSlice i f).cc = s.cc := rfl
@[simp] theorem modSlice_slices (i : Nat) (f : Slice → Slice) : (s.modSlice i f).slices = upd {} i f s.slices := rfl
@[simp] theorem modSlice_chans (i : Nat) (f : Slice → Slice) : (s.modSlice i f).chans = s.chans := rfl
@[simp] theorem modSlice_memdev (i : Nat) (f : Slice → Slice) : (s.modSlice i f).memdev = s.memdev := rfl
@[simp] theorem modSlice_net (i : Nat) (f : Slice → Slice) : (s.modSlice i f).net = s.net := rfl
@[simp] theorem modSlice_fin (i : Nat) (f : Slice → Slice) : (s.modSlice i f).fin = s.fin := rfl
@[simp] theorem modSlice_svc (i : Nat) (f : Slice → Slice) : (s.modSlice i f).svc = s.svc := rfl
@[simp] theorem modSlice_jobs (i : Nat) (f : Slice → Slice) : (s.modSlice i f).jobs = s.jobs := rfl
@[simp] theorem modSlice_mirror (i : Nat) (f : Slice → Slice) : (s.modSlice i f).mirror = s.mirror := rfl
@[simp] theorem modSlice_clock (i : Nat) (f : Slice → Slice) : (s.modSlice i f).clock = s.clock := rfl
@[simp] theorem modSlice_power (i : Nat) (f : Slice → Slice) : (s.modSlice i f).power = s.power := rfl
@[simp] theorem modSlice_hif (i : Nat) (f : Slice → Slice) : (s.modSlice i f).hif = s.hif := rfl
@[simp] theorem modSlice_faults (i : Nat) (f : Slice → Slice) : (s.modSlice i f).faults = s.faults := rfl
@[simp] theorem modSlice_gauges (i : Nat) (f : Slice → Slice) : (s.modSlice i f).gauges = s.gauges := rfl
@[simp] theorem modSlice_sec (i : Nat) (f : Slice → Slice) : (s.modSlice i f).sec = s.sec := rfl
@[simp] theorem modSlice_outs (i : Nat) (f : Slice → Slice) : (s.modSlice i f).outs = s.outs := rfl
@[simp] theorem modSlice_issuedOuts (i : Nat) (f : Slice → Slice) : (s.modSlice i f).issuedOuts = s.issuedOuts := rfl
@[simp] theorem modSlice_storeMem (i : Nat) (f : Slice → Slice) : (s.modSlice i f).storeMem = s.storeMem := rfl
@[simp] theorem modSlice_brineMem (i : Nat) (f : Slice → Slice) : (s.modSlice i f).brineMem = s.brineMem := rfl
@[simp] theorem modSlice_cellarMem (i : Nat) (f : Slice → Slice) : (s.modSlice i f).cellarMem = s.cellarMem := rfl
@[simp] theorem modSlice_hostMem (i : Nat) (f : Slice → Slice) : (s.modSlice i f).hostMem = s.hostMem := rfl
@[simp] theorem modSlice_slotMem (i : Nat) (f : Slice → Slice) : (s.modSlice i f).slotMem = s.slotMem := rfl
@[simp] theorem modSlice_draws (i : Nat) (f : Slice → Slice) : (s.modSlice i f).draws = s.draws := rfl

/-! ### modChan -/

@[simp] theorem modChan_pending (i : Nat) (f : Chan → Chan) : (s.modChan i f).pending = s.pending := rfl
@[simp] theorem modChan_powered (i : Nat) (f : Chan → Chan) : (s.modChan i f).powered = s.powered := rfl
@[simp] theorem modChan_boot (i : Nat) (f : Chan → Chan) : (s.modChan i f).boot = s.boot := rfl
@[simp] theorem modChan_topo (i : Nat) (f : Chan → Chan) : (s.modChan i f).topo = s.topo := rfl
@[simp] theorem modChan_regions (i : Nat) (f : Chan → Chan) : (s.modChan i f).regions = s.regions := rfl
@[simp] theorem modChan_fields (i : Nat) (f : Chan → Chan) : (s.modChan i f).fields = s.fields := rfl
@[simp] theorem modChan_pans (i : Nat) (f : Chan → Chan) : (s.modChan i f).pans = s.pans := rfl
@[simp] theorem modChan_cc (i : Nat) (f : Chan → Chan) : (s.modChan i f).cc = s.cc := rfl
@[simp] theorem modChan_slices (i : Nat) (f : Chan → Chan) : (s.modChan i f).slices = s.slices := rfl
@[simp] theorem modChan_chans (i : Nat) (f : Chan → Chan) : (s.modChan i f).chans = upd {} i f s.chans := rfl
@[simp] theorem modChan_memdev (i : Nat) (f : Chan → Chan) : (s.modChan i f).memdev = s.memdev := rfl
@[simp] theorem modChan_net (i : Nat) (f : Chan → Chan) : (s.modChan i f).net = s.net := rfl
@[simp] theorem modChan_fin (i : Nat) (f : Chan → Chan) : (s.modChan i f).fin = s.fin := rfl
@[simp] theorem modChan_svc (i : Nat) (f : Chan → Chan) : (s.modChan i f).svc = s.svc := rfl
@[simp] theorem modChan_jobs (i : Nat) (f : Chan → Chan) : (s.modChan i f).jobs = s.jobs := rfl
@[simp] theorem modChan_mirror (i : Nat) (f : Chan → Chan) : (s.modChan i f).mirror = s.mirror := rfl
@[simp] theorem modChan_clock (i : Nat) (f : Chan → Chan) : (s.modChan i f).clock = s.clock := rfl
@[simp] theorem modChan_power (i : Nat) (f : Chan → Chan) : (s.modChan i f).power = s.power := rfl
@[simp] theorem modChan_hif (i : Nat) (f : Chan → Chan) : (s.modChan i f).hif = s.hif := rfl
@[simp] theorem modChan_faults (i : Nat) (f : Chan → Chan) : (s.modChan i f).faults = s.faults := rfl
@[simp] theorem modChan_gauges (i : Nat) (f : Chan → Chan) : (s.modChan i f).gauges = s.gauges := rfl
@[simp] theorem modChan_sec (i : Nat) (f : Chan → Chan) : (s.modChan i f).sec = s.sec := rfl
@[simp] theorem modChan_outs (i : Nat) (f : Chan → Chan) : (s.modChan i f).outs = s.outs := rfl
@[simp] theorem modChan_issuedOuts (i : Nat) (f : Chan → Chan) : (s.modChan i f).issuedOuts = s.issuedOuts := rfl
@[simp] theorem modChan_storeMem (i : Nat) (f : Chan → Chan) : (s.modChan i f).storeMem = s.storeMem := rfl
@[simp] theorem modChan_brineMem (i : Nat) (f : Chan → Chan) : (s.modChan i f).brineMem = s.brineMem := rfl
@[simp] theorem modChan_cellarMem (i : Nat) (f : Chan → Chan) : (s.modChan i f).cellarMem = s.cellarMem := rfl
@[simp] theorem modChan_hostMem (i : Nat) (f : Chan → Chan) : (s.modChan i f).hostMem = s.hostMem := rfl
@[simp] theorem modChan_slotMem (i : Nat) (f : Chan → Chan) : (s.modChan i f).slotMem = s.slotMem := rfl
@[simp] theorem modChan_draws (i : Nat) (f : Chan → Chan) : (s.modChan i f).draws = s.draws := rfl

/-! ### modRegion -/

@[simp] theorem modRegion_pending (r : Nat) (f : Region → Region) : (s.modRegion r f).pending = s.pending := rfl
@[simp] theorem modRegion_powered (r : Nat) (f : Region → Region) : (s.modRegion r f).powered = s.powered := rfl
@[simp] theorem modRegion_boot (r : Nat) (f : Region → Region) : (s.modRegion r f).boot = s.boot := rfl
@[simp] theorem modRegion_topo (r : Nat) (f : Region → Region) : (s.modRegion r f).topo = s.topo := rfl
@[simp] theorem modRegion_regions (r : Nat) (f : Region → Region) : (s.modRegion r f).regions = upd {} r f s.regions := rfl
@[simp] theorem modRegion_fields (r : Nat) (f : Region → Region) : (s.modRegion r f).fields = s.fields := rfl
@[simp] theorem modRegion_pans (r : Nat) (f : Region → Region) : (s.modRegion r f).pans = s.pans := rfl
@[simp] theorem modRegion_cc (r : Nat) (f : Region → Region) : (s.modRegion r f).cc = s.cc := rfl
@[simp] theorem modRegion_slices (r : Nat) (f : Region → Region) : (s.modRegion r f).slices = s.slices := rfl
@[simp] theorem modRegion_chans (r : Nat) (f : Region → Region) : (s.modRegion r f).chans = s.chans := rfl
@[simp] theorem modRegion_memdev (r : Nat) (f : Region → Region) : (s.modRegion r f).memdev = s.memdev := rfl
@[simp] theorem modRegion_net (r : Nat) (f : Region → Region) : (s.modRegion r f).net = s.net := rfl
@[simp] theorem modRegion_fin (r : Nat) (f : Region → Region) : (s.modRegion r f).fin = s.fin := rfl
@[simp] theorem modRegion_svc (r : Nat) (f : Region → Region) : (s.modRegion r f).svc = s.svc := rfl
@[simp] theorem modRegion_jobs (r : Nat) (f : Region → Region) : (s.modRegion r f).jobs = s.jobs := rfl
@[simp] theorem modRegion_mirror (r : Nat) (f : Region → Region) : (s.modRegion r f).mirror = s.mirror := rfl
@[simp] theorem modRegion_clock (r : Nat) (f : Region → Region) : (s.modRegion r f).clock = s.clock := rfl
@[simp] theorem modRegion_power (r : Nat) (f : Region → Region) : (s.modRegion r f).power = s.power := rfl
@[simp] theorem modRegion_hif (r : Nat) (f : Region → Region) : (s.modRegion r f).hif = s.hif := rfl
@[simp] theorem modRegion_faults (r : Nat) (f : Region → Region) : (s.modRegion r f).faults = s.faults := rfl
@[simp] theorem modRegion_gauges (r : Nat) (f : Region → Region) : (s.modRegion r f).gauges = s.gauges := rfl
@[simp] theorem modRegion_sec (r : Nat) (f : Region → Region) : (s.modRegion r f).sec = s.sec := rfl
@[simp] theorem modRegion_outs (r : Nat) (f : Region → Region) : (s.modRegion r f).outs = s.outs := rfl
@[simp] theorem modRegion_issuedOuts (r : Nat) (f : Region → Region) : (s.modRegion r f).issuedOuts = s.issuedOuts := rfl
@[simp] theorem modRegion_storeMem (r : Nat) (f : Region → Region) : (s.modRegion r f).storeMem = s.storeMem := rfl
@[simp] theorem modRegion_brineMem (r : Nat) (f : Region → Region) : (s.modRegion r f).brineMem = s.brineMem := rfl
@[simp] theorem modRegion_cellarMem (r : Nat) (f : Region → Region) : (s.modRegion r f).cellarMem = s.cellarMem := rfl
@[simp] theorem modRegion_hostMem (r : Nat) (f : Region → Region) : (s.modRegion r f).hostMem = s.hostMem := rfl
@[simp] theorem modRegion_slotMem (r : Nat) (f : Region → Region) : (s.modRegion r f).slotMem = s.slotMem := rfl
@[simp] theorem modRegion_draws (r : Nat) (f : Region → Region) : (s.modRegion r f).draws = s.draws := rfl

/-! ### modField -/

@[simp] theorem modField_pending (i : Nat) (f : FieldPwr → FieldPwr) : (s.modField i f).pending = s.pending := rfl
@[simp] theorem modField_powered (i : Nat) (f : FieldPwr → FieldPwr) : (s.modField i f).powered = s.powered := rfl
@[simp] theorem modField_boot (i : Nat) (f : FieldPwr → FieldPwr) : (s.modField i f).boot = s.boot := rfl
@[simp] theorem modField_topo (i : Nat) (f : FieldPwr → FieldPwr) : (s.modField i f).topo = s.topo := rfl
@[simp] theorem modField_regions (i : Nat) (f : FieldPwr → FieldPwr) : (s.modField i f).regions = s.regions := rfl
@[simp] theorem modField_fields (i : Nat) (f : FieldPwr → FieldPwr) : (s.modField i f).fields = upd {} i f s.fields := rfl
@[simp] theorem modField_pans (i : Nat) (f : FieldPwr → FieldPwr) : (s.modField i f).pans = s.pans := rfl
@[simp] theorem modField_cc (i : Nat) (f : FieldPwr → FieldPwr) : (s.modField i f).cc = s.cc := rfl
@[simp] theorem modField_slices (i : Nat) (f : FieldPwr → FieldPwr) : (s.modField i f).slices = s.slices := rfl
@[simp] theorem modField_chans (i : Nat) (f : FieldPwr → FieldPwr) : (s.modField i f).chans = s.chans := rfl
@[simp] theorem modField_memdev (i : Nat) (f : FieldPwr → FieldPwr) : (s.modField i f).memdev = s.memdev := rfl
@[simp] theorem modField_net (i : Nat) (f : FieldPwr → FieldPwr) : (s.modField i f).net = s.net := rfl
@[simp] theorem modField_fin (i : Nat) (f : FieldPwr → FieldPwr) : (s.modField i f).fin = s.fin := rfl
@[simp] theorem modField_svc (i : Nat) (f : FieldPwr → FieldPwr) : (s.modField i f).svc = s.svc := rfl
@[simp] theorem modField_jobs (i : Nat) (f : FieldPwr → FieldPwr) : (s.modField i f).jobs = s.jobs := rfl
@[simp] theorem modField_mirror (i : Nat) (f : FieldPwr → FieldPwr) : (s.modField i f).mirror = s.mirror := rfl
@[simp] theorem modField_clock (i : Nat) (f : FieldPwr → FieldPwr) : (s.modField i f).clock = s.clock := rfl
@[simp] theorem modField_power (i : Nat) (f : FieldPwr → FieldPwr) : (s.modField i f).power = s.power := rfl
@[simp] theorem modField_hif (i : Nat) (f : FieldPwr → FieldPwr) : (s.modField i f).hif = s.hif := rfl
@[simp] theorem modField_faults (i : Nat) (f : FieldPwr → FieldPwr) : (s.modField i f).faults = s.faults := rfl
@[simp] theorem modField_gauges (i : Nat) (f : FieldPwr → FieldPwr) : (s.modField i f).gauges = s.gauges := rfl
@[simp] theorem modField_sec (i : Nat) (f : FieldPwr → FieldPwr) : (s.modField i f).sec = s.sec := rfl
@[simp] theorem modField_outs (i : Nat) (f : FieldPwr → FieldPwr) : (s.modField i f).outs = s.outs := rfl
@[simp] theorem modField_issuedOuts (i : Nat) (f : FieldPwr → FieldPwr) : (s.modField i f).issuedOuts = s.issuedOuts := rfl
@[simp] theorem modField_storeMem (i : Nat) (f : FieldPwr → FieldPwr) : (s.modField i f).storeMem = s.storeMem := rfl
@[simp] theorem modField_brineMem (i : Nat) (f : FieldPwr → FieldPwr) : (s.modField i f).brineMem = s.brineMem := rfl
@[simp] theorem modField_cellarMem (i : Nat) (f : FieldPwr → FieldPwr) : (s.modField i f).cellarMem = s.cellarMem := rfl
@[simp] theorem modField_hostMem (i : Nat) (f : FieldPwr → FieldPwr) : (s.modField i f).hostMem = s.hostMem := rfl
@[simp] theorem modField_slotMem (i : Nat) (f : FieldPwr → FieldPwr) : (s.modField i f).slotMem = s.slotMem := rfl
@[simp] theorem modField_draws (i : Nat) (f : FieldPwr → FieldPwr) : (s.modField i f).draws = s.draws := rfl

/-! ### modTopo -/

@[simp] theorem modTopo_pending (i : Nat) (f : Topo → Topo) : (s.modTopo i f).pending = s.pending := rfl
@[simp] theorem modTopo_powered (i : Nat) (f : Topo → Topo) : (s.modTopo i f).powered = s.powered := rfl
@[simp] theorem modTopo_boot (i : Nat) (f : Topo → Topo) : (s.modTopo i f).boot = s.boot := rfl
@[simp] theorem modTopo_topo (i : Nat) (f : Topo → Topo) : (s.modTopo i f).topo = upd {} i f s.topo := rfl
@[simp] theorem modTopo_regions (i : Nat) (f : Topo → Topo) : (s.modTopo i f).regions = s.regions := rfl
@[simp] theorem modTopo_fields (i : Nat) (f : Topo → Topo) : (s.modTopo i f).fields = s.fields := rfl
@[simp] theorem modTopo_pans (i : Nat) (f : Topo → Topo) : (s.modTopo i f).pans = s.pans := rfl
@[simp] theorem modTopo_cc (i : Nat) (f : Topo → Topo) : (s.modTopo i f).cc = s.cc := rfl
@[simp] theorem modTopo_slices (i : Nat) (f : Topo → Topo) : (s.modTopo i f).slices = s.slices := rfl
@[simp] theorem modTopo_chans (i : Nat) (f : Topo → Topo) : (s.modTopo i f).chans = s.chans := rfl
@[simp] theorem modTopo_memdev (i : Nat) (f : Topo → Topo) : (s.modTopo i f).memdev = s.memdev := rfl
@[simp] theorem modTopo_net (i : Nat) (f : Topo → Topo) : (s.modTopo i f).net = s.net := rfl
@[simp] theorem modTopo_fin (i : Nat) (f : Topo → Topo) : (s.modTopo i f).fin = s.fin := rfl
@[simp] theorem modTopo_svc (i : Nat) (f : Topo → Topo) : (s.modTopo i f).svc = s.svc := rfl
@[simp] theorem modTopo_jobs (i : Nat) (f : Topo → Topo) : (s.modTopo i f).jobs = s.jobs := rfl
@[simp] theorem modTopo_mirror (i : Nat) (f : Topo → Topo) : (s.modTopo i f).mirror = s.mirror := rfl
@[simp] theorem modTopo_clock (i : Nat) (f : Topo → Topo) : (s.modTopo i f).clock = s.clock := rfl
@[simp] theorem modTopo_power (i : Nat) (f : Topo → Topo) : (s.modTopo i f).power = s.power := rfl
@[simp] theorem modTopo_hif (i : Nat) (f : Topo → Topo) : (s.modTopo i f).hif = s.hif := rfl
@[simp] theorem modTopo_faults (i : Nat) (f : Topo → Topo) : (s.modTopo i f).faults = s.faults := rfl
@[simp] theorem modTopo_gauges (i : Nat) (f : Topo → Topo) : (s.modTopo i f).gauges = s.gauges := rfl
@[simp] theorem modTopo_sec (i : Nat) (f : Topo → Topo) : (s.modTopo i f).sec = s.sec := rfl
@[simp] theorem modTopo_outs (i : Nat) (f : Topo → Topo) : (s.modTopo i f).outs = s.outs := rfl
@[simp] theorem modTopo_issuedOuts (i : Nat) (f : Topo → Topo) : (s.modTopo i f).issuedOuts = s.issuedOuts := rfl
@[simp] theorem modTopo_storeMem (i : Nat) (f : Topo → Topo) : (s.modTopo i f).storeMem = s.storeMem := rfl
@[simp] theorem modTopo_brineMem (i : Nat) (f : Topo → Topo) : (s.modTopo i f).brineMem = s.brineMem := rfl
@[simp] theorem modTopo_cellarMem (i : Nat) (f : Topo → Topo) : (s.modTopo i f).cellarMem = s.cellarMem := rfl
@[simp] theorem modTopo_hostMem (i : Nat) (f : Topo → Topo) : (s.modTopo i f).hostMem = s.hostMem := rfl
@[simp] theorem modTopo_slotMem (i : Nat) (f : Topo → Topo) : (s.modTopo i f).slotMem = s.slotMem := rfl
@[simp] theorem modTopo_draws (i : Nat) (f : Topo → Topo) : (s.modTopo i f).draws = s.draws := rfl

/-! ### modRouter -/

@[simp] theorem modRouter_pending (gx gy : Nat) (f : Router → Router) : (s.modRouter gx gy f).pending = s.pending := rfl
@[simp] theorem modRouter_powered (gx gy : Nat) (f : Router → Router) : (s.modRouter gx gy f).powered = s.powered := rfl
@[simp] theorem modRouter_boot (gx gy : Nat) (f : Router → Router) : (s.modRouter gx gy f).boot = s.boot := rfl
@[simp] theorem modRouter_topo (gx gy : Nat) (f : Router → Router) : (s.modRouter gx gy f).topo = s.topo := rfl
@[simp] theorem modRouter_regions (gx gy : Nat) (f : Router → Router) : (s.modRouter gx gy f).regions = s.regions := rfl
@[simp] theorem modRouter_fields (gx gy : Nat) (f : Router → Router) : (s.modRouter gx gy f).fields = s.fields := rfl
@[simp] theorem modRouter_pans (gx gy : Nat) (f : Router → Router) : (s.modRouter gx gy f).pans = s.pans := rfl
@[simp] theorem modRouter_cc (gx gy : Nat) (f : Router → Router) : (s.modRouter gx gy f).cc = s.cc := rfl
@[simp] theorem modRouter_slices (gx gy : Nat) (f : Router → Router) : (s.modRouter gx gy f).slices = s.slices := rfl
@[simp] theorem modRouter_chans (gx gy : Nat) (f : Router → Router) : (s.modRouter gx gy f).chans = s.chans := rfl
@[simp] theorem modRouter_memdev (gx gy : Nat) (f : Router → Router) : (s.modRouter gx gy f).memdev = s.memdev := rfl
@[simp] theorem modRouter_fin (gx gy : Nat) (f : Router → Router) : (s.modRouter gx gy f).fin = s.fin := rfl
@[simp] theorem modRouter_svc (gx gy : Nat) (f : Router → Router) : (s.modRouter gx gy f).svc = s.svc := rfl
@[simp] theorem modRouter_jobs (gx gy : Nat) (f : Router → Router) : (s.modRouter gx gy f).jobs = s.jobs := rfl
@[simp] theorem modRouter_mirror (gx gy : Nat) (f : Router → Router) : (s.modRouter gx gy f).mirror = s.mirror := rfl
@[simp] theorem modRouter_clock (gx gy : Nat) (f : Router → Router) : (s.modRouter gx gy f).clock = s.clock := rfl
@[simp] theorem modRouter_power (gx gy : Nat) (f : Router → Router) : (s.modRouter gx gy f).power = s.power := rfl
@[simp] theorem modRouter_hif (gx gy : Nat) (f : Router → Router) : (s.modRouter gx gy f).hif = s.hif := rfl
@[simp] theorem modRouter_faults (gx gy : Nat) (f : Router → Router) : (s.modRouter gx gy f).faults = s.faults := rfl
@[simp] theorem modRouter_gauges (gx gy : Nat) (f : Router → Router) : (s.modRouter gx gy f).gauges = s.gauges := rfl
@[simp] theorem modRouter_sec (gx gy : Nat) (f : Router → Router) : (s.modRouter gx gy f).sec = s.sec := rfl
@[simp] theorem modRouter_outs (gx gy : Nat) (f : Router → Router) : (s.modRouter gx gy f).outs = s.outs := rfl
@[simp] theorem modRouter_issuedOuts (gx gy : Nat) (f : Router → Router) : (s.modRouter gx gy f).issuedOuts = s.issuedOuts := rfl
@[simp] theorem modRouter_storeMem (gx gy : Nat) (f : Router → Router) : (s.modRouter gx gy f).storeMem = s.storeMem := rfl
@[simp] theorem modRouter_brineMem (gx gy : Nat) (f : Router → Router) : (s.modRouter gx gy f).brineMem = s.brineMem := rfl
@[simp] theorem modRouter_cellarMem (gx gy : Nat) (f : Router → Router) : (s.modRouter gx gy f).cellarMem = s.cellarMem := rfl
@[simp] theorem modRouter_hostMem (gx gy : Nat) (f : Router → Router) : (s.modRouter gx gy f).hostMem = s.hostMem := rfl
@[simp] theorem modRouter_slotMem (gx gy : Nat) (f : Router → Router) : (s.modRouter gx gy f).slotMem = s.slotMem := rfl
@[simp] theorem modRouter_draws (gx gy : Nat) (f : Router → Router) : (s.modRouter gx gy f).draws = s.draws := rfl

/-! ### bumpRouter -/

@[simp] theorem bumpRouter_pending (gx gy ctr n : Nat) : (s.bumpRouter gx gy ctr n).pending = s.pending := rfl
@[simp] theorem bumpRouter_powered (gx gy ctr n : Nat) : (s.bumpRouter gx gy ctr n).powered = s.powered := rfl
@[simp] theorem bumpRouter_boot (gx gy ctr n : Nat) : (s.bumpRouter gx gy ctr n).boot = s.boot := rfl
@[simp] theorem bumpRouter_topo (gx gy ctr n : Nat) : (s.bumpRouter gx gy ctr n).topo = s.topo := rfl
@[simp] theorem bumpRouter_regions (gx gy ctr n : Nat) : (s.bumpRouter gx gy ctr n).regions = s.regions := rfl
@[simp] theorem bumpRouter_fields (gx gy ctr n : Nat) : (s.bumpRouter gx gy ctr n).fields = s.fields := rfl
@[simp] theorem bumpRouter_pans (gx gy ctr n : Nat) : (s.bumpRouter gx gy ctr n).pans = s.pans := rfl
@[simp] theorem bumpRouter_cc (gx gy ctr n : Nat) : (s.bumpRouter gx gy ctr n).cc = s.cc := rfl
@[simp] theorem bumpRouter_slices (gx gy ctr n : Nat) : (s.bumpRouter gx gy ctr n).slices = s.slices := rfl
@[simp] theorem bumpRouter_chans (gx gy ctr n : Nat) : (s.bumpRouter gx gy ctr n).chans = s.chans := rfl
@[simp] theorem bumpRouter_memdev (gx gy ctr n : Nat) : (s.bumpRouter gx gy ctr n).memdev = s.memdev := rfl
@[simp] theorem bumpRouter_fin (gx gy ctr n : Nat) : (s.bumpRouter gx gy ctr n).fin = s.fin := rfl
@[simp] theorem bumpRouter_svc (gx gy ctr n : Nat) : (s.bumpRouter gx gy ctr n).svc = s.svc := rfl
@[simp] theorem bumpRouter_jobs (gx gy ctr n : Nat) : (s.bumpRouter gx gy ctr n).jobs = s.jobs := rfl
@[simp] theorem bumpRouter_mirror (gx gy ctr n : Nat) : (s.bumpRouter gx gy ctr n).mirror = s.mirror := rfl
@[simp] theorem bumpRouter_clock (gx gy ctr n : Nat) : (s.bumpRouter gx gy ctr n).clock = s.clock := rfl
@[simp] theorem bumpRouter_power (gx gy ctr n : Nat) : (s.bumpRouter gx gy ctr n).power = s.power := rfl
@[simp] theorem bumpRouter_hif (gx gy ctr n : Nat) : (s.bumpRouter gx gy ctr n).hif = s.hif := rfl
@[simp] theorem bumpRouter_faults (gx gy ctr n : Nat) : (s.bumpRouter gx gy ctr n).faults = s.faults := rfl
@[simp] theorem bumpRouter_gauges (gx gy ctr n : Nat) : (s.bumpRouter gx gy ctr n).gauges = s.gauges := rfl
@[simp] theorem bumpRouter_sec (gx gy ctr n : Nat) : (s.bumpRouter gx gy ctr n).sec = s.sec := rfl
@[simp] theorem bumpRouter_outs (gx gy ctr n : Nat) : (s.bumpRouter gx gy ctr n).outs = s.outs := rfl
@[simp] theorem bumpRouter_issuedOuts (gx gy ctr n : Nat) : (s.bumpRouter gx gy ctr n).issuedOuts = s.issuedOuts := rfl
@[simp] theorem bumpRouter_storeMem (gx gy ctr n : Nat) : (s.bumpRouter gx gy ctr n).storeMem = s.storeMem := rfl
@[simp] theorem bumpRouter_brineMem (gx gy ctr n : Nat) : (s.bumpRouter gx gy ctr n).brineMem = s.brineMem := rfl
@[simp] theorem bumpRouter_cellarMem (gx gy ctr n : Nat) : (s.bumpRouter gx gy ctr n).cellarMem = s.cellarMem := rfl
@[simp] theorem bumpRouter_hostMem (gx gy ctr n : Nat) : (s.bumpRouter gx gy ctr n).hostMem = s.hostMem := rfl
@[simp] theorem bumpRouter_slotMem (gx gy ctr n : Nat) : (s.bumpRouter gx gy ctr n).slotMem = s.slotMem := rfl
@[simp] theorem bumpRouter_draws (gx gy ctr n : Nat) : (s.bumpRouter gx gy ctr n).draws = s.draws := rfl

/-! ### modPort -/

@[simp] theorem modPort_pending (n : Nat) (f : Port → Port) : (s.modPort n f).pending = s.pending := rfl
@[simp] theorem modPort_powered (n : Nat) (f : Port → Port) : (s.modPort n f).powered = s.powered := rfl
@[simp] theorem modPort_boot (n : Nat) (f : Port → Port) : (s.modPort n f).boot = s.boot := rfl
@[simp] theorem modPort_topo (n : Nat) (f : Port → Port) : (s.modPort n f).topo = s.topo := rfl
@[simp] theorem modPort_regions (n : Nat) (f : Port → Port) : (s.modPort n f).regions = s.regions := rfl
@[simp] theorem modPort_fields (n : Nat) (f : Port → Port) : (s.modPort n f).fields = s.fields := rfl
@[simp] theorem modPort_pans (n : Nat) (f : Port → Port) : (s.modPort n f).pans = s.pans := rfl
@[simp] theorem modPort_cc (n : Nat) (f : Port → Port) : (s.modPort n f).cc = s.cc := rfl
@[simp] theorem modPort_slices (n : Nat) (f : Port → Port) : (s.modPort n f).slices = s.slices := rfl
@[simp] theorem modPort_chans (n : Nat) (f : Port → Port) : (s.modPort n f).chans = s.chans := rfl
@[simp] theorem modPort_memdev (n : Nat) (f : Port → Port) : (s.modPort n f).memdev = s.memdev := rfl
@[simp] theorem modPort_net (n : Nat) (f : Port → Port) : (s.modPort n f).net = s.net := rfl
@[simp] theorem modPort_svc (n : Nat) (f : Port → Port) : (s.modPort n f).svc = s.svc := rfl
@[simp] theorem modPort_jobs (n : Nat) (f : Port → Port) : (s.modPort n f).jobs = s.jobs := rfl
@[simp] theorem modPort_mirror (n : Nat) (f : Port → Port) : (s.modPort n f).mirror = s.mirror := rfl
@[simp] theorem modPort_clock (n : Nat) (f : Port → Port) : (s.modPort n f).clock = s.clock := rfl
@[simp] theorem modPort_power (n : Nat) (f : Port → Port) : (s.modPort n f).power = s.power := rfl
@[simp] theorem modPort_hif (n : Nat) (f : Port → Port) : (s.modPort n f).hif = s.hif := rfl
@[simp] theorem modPort_faults (n : Nat) (f : Port → Port) : (s.modPort n f).faults = s.faults := rfl
@[simp] theorem modPort_gauges (n : Nat) (f : Port → Port) : (s.modPort n f).gauges = s.gauges := rfl
@[simp] theorem modPort_sec (n : Nat) (f : Port → Port) : (s.modPort n f).sec = s.sec := rfl
@[simp] theorem modPort_outs (n : Nat) (f : Port → Port) : (s.modPort n f).outs = s.outs := rfl
@[simp] theorem modPort_issuedOuts (n : Nat) (f : Port → Port) : (s.modPort n f).issuedOuts = s.issuedOuts := rfl
@[simp] theorem modPort_storeMem (n : Nat) (f : Port → Port) : (s.modPort n f).storeMem = s.storeMem := rfl
@[simp] theorem modPort_brineMem (n : Nat) (f : Port → Port) : (s.modPort n f).brineMem = s.brineMem := rfl
@[simp] theorem modPort_cellarMem (n : Nat) (f : Port → Port) : (s.modPort n f).cellarMem = s.cellarMem := rfl
@[simp] theorem modPort_hostMem (n : Nat) (f : Port → Port) : (s.modPort n f).hostMem = s.hostMem := rfl
@[simp] theorem modPort_slotMem (n : Nat) (f : Port → Port) : (s.modPort n f).slotMem = s.slotMem := rfl
@[simp] theorem modPort_draws (n : Nat) (f : Port → Port) : (s.modPort n f).draws = s.draws := rfl

/-! ### bumpPort -/

@[simp] theorem bumpPort_pending (n ctr k : Nat) : (s.bumpPort n ctr k).pending = s.pending := rfl
@[simp] theorem bumpPort_powered (n ctr k : Nat) : (s.bumpPort n ctr k).powered = s.powered := rfl
@[simp] theorem bumpPort_boot (n ctr k : Nat) : (s.bumpPort n ctr k).boot = s.boot := rfl
@[simp] theorem bumpPort_topo (n ctr k : Nat) : (s.bumpPort n ctr k).topo = s.topo := rfl
@[simp] theorem bumpPort_regions (n ctr k : Nat) : (s.bumpPort n ctr k).regions = s.regions := rfl
@[simp] theorem bumpPort_fields (n ctr k : Nat) : (s.bumpPort n ctr k).fields = s.fields := rfl
@[simp] theorem bumpPort_pans (n ctr k : Nat) : (s.bumpPort n ctr k).pans = s.pans := rfl
@[simp] theorem bumpPort_cc (n ctr k : Nat) : (s.bumpPort n ctr k).cc = s.cc := rfl
@[simp] theorem bumpPort_slices (n ctr k : Nat) : (s.bumpPort n ctr k).slices = s.slices := rfl
@[simp] theorem bumpPort_chans (n ctr k : Nat) : (s.bumpPort n ctr k).chans = s.chans := rfl
@[simp] theorem bumpPort_memdev (n ctr k : Nat) : (s.bumpPort n ctr k).memdev = s.memdev := rfl
@[simp] theorem bumpPort_net (n ctr k : Nat) : (s.bumpPort n ctr k).net = s.net := rfl
@[simp] theorem bumpPort_svc (n ctr k : Nat) : (s.bumpPort n ctr k).svc = s.svc := rfl
@[simp] theorem bumpPort_jobs (n ctr k : Nat) : (s.bumpPort n ctr k).jobs = s.jobs := rfl
@[simp] theorem bumpPort_mirror (n ctr k : Nat) : (s.bumpPort n ctr k).mirror = s.mirror := rfl
@[simp] theorem bumpPort_clock (n ctr k : Nat) : (s.bumpPort n ctr k).clock = s.clock := rfl
@[simp] theorem bumpPort_power (n ctr k : Nat) : (s.bumpPort n ctr k).power = s.power := rfl
@[simp] theorem bumpPort_hif (n ctr k : Nat) : (s.bumpPort n ctr k).hif = s.hif := rfl
@[simp] theorem bumpPort_faults (n ctr k : Nat) : (s.bumpPort n ctr k).faults = s.faults := rfl
@[simp] theorem bumpPort_gauges (n ctr k : Nat) : (s.bumpPort n ctr k).gauges = s.gauges := rfl
@[simp] theorem bumpPort_sec (n ctr k : Nat) : (s.bumpPort n ctr k).sec = s.sec := rfl
@[simp] theorem bumpPort_outs (n ctr k : Nat) : (s.bumpPort n ctr k).outs = s.outs := rfl
@[simp] theorem bumpPort_issuedOuts (n ctr k : Nat) : (s.bumpPort n ctr k).issuedOuts = s.issuedOuts := rfl
@[simp] theorem bumpPort_storeMem (n ctr k : Nat) : (s.bumpPort n ctr k).storeMem = s.storeMem := rfl
@[simp] theorem bumpPort_brineMem (n ctr k : Nat) : (s.bumpPort n ctr k).brineMem = s.brineMem := rfl
@[simp] theorem bumpPort_cellarMem (n ctr k : Nat) : (s.bumpPort n ctr k).cellarMem = s.cellarMem := rfl
@[simp] theorem bumpPort_hostMem (n ctr k : Nat) : (s.bumpPort n ctr k).hostMem = s.hostMem := rfl
@[simp] theorem bumpPort_slotMem (n ctr k : Nat) : (s.bumpPort n ctr k).slotMem = s.slotMem := rfl
@[simp] theorem bumpPort_draws (n ctr k : Nat) : (s.bumpPort n ctr k).draws = s.draws := rfl

/-! ### modSlot -/

@[simp] theorem modSlot_pending (g : Nat) (f : Slot → Slot) : (s.modSlot g f).pending = s.pending := rfl
@[simp] theorem modSlot_powered (g : Nat) (f : Slot → Slot) : (s.modSlot g f).powered = s.powered := rfl
@[simp] theorem modSlot_boot (g : Nat) (f : Slot → Slot) : (s.modSlot g f).boot = s.boot := rfl
@[simp] theorem modSlot_topo (g : Nat) (f : Slot → Slot) : (s.modSlot g f).topo = s.topo := rfl
@[simp] theorem modSlot_regions (g : Nat) (f : Slot → Slot) : (s.modSlot g f).regions = s.regions := rfl
@[simp] theorem modSlot_fields (g : Nat) (f : Slot → Slot) : (s.modSlot g f).fields = s.fields := rfl
@[simp] theorem modSlot_pans (g : Nat) (f : Slot → Slot) : (s.modSlot g f).pans = s.pans := rfl
@[simp] theorem modSlot_cc (g : Nat) (f : Slot → Slot) : (s.modSlot g f).cc = s.cc := rfl
@[simp] theorem modSlot_slices (g : Nat) (f : Slot → Slot) : (s.modSlot g f).slices = s.slices := rfl
@[simp] theorem modSlot_chans (g : Nat) (f : Slot → Slot) : (s.modSlot g f).chans = s.chans := rfl
@[simp] theorem modSlot_memdev (g : Nat) (f : Slot → Slot) : (s.modSlot g f).memdev = s.memdev := rfl
@[simp] theorem modSlot_net (g : Nat) (f : Slot → Slot) : (s.modSlot g f).net = s.net := rfl
@[simp] theorem modSlot_fin (g : Nat) (f : Slot → Slot) : (s.modSlot g f).fin = s.fin := rfl
@[simp] theorem modSlot_jobs (g : Nat) (f : Slot → Slot) : (s.modSlot g f).jobs = s.jobs := rfl
@[simp] theorem modSlot_mirror (g : Nat) (f : Slot → Slot) : (s.modSlot g f).mirror = s.mirror := rfl
@[simp] theorem modSlot_clock (g : Nat) (f : Slot → Slot) : (s.modSlot g f).clock = s.clock := rfl
@[simp] theorem modSlot_power (g : Nat) (f : Slot → Slot) : (s.modSlot g f).power = s.power := rfl
@[simp] theorem modSlot_hif (g : Nat) (f : Slot → Slot) : (s.modSlot g f).hif = s.hif := rfl
@[simp] theorem modSlot_faults (g : Nat) (f : Slot → Slot) : (s.modSlot g f).faults = s.faults := rfl
@[simp] theorem modSlot_gauges (g : Nat) (f : Slot → Slot) : (s.modSlot g f).gauges = s.gauges := rfl
@[simp] theorem modSlot_sec (g : Nat) (f : Slot → Slot) : (s.modSlot g f).sec = s.sec := rfl
@[simp] theorem modSlot_outs (g : Nat) (f : Slot → Slot) : (s.modSlot g f).outs = s.outs := rfl
@[simp] theorem modSlot_issuedOuts (g : Nat) (f : Slot → Slot) : (s.modSlot g f).issuedOuts = s.issuedOuts := rfl
@[simp] theorem modSlot_storeMem (g : Nat) (f : Slot → Slot) : (s.modSlot g f).storeMem = s.storeMem := rfl
@[simp] theorem modSlot_brineMem (g : Nat) (f : Slot → Slot) : (s.modSlot g f).brineMem = s.brineMem := rfl
@[simp] theorem modSlot_cellarMem (g : Nat) (f : Slot → Slot) : (s.modSlot g f).cellarMem = s.cellarMem := rfl
@[simp] theorem modSlot_hostMem (g : Nat) (f : Slot → Slot) : (s.modSlot g f).hostMem = s.hostMem := rfl
@[simp] theorem modSlot_slotMem (g : Nat) (f : Slot → Slot) : (s.modSlot g f).slotMem = s.slotMem := rfl
@[simp] theorem modSlot_draws (g : Nat) (f : Slot → Slot) : (s.modSlot g f).draws = s.draws := rfl

/-! ### bumpSvc -/

@[simp] theorem bumpSvc_pending (ctr k : Nat) : (s.bumpSvc ctr k).pending = s.pending := rfl
@[simp] theorem bumpSvc_powered (ctr k : Nat) : (s.bumpSvc ctr k).powered = s.powered := rfl
@[simp] theorem bumpSvc_boot (ctr k : Nat) : (s.bumpSvc ctr k).boot = s.boot := rfl
@[simp] theorem bumpSvc_topo (ctr k : Nat) : (s.bumpSvc ctr k).topo = s.topo := rfl
@[simp] theorem bumpSvc_regions (ctr k : Nat) : (s.bumpSvc ctr k).regions = s.regions := rfl
@[simp] theorem bumpSvc_fields (ctr k : Nat) : (s.bumpSvc ctr k).fields = s.fields := rfl
@[simp] theorem bumpSvc_pans (ctr k : Nat) : (s.bumpSvc ctr k).pans = s.pans := rfl
@[simp] theorem bumpSvc_cc (ctr k : Nat) : (s.bumpSvc ctr k).cc = s.cc := rfl
@[simp] theorem bumpSvc_slices (ctr k : Nat) : (s.bumpSvc ctr k).slices = s.slices := rfl
@[simp] theorem bumpSvc_chans (ctr k : Nat) : (s.bumpSvc ctr k).chans = s.chans := rfl
@[simp] theorem bumpSvc_memdev (ctr k : Nat) : (s.bumpSvc ctr k).memdev = s.memdev := rfl
@[simp] theorem bumpSvc_net (ctr k : Nat) : (s.bumpSvc ctr k).net = s.net := rfl
@[simp] theorem bumpSvc_fin (ctr k : Nat) : (s.bumpSvc ctr k).fin = s.fin := rfl
@[simp] theorem bumpSvc_jobs (ctr k : Nat) : (s.bumpSvc ctr k).jobs = s.jobs := rfl
@[simp] theorem bumpSvc_mirror (ctr k : Nat) : (s.bumpSvc ctr k).mirror = s.mirror := rfl
@[simp] theorem bumpSvc_clock (ctr k : Nat) : (s.bumpSvc ctr k).clock = s.clock := rfl
@[simp] theorem bumpSvc_power (ctr k : Nat) : (s.bumpSvc ctr k).power = s.power := rfl
@[simp] theorem bumpSvc_hif (ctr k : Nat) : (s.bumpSvc ctr k).hif = s.hif := rfl
@[simp] theorem bumpSvc_faults (ctr k : Nat) : (s.bumpSvc ctr k).faults = s.faults := rfl
@[simp] theorem bumpSvc_gauges (ctr k : Nat) : (s.bumpSvc ctr k).gauges = s.gauges := rfl
@[simp] theorem bumpSvc_sec (ctr k : Nat) : (s.bumpSvc ctr k).sec = s.sec := rfl
@[simp] theorem bumpSvc_outs (ctr k : Nat) : (s.bumpSvc ctr k).outs = s.outs := rfl
@[simp] theorem bumpSvc_issuedOuts (ctr k : Nat) : (s.bumpSvc ctr k).issuedOuts = s.issuedOuts := rfl
@[simp] theorem bumpSvc_storeMem (ctr k : Nat) : (s.bumpSvc ctr k).storeMem = s.storeMem := rfl
@[simp] theorem bumpSvc_brineMem (ctr k : Nat) : (s.bumpSvc ctr k).brineMem = s.brineMem := rfl
@[simp] theorem bumpSvc_cellarMem (ctr k : Nat) : (s.bumpSvc ctr k).cellarMem = s.cellarMem := rfl
@[simp] theorem bumpSvc_hostMem (ctr k : Nat) : (s.bumpSvc ctr k).hostMem = s.hostMem := rfl
@[simp] theorem bumpSvc_slotMem (ctr k : Nat) : (s.bumpSvc ctr k).slotMem = s.slotMem := rfl
@[simp] theorem bumpSvc_draws (ctr k : Nat) : (s.bumpSvc ctr k).draws = s.draws := rfl

/-! ### modGauge -/

@[simp] theorem modGauge_pending (i : Nat) (f : Gauge → Gauge) : (s.modGauge i f).pending = s.pending := rfl
@[simp] theorem modGauge_powered (i : Nat) (f : Gauge → Gauge) : (s.modGauge i f).powered = s.powered := rfl
@[simp] theorem modGauge_boot (i : Nat) (f : Gauge → Gauge) : (s.modGauge i f).boot = s.boot := rfl
@[simp] theorem modGauge_topo (i : Nat) (f : Gauge → Gauge) : (s.modGauge i f).topo = s.topo := rfl
@[simp] theorem modGauge_regions (i : Nat) (f : Gauge → Gauge) : (s.modGauge i f).regions = s.regions := rfl
@[simp] theorem modGauge_fields (i : Nat) (f : Gauge → Gauge) : (s.modGauge i f).fields = s.fields := rfl
@[simp] theorem modGauge_pans (i : Nat) (f : Gauge → Gauge) : (s.modGauge i f).pans = s.pans := rfl
@[simp] theorem modGauge_cc (i : Nat) (f : Gauge → Gauge) : (s.modGauge i f).cc = s.cc := rfl
@[simp] theorem modGauge_slices (i : Nat) (f : Gauge → Gauge) : (s.modGauge i f).slices = s.slices := rfl
@[simp] theorem modGauge_chans (i : Nat) (f : Gauge → Gauge) : (s.modGauge i f).chans = s.chans := rfl
@[simp] theorem modGauge_memdev (i : Nat) (f : Gauge → Gauge) : (s.modGauge i f).memdev = s.memdev := rfl
@[simp] theorem modGauge_net (i : Nat) (f : Gauge → Gauge) : (s.modGauge i f).net = s.net := rfl
@[simp] theorem modGauge_fin (i : Nat) (f : Gauge → Gauge) : (s.modGauge i f).fin = s.fin := rfl
@[simp] theorem modGauge_svc (i : Nat) (f : Gauge → Gauge) : (s.modGauge i f).svc = s.svc := rfl
@[simp] theorem modGauge_jobs (i : Nat) (f : Gauge → Gauge) : (s.modGauge i f).jobs = s.jobs := rfl
@[simp] theorem modGauge_mirror (i : Nat) (f : Gauge → Gauge) : (s.modGauge i f).mirror = s.mirror := rfl
@[simp] theorem modGauge_clock (i : Nat) (f : Gauge → Gauge) : (s.modGauge i f).clock = s.clock := rfl
@[simp] theorem modGauge_power (i : Nat) (f : Gauge → Gauge) : (s.modGauge i f).power = s.power := rfl
@[simp] theorem modGauge_hif (i : Nat) (f : Gauge → Gauge) : (s.modGauge i f).hif = s.hif := rfl
@[simp] theorem modGauge_faults (i : Nat) (f : Gauge → Gauge) : (s.modGauge i f).faults = s.faults := rfl
@[simp] theorem modGauge_gauges (i : Nat) (f : Gauge → Gauge) : (s.modGauge i f).gauges = upd {} i f s.gauges := rfl
@[simp] theorem modGauge_sec (i : Nat) (f : Gauge → Gauge) : (s.modGauge i f).sec = s.sec := rfl
@[simp] theorem modGauge_outs (i : Nat) (f : Gauge → Gauge) : (s.modGauge i f).outs = s.outs := rfl
@[simp] theorem modGauge_issuedOuts (i : Nat) (f : Gauge → Gauge) : (s.modGauge i f).issuedOuts = s.issuedOuts := rfl
@[simp] theorem modGauge_storeMem (i : Nat) (f : Gauge → Gauge) : (s.modGauge i f).storeMem = s.storeMem := rfl
@[simp] theorem modGauge_brineMem (i : Nat) (f : Gauge → Gauge) : (s.modGauge i f).brineMem = s.brineMem := rfl
@[simp] theorem modGauge_cellarMem (i : Nat) (f : Gauge → Gauge) : (s.modGauge i f).cellarMem = s.cellarMem := rfl
@[simp] theorem modGauge_hostMem (i : Nat) (f : Gauge → Gauge) : (s.modGauge i f).hostMem = s.hostMem := rfl
@[simp] theorem modGauge_slotMem (i : Nat) (f : Gauge → Gauge) : (s.modGauge i f).slotMem = s.slotMem := rfl
@[simp] theorem modGauge_draws (i : Nat) (f : Gauge → Gauge) : (s.modGauge i f).draws = s.draws := rfl

/-! ### setJob -/

@[simp] theorem setJob_pending (j : Nat) (x : Job) : (s.setJob j x).pending = s.pending := rfl
@[simp] theorem setJob_powered (j : Nat) (x : Job) : (s.setJob j x).powered = s.powered := rfl
@[simp] theorem setJob_boot (j : Nat) (x : Job) : (s.setJob j x).boot = s.boot := rfl
@[simp] theorem setJob_topo (j : Nat) (x : Job) : (s.setJob j x).topo = s.topo := rfl
@[simp] theorem setJob_regions (j : Nat) (x : Job) : (s.setJob j x).regions = s.regions := rfl
@[simp] theorem setJob_fields (j : Nat) (x : Job) : (s.setJob j x).fields = s.fields := rfl
@[simp] theorem setJob_pans (j : Nat) (x : Job) : (s.setJob j x).pans = s.pans := rfl
@[simp] theorem setJob_cc (j : Nat) (x : Job) : (s.setJob j x).cc = s.cc := rfl
@[simp] theorem setJob_slices (j : Nat) (x : Job) : (s.setJob j x).slices = s.slices := rfl
@[simp] theorem setJob_chans (j : Nat) (x : Job) : (s.setJob j x).chans = s.chans := rfl
@[simp] theorem setJob_memdev (j : Nat) (x : Job) : (s.setJob j x).memdev = s.memdev := rfl
@[simp] theorem setJob_net (j : Nat) (x : Job) : (s.setJob j x).net = s.net := rfl
@[simp] theorem setJob_fin (j : Nat) (x : Job) : (s.setJob j x).fin = s.fin := rfl
@[simp] theorem setJob_svc (j : Nat) (x : Job) : (s.setJob j x).svc = s.svc := rfl
@[simp] theorem setJob_jobs (j : Nat) (x : Job) : (s.setJob j x).jobs = put j x s.jobs := rfl
@[simp] theorem setJob_mirror (j : Nat) (x : Job) : (s.setJob j x).mirror = s.mirror := rfl
@[simp] theorem setJob_clock (j : Nat) (x : Job) : (s.setJob j x).clock = s.clock := rfl
@[simp] theorem setJob_power (j : Nat) (x : Job) : (s.setJob j x).power = s.power := rfl
@[simp] theorem setJob_hif (j : Nat) (x : Job) : (s.setJob j x).hif = s.hif := rfl
@[simp] theorem setJob_faults (j : Nat) (x : Job) : (s.setJob j x).faults = s.faults := rfl
@[simp] theorem setJob_gauges (j : Nat) (x : Job) : (s.setJob j x).gauges = s.gauges := rfl
@[simp] theorem setJob_sec (j : Nat) (x : Job) : (s.setJob j x).sec = s.sec := rfl
@[simp] theorem setJob_outs (j : Nat) (x : Job) : (s.setJob j x).outs = s.outs := rfl
@[simp] theorem setJob_issuedOuts (j : Nat) (x : Job) : (s.setJob j x).issuedOuts = s.issuedOuts := rfl
@[simp] theorem setJob_storeMem (j : Nat) (x : Job) : (s.setJob j x).storeMem = s.storeMem := rfl
@[simp] theorem setJob_brineMem (j : Nat) (x : Job) : (s.setJob j x).brineMem = s.brineMem := rfl
@[simp] theorem setJob_cellarMem (j : Nat) (x : Job) : (s.setJob j x).cellarMem = s.cellarMem := rfl
@[simp] theorem setJob_hostMem (j : Nat) (x : Job) : (s.setJob j x).hostMem = s.hostMem := rfl
@[simp] theorem setJob_slotMem (j : Nat) (x : Job) : (s.setJob j x).slotMem = s.slotMem := rfl
@[simp] theorem setJob_draws (j : Nat) (x : Job) : (s.setJob j x).draws = s.draws := rfl

/-! ### modHif -/

@[simp] theorem modHif_pending (f : HostIf → HostIf) : (s.modHif f).pending = s.pending := rfl
@[simp] theorem modHif_powered (f : HostIf → HostIf) : (s.modHif f).powered = s.powered := rfl
@[simp] theorem modHif_boot (f : HostIf → HostIf) : (s.modHif f).boot = s.boot := rfl
@[simp] theorem modHif_topo (f : HostIf → HostIf) : (s.modHif f).topo = s.topo := rfl
@[simp] theorem modHif_regions (f : HostIf → HostIf) : (s.modHif f).regions = s.regions := rfl
@[simp] theorem modHif_fields (f : HostIf → HostIf) : (s.modHif f).fields = s.fields := rfl
@[simp] theorem modHif_pans (f : HostIf → HostIf) : (s.modHif f).pans = s.pans := rfl
@[simp] theorem modHif_cc (f : HostIf → HostIf) : (s.modHif f).cc = s.cc := rfl
@[simp] theorem modHif_slices (f : HostIf → HostIf) : (s.modHif f).slices = s.slices := rfl
@[simp] theorem modHif_chans (f : HostIf → HostIf) : (s.modHif f).chans = s.chans := rfl
@[simp] theorem modHif_memdev (f : HostIf → HostIf) : (s.modHif f).memdev = s.memdev := rfl
@[simp] theorem modHif_net (f : HostIf → HostIf) : (s.modHif f).net = s.net := rfl
@[simp] theorem modHif_fin (f : HostIf → HostIf) : (s.modHif f).fin = s.fin := rfl
@[simp] theorem modHif_svc (f : HostIf → HostIf) : (s.modHif f).svc = s.svc := rfl
@[simp] theorem modHif_jobs (f : HostIf → HostIf) : (s.modHif f).jobs = s.jobs := rfl
@[simp] theorem modHif_mirror (f : HostIf → HostIf) : (s.modHif f).mirror = s.mirror := rfl
@[simp] theorem modHif_clock (f : HostIf → HostIf) : (s.modHif f).clock = s.clock := rfl
@[simp] theorem modHif_power (f : HostIf → HostIf) : (s.modHif f).power = s.power := rfl
@[simp] theorem modHif_hif (f : HostIf → HostIf) : (s.modHif f).hif = f s.hif := rfl
@[simp] theorem modHif_faults (f : HostIf → HostIf) : (s.modHif f).faults = s.faults := rfl
@[simp] theorem modHif_gauges (f : HostIf → HostIf) : (s.modHif f).gauges = s.gauges := rfl
@[simp] theorem modHif_sec (f : HostIf → HostIf) : (s.modHif f).sec = s.sec := rfl
@[simp] theorem modHif_outs (f : HostIf → HostIf) : (s.modHif f).outs = s.outs := rfl
@[simp] theorem modHif_issuedOuts (f : HostIf → HostIf) : (s.modHif f).issuedOuts = s.issuedOuts := rfl
@[simp] theorem modHif_storeMem (f : HostIf → HostIf) : (s.modHif f).storeMem = s.storeMem := rfl
@[simp] theorem modHif_brineMem (f : HostIf → HostIf) : (s.modHif f).brineMem = s.brineMem := rfl
@[simp] theorem modHif_cellarMem (f : HostIf → HostIf) : (s.modHif f).cellarMem = s.cellarMem := rfl
@[simp] theorem modHif_hostMem (f : HostIf → HostIf) : (s.modHif f).hostMem = s.hostMem := rfl
@[simp] theorem modHif_slotMem (f : HostIf → HostIf) : (s.modHif f).slotMem = s.slotMem := rfl
@[simp] theorem modHif_draws (f : HostIf → HostIf) : (s.modHif f).draws = s.draws := rfl

/-! ### modNet -/

@[simp] theorem modNet_pending (f : Net → Net) : (s.modNet f).pending = s.pending := rfl
@[simp] theorem modNet_powered (f : Net → Net) : (s.modNet f).powered = s.powered := rfl
@[simp] theorem modNet_boot (f : Net → Net) : (s.modNet f).boot = s.boot := rfl
@[simp] theorem modNet_topo (f : Net → Net) : (s.modNet f).topo = s.topo := rfl
@[simp] theorem modNet_regions (f : Net → Net) : (s.modNet f).regions = s.regions := rfl
@[simp] theorem modNet_fields (f : Net → Net) : (s.modNet f).fields = s.fields := rfl
@[simp] theorem modNet_pans (f : Net → Net) : (s.modNet f).pans = s.pans := rfl
@[simp] theorem modNet_cc (f : Net → Net) : (s.modNet f).cc = s.cc := rfl
@[simp] theorem modNet_slices (f : Net → Net) : (s.modNet f).slices = s.slices := rfl
@[simp] theorem modNet_chans (f : Net → Net) : (s.modNet f).chans = s.chans := rfl
@[simp] theorem modNet_memdev (f : Net → Net) : (s.modNet f).memdev = s.memdev := rfl
@[simp] theorem modNet_net (f : Net → Net) : (s.modNet f).net = f s.net := rfl
@[simp] theorem modNet_fin (f : Net → Net) : (s.modNet f).fin = s.fin := rfl
@[simp] theorem modNet_svc (f : Net → Net) : (s.modNet f).svc = s.svc := rfl
@[simp] theorem modNet_jobs (f : Net → Net) : (s.modNet f).jobs = s.jobs := rfl
@[simp] theorem modNet_mirror (f : Net → Net) : (s.modNet f).mirror = s.mirror := rfl
@[simp] theorem modNet_clock (f : Net → Net) : (s.modNet f).clock = s.clock := rfl
@[simp] theorem modNet_power (f : Net → Net) : (s.modNet f).power = s.power := rfl
@[simp] theorem modNet_hif (f : Net → Net) : (s.modNet f).hif = s.hif := rfl
@[simp] theorem modNet_faults (f : Net → Net) : (s.modNet f).faults = s.faults := rfl
@[simp] theorem modNet_gauges (f : Net → Net) : (s.modNet f).gauges = s.gauges := rfl
@[simp] theorem modNet_sec (f : Net → Net) : (s.modNet f).sec = s.sec := rfl
@[simp] theorem modNet_outs (f : Net → Net) : (s.modNet f).outs = s.outs := rfl
@[simp] theorem modNet_issuedOuts (f : Net → Net) : (s.modNet f).issuedOuts = s.issuedOuts := rfl
@[simp] theorem modNet_storeMem (f : Net → Net) : (s.modNet f).storeMem = s.storeMem := rfl
@[simp] theorem modNet_brineMem (f : Net → Net) : (s.modNet f).brineMem = s.brineMem := rfl
@[simp] theorem modNet_cellarMem (f : Net → Net) : (s.modNet f).cellarMem = s.cellarMem := rfl
@[simp] theorem modNet_hostMem (f : Net → Net) : (s.modNet f).hostMem = s.hostMem := rfl
@[simp] theorem modNet_slotMem (f : Net → Net) : (s.modNet f).slotMem = s.slotMem := rfl
@[simp] theorem modNet_draws (f : Net → Net) : (s.modNet f).draws = s.draws := rfl

/-! ### modFaults -/

@[simp] theorem modFaults_pending (f : Faults → Faults) : (s.modFaults f).pending = s.pending := rfl
@[simp] theorem modFaults_powered (f : Faults → Faults) : (s.modFaults f).powered = s.powered := rfl
@[simp] theorem modFaults_boot (f : Faults → Faults) : (s.modFaults f).boot = s.boot := rfl
@[simp] theorem modFaults_topo (f : Faults → Faults) : (s.modFaults f).topo = s.topo := rfl
@[simp] theorem modFaults_regions (f : Faults → Faults) : (s.modFaults f).regions = s.regions := rfl
@[simp] theorem modFaults_fields (f : Faults → Faults) : (s.modFaults f).fields = s.fields := rfl
@[simp] theorem modFaults_pans (f : Faults → Faults) : (s.modFaults f).pans = s.pans := rfl
@[simp] theorem modFaults_cc (f : Faults → Faults) : (s.modFaults f).cc = s.cc := rfl
@[simp] theorem modFaults_slices (f : Faults → Faults) : (s.modFaults f).slices = s.slices := rfl
@[simp] theorem modFaults_chans (f : Faults → Faults) : (s.modFaults f).chans = s.chans := rfl
@[simp] theorem modFaults_memdev (f : Faults → Faults) : (s.modFaults f).memdev = s.memdev := rfl
@[simp] theorem modFaults_net (f : Faults → Faults) : (s.modFaults f).net = s.net := rfl
@[simp] theorem modFaults_fin (f : Faults → Faults) : (s.modFaults f).fin = s.fin := rfl
@[simp] theorem modFaults_svc (f : Faults → Faults) : (s.modFaults f).svc = s.svc := rfl
@[simp] theorem modFaults_jobs (f : Faults → Faults) : (s.modFaults f).jobs = s.jobs := rfl
@[simp] theorem modFaults_mirror (f : Faults → Faults) : (s.modFaults f).mirror = s.mirror := rfl
@[simp] theorem modFaults_clock (f : Faults → Faults) : (s.modFaults f).clock = s.clock := rfl
@[simp] theorem modFaults_power (f : Faults → Faults) : (s.modFaults f).power = s.power := rfl
@[simp] theorem modFaults_hif (f : Faults → Faults) : (s.modFaults f).hif = s.hif := rfl
@[simp] theorem modFaults_faults (f : Faults → Faults) : (s.modFaults f).faults = f s.faults := rfl
@[simp] theorem modFaults_gauges (f : Faults → Faults) : (s.modFaults f).gauges = s.gauges := rfl
@[simp] theorem modFaults_sec (f : Faults → Faults) : (s.modFaults f).sec = s.sec := rfl
@[simp] theorem modFaults_outs (f : Faults → Faults) : (s.modFaults f).outs = s.outs := rfl
@[simp] theorem modFaults_issuedOuts (f : Faults → Faults) : (s.modFaults f).issuedOuts = s.issuedOuts := rfl
@[simp] theorem modFaults_storeMem (f : Faults → Faults) : (s.modFaults f).storeMem = s.storeMem := rfl
@[simp] theorem modFaults_brineMem (f : Faults → Faults) : (s.modFaults f).brineMem = s.brineMem := rfl
@[simp] theorem modFaults_cellarMem (f : Faults → Faults) : (s.modFaults f).cellarMem = s.cellarMem := rfl
@[simp] theorem modFaults_hostMem (f : Faults → Faults) : (s.modFaults f).hostMem = s.hostMem := rfl
@[simp] theorem modFaults_slotMem (f : Faults → Faults) : (s.modFaults f).slotMem = s.slotMem := rfl
@[simp] theorem modFaults_draws (f : Faults → Faults) : (s.modFaults f).draws = s.draws := rfl

/-! ### modClock -/

@[simp] theorem modClock_pending (f : Clock → Clock) : (s.modClock f).pending = s.pending := rfl
@[simp] theorem modClock_powered (f : Clock → Clock) : (s.modClock f).powered = s.powered := rfl
@[simp] theorem modClock_boot (f : Clock → Clock) : (s.modClock f).boot = s.boot := rfl
@[simp] theorem modClock_topo (f : Clock → Clock) : (s.modClock f).topo = s.topo := rfl
@[simp] theorem modClock_regions (f : Clock → Clock) : (s.modClock f).regions = s.regions := rfl
@[simp] theorem modClock_fields (f : Clock → Clock) : (s.modClock f).fields = s.fields := rfl
@[simp] theorem modClock_pans (f : Clock → Clock) : (s.modClock f).pans = s.pans := rfl
@[simp] theorem modClock_cc (f : Clock → Clock) : (s.modClock f).cc = s.cc := rfl
@[simp] theorem modClock_slices (f : Clock → Clock) : (s.modClock f).slices = s.slices := rfl
@[simp] theorem modClock_chans (f : Clock → Clock) : (s.modClock f).chans = s.chans := rfl
@[simp] theorem modClock_memdev (f : Clock → Clock) : (s.modClock f).memdev = s.memdev := rfl
@[simp] theorem modClock_net (f : Clock → Clock) : (s.modClock f).net = s.net := rfl
@[simp] theorem modClock_fin (f : Clock → Clock) : (s.modClock f).fin = s.fin := rfl
@[simp] theorem modClock_svc (f : Clock → Clock) : (s.modClock f).svc = s.svc := rfl
@[simp] theorem modClock_jobs (f : Clock → Clock) : (s.modClock f).jobs = s.jobs := rfl
@[simp] theorem modClock_mirror (f : Clock → Clock) : (s.modClock f).mirror = s.mirror := rfl
@[simp] theorem modClock_clock (f : Clock → Clock) : (s.modClock f).clock = f s.clock := rfl
@[simp] theorem modClock_power (f : Clock → Clock) : (s.modClock f).power = s.power := rfl
@[simp] theorem modClock_hif (f : Clock → Clock) : (s.modClock f).hif = s.hif := rfl
@[simp] theorem modClock_faults (f : Clock → Clock) : (s.modClock f).faults = s.faults := rfl
@[simp] theorem modClock_gauges (f : Clock → Clock) : (s.modClock f).gauges = s.gauges := rfl
@[simp] theorem modClock_sec (f : Clock → Clock) : (s.modClock f).sec = s.sec := rfl
@[simp] theorem modClock_outs (f : Clock → Clock) : (s.modClock f).outs = s.outs := rfl
@[simp] theorem modClock_issuedOuts (f : Clock → Clock) : (s.modClock f).issuedOuts = s.issuedOuts := rfl
@[simp] theorem modClock_storeMem (f : Clock → Clock) : (s.modClock f).storeMem = s.storeMem := rfl
@[simp] theorem modClock_brineMem (f : Clock → Clock) : (s.modClock f).brineMem = s.brineMem := rfl
@[simp] theorem modClock_cellarMem (f : Clock → Clock) : (s.modClock f).cellarMem = s.cellarMem := rfl
@[simp] theorem modClock_hostMem (f : Clock → Clock) : (s.modClock f).hostMem = s.hostMem := rfl
@[simp] theorem modClock_slotMem (f : Clock → Clock) : (s.modClock f).slotMem = s.slotMem := rfl
@[simp] theorem modClock_draws (f : Clock → Clock) : (s.modClock f).draws = s.draws := rfl

/-! ### modPower -/

@[simp] theorem modPower_pending (f : Power → Power) : (s.modPower f).pending = s.pending := rfl
@[simp] theorem modPower_powered (f : Power → Power) : (s.modPower f).powered = s.powered := rfl
@[simp] theorem modPower_boot (f : Power → Power) : (s.modPower f).boot = s.boot := rfl
@[simp] theorem modPower_topo (f : Power → Power) : (s.modPower f).topo = s.topo := rfl
@[simp] theorem modPower_regions (f : Power → Power) : (s.modPower f).regions = s.regions := rfl
@[simp] theorem modPower_fields (f : Power → Power) : (s.modPower f).fields = s.fields := rfl
@[simp] theorem modPower_pans (f : Power → Power) : (s.modPower f).pans = s.pans := rfl
@[simp] theorem modPower_cc (f : Power → Power) : (s.modPower f).cc = s.cc := rfl
@[simp] theorem modPower_slices (f : Power → Power) : (s.modPower f).slices = s.slices := rfl
@[simp] theorem modPower_chans (f : Power → Power) : (s.modPower f).chans = s.chans := rfl
@[simp] theorem modPower_memdev (f : Power → Power) : (s.modPower f).memdev = s.memdev := rfl
@[simp] theorem modPower_net (f : Power → Power) : (s.modPower f).net = s.net := rfl
@[simp] theorem modPower_fin (f : Power → Power) : (s.modPower f).fin = s.fin := rfl
@[simp] theorem modPower_svc (f : Power → Power) : (s.modPower f).svc = s.svc := rfl
@[simp] theorem modPower_jobs (f : Power → Power) : (s.modPower f).jobs = s.jobs := rfl
@[simp] theorem modPower_mirror (f : Power → Power) : (s.modPower f).mirror = s.mirror := rfl
@[simp] theorem modPower_clock (f : Power → Power) : (s.modPower f).clock = s.clock := rfl
@[simp] theorem modPower_power (f : Power → Power) : (s.modPower f).power = f s.power := rfl
@[simp] theorem modPower_hif (f : Power → Power) : (s.modPower f).hif = s.hif := rfl
@[simp] theorem modPower_faults (f : Power → Power) : (s.modPower f).faults = s.faults := rfl
@[simp] theorem modPower_gauges (f : Power → Power) : (s.modPower f).gauges = s.gauges := rfl
@[simp] theorem modPower_sec (f : Power → Power) : (s.modPower f).sec = s.sec := rfl
@[simp] theorem modPower_outs (f : Power → Power) : (s.modPower f).outs = s.outs := rfl
@[simp] theorem modPower_issuedOuts (f : Power → Power) : (s.modPower f).issuedOuts = s.issuedOuts := rfl
@[simp] theorem modPower_storeMem (f : Power → Power) : (s.modPower f).storeMem = s.storeMem := rfl
@[simp] theorem modPower_brineMem (f : Power → Power) : (s.modPower f).brineMem = s.brineMem := rfl
@[simp] theorem modPower_cellarMem (f : Power → Power) : (s.modPower f).cellarMem = s.cellarMem := rfl
@[simp] theorem modPower_hostMem (f : Power → Power) : (s.modPower f).hostMem = s.hostMem := rfl
@[simp] theorem modPower_slotMem (f : Power → Power) : (s.modPower f).slotMem = s.slotMem := rfl
@[simp] theorem modPower_draws (f : Power → Power) : (s.modPower f).draws = s.draws := rfl

/-! ### modBoot -/

@[simp] theorem modBoot_pending (f : Boot → Boot) : (s.modBoot f).pending = s.pending := rfl
@[simp] theorem modBoot_powered (f : Boot → Boot) : (s.modBoot f).powered = s.powered := rfl
@[simp] theorem modBoot_boot (f : Boot → Boot) : (s.modBoot f).boot = f s.boot := rfl
@[simp] theorem modBoot_topo (f : Boot → Boot) : (s.modBoot f).topo = s.topo := rfl
@[simp] theorem modBoot_regions (f : Boot → Boot) : (s.modBoot f).regions = s.regions := rfl
@[simp] theorem modBoot_fields (f : Boot → Boot) : (s.modBoot f).fields = s.fields := rfl
@[simp] theorem modBoot_pans (f : Boot → Boot) : (s.modBoot f).pans = s.pans := rfl
@[simp] theorem modBoot_cc (f : Boot → Boot) : (s.modBoot f).cc = s.cc := rfl
@[simp] theorem modBoot_slices (f : Boot → Boot) : (s.modBoot f).slices = s.slices := rfl
@[simp] theorem modBoot_chans (f : Boot → Boot) : (s.modBoot f).chans = s.chans := rfl
@[simp] theorem modBoot_memdev (f : Boot → Boot) : (s.modBoot f).memdev = s.memdev := rfl
@[simp] theorem modBoot_net (f : Boot → Boot) : (s.modBoot f).net = s.net := rfl
@[simp] theorem modBoot_fin (f : Boot → Boot) : (s.modBoot f).fin = s.fin := rfl
@[simp] theorem modBoot_svc (f : Boot → Boot) : (s.modBoot f).svc = s.svc := rfl
@[simp] theorem modBoot_jobs (f : Boot → Boot) : (s.modBoot f).jobs = s.jobs := rfl
@[simp] theorem modBoot_mirror (f : Boot → Boot) : (s.modBoot f).mirror = s.mirror := rfl
@[simp] theorem modBoot_clock (f : Boot → Boot) : (s.modBoot f).clock = s.clock := rfl
@[simp] theorem modBoot_power (f : Boot → Boot) : (s.modBoot f).power = s.power := rfl
@[simp] theorem modBoot_hif (f : Boot → Boot) : (s.modBoot f).hif = s.hif := rfl
@[simp] theorem modBoot_faults (f : Boot → Boot) : (s.modBoot f).faults = s.faults := rfl
@[simp] theorem modBoot_gauges (f : Boot → Boot) : (s.modBoot f).gauges = s.gauges := rfl
@[simp] theorem modBoot_sec (f : Boot → Boot) : (s.modBoot f).sec = s.sec := rfl
@[simp] theorem modBoot_outs (f : Boot → Boot) : (s.modBoot f).outs = s.outs := rfl
@[simp] theorem modBoot_issuedOuts (f : Boot → Boot) : (s.modBoot f).issuedOuts = s.issuedOuts := rfl
@[simp] theorem modBoot_storeMem (f : Boot → Boot) : (s.modBoot f).storeMem = s.storeMem := rfl
@[simp] theorem modBoot_brineMem (f : Boot → Boot) : (s.modBoot f).brineMem = s.brineMem := rfl
@[simp] theorem modBoot_cellarMem (f : Boot → Boot) : (s.modBoot f).cellarMem = s.cellarMem := rfl
@[simp] theorem modBoot_hostMem (f : Boot → Boot) : (s.modBoot f).hostMem = s.hostMem := rfl
@[simp] theorem modBoot_slotMem (f : Boot → Boot) : (s.modBoot f).slotMem = s.slotMem := rfl
@[simp] theorem modBoot_draws (f : Boot → Boot) : (s.modBoot f).draws = s.draws := rfl

/-! ### modMem -/

@[simp] theorem modMem_pending (f : MemDev → MemDev) : (s.modMem f).pending = s.pending := rfl
@[simp] theorem modMem_powered (f : MemDev → MemDev) : (s.modMem f).powered = s.powered := rfl
@[simp] theorem modMem_boot (f : MemDev → MemDev) : (s.modMem f).boot = s.boot := rfl
@[simp] theorem modMem_topo (f : MemDev → MemDev) : (s.modMem f).topo = s.topo := rfl
@[simp] theorem modMem_regions (f : MemDev → MemDev) : (s.modMem f).regions = s.regions := rfl
@[simp] theorem modMem_fields (f : MemDev → MemDev) : (s.modMem f).fields = s.fields := rfl
@[simp] theorem modMem_pans (f : MemDev → MemDev) : (s.modMem f).pans = s.pans := rfl
@[simp] theorem modMem_cc (f : MemDev → MemDev) : (s.modMem f).cc = s.cc := rfl
@[simp] theorem modMem_slices (f : MemDev → MemDev) : (s.modMem f).slices = s.slices := rfl
@[simp] theorem modMem_chans (f : MemDev → MemDev) : (s.modMem f).chans = s.chans := rfl
@[simp] theorem modMem_memdev (f : MemDev → MemDev) : (s.modMem f).memdev = f s.memdev := rfl
@[simp] theorem modMem_net (f : MemDev → MemDev) : (s.modMem f).net = s.net := rfl
@[simp] theorem modMem_fin (f : MemDev → MemDev) : (s.modMem f).fin = s.fin := rfl
@[simp] theorem modMem_svc (f : MemDev → MemDev) : (s.modMem f).svc = s.svc := rfl
@[simp] theorem modMem_jobs (f : MemDev → MemDev) : (s.modMem f).jobs = s.jobs := rfl
@[simp] theorem modMem_mirror (f : MemDev → MemDev) : (s.modMem f).mirror = s.mirror := rfl
@[simp] theorem modMem_clock (f : MemDev → MemDev) : (s.modMem f).clock = s.clock := rfl
@[simp] theorem modMem_power (f : MemDev → MemDev) : (s.modMem f).power = s.power := rfl
@[simp] theorem modMem_hif (f : MemDev → MemDev) : (s.modMem f).hif = s.hif := rfl
@[simp] theorem modMem_faults (f : MemDev → MemDev) : (s.modMem f).faults = s.faults := rfl
@[simp] theorem modMem_gauges (f : MemDev → MemDev) : (s.modMem f).gauges = s.gauges := rfl
@[simp] theorem modMem_sec (f : MemDev → MemDev) : (s.modMem f).sec = s.sec := rfl
@[simp] theorem modMem_outs (f : MemDev → MemDev) : (s.modMem f).outs = s.outs := rfl
@[simp] theorem modMem_issuedOuts (f : MemDev → MemDev) : (s.modMem f).issuedOuts = s.issuedOuts := rfl
@[simp] theorem modMem_storeMem (f : MemDev → MemDev) : (s.modMem f).storeMem = s.storeMem := rfl
@[simp] theorem modMem_brineMem (f : MemDev → MemDev) : (s.modMem f).brineMem = s.brineMem := rfl
@[simp] theorem modMem_cellarMem (f : MemDev → MemDev) : (s.modMem f).cellarMem = s.cellarMem := rfl
@[simp] theorem modMem_hostMem (f : MemDev → MemDev) : (s.modMem f).hostMem = s.hostMem := rfl
@[simp] theorem modMem_slotMem (f : MemDev → MemDev) : (s.modMem f).slotMem = s.slotMem := rfl
@[simp] theorem modMem_draws (f : MemDev → MemDev) : (s.modMem f).draws = s.draws := rfl

/-! ### modSec -/

@[simp] theorem modSec_pending (f : Security → Security) : (s.modSec f).pending = s.pending := rfl
@[simp] theorem modSec_powered (f : Security → Security) : (s.modSec f).powered = s.powered := rfl
@[simp] theorem modSec_boot (f : Security → Security) : (s.modSec f).boot = s.boot := rfl
@[simp] theorem modSec_topo (f : Security → Security) : (s.modSec f).topo = s.topo := rfl
@[simp] theorem modSec_regions (f : Security → Security) : (s.modSec f).regions = s.regions := rfl
@[simp] theorem modSec_fields (f : Security → Security) : (s.modSec f).fields = s.fields := rfl
@[simp] theorem modSec_pans (f : Security → Security) : (s.modSec f).pans = s.pans := rfl
@[simp] theorem modSec_cc (f : Security → Security) : (s.modSec f).cc = s.cc := rfl
@[simp] theorem modSec_slices (f : Security → Security) : (s.modSec f).slices = s.slices := rfl
@[simp] theorem modSec_chans (f : Security → Security) : (s.modSec f).chans = s.chans := rfl
@[simp] theorem modSec_memdev (f : Security → Security) : (s.modSec f).memdev = s.memdev := rfl
@[simp] theorem modSec_net (f : Security → Security) : (s.modSec f).net = s.net := rfl
@[simp] theorem modSec_fin (f : Security → Security) : (s.modSec f).fin = s.fin := rfl
@[simp] theorem modSec_svc (f : Security → Security) : (s.modSec f).svc = s.svc := rfl
@[simp] theorem modSec_jobs (f : Security → Security) : (s.modSec f).jobs = s.jobs := rfl
@[simp] theorem modSec_mirror (f : Security → Security) : (s.modSec f).mirror = s.mirror := rfl
@[simp] theorem modSec_clock (f : Security → Security) : (s.modSec f).clock = s.clock := rfl
@[simp] theorem modSec_power (f : Security → Security) : (s.modSec f).power = s.power := rfl
@[simp] theorem modSec_hif (f : Security → Security) : (s.modSec f).hif = s.hif := rfl
@[simp] theorem modSec_faults (f : Security → Security) : (s.modSec f).faults = s.faults := rfl
@[simp] theorem modSec_gauges (f : Security → Security) : (s.modSec f).gauges = s.gauges := rfl
@[simp] theorem modSec_sec (f : Security → Security) : (s.modSec f).sec = f s.sec := rfl
@[simp] theorem modSec_outs (f : Security → Security) : (s.modSec f).outs = s.outs := rfl
@[simp] theorem modSec_issuedOuts (f : Security → Security) : (s.modSec f).issuedOuts = s.issuedOuts := rfl
@[simp] theorem modSec_storeMem (f : Security → Security) : (s.modSec f).storeMem = s.storeMem := rfl
@[simp] theorem modSec_brineMem (f : Security → Security) : (s.modSec f).brineMem = s.brineMem := rfl
@[simp] theorem modSec_cellarMem (f : Security → Security) : (s.modSec f).cellarMem = s.cellarMem := rfl
@[simp] theorem modSec_hostMem (f : Security → Security) : (s.modSec f).hostMem = s.hostMem := rfl
@[simp] theorem modSec_slotMem (f : Security → Security) : (s.modSec f).slotMem = s.slotMem := rfl
@[simp] theorem modSec_draws (f : Security → Security) : (s.modSec f).draws = s.draws := rfl

/-! ### bumpPan -/

@[simp] theorem bumpPan_pending (p ctr n : Nat) : (s.bumpPan p ctr n).pending = s.pending := by unfold State.bumpPan; split <;> rfl
@[simp] theorem bumpPan_powered (p ctr n : Nat) : (s.bumpPan p ctr n).powered = s.powered := by unfold State.bumpPan; split <;> rfl
@[simp] theorem bumpPan_boot (p ctr n : Nat) : (s.bumpPan p ctr n).boot = s.boot := by unfold State.bumpPan; split <;> rfl
@[simp] theorem bumpPan_topo (p ctr n : Nat) : (s.bumpPan p ctr n).topo = s.topo := by unfold State.bumpPan; split <;> rfl
@[simp] theorem bumpPan_regions (p ctr n : Nat) : (s.bumpPan p ctr n).regions = s.regions := by unfold State.bumpPan; split <;> rfl
@[simp] theorem bumpPan_fields (p ctr n : Nat) : (s.bumpPan p ctr n).fields = s.fields := by unfold State.bumpPan; split <;> rfl
@[simp] theorem bumpPan_cc (p ctr n : Nat) : (s.bumpPan p ctr n).cc = s.cc := by unfold State.bumpPan; split <;> rfl
@[simp] theorem bumpPan_slices (p ctr n : Nat) : (s.bumpPan p ctr n).slices = s.slices := by unfold State.bumpPan; split <;> rfl
@[simp] theorem bumpPan_chans (p ctr n : Nat) : (s.bumpPan p ctr n).chans = s.chans := by unfold State.bumpPan; split <;> rfl
@[simp] theorem bumpPan_memdev (p ctr n : Nat) : (s.bumpPan p ctr n).memdev = s.memdev := by unfold State.bumpPan; split <;> rfl
@[simp] theorem bumpPan_net (p ctr n : Nat) : (s.bumpPan p ctr n).net = s.net := by unfold State.bumpPan; split <;> rfl
@[simp] theorem bumpPan_fin (p ctr n : Nat) : (s.bumpPan p ctr n).fin = s.fin := by unfold State.bumpPan; split <;> rfl
@[simp] theorem bumpPan_svc (p ctr n : Nat) : (s.bumpPan p ctr n).svc = s.svc := by unfold State.bumpPan; split <;> rfl
@[simp] theorem bumpPan_jobs (p ctr n : Nat) : (s.bumpPan p ctr n).jobs = s.jobs := by unfold State.bumpPan; split <;> rfl
@[simp] theorem bumpPan_mirror (p ctr n : Nat) : (s.bumpPan p ctr n).mirror = s.mirror := by unfold State.bumpPan; split <;> rfl
@[simp] theorem bumpPan_clock (p ctr n : Nat) : (s.bumpPan p ctr n).clock = s.clock := by unfold State.bumpPan; split <;> rfl
@[simp] theorem bumpPan_power (p ctr n : Nat) : (s.bumpPan p ctr n).power = s.power := by unfold State.bumpPan; split <;> rfl
@[simp] theorem bumpPan_hif (p ctr n : Nat) : (s.bumpPan p ctr n).hif = s.hif := by unfold State.bumpPan; split <;> rfl
@[simp] theorem bumpPan_faults (p ctr n : Nat) : (s.bumpPan p ctr n).faults = s.faults := by unfold State.bumpPan; split <;> rfl
@[simp] theorem bumpPan_gauges (p ctr n : Nat) : (s.bumpPan p ctr n).gauges = s.gauges := by unfold State.bumpPan; split <;> rfl
@[simp] theorem bumpPan_sec (p ctr n : Nat) : (s.bumpPan p ctr n).sec = s.sec := by unfold State.bumpPan; split <;> rfl
@[simp] theorem bumpPan_outs (p ctr n : Nat) : (s.bumpPan p ctr n).outs = s.outs := by unfold State.bumpPan; split <;> rfl
@[simp] theorem bumpPan_issuedOuts (p ctr n : Nat) : (s.bumpPan p ctr n).issuedOuts = s.issuedOuts := by unfold State.bumpPan; split <;> rfl
@[simp] theorem bumpPan_storeMem (p ctr n : Nat) : (s.bumpPan p ctr n).storeMem = s.storeMem := by unfold State.bumpPan; split <;> rfl
@[simp] theorem bumpPan_brineMem (p ctr n : Nat) : (s.bumpPan p ctr n).brineMem = s.brineMem := by unfold State.bumpPan; split <;> rfl
@[simp] theorem bumpPan_cellarMem (p ctr n : Nat) : (s.bumpPan p ctr n).cellarMem = s.cellarMem := by unfold State.bumpPan; split <;> rfl
@[simp] theorem bumpPan_hostMem (p ctr n : Nat) : (s.bumpPan p ctr n).hostMem = s.hostMem := by unfold State.bumpPan; split <;> rfl
@[simp] theorem bumpPan_slotMem (p ctr n : Nat) : (s.bumpPan p ctr n).slotMem = s.slotMem := by unfold State.bumpPan; split <;> rfl
@[simp] theorem bumpPan_draws (p ctr n : Nat) : (s.bumpPan p ctr n).draws = s.draws := by unfold State.bumpPan; split <;> rfl

/-! ### bumpSlice -/

@[simp] theorem bumpSlice_pending (i ctr k : Nat) : (s.bumpSlice i ctr k).pending = s.pending := by unfold State.bumpSlice; split <;> rfl
@[simp] theorem bumpSlice_powered (i ctr k : Nat) : (s.bumpSlice i ctr k).powered = s.powered := by unfold State.bumpSlice; split <;> rfl
@[simp] theorem bumpSlice_boot (i ctr k : Nat) : (s.bumpSlice i ctr k).boot = s.boot := by unfold State.bumpSlice; split <;> rfl
@[simp] theorem bumpSlice_topo (i ctr k : Nat) : (s.bumpSlice i ctr k).topo = s.topo := by unfold State.bumpSlice; split <;> rfl
@[simp] theorem bumpSlice_regions (i ctr k : Nat) : (s.bumpSlice i ctr k).regions = s.regions := by unfold State.bumpSlice; split <;> rfl
@[simp] theorem bumpSlice_fields (i ctr k : Nat) : (s.bumpSlice i ctr k).fields = s.fields := by unfold State.bumpSlice; split <;> rfl
@[simp] theorem bumpSlice_pans (i ctr k : Nat) : (s.bumpSlice i ctr k).pans = s.pans := by unfold State.bumpSlice; split <;> rfl
@[simp] theorem bumpSlice_cc (i ctr k : Nat) : (s.bumpSlice i ctr k).cc = s.cc := by unfold State.bumpSlice; split <;> rfl
@[simp] theorem bumpSlice_chans (i ctr k : Nat) : (s.bumpSlice i ctr k).chans = s.chans := by unfold State.bumpSlice; split <;> rfl
@[simp] theorem bumpSlice_memdev (i ctr k : Nat) : (s.bumpSlice i ctr k).memdev = s.memdev := by unfold State.bumpSlice; split <;> rfl
@[simp] theorem bumpSlice_net (i ctr k : Nat) : (s.bumpSlice i ctr k).net = s.net := by unfold State.bumpSlice; split <;> rfl
@[simp] theorem bumpSlice_fin (i ctr k : Nat) : (s.bumpSlice i ctr k).fin = s.fin := by unfold State.bumpSlice; split <;> rfl
@[simp] theorem bumpSlice_svc (i ctr k : Nat) : (s.bumpSlice i ctr k).svc = s.svc := by unfold State.bumpSlice; split <;> rfl
@[simp] theorem bumpSlice_jobs (i ctr k : Nat) : (s.bumpSlice i ctr k).jobs = s.jobs := by unfold State.bumpSlice; split <;> rfl
@[simp] theorem bumpSlice_mirror (i ctr k : Nat) : (s.bumpSlice i ctr k).mirror = s.mirror := by unfold State.bumpSlice; split <;> rfl
@[simp] theorem bumpSlice_clock (i ctr k : Nat) : (s.bumpSlice i ctr k).clock = s.clock := by unfold State.bumpSlice; split <;> rfl
@[simp] theorem bumpSlice_power (i ctr k : Nat) : (s.bumpSlice i ctr k).power = s.power := by unfold State.bumpSlice; split <;> rfl
@[simp] theorem bumpSlice_hif (i ctr k : Nat) : (s.bumpSlice i ctr k).hif = s.hif := by unfold State.bumpSlice; split <;> rfl
@[simp] theorem bumpSlice_faults (i ctr k : Nat) : (s.bumpSlice i ctr k).faults = s.faults := by unfold State.bumpSlice; split <;> rfl
@[simp] theorem bumpSlice_gauges (i ctr k : Nat) : (s.bumpSlice i ctr k).gauges = s.gauges := by unfold State.bumpSlice; split <;> rfl
@[simp] theorem bumpSlice_sec (i ctr k : Nat) : (s.bumpSlice i ctr k).sec = s.sec := by unfold State.bumpSlice; split <;> rfl
@[simp] theorem bumpSlice_outs (i ctr k : Nat) : (s.bumpSlice i ctr k).outs = s.outs := by unfold State.bumpSlice; split <;> rfl
@[simp] theorem bumpSlice_issuedOuts (i ctr k : Nat) : (s.bumpSlice i ctr k).issuedOuts = s.issuedOuts := by unfold State.bumpSlice; split <;> rfl
@[simp] theorem bumpSlice_storeMem (i ctr k : Nat) : (s.bumpSlice i ctr k).storeMem = s.storeMem := by unfold State.bumpSlice; split <;> rfl
@[simp] theorem bumpSlice_brineMem (i ctr k : Nat) : (s.bumpSlice i ctr k).brineMem = s.brineMem := by unfold State.bumpSlice; split <;> rfl
@[simp] theorem bumpSlice_cellarMem (i ctr k : Nat) : (s.bumpSlice i ctr k).cellarMem = s.cellarMem := by unfold State.bumpSlice; split <;> rfl
@[simp] theorem bumpSlice_hostMem (i ctr k : Nat) : (s.bumpSlice i ctr k).hostMem = s.hostMem := by unfold State.bumpSlice; split <;> rfl
@[simp] theorem bumpSlice_slotMem (i ctr k : Nat) : (s.bumpSlice i ctr k).slotMem = s.slotMem := by unfold State.bumpSlice; split <;> rfl
@[simp] theorem bumpSlice_draws (i ctr k : Nat) : (s.bumpSlice i ctr k).draws = s.draws := by unfold State.bumpSlice; split <;> rfl

/-! ### bumpChan -/

@[simp] theorem bumpChan_pending (i ctr k : Nat) : (s.bumpChan i ctr k).pending = s.pending := by unfold State.bumpChan; split <;> rfl
@[simp] theorem bumpChan_powered (i ctr k : Nat) : (s.bumpChan i ctr k).powered = s.powered := by unfold State.bumpChan; split <;> rfl
@[simp] theorem bumpChan_boot (i ctr k : Nat) : (s.bumpChan i ctr k).boot = s.boot := by unfold State.bumpChan; split <;> rfl
@[simp] theorem bumpChan_topo (i ctr k : Nat) : (s.bumpChan i ctr k).topo = s.topo := by unfold State.bumpChan; split <;> rfl
@[simp] theorem bumpChan_regions (i ctr k : Nat) : (s.bumpChan i ctr k).regions = s.regions := by unfold State.bumpChan; split <;> rfl
@[simp] theorem bumpChan_fields (i ctr k : Nat) : (s.bumpChan i ctr k).fields = s.fields := by unfold State.bumpChan; split <;> rfl
@[simp] theorem bumpChan_pans (i ctr k : Nat) : (s.bumpChan i ctr k).pans = s.pans := by unfold State.bumpChan; split <;> rfl
@[simp] theorem bumpChan_cc (i ctr k : Nat) : (s.bumpChan i ctr k).cc = s.cc := by unfold State.bumpChan; split <;> rfl
@[simp] theorem bumpChan_slices (i ctr k : Nat) : (s.bumpChan i ctr k).slices = s.slices := by unfold State.bumpChan; split <;> rfl
@[simp] theorem bumpChan_memdev (i ctr k : Nat) : (s.bumpChan i ctr k).memdev = s.memdev := by unfold State.bumpChan; split <;> rfl
@[simp] theorem bumpChan_net (i ctr k : Nat) : (s.bumpChan i ctr k).net = s.net := by unfold State.bumpChan; split <;> rfl
@[simp] theorem bumpChan_fin (i ctr k : Nat) : (s.bumpChan i ctr k).fin = s.fin := by unfold State.bumpChan; split <;> rfl
@[simp] theorem bumpChan_svc (i ctr k : Nat) : (s.bumpChan i ctr k).svc = s.svc := by unfold State.bumpChan; split <;> rfl
@[simp] theorem bumpChan_jobs (i ctr k : Nat) : (s.bumpChan i ctr k).jobs = s.jobs := by unfold State.bumpChan; split <;> rfl
@[simp] theorem bumpChan_mirror (i ctr k : Nat) : (s.bumpChan i ctr k).mirror = s.mirror := by unfold State.bumpChan; split <;> rfl
@[simp] theorem bumpChan_clock (i ctr k : Nat) : (s.bumpChan i ctr k).clock = s.clock := by unfold State.bumpChan; split <;> rfl
@[simp] theorem bumpChan_power (i ctr k : Nat) : (s.bumpChan i ctr k).power = s.power := by unfold State.bumpChan; split <;> rfl
@[simp] theorem bumpChan_hif (i ctr k : Nat) : (s.bumpChan i ctr k).hif = s.hif := by unfold State.bumpChan; split <;> rfl
@[simp] theorem bumpChan_faults (i ctr k : Nat) : (s.bumpChan i ctr k).faults = s.faults := by unfold State.bumpChan; split <;> rfl
@[simp] theorem bumpChan_gauges (i ctr k : Nat) : (s.bumpChan i ctr k).gauges = s.gauges := by unfold State.bumpChan; split <;> rfl
@[simp] theorem bumpChan_sec (i ctr k : Nat) : (s.bumpChan i ctr k).sec = s.sec := by unfold State.bumpChan; split <;> rfl
@[simp] theorem bumpChan_outs (i ctr k : Nat) : (s.bumpChan i ctr k).outs = s.outs := by unfold State.bumpChan; split <;> rfl
@[simp] theorem bumpChan_issuedOuts (i ctr k : Nat) : (s.bumpChan i ctr k).issuedOuts = s.issuedOuts := by unfold State.bumpChan; split <;> rfl
@[simp] theorem bumpChan_storeMem (i ctr k : Nat) : (s.bumpChan i ctr k).storeMem = s.storeMem := by unfold State.bumpChan; split <;> rfl
@[simp] theorem bumpChan_brineMem (i ctr k : Nat) : (s.bumpChan i ctr k).brineMem = s.brineMem := by unfold State.bumpChan; split <;> rfl
@[simp] theorem bumpChan_cellarMem (i ctr k : Nat) : (s.bumpChan i ctr k).cellarMem = s.cellarMem := by unfold State.bumpChan; split <;> rfl
@[simp] theorem bumpChan_hostMem (i ctr k : Nat) : (s.bumpChan i ctr k).hostMem = s.hostMem := by unfold State.bumpChan; split <;> rfl
@[simp] theorem bumpChan_slotMem (i ctr k : Nat) : (s.bumpChan i ctr k).slotMem = s.slotMem := by unfold State.bumpChan; split <;> rfl
@[simp] theorem bumpChan_draws (i ctr k : Nat) : (s.bumpChan i ctr k).draws = s.draws := by unfold State.bumpChan; split <;> rfl

/-! ### report and ibi -/

@[simp] theorem report_pending (r : FaultRec) : (report r s).pending = s.pending := rfl
@[simp] theorem report_powered (r : FaultRec) : (report r s).powered = s.powered := rfl
@[simp] theorem report_boot (r : FaultRec) : (report r s).boot = s.boot := rfl
@[simp] theorem report_topo (r : FaultRec) : (report r s).topo = s.topo := rfl
@[simp] theorem report_regions (r : FaultRec) : (report r s).regions = s.regions := rfl
@[simp] theorem report_fields (r : FaultRec) : (report r s).fields = s.fields := rfl
@[simp] theorem report_pans (r : FaultRec) : (report r s).pans = s.pans := rfl
@[simp] theorem report_cc (r : FaultRec) : (report r s).cc = s.cc := rfl
@[simp] theorem report_slices (r : FaultRec) : (report r s).slices = s.slices := rfl
@[simp] theorem report_chans (r : FaultRec) : (report r s).chans = s.chans := rfl
@[simp] theorem report_memdev (r : FaultRec) : (report r s).memdev = s.memdev := rfl
@[simp] theorem report_net (r : FaultRec) : (report r s).net = s.net := rfl
@[simp] theorem report_fin (r : FaultRec) : (report r s).fin = s.fin := rfl
@[simp] theorem report_svc (r : FaultRec) : (report r s).svc = s.svc := rfl
@[simp] theorem report_jobs (r : FaultRec) : (report r s).jobs = s.jobs := rfl
@[simp] theorem report_mirror (r : FaultRec) : (report r s).mirror = s.mirror := rfl
@[simp] theorem report_clock (r : FaultRec) : (report r s).clock = s.clock := rfl
@[simp] theorem report_power (r : FaultRec) : (report r s).power = s.power := rfl
@[simp] theorem report_hif (r : FaultRec) : (report r s).hif = s.hif := rfl
@[simp] theorem report_gauges (r : FaultRec) : (report r s).gauges = s.gauges := rfl
@[simp] theorem report_sec (r : FaultRec) : (report r s).sec = s.sec := rfl
@[simp] theorem report_outs (r : FaultRec) : (report r s).outs = s.outs := rfl
@[simp] theorem report_issuedOuts (r : FaultRec) : (report r s).issuedOuts = s.issuedOuts := rfl
@[simp] theorem report_storeMem (r : FaultRec) : (report r s).storeMem = s.storeMem := rfl
@[simp] theorem report_brineMem (r : FaultRec) : (report r s).brineMem = s.brineMem := rfl
@[simp] theorem report_cellarMem (r : FaultRec) : (report r s).cellarMem = s.cellarMem := rfl
@[simp] theorem report_hostMem (r : FaultRec) : (report r s).hostMem = s.hostMem := rfl
@[simp] theorem report_slotMem (r : FaultRec) : (report r s).slotMem = s.slotMem := rfl
@[simp] theorem report_draws (r : FaultRec) : (report r s).draws = s.draws := rfl
@[simp] theorem ibi_pending (b : Nat) : (ibi b s).pending = s.pending := rfl
@[simp] theorem ibi_powered (b : Nat) : (ibi b s).powered = s.powered := rfl
@[simp] theorem ibi_boot (b : Nat) : (ibi b s).boot = s.boot := rfl
@[simp] theorem ibi_topo (b : Nat) : (ibi b s).topo = s.topo := rfl
@[simp] theorem ibi_regions (b : Nat) : (ibi b s).regions = s.regions := rfl
@[simp] theorem ibi_fields (b : Nat) : (ibi b s).fields = s.fields := rfl
@[simp] theorem ibi_pans (b : Nat) : (ibi b s).pans = s.pans := rfl
@[simp] theorem ibi_cc (b : Nat) : (ibi b s).cc = s.cc := rfl
@[simp] theorem ibi_slices (b : Nat) : (ibi b s).slices = s.slices := rfl
@[simp] theorem ibi_chans (b : Nat) : (ibi b s).chans = s.chans := rfl
@[simp] theorem ibi_memdev (b : Nat) : (ibi b s).memdev = s.memdev := rfl
@[simp] theorem ibi_net (b : Nat) : (ibi b s).net = s.net := rfl
@[simp] theorem ibi_fin (b : Nat) : (ibi b s).fin = s.fin := rfl
@[simp] theorem ibi_svc (b : Nat) : (ibi b s).svc = s.svc := rfl
@[simp] theorem ibi_jobs (b : Nat) : (ibi b s).jobs = s.jobs := rfl
@[simp] theorem ibi_mirror (b : Nat) : (ibi b s).mirror = s.mirror := rfl
@[simp] theorem ibi_clock (b : Nat) : (ibi b s).clock = s.clock := rfl
@[simp] theorem ibi_power (b : Nat) : (ibi b s).power = s.power := rfl
@[simp] theorem ibi_hif (b : Nat) : (ibi b s).hif = s.hif := rfl
@[simp] theorem ibi_gauges (b : Nat) : (ibi b s).gauges = s.gauges := rfl
@[simp] theorem ibi_sec (b : Nat) : (ibi b s).sec = s.sec := rfl
@[simp] theorem ibi_outs (b : Nat) : (ibi b s).outs = s.outs := rfl
@[simp] theorem ibi_issuedOuts (b : Nat) : (ibi b s).issuedOuts = s.issuedOuts := rfl
@[simp] theorem ibi_storeMem (b : Nat) : (ibi b s).storeMem = s.storeMem := rfl
@[simp] theorem ibi_brineMem (b : Nat) : (ibi b s).brineMem = s.brineMem := rfl
@[simp] theorem ibi_cellarMem (b : Nat) : (ibi b s).cellarMem = s.cellarMem := rfl
@[simp] theorem ibi_hostMem (b : Nat) : (ibi b s).hostMem = s.hostMem := rfl
@[simp] theorem ibi_slotMem (b : Nat) : (ibi b s).slotMem = s.slotMem := rfl
@[simp] theorem ibi_draws (b : Nat) : (ibi b s).draws = s.draws := rfl

/-! ### modHaul -/

@[simp] theorem modHaul_pending (h : HaulId) (f : Haul → Haul) : (s.modHaul h f).pending = s.pending := by cases h <;> rfl
@[simp] theorem modHaul_powered (h : HaulId) (f : Haul → Haul) : (s.modHaul h f).powered = s.powered := by cases h <;> rfl
@[simp] theorem modHaul_boot (h : HaulId) (f : Haul → Haul) : (s.modHaul h f).boot = s.boot := by cases h <;> rfl
@[simp] theorem modHaul_topo (h : HaulId) (f : Haul → Haul) : (s.modHaul h f).topo = s.topo := by cases h <;> rfl
@[simp] theorem modHaul_regions (h : HaulId) (f : Haul → Haul) : (s.modHaul h f).regions = s.regions := by cases h <;> rfl
@[simp] theorem modHaul_fields (h : HaulId) (f : Haul → Haul) : (s.modHaul h f).fields = s.fields := by cases h <;> rfl
@[simp] theorem modHaul_slices (h : HaulId) (f : Haul → Haul) : (s.modHaul h f).slices = s.slices := by cases h <;> rfl
@[simp] theorem modHaul_chans (h : HaulId) (f : Haul → Haul) : (s.modHaul h f).chans = s.chans := by cases h <;> rfl
@[simp] theorem modHaul_memdev (h : HaulId) (f : Haul → Haul) : (s.modHaul h f).memdev = s.memdev := by cases h <;> rfl
@[simp] theorem modHaul_net (h : HaulId) (f : Haul → Haul) : (s.modHaul h f).net = s.net := by cases h <;> rfl
@[simp] theorem modHaul_fin (h : HaulId) (f : Haul → Haul) : (s.modHaul h f).fin = s.fin := by cases h <;> rfl
@[simp] theorem modHaul_svc (h : HaulId) (f : Haul → Haul) : (s.modHaul h f).svc = s.svc := by cases h <;> rfl
@[simp] theorem modHaul_jobs (h : HaulId) (f : Haul → Haul) : (s.modHaul h f).jobs = s.jobs := by cases h <;> rfl
@[simp] theorem modHaul_mirror (h : HaulId) (f : Haul → Haul) : (s.modHaul h f).mirror = s.mirror := by cases h <;> rfl
@[simp] theorem modHaul_clock (h : HaulId) (f : Haul → Haul) : (s.modHaul h f).clock = s.clock := by cases h <;> rfl
@[simp] theorem modHaul_power (h : HaulId) (f : Haul → Haul) : (s.modHaul h f).power = s.power := by cases h <;> rfl
@[simp] theorem modHaul_hif (h : HaulId) (f : Haul → Haul) : (s.modHaul h f).hif = s.hif := by cases h <;> rfl
@[simp] theorem modHaul_faults (h : HaulId) (f : Haul → Haul) : (s.modHaul h f).faults = s.faults := by cases h <;> rfl
@[simp] theorem modHaul_gauges (h : HaulId) (f : Haul → Haul) : (s.modHaul h f).gauges = s.gauges := by cases h <;> rfl
@[simp] theorem modHaul_sec (h : HaulId) (f : Haul → Haul) : (s.modHaul h f).sec = s.sec := by cases h <;> rfl
@[simp] theorem modHaul_outs (h : HaulId) (f : Haul → Haul) : (s.modHaul h f).outs = s.outs := by cases h <;> rfl
@[simp] theorem modHaul_issuedOuts (h : HaulId) (f : Haul → Haul) : (s.modHaul h f).issuedOuts = s.issuedOuts := by cases h <;> rfl
@[simp] theorem modHaul_storeMem (h : HaulId) (f : Haul → Haul) : (s.modHaul h f).storeMem = s.storeMem := by cases h <;> rfl
@[simp] theorem modHaul_brineMem (h : HaulId) (f : Haul → Haul) : (s.modHaul h f).brineMem = s.brineMem := by cases h <;> rfl
@[simp] theorem modHaul_cellarMem (h : HaulId) (f : Haul → Haul) : (s.modHaul h f).cellarMem = s.cellarMem := by cases h <;> rfl
@[simp] theorem modHaul_hostMem (h : HaulId) (f : Haul → Haul) : (s.modHaul h f).hostMem = s.hostMem := by cases h <;> rfl
@[simp] theorem modHaul_slotMem (h : HaulId) (f : Haul → Haul) : (s.modHaul h f).slotMem = s.slotMem := by cases h <;> rfl
@[simp] theorem modHaul_draws (h : HaulId) (f : Haul → Haul) : (s.modHaul h f).draws = s.draws := by cases h <;> rfl

/-! ### modJob -/

@[simp] theorem modJob_pending (j : Nat) (f : Job → Job) : (s.modJob j f).pending = s.pending := by unfold State.modJob; split <;> rfl
@[simp] theorem modJob_powered (j : Nat) (f : Job → Job) : (s.modJob j f).powered = s.powered := by unfold State.modJob; split <;> rfl
@[simp] theorem modJob_boot (j : Nat) (f : Job → Job) : (s.modJob j f).boot = s.boot := by unfold State.modJob; split <;> rfl
@[simp] theorem modJob_topo (j : Nat) (f : Job → Job) : (s.modJob j f).topo = s.topo := by unfold State.modJob; split <;> rfl
@[simp] theorem modJob_regions (j : Nat) (f : Job → Job) : (s.modJob j f).regions = s.regions := by unfold State.modJob; split <;> rfl
@[simp] theorem modJob_fields (j : Nat) (f : Job → Job) : (s.modJob j f).fields = s.fields := by unfold State.modJob; split <;> rfl
@[simp] theorem modJob_pans (j : Nat) (f : Job → Job) : (s.modJob j f).pans = s.pans := by unfold State.modJob; split <;> rfl
@[simp] theorem modJob_cc (j : Nat) (f : Job → Job) : (s.modJob j f).cc = s.cc := by unfold State.modJob; split <;> rfl
@[simp] theorem modJob_slices (j : Nat) (f : Job → Job) : (s.modJob j f).slices = s.slices := by unfold State.modJob; split <;> rfl
@[simp] theorem modJob_chans (j : Nat) (f : Job → Job) : (s.modJob j f).chans = s.chans := by unfold State.modJob; split <;> rfl
@[simp] theorem modJob_memdev (j : Nat) (f : Job → Job) : (s.modJob j f).memdev = s.memdev := by unfold State.modJob; split <;> rfl
@[simp] theorem modJob_net (j : Nat) (f : Job → Job) : (s.modJob j f).net = s.net := by unfold State.modJob; split <;> rfl
@[simp] theorem modJob_fin (j : Nat) (f : Job → Job) : (s.modJob j f).fin = s.fin := by unfold State.modJob; split <;> rfl
@[simp] theorem modJob_svc (j : Nat) (f : Job → Job) : (s.modJob j f).svc = s.svc := by unfold State.modJob; split <;> rfl
@[simp] theorem modJob_mirror (j : Nat) (f : Job → Job) : (s.modJob j f).mirror = s.mirror := by unfold State.modJob; split <;> rfl
@[simp] theorem modJob_clock (j : Nat) (f : Job → Job) : (s.modJob j f).clock = s.clock := by unfold State.modJob; split <;> rfl
@[simp] theorem modJob_power (j : Nat) (f : Job → Job) : (s.modJob j f).power = s.power := by unfold State.modJob; split <;> rfl
@[simp] theorem modJob_hif (j : Nat) (f : Job → Job) : (s.modJob j f).hif = s.hif := by unfold State.modJob; split <;> rfl
@[simp] theorem modJob_faults (j : Nat) (f : Job → Job) : (s.modJob j f).faults = s.faults := by unfold State.modJob; split <;> rfl
@[simp] theorem modJob_gauges (j : Nat) (f : Job → Job) : (s.modJob j f).gauges = s.gauges := by unfold State.modJob; split <;> rfl
@[simp] theorem modJob_sec (j : Nat) (f : Job → Job) : (s.modJob j f).sec = s.sec := by unfold State.modJob; split <;> rfl
@[simp] theorem modJob_outs (j : Nat) (f : Job → Job) : (s.modJob j f).outs = s.outs := by unfold State.modJob; split <;> rfl
@[simp] theorem modJob_issuedOuts (j : Nat) (f : Job → Job) : (s.modJob j f).issuedOuts = s.issuedOuts := by unfold State.modJob; split <;> rfl
@[simp] theorem modJob_storeMem (j : Nat) (f : Job → Job) : (s.modJob j f).storeMem = s.storeMem := by unfold State.modJob; split <;> rfl
@[simp] theorem modJob_brineMem (j : Nat) (f : Job → Job) : (s.modJob j f).brineMem = s.brineMem := by unfold State.modJob; split <;> rfl
@[simp] theorem modJob_cellarMem (j : Nat) (f : Job → Job) : (s.modJob j f).cellarMem = s.cellarMem := by unfold State.modJob; split <;> rfl
@[simp] theorem modJob_hostMem (j : Nat) (f : Job → Job) : (s.modJob j f).hostMem = s.hostMem := by unfold State.modJob; split <;> rfl
@[simp] theorem modJob_slotMem (j : Nat) (f : Job → Job) : (s.modJob j f).slotMem = s.slotMem := by unfold State.modJob; split <;> rfl
@[simp] theorem modJob_draws (j : Nat) (f : Job → Job) : (s.modJob j f).draws = s.draws := by unfold State.modJob; split <;> rfl

/-! ### Reading one unit after a change -/

@[simp] theorem pan_modPan_same (p : Nat) (f : Pan → Pan) : (s.modPan p f).pan p = f (s.pan p) := by simp [State.pan]
@[simp] theorem pan_modPan_other {p q : Nat} (h : q ≠ p) (f : Pan → Pan) : (s.modPan p f).pan q = s.pan q := by simp [State.pan, h]
@[simp] theorem pan_modSeq_same (p : Nat) (f : Seq → Seq) :
    (s.modSeq p f).pan p = { s.pan p with seq := f (s.pan p).seq } := by simp [State.modSeq]
@[simp] theorem pan_modSeq_other {p q : Nat} (h : q ≠ p) (f : Seq → Seq) : (s.modSeq p f).pan q = s.pan q := by simp [State.modSeq, h]
@[simp] theorem pan_modLat_same (p : Nat) (f : Lat → Lat) :
    (s.modLat p f).pan p = { s.pan p with lat := f (s.pan p).lat } := by simp [State.modLat]
@[simp] theorem pan_modLat_other {p q : Nat} (h : q ≠ p) (f : Lat → Lat) : (s.modLat p f).pan q = s.pan q := by simp [State.modLat, h]
@[simp] theorem pan_modStore_same (p : Nat) (f : Store → Store) :
    (s.modStore p f).pan p = { s.pan p with store := f (s.pan p).store } := by simp [State.modStore]
@[simp] theorem pan_modStore_other {p q : Nat} (h : q ≠ p) (f : Store → Store) : (s.modStore p f).pan q = s.pan q := by
  simp [State.modStore, h]
theorem pan_bumpPan_same (p c n : Nat) : (s.bumpPan p c n).pan p = { s.pan p with ctr := bump (s.pan p).ctr c n } := by
  unfold State.bumpPan bump; split <;> simp_all
@[simp] theorem pan_bumpPan_other {p q : Nat} (h : q ≠ p) (c n : Nat) : (s.bumpPan p c n).pan q = s.pan q := by
  unfold State.bumpPan; split <;> simp [h]
@[simp] theorem slice_modSlice_same (i : Nat) (f : Slice → Slice) : (s.modSlice i f).slice i = f (s.slice i) := by simp [State.slice]
@[simp] theorem slice_modSlice_other {i k : Nat} (h : k ≠ i) (f : Slice → Slice) : (s.modSlice i f).slice k = s.slice k := by
  simp [State.slice, h]
@[simp] theorem chan_modChan_same (i : Nat) (f : Chan → Chan) : (s.modChan i f).chan i = f (s.chan i) := by simp [State.chan]
@[simp] theorem chan_modChan_other {i k : Nat} (h : k ≠ i) (f : Chan → Chan) : (s.modChan i f).chan k = s.chan k := by
  simp [State.chan, h]
@[simp] theorem region_modRegion_same (r : Nat) (f : Region → Region) : (s.modRegion r f).region r = f (s.region r) := by
  simp [State.region]
@[simp] theorem region_modRegion_other {r k : Nat} (h : k ≠ r) (f : Region → Region) : (s.modRegion r f).region k = s.region k := by
  simp [State.region, h]
@[simp] theorem fieldPwr_modField_same (i : Nat) (f : FieldPwr → FieldPwr) : (s.modField i f).fieldPwr i = f (s.fieldPwr i) := by
  simp [State.fieldPwr]
@[simp] theorem fieldPwr_modField_other {i k : Nat} (h : k ≠ i) (f : FieldPwr → FieldPwr) :
    (s.modField i f).fieldPwr k = s.fieldPwr k := by simp [State.fieldPwr, h]
@[simp] theorem topoOf_modTopo_same (i : Nat) (f : Topo → Topo) : (s.modTopo i f).topoOf i = f (s.topoOf i) := by simp [State.topoOf]
@[simp] theorem topoOf_modTopo_other {i k : Nat} (h : k ≠ i) (f : Topo → Topo) : (s.modTopo i f).topoOf k = s.topoOf k := by
  simp [State.topoOf, h]
@[simp] theorem port_modPort_same (n : Nat) (f : Port → Port) : (s.modPort n f).port n = f (s.port n) := by
  simp [State.port, State.modPort]
@[simp] theorem port_modPort_other {n k : Nat} (h : k ≠ n) (f : Port → Port) : (s.modPort n f).port k = s.port k := by
  simp [State.port, State.modPort, h]
@[simp] theorem slot_modSlot_same (g : Nat) (f : Slot → Slot) : (s.modSlot g f).slot g = f (s.slot g) := by
  simp [State.slot, State.modSlot]
@[simp] theorem slot_modSlot_other {g k : Nat} (h : k ≠ g) (f : Slot → Slot) : (s.modSlot g f).slot k = s.slot k := by
  simp [State.slot, State.modSlot, h]
@[simp] theorem gauge_modGauge_same (i : Nat) (f : Gauge → Gauge) : (s.modGauge i f).gauge i = f (s.gauge i) := by simp [State.gauge]
@[simp] theorem gauge_modGauge_other {i k : Nat} (h : k ≠ i) (f : Gauge → Gauge) : (s.modGauge i f).gauge k = s.gauge k := by
  simp [State.gauge, h]
@[simp] theorem job?_setJob_same (j : Nat) (x : Job) : (s.setJob j x).job? j = some x := by simp [State.job?]
@[simp] theorem job?_setJob_other {j k : Nat} (h : k ≠ j) (x : Job) : (s.setJob j x).job? k = s.job? k := by simp [State.job?, h]
theorem router_modRouter_same (gx gy : Nat) (f : Router → Router) : (s.modRouter gx gy f).router gx gy = f (s.router gx gy) := by
  simp [State.router, State.modRouter]

/-- What an unlisted command of a powered device does, and what an unpowered one does (R4). -/
theorem act_powered {ok : Bool} (f : State → State) (hok : ok = true) (h : s.powered = true) : act ok f s = .next (f s) := by
  simp [act, hok, h]
theorem act_unpowered {ok : Bool} (f : State → State) (h : s.powered = false) : act ok f s = .next s := by simp [act, h]
/-- A command that names a unit the device does not have changes nothing (log 68). -/
theorem act_ill {ok : Bool} (f : State → State) (hok : ok = false) : act ok f s = .next s := by simp [act, hok]

/-- A report adds one record, with the tide count that its unit reads and the epoch of now. -/
theorem report_faults (r : FaultRec) :
    (report r s).faults = { s.faults with reports := s.faults.reports ++ [{ r with tide := s.stampOf r, epoch := s.boot.epoch }] } := rfl

end Sys2Proof.Machine
end

