-- ==== Sys2Proof/Laws/Command.lean ====
section
/-! SUPPORT. How a command's meaning is reached: through the power and the check of its operands, and, for a host command, through
the journal (R432, R438, R441). -/

namespace Sys2Proof.Machine
open Sys2Proof

/-! ### act -/

/-- All that `act` can do: it always answers a next state. -/
theorem act_cases {s t : State} {ok : Bool} {f : State → State} (h : act ok f s = .next t) :
    (ok = true ∧ s.powered = true ∧ t = f s) ∨ ((ok = false ∨ s.powered = false) ∧ t = s) := by
  unfold act at h
  cases ok <;> cases hp : s.powered <;> simp_all

/-- A command answers a next state whatever it names. -/
theorem act_next (ok : Bool) (f : State → State) (s : State) : ∃ t, act ok f s = .next t := ⟨_, rfl⟩

/-! ### The journal -/

theorem journalled_job? (c : Cmd) (op : Nat) (s : State) (j : Nat) : (journalled c op s).job? j = s.job? j := by
  unfold journalled; split <;> rfl

/-- Taking a command into the journal changes nothing else. -/
theorem journalled_rest (c : Cmd) (op : Nat) (s : State) : journalled c op s = { s with hif := (journalled c op s).hif } := by
  unfold journalled; split <;> rfl

/-- A command that Hakar performs now does its work on the state that has journalled it. -/
theorem performs_command {s : State} {c : Cmd} {op : Nat} (h : s.performs c op) (f : State → State) :
    command c op f s = f (journalled c op s) := by
  obtain ⟨_, _, hc, hs, hn, hu, ht, hj, hf, hr, hi⟩ := h
  unfold command
  have h1 : s.boot.state ≠ .refused := by intro e; simp [State.serves, e] at hs
  have h2 : ¬ (s.boot.state = .inProgress ∧ s.boot.phase ≠ 0) := by rintro ⟨e, e2⟩; simp [State.serves, e, e2] at hs
  have h3 : (s.hif.completed.any fun e => e.1 == c.tag) = false := by simpa using hn
  have h4 : (journalled c op s).serves op = true := by rw [← hs]; unfold journalled; split <;> rfl
  rw [if_neg, if_neg, if_neg, if_neg ht, if_neg]
  · simp; omega
  · simp [h4]
  · simp [h3, hu, hr, hi]
  · simp [hc, h1]; intro e; have := h2; simp [e] at this; exact this

/-- The whole of a host command's arm on a state in which Hakar performs it. -/
theorem performs_act {s : State} {c : Cmd} {op : Nat} (h : s.performs c op) {ok : Bool} (hok : ok = true) (f : State → State) :
    act ok (command c op f) s = .next (f (journalled c op s)) := by
  rw [act_powered _ _ hok h.1, performs_command h]

/-- A command that names a job in a state that allows it. -/
theorem jobCommand_some {c : Cmd} {op : Nat} {allowed : Job → Bool} {f : Job → State → State} {s : State} {x : Job} (hj : c.job < 16)
    (hx : s.job? c.job = some x) (ha : allowed x = true) : jobCommand c op allowed f s = f x s := by simp [jobCommand, hj, hx, ha]

/-- A command that names a job in a state that does not allow it is answered BAD_STATE. -/
theorem jobCommand_bad {c : Cmd} {op : Nat} {allowed : Job → Bool} {f : Job → State → State} {s : State} {x : Job} (hj : c.job < 16)
    (hx : s.job? c.job = some x) (ha : allowed x = false) : jobCommand c op allowed f s = finishWith c op Status.badState s := by
  simp [jobCommand, hj, hx, ha]

end Sys2Proof.Machine
end

