-- ==== Sys2Proof/Laws/PanFault.lean ====
section
/-! SUPPORT. What the taking of a pan fault does (R137, R139): to the pan that takes it, to other pans, and to the rest. -/

namespace Sys2Proof.Machine
open Sys2Proof

/-- The record a fault leaves in a pan's registers, stamped with the tide count the pan reads. -/
abbrev State.faultReg (s : State) (p code cls detail : Nat) (slot : Option Nat) (pc : Nat) : FaultReg :=
  { code := code, cls := cls, detail := detail % 65536, async := slot.isNone, slot := slot.getD 0, pc := pc, tide := s.panNow p }

/-- A pan as a fault leaves it: FAULTED, the fault recorded, its work discarded and kept aside for the other faults of the cycle, and its
haul channels paused. -/
abbrev Pan.faulted (x : Pan) (f : FaultReg) : Pan :=
  { discardWork x with
    seq := { (discardWork x).seq with mode := .faulted, fault := f, faultCycle := x.seq.cycle }
    before := some (x.seq, x.lat)
    haul := x.haul.map fun e => (e.1, pauseHaul e.2) }

/-- A pan that takes a fault. -/
theorem panFaultOne_pan_same (s : State) (p code cls detail : Nat) (slot : Option Nat) (pc : Nat) (h : (s.pan p).seq.mode ≠ .faulted) :
    (panFaultOne p code cls detail slot pc s).pan p = (s.pan p).faulted (s.faultReg p code cls detail slot pc) := by
  simp only [panFaultOne, h, if_false]
  exact look_upd_same {} p (fun x : Pan => x.faulted (s.faultReg p code cls detail slot pc)) s.pans

/-- Replacing a record changes no other pan, and nothing but the pan and the reports. -/
theorem replaceFault_pan_other (s : State) {p q : Nat} (hq : q ≠ p) (f : FaultReg) : (replaceFault p f s).pan q = s.pan q := by
  unfold replaceFault
  rw [pan_modSeq_other _ hq]
  rfl

theorem replaceFault_rest (s : State) (p : Nat) (f : FaultReg) :
    let t := replaceFault p f s
    t = { s with pans := t.pans, faults := t.faults } := rfl

/-- A fault of the same cycle replaces the record alone. -/
theorem sameCycleFault_pan_other (s : State) {p q : Nat} (hq : q ≠ p) (f : FaultReg) : (sameCycleFault p f s).pan q = s.pan q := by
  unfold sameCycleFault
  simp only
  split
  · exact replaceFault_pan_other s hq f
  · rfl

theorem sameCycleFault_rest (s : State) (p : Nat) (f : FaultReg) :
    let t := sameCycleFault p f s
    t = { s with pans := t.pans, faults := t.faults } := by
  unfold sameCycleFault
  simp only
  split <;> rfl

/-- A fault in a FAULTED pan at most replaces the record of one of the same cycle that it outranks (R137). -/
theorem panFaultOne_faulted (s : State) (p code cls detail : Nat) (slot : Option Nat) (pc : Nat) (h : (s.pan p).seq.mode = .faulted) :
    panFaultOne p code cls detail slot pc s = sameCycleFault p (s.faultReg p code cls detail slot pc) s := by
  simp [panFaultOne, h]

/-- No other pan changes. -/
theorem panFaultOne_pan_other (s : State) {p q : Nat} (hq : q ≠ p) (code cls detail : Nat) (slot : Option Nat) (pc : Nat) :
    (panFaultOne p code cls detail slot pc s).pan q = s.pan q := by
  unfold panFaultOne
  simp only
  split
  · exact sameCycleFault_pan_other s hq _
  · exact look_upd_other {} hq (fun x : Pan => x.faulted (s.faultReg p code cls detail slot pc)) s.pans

/-- The rest that a fault changes is the reads the pan's feeders wait for and the reports. -/
theorem panFaultOne_rest (s : State) (p code cls detail : Nat) (slot : Option Nat) (pc : Nat) :
    let t := panFaultOne p code cls detail slot pc s
    t = { s with pans := t.pans, outs := t.outs, faults := t.faults } := by
  unfold panFaultOne
  simp only
  split
  · rw [sameCycleFault_rest]
  · rfl

/-- A pan that has not faulted in this cycle does what its unit does. -/
theorem inCycle_plain {p : Nat} {s : State} (h : (s.pan p).faultsNow (s.panNow p) = false) (f : State → State) : inCycle p f s = f s := by
  unfold inCycle
  simp only [h]
  split <;> rfl

/-- A pan that is not FAULTED has not faulted in this cycle. -/
theorem faultsNow_of_mode {x : Pan} (h : x.seq.mode ≠ .faulted) (now : Nat) : x.faultsNow now = false := by simp [Pan.faultsNow, h]

/-- Outside a chained schedule a fault stops one pan. -/
theorem panFault_unchained (s : State) (p code detail : Nat) (slot : Option Nat) (h : s.regionChained (regionOf p) = false)
    (h2 : (s.pan p).chainedAtFault (s.panNow p) = false) :
    panFault p code detail slot s = panFaultOne p code (panClass code) detail slot (s.pan p).seq.pc s := by
  simp [panFault, h, h2]

/-- A pan that has not faulted ran no chained schedule when it did. -/
theorem chainedAtFault_of_mode {x : Pan} (h : x.seq.mode ≠ .faulted) (now : Nat) : x.chainedAtFault now = false := by
  simp [Pan.chainedAtFault, faultsNow_of_mode h]

/-- The stop of a chain peer changes no other pan. -/
theorem stopPeer_pan_other (s : State) {p q : Nat} (hq : p ≠ q) (cycle : Nat) (k : Nat × Nat × Nat) :
    (stopPeer cycle k s q).pan p = s.pan p := by
  unfold stopPeer
  simp only
  split
  · split
    · rfl
    · split
      · rw [pan_modSeq_other _ hq]; exact replaceFault_pan_other s hq _
      · split
        · rw [pan_modSeq_other _ hq]; rfl
        · exact pan_modSeq_other _ hq _
  · split
    · exact pan_modSeq_other _ hq _
    · rw [pan_modSeq_other _ hq]; exact panFaultOne_pan_other s hq _ _ _ _ _

/-- The stop of the other pans of a chain leaves the pan that faulted alone. -/
theorem stopPeers_pan (p cycle : Nat) (k : Nat × Nat × Nat) (l : List Nat) (hl : ∀ q ∈ l, p ≠ q) (s : State) :
    (foldState l (stopPeer cycle k) s).pan p = s.pan p := by
  induction l generalizing s with
  | nil => rfl
  | cons a l ih =>
    simp only [foldState, List.foldl_cons] at ih ⊢
    rw [ih fun q hq => hl q (List.mem_cons_of_mem a hq)]
    exact stopPeer_pan_other s (hl a List.mem_cons_self) _ _

/-- The pan that faults, in any schedule: in a chained one it also keeps the fault its chain takes. -/
theorem panFault_pan_same (s : State) (p code detail : Nat) (slot : Option Nat) :
    let x := (panFaultOne p code (panClass code) detail slot (s.pan p).seq.pc s).pan p
    ∃ k, (panFault p code detail slot s).pan p = { x with seq := { x.seq with peerStop := k } } := by
  unfold panFault
  simp only
  split
  · refine ⟨some (chainTakes (s.pan p).seq.peerStop (panClass code, code, s.logicalCol p)), ?_⟩
    rw [stopPeers_pan p _ _ _ (fun q hq => ?_) _, pan_modSeq_same]
    · have h : ∀ (c : Prop) [Decidable c] g t, (if c then t else modPanReports p g t).pan p = t.pan p := by
        intros; split <;> rfl
      simp only [h]
    · simp only [List.mem_filter, Bool.and_eq_true, bne_iff_ne, ne_eq] at hq
      exact fun e => hq.2.1 e.symm
  · exact ⟨_, rfl⟩

end Sys2Proof.Machine
end

