-- ==== Sys2Proof/Laws/Issue.lean ====
section
/-! SUPPORT. The issue of a bundle as a whole (R101 to R106, R127), which every slot operation's row goes through, and what the feeders
read ahead. -/

namespace Sys2Proof.Machine
open Sys2Proof

/-- An issued bundle has no reserved slot. -/
theorem issues_ok {s : State} {p : Nat} {f d r m} (h : s.issues p f d r m) : r.isReserved = false ∧ m ≠ .reserved := by
  obtain ⟨_, _, _, hs, hr, _⟩ := h
  simp only [reservedSlot, hs] at hr
  repeat' (split at hr; · simp at hr)
  simp_all

/-- A bundle none of whose slots raises anything takes effect slot by slot, and then the PC, the cycle of the next issue and
BUNDLE_COUNT (R103, R105, R127). -/
theorem takePlan_plain (s : State) (p : Nat) (b : Bundle) (f : FeedOp) (d : DrainOp) (r : RakeOp) (m : MoveOp) (s1 : State)
    (run : State → State) (hs : slotsOf b = (f, d, r, m)) (hb : reservedSlot b = none)
    (hn : ∀ a, nextPc m (s.pan p).seq = some a → a < (s.pan p).seq.progLen)
    (hr : rakeSlotEffect p r (s.pan p).seq s = .ok s1) :
    takePlan p b (.ok run) s =
      afterDone p m ((State.modSeq (run (drainEffect p d (s.pan p).seq (feedEffect p f (s.pan p).seq s1))) p fun x =>
        { x with pc := (nextPc m (s.pan p).seq).getD x.pc, nextIssue := (s.pan p).seq.cycle + issueCost m }).bumpPan p PanCtr.bundle 1) := by
  have hf : bundleFaults p b (.ok s1) (.ok run) s = [] := by
    simp only [bundleFaults, hs, hb]
    cases hc : nextPc m (s.pan p).seq with
    | none => simp
    | some a => simp [Nat.not_le.mpr (hn a hc)]
  simp [takePlan, hs, hr, hf]

/-- The same of a bundle at the PC with its move slot's own plan. -/
theorem takeEffect_plain (s : State) (p : Nat) (f : FeedOp) (d : DrainOp) (r : RakeOp) (m : MoveOp) (s1 : State) (run : State → State) (a : Nat)
    (hs : slotsOf (s.bundleAt p) = (f, d, r, m)) (hb : reservedSlot (s.bundleAt p) = none)
    (hn : nextPc m (s.pan p).seq = some a) (ha : a < (s.pan p).seq.progLen)
    (hr : rakeSlotEffect p r (s.pan p).seq s = .ok s1) (hm : movePlan p m s = .ok run) :
    takeEffect p (s.bundleAt p) s =
      afterDone p m ((State.modSeq (run (drainEffect p d (s.pan p).seq (feedEffect p f (s.pan p).seq s1))) p fun x =>
        { x with pc := a, nextIssue := (s.pan p).seq.cycle + issueCost m }).bumpPan p PanCtr.bundle 1) := by
  have hl : ∀ b, nextPc m (s.pan p).seq = some b → b < (s.pan p).seq.progLen := by
    intro b hb; rw [hn] at hb; cases hb; exact ha
  have e : takeEffect p (s.bundleAt p) s = takePlan p (s.bundleAt p) (.ok run) s := by simp [takeEffect, hs, hm]
  rw [e, takePlan_plain s p _ f d r m s1 run hs hb hl hr]
  simp [hn]

/-- A bundle that issues and whose move slot can neither wait nor rendezvous, and reads no descriptor, takes effect at once. -/
theorem issueNow_plain (s : State) (p : Nat) (f d r m) (h : s.issues p f d r m) (hm : ∀ sem n, m ≠ .swait sem n) (hf : m ≠ .fence)
    (hd : moveRuns p m s = []) : issueNow p (s.bundleAt p) s = takeEffect p (s.bundleAt p) s := by
  obtain ⟨_, _, _, hs, hr, hst⟩ := h
  unfold issueNow
  have hr' : (reservedSlot (s.bundleAt p)).isSome = false := by rw [hr]; rfl
  simp only [hr', hst, hs, hd, Bool.false_eq_true, if_false, List.isEmpty_nil, if_true, Bool.not_true]
  cases m <;> simp_all [moveRuns]

/-- The row of an operation that the bundle carries issues the bundle. -/
theorem exec_issue (s : State) (p : Nat) (f d r m) (h : s.issues p f d r m) (want : Bundle → Bool) (hw : want (s.bundleAt p) = true) :
   issueAct p want s = .next (issueNow p (s.bundleAt p) s) := by
  obtain ⟨hp, hpw, hc, hs, hr, hst⟩ := h
  have hm : (s.pan p).seq.mode ≠ .faulted := by
    intro e; simp [State.canIssue, e] at hc
  simp [issueAct, act, hp, hpw, issueIf, inCycle_plain (faultsNow_of_mode hm _), hc, hw]

/-- RNOP raises nothing and changes nothing. -/
theorem rakeNop (s : State) (p : Nat) (r : RakeOp) (h : r.rop = 0) :
    rakeSlotEffect p r (s.pan p).seq s = .ok s := by
  simp [rakeSlotEffect, h]

/-- All of a plain issue without a rake operation. -/
theorem issue_plain (s : State) (p : Nat) (f d r m) (h : s.issues p f d r m) (hr0 : r.rop = 0) (hm : ∀ sem n, m ≠ .swait sem n) (hf : m ≠ .fence) (hd : moveRuns p m s = [])
  (run : State → State) (a : Nat) (hn : nextPc m (s.pan p).seq = some a) (ha : a < (s.pan p).seq.progLen) (hpl : movePlan p m s = .ok run)
  (want : Bundle → Bool) (hw : want (s.bundleAt p) = true) :
  issueAct p want s = .next (afterDone p m ((State.modSeq (run (drainEffect p d (s.pan p).seq (feedEffect p f (s.pan p).seq s))) p fun x => { x with pc := a, nextIssue := (s.pan p).seq.cycle + issueCost m }).bumpPan p PanCtr.bundle 1)) := by
  rw [exec_issue s p f d r m h want hw, issueNow_plain s p f d r m h hm hf hd, takeEffect_plain s p f d r m _ run a h.2.2.2.1 h.2.2.2.2.1 hn ha (rakeNop s p r hr0) hpl]

/-- What `onlyPan` asks for. -/
theorem onlyPan_intro {s t : State} {p : Nat} {x : Pan} (h1 : t = { s with pans := t.pans }) (h2 : t.pan p = x) (h3 : ∀ q, q ≠ p → t.pan q = s.pan q) : s.onlyPan t p x := ⟨h1, h2, h3⟩
/-- Nothing but the pans changed: the first step. -/
theorem fp_refl (s : State) : s = { s with pans := s.pans } := rfl
/-- Nothing but the pans changed, and a pan changes again. -/
theorem fp_modPan {s t : State} (h : t = { s with pans := t.pans }) (p : Nat) (f : Pan → Pan) : t.modPan p f = { s with pans := (t.modPan p f).pans } := by
  generalize hP : (t.modPan p f).pans = P
  simp only [State.modPan] at hP ⊢
  rw [hP]; rw [h]
theorem fp_modSeq {s t : State} (h : t = { s with pans := t.pans }) (p : Nat) (f : Seq → Seq) : t.modSeq p f = { s with pans := (t.modSeq p f).pans } := fp_modPan h p _
theorem fp_modLat {s t : State} (h : t = { s with pans := t.pans }) (p : Nat) (f : Machine.Lat → Machine.Lat) : t.modLat p f = { s with pans := (t.modLat p f).pans } := fp_modPan h p _
theorem fp_modStore {s t : State} (h : t = { s with pans := t.pans }) (p : Nat) (f : Store → Store) : t.modStore p f = { s with pans := (t.modStore p f).pans } := fp_modPan h p _
theorem fp_bumpPan {s t : State} (h : t = { s with pans := t.pans }) (p c n : Nat) : t.bumpPan p c n = { s with pans := (t.bumpPan p c n).pans } := by
  unfold State.bumpPan; split
  · exact h
  · exact fp_modPan h p _
/-- A property of the next state of a command. -/
theorem ex_act {ok : Bool} {f : State → State} {s : State} {P : State → Prop} (hok : ok = true) (hp : s.powered = true) (h : P (f s)) :
   ∃ t, act ok f s = .next t ∧ P t := ⟨f s, by simp [act, hok, hp], h⟩
/-- The next state of a command, once computed. -/
theorem eq_act {ok : Bool} {f : State → State} {s t : State} (hok : ok = true) (hp : s.powered = true) (h : f s = t) :
   act ok f s = .next t := by simp [act, hok, hp, h]
/-- A property of the next state of an issue. -/
theorem ex_issue {s : State} {p : Nat} {f d r m} {want} {P : State → Prop} (h : s.issues p f d r m) (hw : want (s.bundleAt p) = true) (hP : P (issueNow p (s.bundleAt p) s)) :
   ∃ t, issueAct p want s = .next t ∧ P t := ⟨_, exec_issue s p f d r m h want hw, hP⟩
/-- A property of the next state of a plain issue. -/
theorem ex_plain {s : State} {p : Nat} {f d r m} {want} {P : State → Prop} (h : s.issues p f d r m) (hr0 : r.rop = 0) (hm : ∀ sem n, m ≠ .swait sem n) (hf : m ≠ .fence) (hd : moveRuns p m s = [])
  (run : State → State) (a : Nat) (hn : nextPc m (s.pan p).seq = some a) (ha : a < (s.pan p).seq.progLen) (hpl : movePlan p m s = .ok run)
  (hw : want (s.bundleAt p) = true)
  (hP : P (afterDone p m ((State.modSeq (run (drainEffect p d (s.pan p).seq (feedEffect p f (s.pan p).seq s))) p fun x => { x with pc := a, nextIssue := (s.pan p).seq.cycle + issueCost m }).bumpPan p PanCtr.bundle 1))) :
  ∃ t, issueAct p want s = .next t ∧ P t := ⟨_, issue_plain s p f d r m h hr0 hm hf hd run a hn ha hpl want hw, hP⟩
/-- A property of the next state of an issue that takes effect at once. -/
theorem ex_te {s : State} {p : Nat} {f d r m} {want} {P : State → Prop} (h : s.issues p f d r m) (hw : want (s.bundleAt p) = true)
  (hi : issueNow p (s.bundleAt p) s = takeEffect p (s.bundleAt p) s) (hP : P (takeEffect p (s.bundleAt p) s)) :
  ∃ t, issueAct p want s = .next t ∧ P t := ex_issue h hw (by rw [hi]; exact hP)

/-- A bundle of one rake operation: its effect, then the PC and the next issue. -/
theorem exec_rake (s : State) (p : Nat) (r : RakeOp) (h : s.issues p .nop .nop r .nop) (hf : s.follows p) (s1 : State)
  (hr : rakeSlotEffect p r (s.pan p).seq s = .ok s1) (hres : r.isReserved = false) :
  issueAct p (rakeIs r.rop) s = .next ((s1.modSeq p fun x => { x with pc := (s.pan p).seq.pc + 1, nextIssue := (s.pan p).seq.cycle + 1 }).bumpPan p PanCtr.bundle 1) := by
  rw [exec_issue s p _ _ r _ h (rakeIs r.rop) (by simp [rakeIs, h.2.2.2.1, hres])]
  rw [issueNow_plain s p _ _ _ _ h (by simp) (by simp) rfl]
  have hf' : (s.pan p).seq.pc + 1 < (s.pan p).seq.progLen := hf
  rw [takeEffect_plain s p _ _ r .nop s1 id ((s.pan p).seq.pc + 1) h.2.2.2.1 h.2.2.2.2.1 rfl hf' hr rfl]
  rfl

/-- An issued bundle has no reserved rake operation. -/
theorem notRes (s : State) (p : Nat) (r : RakeOp) (h : s.issues p .nop .nop r .nop) : r.isReserved = false := (issues_ok h).1

/-- A register operation whose results were not loads: those of more than one cycle wait (R100, R123). -/
theorem rakeSlot_regs {s t : State} {p : Nat} {r : RakeOp} (h0 : r.rop ≠ 0) (h1 : r.rop ≠ 1) (he : rakeEffect p r s = .ok t)
    (hl : (t.pan p).seq.nextLoad = (s.pan p).seq.nextLoad) :
    rakeSlotEffect p r (s.pan p).seq s = .ok (t.modSeq p fun _ => inFlight r 0 (s.pan p).seq (t.pan p).seq) := by
  have hd : loadDelay p r t = 0 := by simp [loadDelay, h1]
  simp only [rakeSlotEffect, if_neg h0, he, hd, Except.ok.injEq]
  simp only [State.modSeq, State.modPan, State.pan] at *
  congr 1
  simp only [upd]
  congr 1
  simp [hl]

/-- The sequencer of `Pan.raked` before the PC and the cycle of the next issue. -/
theorem inFlight_raked (r : RakeOp) (x : Pan) (q1 : Seq) (n c m : Nat) :
    { ({ x with seq := inFlight r 0 x.seq q1, ctr := bump x.ctr PanCtr.rakeSat n } : Pan) with
      seq := { inFlight r 0 x.seq q1 with pc := c, nextIssue := m } } =
    { ({ x with seq := q1, ctr := bump x.ctr PanCtr.rakeSat n } : Pan) with
      seq := { q1 with
        v := if rakePending r = [] then q1.v else x.seq.v
        q := if rakePending r = [] then q1.q else x.seq.q
        pend := q1.pend ++ (rakePending r).map fun e =>
          { reg := e.1, at_ := x.seq.cycle + e.2, v := getV q1 e.1, q := getQ q1 (e.1 - 16) }
        pc := c, nextIssue := m } } := by
  unfold inFlight
  cases h : rakePending r <;> simp

/-- A rake operation on registers alone changes its pan: the registers, the results in flight, the saturations. -/
theorem rake_regs (s : State) (p : Nat) (r : RakeOp) (h : s.issues p .nop .nop r .nop) (hf : s.follows p) (q1 : Seq) (n : Nat)
  (hk : rakeRegs r s.draws (s.pan p).seq = .ok (q1, n)) (h0 : r.rop ≠ 0) (hop : r.rop ≠ 1 ∧ r.rop ≠ 2 ∧ r.rop ≠ 0x10 ∧ r.rop ≠ 0x16)
  (hd : ¬ (r.rop = 0x0D ∨ r.rop = 0x12 ∨ r.rop = 0x13)) (hl : q1.nextLoad = (s.pan p).seq.nextLoad) :
  ∃ t, issueAct p (rakeIs r.rop) s = .next t ∧ s.onlyPan t p ((s.pan p).raked q1 (rakePending r) n) := by
  have he : rakeEffect p r s = .ok ((s.modSeq p fun _ => q1).bumpPan p PanCtr.rakeSat n) := by
    unfold rakeEffect
    split <;> first | (exfalso; omega) | skip
    simp only [hk, hd, if_false]
  have hs := rakeSlot_regs h0 hop.1 he (by simp [pan_bumpPan_same, hl])
  refine ⟨_, exec_rake s p r h hf _ hs (notRes s p r h), ?_, ?_, ?_⟩
  · exact fp_bumpPan (fp_modSeq (fp_modSeq (fp_bumpPan (fp_modSeq (fp_refl s) _ _) _ _ _) _ _) _ _) _ _ _
  · have := inFlight_raked r (s.pan p) q1 n ((s.pan p).seq.pc + 1) ((s.pan p).seq.cycle + 1)
    simp only [Pan.mk.injEq] at this
    simp [pan_bumpPan_same, Pan.raked, this.1]
  · intro k hk; simp [hk]

/-- The same of RDIV, RNVAR and RRSQ, which may take one free value (log 10). -/
theorem rake_regs_d (s : State) (p : Nat) (r : RakeOp) (h : s.issues p .nop .nop r .nop) (hf : s.follows p) (q1 : Seq) (n : Nat)
  (hk : rakeRegs r s.draws (s.pan p).seq = .ok (q1, n)) (h0 : r.rop ≠ 0)
  (hd : (r.rop = 0x0D ∨ r.rop = 0x12 ∨ r.rop = 0x13)) (hl : q1.nextLoad = (s.pan p).seq.nextLoad) :
  ∃ t, issueAct p (rakeIs r.rop) s = .next t ∧ t = { s with pans := t.pans, draws := s.draws + 1 } ∧ (∀ k, k ≠ p → t.pan k = s.pan k) ∧
    t.pan p = ((s.pan p).raked q1 (rakePending r) n) := by
  have he : rakeEffect p r s = .ok ((({ s with draws := s.draws + 1 } : State).modSeq p fun _ => q1).bumpPan p PanCtr.rakeSat n) := by
    unfold rakeEffect
    split <;> first | (exfalso; omega) | skip
    simp only [hk, hd, if_true]
  have e : ({ s with draws := s.draws + 1 } : State).pan p = s.pan p := rfl
  have hs := rakeSlot_regs h0 (by omega) he (by simp [pan_bumpPan_same, hl])
  refine ⟨_, exec_rake s p r h hf _ hs (notRes s p r h), ?_, ?_, ?_⟩
  · exact fp_bumpPan (fp_modSeq (fp_modSeq (fp_bumpPan (fp_modSeq (s := ({ s with draws := s.draws + 1 } : State)) rfl _ _) _ _ _) _ _) _ _) _ _ _
  · intro k hk; simp only [pan_bumpPan_other _ hk, pan_modSeq_other _ hk]; rfl
  · have := inFlight_raked r (s.pan p) q1 n ((s.pan p).seq.pc + 1) ((s.pan p).seq.cycle + 1)
    simp only [Pan.mk.injEq] at this
    simp [pan_bumpPan_same, Pan.raked, this.1, e]

/-- With no brine stream the west feeder issues no read ahead (R113). -/
theorem ahead_flat (p n : Nat) (s : State) (h : ∀ k, (look ({} : Ag) (s.pan p).seq.ags k).brine = false) : feedAhead p n s = s := by
  cases n with
  | zero => rfl
  | succ n =>
    have : (enteredRuns (s.pan p)).filter (runBrine (s.pan p).seq) = [] := by
      rw [List.filter_eq_nil_iff]; intro r _; simp [runBrine, h]
    simp [feedAhead, this]
/-- With no brine stream the north feeder issues no read ahead (R113). -/
theorem held_flat (p n : Nat) (s : State) (h : ∀ k, (look ({} : Ag) (s.pan p).seq.ags k).brine = false) : heldAhead p n s = s := by
  cases n with
  | zero => rfl
  | succ n =>
    unfold heldAhead
    cases hl : (s.pan p).lat.load <;> simp [hl, h]

/-- What a pan that takes a fault shows (R137). -/
theorem panFault_fields (s : State) (p c d sl) (hm : (s.pan p).seq.mode ≠ .faulted) :
  ((panFault p c d sl s).pan p).seq.mode = .faulted ∧ ((panFault p c d sl s).pan p).seq.fault.code = c ∧ ((panFault p c d sl s).pan p).seq.fault.detail = d % 65536 ∧
  ((panFault p c d sl s).pan p).seq.fault.async = sl.isNone ∧ ((panFault p c d sl s).pan p).seq.fault.slot = sl.getD 0 ∧ ((panFault p c d sl s).pan p).seq.fault.pc = (s.pan p).seq.pc ∧
  ((panFault p c d sl s).pan p).seq.sems = (s.pan p).seq.sems ∧ ((panFault p c d sl s).pan p).seq.pc = (s.pan p).seq.pc ∧ ((panFault p c d sl s).pan p).ctr = (s.pan p).ctr := by
  obtain ⟨k, hk⟩ := panFault_pan_same s p c d sl
  rw [hk, panFaultOne_pan_same _ _ _ _ _ _ _ hm]
  simp [discardWork]

end Sys2Proof.Machine
end

