-- ==== Sys2Proof/Laws/PerInstr.lean ====
section
/-! SUPPORT. What holds of every command as it is written, one lemma per constructor of Instr: a well-formed command that names a pan
names a position the die has (R17, R285). -/

namespace Sys2Proof.Laws.PanInRange
open Sys2Proof

set_option Elab.async false

/-- The pan position a command names first, if it names one. -/
def panOf : Instr → Option Nat
  | .go p => some p
  | .stop p => some p
  | .faultClear p => some p
  | .semClear p _ => some p
  | .semNotify p _ _ => some p
  | .fnop p => some p
  | .wfeed p => some p
  | .hload p => some p
  | .tend p => some p
  | .dnop p => some p
  | .dout p => some p
  | .drld p => some p
  | .dwait p => some p
  | .rnop p => some p
  | .rld p => some p
  | .rst p => some p
  | .radds p => some p
  | .rsubs p => some p
  | .rmin p => some p
  | .rmax p => some p
  | .rmsh p => some p
  | .rshrv p => some p
  | .rbc p => some p
  | .rqset p => some p
  | .rredq p => some p
  | .rfold p => some p
  | .rdiv p => some p
  | .rexp2 p => some p
  | .rsig p => some p
  | .rpack p => some p
  | .rbnd p => some p
  | .rxmax p => some p
  | .rssq p => some p
  | .rnvar p => some p
  | .rrsq p => some p
  | .rnpack p => some p
  | .mnop p => some p
  | .lset p => some p
  | .loop p => some p
  | .jmp p => some p
  | .spin p => some p
  | .halt p => some p
  | .agld p => some p
  | .tile p => some p
  | .notice p => some p
  | .swait p => some p
  | .ssig p => some p
  | .notify p => some p
  | .fence p => some p
  | .wopen p => some p
  | .wclose p => some p
  | .hstart p => some p
  | .done p => some p
  | .swaitResume p => some p
  | .waitTimeout p => some p
  | .fenceComplete p => some p
  | .dwaitRelease p => some p
  | .westFeedBegin p => some p
  | .northLoadBegin p => some p
  | .heldColumnWrite p _ => some p
  | .westSlotIssue p _ => some p
  | .burstHoldEnd p => some p
  | .entryUpdate p _ => some p
  | .drainEntry p => some p
  | .drldGrain p => some p
  | .doutComplete p => some p
  | .feedLost p _ => some p
  | .narrowAccess p _ _ => some p
  | .starvation p _ => some p
  | .correctionWriteback p => some p
  | .poisonRewrite p => some p
  | .ovfLogClear p => some p
  | .bankSleep p _ => some p
  | .bankDrained p _ => some p
  | .bankSleepBound p _ => some p
  | .bankWake p _ => some p
  | .bankFillDone p => some p
  | .storeFillDone p => some p
  | .patrolScrub p _ => some p
  | .winClose p _ => some p
  | .debugAccess p _ _ => some p
  | .internalCheckFail p _ => some p
  | .reservedOpcode p => some p
  | _ => none

/-- A well-formed command that names a pan names one of the 1,620 positions. -/
def Statement (i : Instr) : Prop := i.wf = true → ∀ p, panOf i = some p → p < 1620

theorem pwrgdRelease (lands : PowerLands) (resetNLow : Bool) (selfTestOk : Bool) : Statement (.pwrgdRelease lands resetNLow selfTestOk) := fun _ _ e => nomatch e
theorem pwrgdFall : Statement (.pwrgdFall) := fun _ _ e => nomatch e
theorem resetNRelease (lowNs : Nat) (selfTestOk : Bool) : Statement (.resetNRelease lowNs selfTestOk) := fun _ _ e => nomatch e
theorem perstNAssert (lowNs : Nat) (selfTestOk : Bool) : Statement (.perstNAssert lowNs selfTestOk) := fun _ _ e => nomatch e
theorem pcieHotReset (selfTestOk : Bool) : Statement (.pcieHotReset selfTestOk) := fun _ _ e => nomatch e
theorem pllLockLoss : Statement (.pllLockLoss) := fun _ _ e => nomatch e
theorem firmwareSelect : Statement (.firmwareSelect) := fun _ _ e => nomatch e
theorem firmwareBodyCheck : Statement (.firmwareBodyCheck) := fun _ _ e => nomatch e
theorem factoryMapCheck (record : List Byte) : Statement (.factoryMapCheck record) := fun _ _ e => nomatch e
theorem assayListCheck (torn : List Nat) : Statement (.assayListCheck torn) := fun _ _ e => nomatch e
theorem assayComplete (found : AssayFound) : Statement (.assayComplete found) := fun _ _ e => nomatch e
theorem assayListUpdate : Statement (.assayListUpdate) := fun _ _ e => nomatch e
theorem cellarAssayPass (ch : Nat) : Statement (.cellarAssayPass ch) := fun _ _ e => nomatch e
theorem cellarFillDone : Statement (.cellarFillDone) := fun _ _ e => nomatch e
theorem brineFillDone : Statement (.brineFillDone) := fun _ _ e => nomatch e
theorem portTrained (port : Nat) (goodLanes : Nat) (peerDevice : Nat) (peerPort : Nat) : Statement (.portTrained port goodLanes peerDevice peerPort) := fun _ _ e => nomatch e
theorem peerTimeout (port : Nat) : Statement (.peerTimeout port) := fun _ _ e => nomatch e
theorem topologyAgreement (found : Discovery) (hostPtm : Option Nat) (parentTide : Option Nat) : Statement (.topologyAgreement found hostPtm parentTide) := fun _ _ e => nomatch e
theorem configRequestRetry : Statement .configRequestRetry := fun _ _ e => nomatch e
theorem arbCommit : Statement (.arbCommit) := fun _ _ e => nomatch e
theorem idleReserveFail (field : Nat) : Statement (.idleReserveFail field) := fun _ _ e => nomatch e
theorem go (p : Nat) : Statement (.go p) := fun h q e => by cases e; exact of_decide_eq_true h
theorem stop (p : Nat) : Statement (.stop p) := fun h q e => by cases e; exact of_decide_eq_true h
theorem faultClear (p : Nat) : Statement (.faultClear p) := fun h q e => by cases e; exact of_decide_eq_true h
theorem semClear (p : Nat) (mask : Nat) : Statement (.semClear p mask) := fun h q e => by cases e; exact of_decide_eq_true h
theorem semNotify (p : Nat) (sem : Nat) (n : Nat) : Statement (.semNotify p sem n) := fun h q e => by
  cases e; simp only [Instr.wf, Bool.and_eq_true, decide_eq_true_eq] at h; omega
theorem fnop (p : Nat) : Statement (.fnop p) := fun h q e => by cases e; exact of_decide_eq_true h
theorem wfeed (p : Nat) : Statement (.wfeed p) := fun h q e => by cases e; exact of_decide_eq_true h
theorem hload (p : Nat) : Statement (.hload p) := fun h q e => by cases e; exact of_decide_eq_true h
theorem tend (p : Nat) : Statement (.tend p) := fun h q e => by cases e; exact of_decide_eq_true h
theorem dnop (p : Nat) : Statement (.dnop p) := fun h q e => by cases e; exact of_decide_eq_true h
theorem dout (p : Nat) : Statement (.dout p) := fun h q e => by cases e; exact of_decide_eq_true h
theorem drld (p : Nat) : Statement (.drld p) := fun h q e => by cases e; exact of_decide_eq_true h
theorem dwait (p : Nat) : Statement (.dwait p) := fun h q e => by cases e; exact of_decide_eq_true h
theorem rnop (p : Nat) : Statement (.rnop p) := fun h q e => by cases e; exact of_decide_eq_true h
theorem rld (p : Nat) : Statement (.rld p) := fun h q e => by cases e; exact of_decide_eq_true h
theorem rst (p : Nat) : Statement (.rst p) := fun h q e => by cases e; exact of_decide_eq_true h
theorem radds (p : Nat) : Statement (.radds p) := fun h q e => by cases e; exact of_decide_eq_true h
theorem rsubs (p : Nat) : Statement (.rsubs p) := fun h q e => by cases e; exact of_decide_eq_true h
theorem rmin (p : Nat) : Statement (.rmin p) := fun h q e => by cases e; exact of_decide_eq_true h
theorem rmax (p : Nat) : Statement (.rmax p) := fun h q e => by cases e; exact of_decide_eq_true h
theorem rmsh (p : Nat) : Statement (.rmsh p) := fun h q e => by cases e; exact of_decide_eq_true h
theorem rshrv (p : Nat) : Statement (.rshrv p) := fun h q e => by cases e; exact of_decide_eq_true h
theorem rbc (p : Nat) : Statement (.rbc p) := fun h q e => by cases e; exact of_decide_eq_true h
theorem rqset (p : Nat) : Statement (.rqset p) := fun h q e => by cases e; exact of_decide_eq_true h
theorem rredq (p : Nat) : Statement (.rredq p) := fun h q e => by cases e; exact of_decide_eq_true h
theorem rfold (p : Nat) : Statement (.rfold p) := fun h q e => by cases e; exact of_decide_eq_true h
theorem rdiv (p : Nat) : Statement (.rdiv p) := fun h q e => by cases e; exact of_decide_eq_true h
theorem rexp2 (p : Nat) : Statement (.rexp2 p) := fun h q e => by cases e; exact of_decide_eq_true h
theorem rsig (p : Nat) : Statement (.rsig p) := fun h q e => by cases e; exact of_decide_eq_true h
theorem rpack (p : Nat) : Statement (.rpack p) := fun h q e => by cases e; exact of_decide_eq_true h
theorem rbnd (p : Nat) : Statement (.rbnd p) := fun h q e => by cases e; exact of_decide_eq_true h
theorem rxmax (p : Nat) : Statement (.rxmax p) := fun h q e => by cases e; exact of_decide_eq_true h
theorem rssq (p : Nat) : Statement (.rssq p) := fun h q e => by cases e; exact of_decide_eq_true h
theorem rnvar (p : Nat) : Statement (.rnvar p) := fun h q e => by cases e; exact of_decide_eq_true h
theorem rrsq (p : Nat) : Statement (.rrsq p) := fun h q e => by cases e; exact of_decide_eq_true h
theorem rnpack (p : Nat) : Statement (.rnpack p) := fun h q e => by cases e; exact of_decide_eq_true h
theorem mnop (p : Nat) : Statement (.mnop p) := fun h q e => by cases e; exact of_decide_eq_true h
theorem lset (p : Nat) : Statement (.lset p) := fun h q e => by cases e; exact of_decide_eq_true h
theorem loop (p : Nat) : Statement (.loop p) := fun h q e => by cases e; exact of_decide_eq_true h
theorem jmp (p : Nat) : Statement (.jmp p) := fun h q e => by cases e; exact of_decide_eq_true h
theorem spin (p : Nat) : Statement (.spin p) := fun h q e => by cases e; exact of_decide_eq_true h
theorem halt (p : Nat) : Statement (.halt p) := fun h q e => by cases e; exact of_decide_eq_true h
theorem agld (p : Nat) : Statement (.agld p) := fun h q e => by cases e; exact of_decide_eq_true h
theorem tile (p : Nat) : Statement (.tile p) := fun h q e => by cases e; exact of_decide_eq_true h
theorem notice (p : Nat) : Statement (.notice p) := fun h q e => by cases e; exact of_decide_eq_true h
theorem swait (p : Nat) : Statement (.swait p) := fun h q e => by cases e; exact of_decide_eq_true h
theorem ssig (p : Nat) : Statement (.ssig p) := fun h q e => by cases e; exact of_decide_eq_true h
theorem notify (p : Nat) : Statement (.notify p) := fun h q e => by cases e; exact of_decide_eq_true h
theorem fence (p : Nat) : Statement (.fence p) := fun h q e => by cases e; exact of_decide_eq_true h
theorem wopen (p : Nat) : Statement (.wopen p) := fun h q e => by cases e; exact of_decide_eq_true h
theorem wclose (p : Nat) : Statement (.wclose p) := fun h q e => by cases e; exact of_decide_eq_true h
theorem hstart (p : Nat) : Statement (.hstart p) := fun h q e => by cases e; exact of_decide_eq_true h
theorem done (p : Nat) : Statement (.done p) := fun h q e => by cases e; exact of_decide_eq_true h
theorem swaitResume (p : Nat) : Statement (.swaitResume p) := fun h q e => by cases e; exact of_decide_eq_true h
theorem waitTimeout (p : Nat) : Statement (.waitTimeout p) := fun h q e => by cases e; exact of_decide_eq_true h
theorem fenceComplete (p : Nat) : Statement (.fenceComplete p) := fun h q e => by cases e; exact of_decide_eq_true h
theorem chainRendezvous (region : Nat) : Statement (.chainRendezvous region) := fun _ _ e => nomatch e
theorem chainTimeout (region : Nat) : Statement (.chainTimeout region) := fun _ _ e => nomatch e
theorem dwaitRelease (p : Nat) : Statement (.dwaitRelease p) := fun h q e => by cases e; exact of_decide_eq_true h
theorem westFeedBegin (p : Nat) : Statement (.westFeedBegin p) := fun h q e => by cases e; exact of_decide_eq_true h
theorem northLoadBegin (p : Nat) : Statement (.northLoadBegin p) := fun h q e => by cases e; exact of_decide_eq_true h
theorem heldColumnWrite (p : Nat) (obs : List WordObs) : Statement (.heldColumnWrite p obs) := fun h q e => by cases e; exact of_decide_eq_true h
theorem westSlotIssue (p : Nat) (obs : List WordObs) : Statement (.westSlotIssue p obs) := fun h q e => by cases e; exact of_decide_eq_true h
theorem burstHoldEnd (p : Nat) : Statement (.burstHoldEnd p) := fun h q e => by cases e; exact of_decide_eq_true h
theorem entryUpdate (p : Nat) (col : Nat) : Statement (.entryUpdate p col) := fun h q e => by
  cases e; simp only [Instr.wf, Bool.and_eq_true, decide_eq_true_eq] at h; omega
theorem drainEntry (p : Nat) : Statement (.drainEntry p) := fun h q e => by cases e; exact of_decide_eq_true h
theorem drldGrain (p : Nat) : Statement (.drldGrain p) := fun h q e => by cases e; exact of_decide_eq_true h
theorem doutComplete (p : Nat) : Statement (.doutComplete p) := fun h q e => by cases e; exact of_decide_eq_true h
theorem feedLost (p : Nat) (tag : Nat) : Statement (.feedLost p tag) := fun h q e => by cases e; exact of_decide_eq_true h
theorem narrowAccess (p : Nat) (bank : Nat) (obs : List WordObs) : Statement (.narrowAccess p bank obs) := fun h q e => by
  cases e; simp only [Instr.wf, Bool.and_eq_true, decide_eq_true_eq] at h; omega
theorem starvation (p : Nat) (bank : Nat) : Statement (.starvation p bank) := fun h q e => by
  cases e; simp only [Instr.wf, Bool.and_eq_true, decide_eq_true_eq] at h; omega
theorem correctionWriteback (p : Nat) : Statement (.correctionWriteback p) := fun h q e => by cases e; exact of_decide_eq_true h
theorem poisonRewrite (p : Nat) : Statement (.poisonRewrite p) := fun h q e => by cases e; exact of_decide_eq_true h
theorem ceTableClear (u : MemUnit) : Statement (.ceTableClear u) := fun _ _ e => nomatch e
theorem ovfLogClear (p : Nat) : Statement (.ovfLogClear p) := fun h q e => by cases e; exact of_decide_eq_true h
theorem bankSleep (p : Nat) (mask : Nat) : Statement (.bankSleep p mask) := fun h q e => by cases e; exact of_decide_eq_true h
theorem bankDrained (p : Nat) (bank : Nat) : Statement (.bankDrained p bank) := fun h q e => by
  cases e; simp only [Instr.wf, Bool.and_eq_true, decide_eq_true_eq] at h; omega
theorem bankSleepBound (p : Nat) (bank : Nat) : Statement (.bankSleepBound p bank) := fun h q e => by
  cases e; simp only [Instr.wf, Bool.and_eq_true, decide_eq_true_eq] at h; omega
theorem bankWake (p : Nat) (mask : Nat) : Statement (.bankWake p mask) := fun h q e => by cases e; exact of_decide_eq_true h
theorem bankFillDone (p : Nat) : Statement (.bankFillDone p) := fun h q e => by cases e; exact of_decide_eq_true h
theorem storeFillDone (p : Nat) : Statement (.storeFillDone p) := fun h q e => by cases e; exact of_decide_eq_true h
theorem patrolScrub (p : Nat) (obs : List WordObs) : Statement (.patrolScrub p obs) := fun h q e => by cases e; exact of_decide_eq_true h
theorem winClose (p : Nat) (mask : Nat) : Statement (.winClose p mask) := fun h q e => by cases e; exact of_decide_eq_true h
theorem debugAccess (p : Nat) (addr : Nat) (write : Option Nat) : Statement (.debugAccess p addr write) := fun h q e => by
  cases e; simp only [Instr.wf, Bool.and_eq_true, decide_eq_true_eq] at h; omega
theorem sleep (slice : Nat) (fromHakar : Bool) : Statement (.sleep slice fromHakar) := fun _ _ e => nomatch e
theorem sliceDrained (slice : Nat) : Statement (.sliceDrained slice) := fun _ _ e => nomatch e
theorem sliceSleepBound (slice : Nat) : Statement (.sliceSleepBound slice) := fun _ _ e => nomatch e
theorem wake (slice : Nat) : Statement (.wake slice) := fun _ _ e => nomatch e
theorem sliceFillDone (slice : Nat) : Statement (.sliceFillDone slice) := fun _ _ e => nomatch e
theorem sliceFail (slice : Nat) (code : Nat) : Statement (.sliceFail slice code) := fun _ _ e => nomatch e
theorem standInSlice (slice : Nat) : Statement (.standInSlice slice) := fun _ _ e => nomatch e
theorem refresh (slice : Nat) (bank : Nat) (row : Nat) (wait : RefreshWait) : Statement (.refresh slice bank row wait) := fun _ _ e => nomatch e
theorem refreshIntervalChange (field : Nat) (temp16 : Int) : Statement (.refreshIntervalChange field temp16) := fun _ _ e => nomatch e
theorem sliceScrub (slice : Nat) (obs : List WordObs) : Statement (.sliceScrub slice obs) := fun _ _ e => nomatch e
theorem cellarScrub (ch : Nat) (obs : List WordObs) : Statement (.cellarScrub ch obs) := fun _ _ e => nomatch e
theorem cellarChannelFail (ch : Nat) (code : Nat) : Statement (.cellarChannelFail ch code) := fun _ _ e => nomatch e
theorem mr4Read (ch : Nat) (value : Nat) : Statement (.mr4Read ch value) := fun _ _ e => nomatch e
theorem wck2dqTracking (ch : Nat) : Statement (.wck2dqTracking ch) := fun _ _ e => nomatch e
theorem start (c : HaulId) : Statement (.start c) := fun _ _ e => nomatch e
theorem pause (c : HaulId) : Statement (.pause c) := fun _ _ e => nomatch e
theorem rdData (k : Packet) : Statement (.rdData k) := fun _ _ e => nomatch e
theorem hostReadCompletion (ch : Nat) (tag : Nat) (good : Bool) (data : List Byte) : Statement (.hostReadCompletion ch tag good data) := fun _ _ e => nomatch e
theorem wrAck (k : Packet) : Statement (.wrAck k) := fun _ _ e => nomatch e
theorem haulFlushComplete (ch : Nat) : Statement (.haulFlushComplete ch) := fun _ _ e => nomatch e
theorem haulError (k : Packet) : Statement (.haulError k) := fun _ _ e => nomatch e
theorem haulTimeout (src : Nat) (tag : Nat) : Statement (.haulTimeout src tag) := fun _ _ e => nomatch e
theorem packetForward (at_ : OutLane) (check : LinkCheck) (waited : Bool) : Statement (.packetForward at_ check waited) := fun _ _ e => nomatch e
theorem routerFail (gx : Nat) (gy : Nat) : Statement (.routerFail gx gy) := fun _ _ e => nomatch e
theorem rowDeadSet (gx : Nat) (gy : Nat) : Statement (.rowDeadSet gx gy) := fun _ _ e => nomatch e
theorem rd (k : Packet) (obs : List WordObs) : Statement (.rd k obs) := fun _ _ e => nomatch e
theorem wr (a : WrArrival) : Statement (.wr a) := fun _ _ e => nomatch e
theorem mcWr (a : McWrArrival) : Statement (.mcWr a) := fun _ _ e => nomatch e
theorem busWr (k : Packet) : Statement (.busWr k) := fun _ _ e => nomatch e
theorem wrAckCombine (src : Nat) (tag : Nat) : Statement (.wrAckCombine src tag) := fun _ _ e => nomatch e
theorem urgWr (k : Packet) : Statement (.urgWr k) := fun _ _ e => nomatch e
theorem atomic (k : Packet) : Statement (.atomic k) := fun _ _ e => nomatch e
theorem atomicData (k : Packet) : Statement (.atomicData k) := fun _ _ e => nomatch e
theorem reduce (k : Packet) : Statement (.reduce k) := fun _ _ e => nomatch e
theorem reduceAck (k : Packet) : Statement (.reduceAck k) := fun _ _ e => nomatch e
theorem commit (k : Packet) : Statement (.commit k) := fun _ _ e => nomatch e
theorem commitBounce (k : Packet) : Statement (.commitBounce k) := fun _ _ e => nomatch e
theorem commitResend : Statement (.commitResend) := fun _ _ e => nomatch e
theorem arrive (slot : Nat) (input : Nat) : Statement (.arrive slot input) := fun _ _ e => nomatch e
theorem barrier (k : Packet) : Statement (.barrier k) := fun _ _ e => nomatch e
theorem headerUnitReceive (port : Nat) (h : FinHeader) (fec : Fec) : Statement (.headerUnitReceive port h fec) := fun _ _ e => nomatch e
theorem payloadUnitReceive (port : Nat) (fec : Fec) (bytes : List Byte) : Statement (.payloadUnitReceive port fec bytes) := fun _ _ e => nomatch e
theorem linkIdle (port : Nat) (ack : Nat) (crvc : Nat) (crcnt : Nat) : Statement (.linkIdle port ack crvc crcnt) := fun _ _ e => nomatch e
theorem linkNak (port : Nat) (ack : Nat) : Statement (.linkNak port ack) := fun _ _ e => nomatch e
theorem linkLane (port : Nat) (map : Nat) (codeword : Nat) : Statement (.linkLane port map codeword) := fun _ _ e => nomatch e
theorem laneJudge (port : Nat) (lane : Nat) (lost : Bool) : Statement (.laneJudge port lane lost) := fun _ _ e => nomatch e
theorem linkReplayTimer (port : Nat) : Statement (.linkReplayTimer port) := fun _ _ e => nomatch e
theorem creditReturn (port : Nat) (vc : Nat) : Statement (.creditReturn port vc) := fun _ _ e => nomatch e
theorem packetTransmit (k : Packet) : Statement (.packetTransmit k) := fun _ _ e => nomatch e
theorem stepDispatch (job : Nat) : Statement (.stepDispatch job) := fun _ _ e => nomatch e
theorem sharesDone (device : Nat) (c : CommitRecord) : Statement (.sharesDone device c) := fun _ _ e => nomatch e
theorem stepCommit (job : Nat) : Statement (.stepCommit job) := fun _ _ e => nomatch e
theorem sharesDoneResend (job : Nat) : Statement (.sharesDoneResend job) := fun _ _ e => nomatch e
theorem shareReplay (device : Nat) (c : CommitRecord) : Statement (.shareReplay device c) := fun _ _ e => nomatch e
theorem replayAck (device : Nat) (c : CommitRecord) : Statement (.replayAck device c) := fun _ _ e => nomatch e
theorem shareReplayResend (job : Nat) : Statement (.shareReplayResend job) := fun _ _ e => nomatch e
theorem faultRecordReceive : Statement (.faultRecordReceive) := fun _ _ e => nomatch e
theorem replayQuiesced (job : Nat) : Statement (.replayQuiesced job) := fun _ _ e => nomatch e
theorem replayResume (job : Nat) : Statement (.replayResume job) := fun _ _ e => nomatch e
theorem memberFailure (job : Nat) (device : Nat) : Statement (.memberFailure job device) := fun _ _ e => nomatch e
theorem zeroisation (job : Nat) : Statement (.zeroisation job) := fun _ _ e => nomatch e
theorem zeroisationDone (job : Nat) : Statement (.zeroisationDone job) := fun _ _ e => nomatch e
theorem gradeRequest (grade : Nat) : Statement (.gradeRequest grade) := fun _ _ e => nomatch e
theorem gradeChange : Statement (.gradeChange) := fun _ _ e => nomatch e
theorem vcoreRise : Statement (.vcoreRise) := fun _ _ e => nomatch e
theorem vcoreFall : Statement (.vcoreFall) := fun _ _ e => nomatch e
theorem tideResync : Statement (.tideResync) := fun _ _ e => nomatch e
theorem tideExchange (port : Nat) (stamps : TideStamps) : Statement (.tideExchange port stamps) := fun _ _ e => nomatch e
theorem tideStampMessage (port : Nat) (mine : TideStamps) (peer : TideStamps) : Statement (.tideStampMessage port mine peer) := fun _ _ e => nomatch e
theorem ptmMeasure (hostTime : Nat) : Statement (.ptmMeasure hostTime) := fun _ _ e => nomatch e
theorem tideHoldover : Statement (.tideHoldover) := fun _ _ e => nomatch e
theorem tideParentReselect : Statement (.tideParentReselect) := fun _ _ e => nomatch e
theorem powerEvaluation (rails : RailSample) : Statement (.powerEvaluation rails) := fun _ _ e => nomatch e
theorem fastCurrentLoop (field : Nat) (milliAmps : Nat) (loop : LoopSample) : Statement (.fastCurrentLoop field milliAmps loop) := fun _ _ e => nomatch e
theorem loadNoticeArrival (region : Nat) : Statement (.loadNoticeArrival region) := fun _ _ e => nomatch e
theorem peakEnd (region : Nat) : Statement (.peakEnd region) := fun _ _ e => nomatch e
theorem minvInterval (region : Nat) (mv : Nat) (sampleTide : Nat) (samples : DroopSamples) : Statement (.minvInterval region mv sampleTide samples) := fun _ _ e => nomatch e
theorem thermalSample (region : Nat) (sensors : SensorPair) : Statement (.thermalSample region sensors) := fun _ _ e => nomatch e
theorem restDeadline (region : Nat) : Statement (.restDeadline region) := fun _ _ e => nomatch e
theorem regionWake (region : Nat) : Statement (.regionWake region) := fun _ _ e => nomatch e
theorem wakeAdmit (field : Nat) : Statement (.wakeAdmit field) := fun _ _ e => nomatch e
theorem wakeAdmitTimeout (field : Nat) : Statement (.wakeAdmitTimeout field) := fun _ _ e => nomatch e
theorem wakeRampDone (field : Nat) : Statement (.wakeRampDone field) := fun _ _ e => nomatch e
theorem wakeRegulated (field : Nat) : Statement (.wakeRegulated field) := fun _ _ e => nomatch e
theorem phaseFail (domain : Nat) (phase : Nat) : Statement (.phaseFail domain phase) := fun _ _ e => nomatch e
theorem budgetReport (watts : Nat) (interval : Nat) : Statement (.budgetReport watts interval) := fun _ _ e => nomatch e
theorem budgetReassign : Statement (.budgetReassign) := fun _ _ e => nomatch e
theorem budgetLimitReceive (m : BudgetMsg) : Statement (.budgetLimitReceive m) := fun _ _ e => nomatch e
theorem energyCharge (regions : List (Nat × Nat)) (shared : List DomainEnergy) (device : Nat) : Statement (.energyCharge regions shared device) := fun _ _ e => nomatch e
theorem doorbell (slot : Nat) : Statement (.doorbell slot) := fun _ _ e => nomatch e
theorem imageLoad (c : Cmd) (buf : HostBuf) (img : Image) : Statement (.imageLoad c buf img) := fun _ _ e => nomatch e
theorem jobCreate (c : Cmd) (regions : Nat) (jobId : Nat) (brineMib : Nat) (cellarMib : Nat) (lead : Nat) : Statement (.jobCreate c regions jobId brineMib cellarMib lead) := fun _ _ e => nomatch e
theorem place (c : Cmd) (seed : Nat) (rpt : HostBuf) : Statement (.place c seed rpt) := fun _ _ e => nomatch e
theorem run (c : Cmd) (first : Nat) (count : Nat) : Statement (.run c first count) := fun _ _ e => nomatch e
theorem step (c : Cmd) (number : Nat) : Statement (.step c number) := fun _ _ e => nomatch e
theorem kill (c : Cmd) : Statement (.kill c) := fun _ _ e => nomatch e
theorem dump (c : Cmd) (area : Nat) (index : Nat) (offset : Nat) (buf : HostBuf) : Statement (.dump c area index offset buf) := fun _ _ e => nomatch e
theorem lotAlloc (c : Cmd) (kind : Nat) (sizeMib : Nat) : Statement (.lotAlloc c kind sizeMib) := fun _ _ e => nomatch e
theorem lotFree (c : Cmd) (addr : Nat) : Statement (.lotFree c addr) := fun _ _ e => nomatch e
theorem powerPolicy (c : Cmd) (limit : Nat) (window : Nat) (gradeMax : Nat) : Statement (.powerPolicy c limit window gradeMax) := fun _ _ e => nomatch e
theorem budgetJoin (c : Cmd) (group : Nat) (total : Nat) (keeper : Nat) (buf : HostBuf) (members : List BudgetMember) : Statement (.budgetJoin c group total keeper buf members) := fun _ _ e => nomatch e
theorem energyQuery (c : Cmd) : Statement (.energyQuery c) := fun _ _ e => nomatch e
theorem gaugeConfig (c : Cmd) (g : Nat) (buf : HostBuf) (desc : GaugeDesc) : Statement (.gaugeConfig c g buf desc) := fun _ _ e => nomatch e
theorem gaugeRead (c : Cmd) (g : Nat) (buf : HostBuf) : Statement (.gaugeRead c g buf) := fun _ _ e => nomatch e
theorem faultRead (c : Cmd) (fromSeq : Nat) (buf : HostBuf) (max : Nat) : Statement (.faultRead c fromSeq buf max) := fun _ _ e => nomatch e
theorem assayReport (c : Cmd) (buf : HostBuf) : Statement (.assayReport c buf) := fun _ _ e => nomatch e
theorem aliasSet (c : Cmd) (buf : HostBuf) (table : List Nat) : Statement (.aliasSet c buf table) := fun _ _ e => nomatch e
theorem fwUpdate (c : Cmd) (buf : HostBuf) (img : FwImage) : Statement (.fwUpdate c buf img) := fun _ _ e => nomatch e
theorem attest (c : Cmd) (nonce : Nat) (buf : HostBuf) : Statement (.attest c nonce buf) := fun _ _ e => nomatch e
theorem transfer (c : Cmd) (src : Nat) (dst : Nat) (count : Nat) (ctrl : Nat) (vector : Nat) : Statement (.transfer c src dst count ctrl vector) := fun _ _ e => nomatch e
theorem atomicCmd (c : Cmd) (addr : Nat) (aop : Nat) (low : Nat) (a : Nat) (b : Nat) : Statement (.atomicCmd c addr aop low a b) := fun _ _ e => nomatch e
theorem resume (c : Cmd) (number : Nat) : Statement (.resume c number) := fun _ _ e => nomatch e
theorem tagQuery (c : Cmd) (tags : List Nat) : Statement (.tagQuery c tags) := fun _ _ e => nomatch e
theorem ringEnable (log2E : Nat) : Statement (.ringEnable log2E) := fun _ _ e => nomatch e
theorem ringHeadWrite (value : Nat) : Statement (.ringHeadWrite value) := fun _ _ e => nomatch e
theorem apertureWrite (hi : Bool) (value : Nat) : Statement (.apertureWrite hi value) := fun _ _ e => nomatch e
theorem bar2Write (offset : Nat) (data : List Byte) : Statement (.bar2Write offset data) := fun _ _ e => nomatch e
theorem bar2Read (offset : Nat) (len : Nat) (tag : Nat) : Statement (.bar2Read offset len tag) := fun _ _ e => nomatch e
theorem intCoalesceExpiry : Statement (.intCoalesceExpiry) := fun _ _ e => nomatch e
theorem heartbeat : Statement (.heartbeat) := fun _ _ e => nomatch e
theorem coreTakeover : Statement (.coreTakeover) := fun _ _ e => nomatch e
theorem gaugeEvent (g : Nat) (value : Int) (time : Nat) : Statement (.gaugeEvent g value time) := fun _ _ e => nomatch e
theorem levelSample (g : Nat) (value : Int) : Statement (.levelSample g value) := fun _ _ e => nomatch e
theorem windowClose (g : Nat) : Statement (.windowClose g) := fun _ _ e => nomatch e
theorem faultMirror : Statement (.faultMirror) := fun _ _ e => nomatch e
theorem deviceFatal (f : FaultRec) : Statement (.deviceFatal f) := fun _ _ e => nomatch e
theorem diffOffset (value : Nat) : Statement (.diffOffset value) := fun _ _ e => nomatch e
theorem diffData : Statement (.diffData) := fun _ _ e => nomatch e
theorem dbgChallenge (nonce : Nat) : Statement (.dbgChallenge nonce) := fun _ _ e => nomatch e
theorem dbgToken (t : DebugToken) : Statement (.dbgToken t) := fun _ _ e => nomatch e
theorem debugZeroiseDone : Statement (.debugZeroiseDone) := fun _ _ e => nomatch e
theorem nonceExpiry : Statement (.nonceExpiry) := fun _ _ e => nomatch e
theorem getVersion : Statement (.getVersion) := fun _ _ e => nomatch e
theorem getCapabilities : Statement (.getCapabilities) := fun _ _ e => nomatch e
theorem negotiateAlgorithms : Statement (.negotiateAlgorithms) := fun _ _ e => nomatch e
theorem challenge (nonce : Nat) : Statement (.challenge nonce) := fun _ _ e => nomatch e
theorem getMeasurements (index : Nat) : Statement (.getMeasurements index) := fun _ _ e => nomatch e
theorem spdmUnsupportedRequest (code : Nat) : Statement (.spdmUnsupportedRequest code) := fun _ _ e => nomatch e
theorem entropyTestFail : Statement (.entropyTestFail) := fun _ _ e => nomatch e
theorem registerWrite (path : RegPath) (value : Nat) : Statement (.registerWrite path value) := fun _ _ e => nomatch e
theorem rcRead (path : RegPath) : Statement (.rcRead path) := fun _ _ e => nomatch e
theorem internalCheckFail (p : Nat) (unit : Nat) : Statement (.internalCheckFail p unit) := fun h q e => by
  cases e; simp only [Instr.wf, Bool.and_eq_true, decide_eq_true_eq] at h; omega
theorem regionClockFail (region : Nat) : Statement (.regionClockFail region) := fun _ _ e => nomatch e
theorem reservedOpcode (p : Nat) : Statement (.reservedOpcode p) := fun h q e => by cases e; exact of_decide_eq_true h
theorem atomicRetry : Statement (.atomicRetry) := fun _ _ e => nomatch e
theorem bar2ReadTimeout (tag : Nat) : Statement (.bar2ReadTimeout tag) := fun _ _ e => nomatch e
theorem vectorHoldoffExpiry (vector : Nat) : Statement (.vectorHoldoffExpiry vector) := fun _ _ e => nomatch e
theorem vectorUnmask (vector : Nat) : Statement (.vectorUnmask vector) := fun _ _ e => nomatch e
theorem rfm (ch : Nat) : Statement (.rfm ch) := fun _ _ e => nomatch e
theorem perBankRefresh (ch : Nat) (bank : Nat) : Statement (.perBankRefresh ch bank) := fun _ _ e => nomatch e
theorem quiesceTimeLimit (job : Nat) : Statement (.quiesceTimeLimit job) := fun _ _ e => nomatch e

end Sys2Proof.Laws.PanInRange
end

