-- ==== Sys2Proof/Machine/Package.lean ====
section
/-! DEFINITION. The package's land grid (chapter 18, R491 to R496) and the flash clock its straps set (R502): what each land carries. No
command acts on it. -/

namespace Sys2Proof.Machine
open Sys2Proof

/-! ### The grid (R491 to R493) -/

/-- The letters of row names, in order. -/
def landLetters : List Char := ['A', 'B', 'C', 'D', 'E', 'F', 'G', 'H', 'J', 'K', 'L', 'M', 'N', 'P', 'T', 'U', 'V', 'W', 'Y']

/-- The name of row r, from 1 to 118 (R492). -/
def rowName (r : Nat) : List Char :=
  let letter (i : Nat) : List Char := (landLetters[i]?).toList
  if r ≤ 19 then letter (r - 1) else letter ((r - 20) / 19) ++ letter ((r - 20) % 19)

/-- A position of the grid carries a land (R491): four positions are the orientation key. -/
def isLand (r c : Nat) : Bool :=
  decide (1 ≤ r) && decide (r ≤ 118) && decide (1 ≤ c) && decide (c ≤ 166) && !(decide (117 ≤ r) && decide (165 ≤ c))

/-- A land's centre from the package corner nearest land A1, x and y in micrometres (R491). -/
def landCentre (r c : Nat) : Nat × Nat := (1750 + 900 * (c - 1), 23350 + 900 * (r - 1))

/-- The field over a land (R493). -/
def landField (r c : Nat) : Nat :=
  4 * (if r ≤ 41 then 0 else if r ≤ 77 then 1 else 2) + (if c ≤ 54 then 0 else if c ≤ 83 then 1 else if c ≤ 112 then 2 else 3)

/-! ### Signal lists (R495, R500) -/

/-- What a land carries. -/
inductive Land where
  | vin
  | vss
  | vinSense (field : Nat)
  | vssSense (field : Nat)
  | rail (name : String)
  | cellar (channel : Nat) (signal : String)
  | siteReset (site : Nat)
  | finron (port lane : Nat) (signal : String)
  | pcie (lane : Nat) (signal : String)
  | other (name : String)
  | reserved (n : Nat)
deriving DecidableEq, Repr

/-- The 36 lands of a cellar channel. -/
def channelSignals : List String :=
  ["CK_T", "CK_C", "CS", "CA0", "CA1", "CA2", "CA3", "CA4", "CA5", "CA6", "WCK0_T", "WCK0_C", "DQ0", "DQ1", "DQ2", "DQ3", "DQ4", "DQ5", "DQ6",
   "DQ7", "DMI0", "RDQS0_T", "RDQS0_C", "WCK1_T", "WCK1_C", "DQ8", "DQ9", "DQ10", "DQ11", "DQ12", "DQ13", "DQ14", "DQ15", "DMI1", "RDQS1_T",
   "RDQS1_C"]

/-- The four lands of a Finron or PCI Express lane. -/
def laneSignals : List String := ["TX_T", "TX_C", "RX_T", "RX_C"]

/-- The sideband lands in the order of R500. -/
def sideband : List String :=
  ["I3C_SCL", "I3C_SDA", "QSPI_CLK", "QSPI_CS_N", "QSPI_IO0", "QSPI_IO1", "QSPI_IO2", "QSPI_IO3", "JTAG_TCK", "JTAG_TMS", "JTAG_TDI",
   "JTAG_TRST_N", "JTAG_TDO", "RESET_N", "PWRGD", "PERST_N", "FATAL_N", "THERMTRIP_N", "STRAP_FCLK0", "STRAP_FCLK1"]

/-- The list of a cellar group's band: its channels, its sites' resets, the two rails, and reserved lands. -/
def cellarList (g : Nat) : List Land :=
  ((List.range 16).flatMap fun i => channelSignals.map (Land.cellar (16 * g + i))) ++ ((List.range 4).map fun i => Land.siteReset (4 * g + i)) ++
    List.replicate 40 (.rail "VLQ") ++ List.replicate 40 (.rail "VHQ") ++
    (let first := if g = 0 then some 0 else if g = 3 then some 32 else if g = 5 then some 48 else none
     match first with | some n => (List.range 16).map fun i => Land.reserved (n + i) | none => [])

/-- The list of the host's band. -/
def hostList : List Land :=
  ((List.range 16).flatMap fun l => laneSignals.map (Land.pcie l)) ++
    (["PCIE_REFCLK_T", "PCIE_REFCLK_C", "SYS_REFCLK_T", "SYS_REFCLK_C"] ++ sideband).map Land.other ++
    List.replicate 16 (.rail "VAUX") ++ (List.range 16).map fun i => Land.reserved (16 + i)

/-- The list of a Finron port's band. -/
def portList (n : Nat) : List Land :=
  ((List.range 9).flatMap fun l => laneSignals.map (Land.finron n l)) ++ List.replicate 15 (.rail "VSD")

/-! ### Zones and bands (R494, R496) -/

/-- The item of a band's list at a land: rows are filled from the lowest column up; what is left over carries VSS. -/
def bandLand (list : List Land) (r0 c0 width r c : Nat) : Land := (list[(r - r0) * width + (c - c0)]?).getD .vss

/-- Zone W, columns 1 to 20. -/
def landWest (r c : Nat) : Land :=
  if r ≤ 35 then bandLand (cellarList 0) 1 1 20 r c else if r ≤ 70 then bandLand (cellarList 1) 36 1 20 r c
  else if r ≤ 83 then bandLand hostList 71 1 20 r c else bandLand (cellarList 2) 84 1 20 r c

/-- Zone E, columns 147 to 166. -/
def landEast (r c : Nat) : Land :=
  if r ≤ 39 then bandLand (cellarList 3) 1 147 20 r c else if r ≤ 79 then bandLand (cellarList 4) 40 147 20 r c
  else bandLand (cellarList 5) 80 147 20 r c

/-- Zones N and S: ports from `first` on above columns 22 to 141, a clock pair at columns 143 and 144 of one row, and VSS elsewhere. -/
def landPorts (first r0 clockRow : Nat) (clock : String) (r c : Nat) : Land :=
  if 22 ≤ c && c ≤ 141 then bandLand (portList (first + (c - 22) / 15)) r0 (22 + (c - 22) / 15 * 15) 15 r c
  else if r = clockRow && c = 143 then .other (clock ++ "_T")
  else if r = clockRow && c = 144 then .other (clock ++ "_C")
  else .vss

/-- Zone C (R496): VIN and VSS alternate, and each field has two sense lands. -/
def landCore (r c : Nat) : Land :=
  let sense := (List.range 12).find? fun f => r == 25 + 36 * (f / 4) && (c == 37 + 29 * (f % 4) || c == 38 + 29 * (f % 4))
  match sense, (r + c) % 2 with
  | some f, 0 => .vinSense f
  | some f, _ => .vssSense f
  | none, 0 => .vin
  | none, _ => .vss

/-- What the land at row r and column c carries; none at the key and outside the grid. -/
def landAt (r c : Nat) : Option Land :=
  if !isLand r c then none
  else some (if c ≤ 20 then landWest r c else if 147 ≤ c then landEast r c
    else if r ≤ 8 then landPorts 0 1 4 "FIN_REFCLK_N" r c else if 111 ≤ r then landPorts 8 111 114 "FIN_REFCLK_S" r c else landCore r c)

/-- The rows and columns of zone C that lie over a field: first row, rows, first column, columns. -/
def fieldCore (f : Nat) : Nat × Nat × Nat × Nat :=
  let (r, m) := if f / 4 = 0 then (9, 33) else if f / 4 = 1 then (42, 36) else (78, 33)
  let (c, n) := if f % 4 = 0 then (21, 34) else if f % 4 = 1 then (55, 29) else if f % 4 = 2 then (84, 29) else (113, 34)
  (r, m, c, n)

/-- How many VIN lands a field's group has (R496). -/
def vinLands (f : Nat) : Nat :=
  let (r, m, c, n) := fieldCore f
  ((List.range m).map fun i => ((List.range n).filter fun j => landCore (r + i) (c + j) == .vin).length).sum

/-! ### Straps (R502) -/

/-- The highest QSPI clock in MHz that STRAP_FCLK sets. -/
def flashClock (strap : Nat) : Nat := if strap = 0 then 133 else if strap = 1 then 104 else if strap = 2 then 80 else 50

/-- Milliseconds that the strap adds to the bounds of bring-up from phase 2 on, over those of R416. -/
def flashDelay (strap : Nat) : Nat := if strap = 0 then 0 else if strap = 1 then 53 else if strap = 2 then 126 else 314

end Sys2Proof.Machine
end

