-- ==== Sys2Proof/Tests/Slice0.lean ====
section
/-! SUPPORT. Tests: the checks of WellFormed refuse an ill-formed term each, slot words written out from the manual's encodings
decode, and each clause of the statements has a concrete state and operands that meet its premises, with what the manual says
the command leaves there. -/

namespace Sys2Proof.Tests
open Sys2Proof Sys2Proof.Machine

/-! ### Small states -/

/-- What a command's next state shows. -/
def sees (i : Instr) (s : State) (f : State → Bool) : Bool := match exec i s with | .next t => f t | _ => false
/-- One pan differs from reset. -/
def onPan (p : Nat) (x : Pan) : State := { State.reset with pans := [(p, x)] }
/-- A bundle from the words of its four slots. -/
def bundle (f d r m : Nat) : Bundle := BitVec.ofNat 128 (f + d * 2 ^ 32 + r * 2 ^ 64 + m * 2 ^ 96)
/-- A running sequencer whose bundle at 0 is b. -/
def seqOf (b : Bundle) : Machine.Seq := { mode := .running, progLen := 4, program := [(0, b)] }
/-- Pan 3 is about to issue b. -/
def runs (b : Bundle) : State := onPan 3 { seq := seqOf b }
/-- The rake slot of a word 0. -/
def noRake : RakeOp := rakeSlot 0
/-- The pan most tests look at. -/
def P (t : State) : Pan := t.pan 3
/-- Its sequencer. -/
def Q (t : State) : Machine.Seq := (t.pan 3).seq

/-- Write bytes into pan 3's store, within one unit. -/
def poke (a : Nat) (bs : List Byte) (s : State) : State :=
  { s with storeMem := writeBytes s.storeMem (storeKey 3 (P s).store.swz a) bs }
/-- 32-bit words in memory order. -/
def words (l : List Nat) : List Byte := (l.map fun w => leBytes w 4).flatten

/-- A global address of this device: space and offset. -/
def own (space off : Nat) : Nat := mkAddr 8191 space off

set_option maxRecDepth 8000
set_option Elab.async false
/-! ### Feed and drain slots (R108 to R122) -/

/-- A tile context: feeds by generator 2, product mode 1, drains by generator 3. -/
def ctx : TileCtx :=
  { mode := 1, b := 0, len := 1, window := false, wag := 2, nag := 1, dag := 3, ddesc := 0, chained := false, copy := false }
/-- Pan 3 is about to issue b under a tile. -/
def runsTile (b : Bundle) : State := onPan 3 { seq := { seqOf b with tile := some ctx, tileArmed := true } }

-- WFEED with COPY, START, ZERO, H 5, W 0x21 and N 3: 0x1 | 1101 | 5 | 0x21 | 0x02 | 0
theorem test_word_wfeed : feedSlot 0x1D521020 = .wfeed true true false true 5 0x21 3 := by decide +kernel
-- HLOAD with DP
theorem test_word_hload : feedSlot 0x24000000 = .hload false true := by decide +kernel
theorem test_word_tend : feedSlot 0x30000000 = .tend := by decide +kernel
-- a reserved bit of FNOP, and a reserved opcode
theorem test_word_feed_reserved : feedSlot 1 = .reserved ∧ feedSlot 0x40000000 = .reserved := by decide +kernel
-- DOUT with SIG, semaphore 9 and N 4
theorem test_word_dout : drainSlot 0x1C818000 = .dout true 9 4 := by decide +kernel
-- DRLD of SAG 1 and DAG 2, N 8, descriptor 0x280
theorem test_word_drld : drainSlot 0x26070005 = .drld 1 2 8 0x280 := by decide +kernel
theorem test_word_dwait : drainSlot 0x30000000 = .dwait := by decide +kernel

theorem test_feed_nop : (runs (bundle 0 0 0 0)).issues 3 .nop .nop noRake .nop ∧ noRake.rop = 0 ∧ (runs (bundle 0 0 0 0)).follows 3 ∧
    sees (.fnop 3) (runs (bundle 0 0 0 0)) (fun t => (Q t).pc == 1 && (Q t).nextIssue == 1) = true := by decide +kernel
theorem test_feed_wfeed : (runsTile (bundle 0x1D521020 0 0 0)).issues 3 (.wfeed true true false true 5 0x21 3) .nop noRake .nop ∧
    sees (.wfeed 3) (runsTile (bundle 0x1D521020 0 0 0)) (fun t => (Q t).feedSeq == 1 && !(Q t).tileArmed &&
      match (Q t).feedq with | [.run r armed 2] => r.wag == 2 && r.mode == 1 && r.n == 3 && armed | _ => false) = true := by decide +kernel
theorem test_feed_wfeed_no_tile : (runs (bundle 0x1D521020 0 0 0)).issues 3 (.wfeed true true false true 5 0x21 3) .nop noRake .nop ∧
    (Q (runs (bundle 0x1D521020 0 0 0))).tile = none ∧
    sees (.wfeed 3) (runs (bundle 0x1D521020 0 0 0)) (fun t => (Q t).feedq.length == 1) = true := by decide +kernel
theorem test_feed_hload : (runs (bundle 0x24000000 0 0 0)).issues 3 (.hload false true) .nop noRake .nop ∧
    sees (.hload 3) (runs (bundle 0x24000000 0 0 0)) (fun t => (Q t).northq.length == 1 && (Q t).feedSeq == 1) = true := by decide +kernel
theorem test_feed_tend : (runs (bundle 0x30000000 0 0 0)).issues 3 .tend .nop noRake .nop ∧
    sees (.tend 3) (runs (bundle 0x30000000 0 0 0)) (fun t => (Q t).feedq == [.tend 2]) = true := by decide +kernel
theorem test_drain_nop : sees (.dnop 3) (runs (bundle 0 0 0 0)) (fun t => (Q t).pc == 1 && (Q t).drainq.isEmpty) = true := by decide +kernel
theorem test_drain_dout : (runsTile (bundle 0 0x1C818000 0 0)).issues 3 .nop (.dout true 9 4) noRake .nop ∧
    sees (.dout 3) (runsTile (bundle 0 0x1C818000 0 0)) (fun t => (Q t).drainq == [.dout 4 3 true 9]) = true := by decide +kernel
theorem test_drain_dout_no_tile : (runs (bundle 0 0x1C818000 0 0)).issues 3 .nop (.dout true 9 4) noRake .nop ∧
    sees (.dout 3) (runs (bundle 0 0x1C818000 0 0)) (fun t => (Q t).drainq.length == 1 && t.draws == 1) = true := by decide +kernel
theorem test_drain_drld : (runs (bundle 0 0x26070005 0 0)).issues 3 .nop (.drld 1 2 8 0x280) noRake .nop ∧
    sees (.drld 3) (runs (bundle 0 0x26070005 0 0)) (fun t => (Q t).drainq == [.drld 8 1 2 0x280 none]) = true := by decide +kernel
theorem test_drain_dwait : (runs (bundle 0 0x30000000 0 0)).issues 3 .nop .dwait noRake .nop ∧
    sees (.dwait 3) (runs (bundle 0 0x30000000 0 0)) (fun t => (Q t).pc == 1) = true := by decide +kernel

/-! ### Sequencer control, faults and semaphores (R100 to R103, R128, R129, R137) -/

def mode3 (m : SeqMode) : State := onPan 3 { seq := { mode := m, entry := 2, progLen := 4, sems := [(1, 65530)] } }

theorem test_go : ((Q (mode3 .stopped)).entry < (Q (mode3 .stopped)).progLen) ∧
    sees (.go 3) (mode3 .stopped) (fun t => (Q t).mode == .running && (Q t).pc == 2 && look 0 (Q t).sems 1 == 65530) = true ∧
    sees (.go 3) (mode3 .halted) (fun t => (Q t).mode == .running) = true := by decide +kernel
theorem test_go_held : sees (.go 3) (onPan 3 { store := { fillBusy := true } }) (fun t => (Q t).heldGo && (Q t).mode == .stopped) = true := by
  decide +kernel
-- an entry past the program, and the spare of an untouched region: position 14 of it (R22)
theorem test_go_range : sees (.go 3) (onPan 3 { seq := { entry := 4, progLen := 4 } })
    (fun t => (Q t).mode == .faulted && (Q t).fault.code == 2 && (Q t).fault.detail == 4) = true := by decide +kernel
theorem test_go_spare : State.reset.isSpare 14 = true ∧ State.reset.isSpare 3 = false ∧ State.reset.regionDown 0 = false ∧
    sees (.go 14) (onPan 14 { seq := { progLen := 4 } }) (fun t => t == onPan 14 { seq := { progLen := 4 } }) = true := by decide +kernel
theorem test_go_ignored : sees (.go 3) (mode3 .faulted) (fun t => t == mode3 .faulted) = true := by decide +kernel
theorem test_stop : sees (.stop 3) (mode3 .waiting) (fun t => (Q t).mode == .stopped) = true ∧
    sees (.stop 3) (mode3 .faulted) (fun t => (Q t).mode == .faulted) = true := by decide +kernel
theorem test_fault_clear : sees (.faultClear 3) (mode3 .faulted) (fun t => (Q t).mode == .stopped) = true := by decide +kernel
theorem test_internal_check : (mode3 .halted).regionDown (3 / 15) = false ∧ (mode3 .halted).regionChained (3 / 15) = false ∧
    sees (.internalCheckFail 3 6) (mode3 .halted) (fun t => (Q t).mode == .faulted && (Q t).fault.code == 0x31 && (Q t).fault.async &&
      t.faults.reports.length == 1) = true := by decide +kernel
theorem test_internal_check_faulted : sees (.internalCheckFail 3 0) (mode3 .faulted) (fun t => t == mode3 .faulted) = true := by decide +kernel
theorem test_reserved_opcode : (runs (bundle 0 0 0 0xF8000000)).canIssue 3 = true ∧
    reservedSlot ((runs (bundle 0 0 0 0xF8000000)).bundleAt 3) = some 3 ∧
    sees (.reservedOpcode 3) (runs (bundle 0 0 0 0xF8000000)) (fun t => (Q t).fault.code == 1 && (Q t).fault.detail == 3 && !(Q t).fault.async) =
      true := by decide +kernel
/-- Semaphore 1 holds 65,530. -/
def sem3 (b : Bundle) : State := onPan 3 { seq := { seqOf b with sems := [(1, 65530)] } }
-- SWAIT, SSIG and NOTIFY of index 1: opcode in [31:27], index in [26:23]
theorem test_word_swait : moveSlot 0x4880FFFA = .swait 1 65530 := by decide +kernel
theorem test_word_ssig : moveSlot 0x50800005 = .ssig 1 5 := by decide +kernel
theorem test_word_notify : moveSlot 0x58800007 = .notify 1 7 := by decide +kernel
theorem test_swait : (sem3 (bundle 0 0 0 0x4880FFFA)).issues 3 .nop .nop noRake (.swait 1 65530) ∧
    sees (.swait 3) (sem3 (bundle 0 0 0 0x4880FFFA)) (fun t => look 0 (Q t).sems 1 == 0 && (Q t).pc == 1) = true := by decide +kernel
theorem test_swait_waits : (sem3 (bundle 0 0 0 0x4880FFFB)).issues 3 .nop .nop noRake (.swait 1 65531) ∧
    sees (.swait 3) (sem3 (bundle 0 0 0 0x4880FFFB)) (fun t => (Q t).mode == .waiting && (Q t).pc == 0) = true := by decide +kernel
theorem test_ssig : (sem3 (bundle 0 0 0 0x50800005)).issues 3 .nop .nop noRake (.ssig 1 5) ∧
    sees (.ssig 3) (sem3 (bundle 0 0 0 0x50800005)) (fun t => look 0 (Q t).sems 1 == 65535) = true := by decide +kernel
theorem test_ssig_overflow : (sem3 (bundle 0 0 0 0x50800006)).issues 3 .nop .nop noRake (.ssig 1 6) ∧
    sees (.ssig 3) (sem3 (bundle 0 0 0 0x50800006)) (fun t => (Q t).fault.code == 5 && look 0 (Q t).sems 1 == 65530) = true := by decide +kernel
theorem test_sem_notify : sees (.semNotify 3 1 5) (mode3 .stopped) (fun t => look 0 (Q t).sems 1 == 65535) = true ∧
    sees (.semNotify 3 1 6) (mode3 .running) (fun t => look 0 (Q t).sems 1 == 65535 && (Q t).fault.code == 5) = true ∧
    sees (.semNotify 3 1 6) (mode3 .halted) (fun t => look 0 (Q t).sems 1 == 65535 && (Q t).mode == .halted) = true := by decide +kernel
theorem test_sem_clear : sees (.semClear 3 2) (mode3 .stopped) (fun t => look 0 (Q t).sems 1 == 0) = true := by decide +kernel
theorem test_notify : (sem3 (bundle 0 0 0 0x58800007)).issues 3 .nop .nop noRake (.notify 1 7) ∧
    sees (.notify 3) (sem3 (bundle 0 0 0 0x58800007)) (fun t => t.net.flight.length == 1 && (Q t).pc == 1) = true := by decide +kernel

/-! ### The move slot (R126, R127, R130 to R133) -/

/-- Counter 2 holds 2. -/
def cnt3 (b : Bundle) : State := onPan 3 { seq := { seqOf b with lcs := [(2, 2)] } }
-- LSET of counter 2 to 0, which stands for 65,536; LOOP of counter 2 to 3; JMP to 3 and to 4; SPIN 9
theorem test_word_lset : moveSlot 0x0A000000 = .lset 2 65536 := by decide +kernel
theorem test_word_loop : moveSlot 0x12000003 = .loop 2 3 := by decide +kernel
theorem test_word_jmp : moveSlot 0x18000003 = .jmp 3 := by decide +kernel
theorem test_word_spin : moveSlot 0x20000009 = .spin 9 := by decide +kernel
theorem test_mnop : sees (.mnop 3) (runs (bundle 0 0 0 0)) (fun t => (Q t).pc == 1) = true := by decide +kernel
theorem test_lset : (runs (bundle 0 0 0 0x0A000000)).issues 3 .nop .nop noRake (.lset 2 65536) ∧
    sees (.lset 3) (runs (bundle 0 0 0 0x0A000000)) (fun t => look 0 (Q t).lcs 2 == 65536) = true := by decide +kernel
theorem test_loop : (cnt3 (bundle 0 0 0 0x12000003)).issues 3 .nop .nop noRake (.loop 2 3) ∧
    sees (.loop 3) (cnt3 (bundle 0 0 0 0x12000003)) (fun t => (Q t).pc == 3 && look 0 (Q t).lcs 2 == 1) = true ∧
    sees (.loop 3) (runs (bundle 0 0 0 0x12000003)) (fun t => (Q t).pc == 1 && look 0 (Q t).lcs 2 == 0) = true := by decide +kernel
theorem test_jmp : (runs (bundle 0 0 0 0x18000003)).issues 3 .nop .nop noRake (.jmp 3) ∧
    sees (.jmp 3) (runs (bundle 0 0 0 0x18000003)) (fun t => (Q t).pc == 3) = true := by decide +kernel
theorem test_jmp_range : (runs (bundle 0 0 0 0x18000004)).issues 3 .nop .nop noRake (.jmp 4) ∧
    sees (.jmp 3) (runs (bundle 0 0 0 0x18000004)) (fun t => (Q t).fault.code == 2 && (Q t).fault.detail == 4 && (Q t).fault.slot == 3) =
      true := by decide +kernel
theorem test_spin : (runs (bundle 0 0 0 0x20000009)).issues 3 .nop .nop noRake (.spin 9) ∧
    sees (.spin 3) (runs (bundle 0 0 0 0x20000009)) (fun t => (Q t).nextIssue == 10) = true := by decide +kernel
theorem test_halt : (runs (bundle 0 0 0 0x28000000)).issues 3 .nop .nop noRake .halt ∧
    sees (.halt 3) (runs (bundle 0 0 0 0x28000000)) (fun t => (Q t).mode == .halted && (Q t).pc == 0) = true := by decide +kernel
theorem test_notice : (runs (bundle 0 0 0 0x40000000)).issues 3 .nop .nop noRake .notice ∧
    sees (.notice 3) (runs (bundle 0 0 0 0x40000000)) (fun t => (Q t).notice == some 0) = true := by decide +kernel


-- AGLD of generator 1, TILE, WOPEN and WCLOSE of window 5, HSTART of channel 2, FENCE, DONE of share 7; descriptors at 0x1000
theorem test_word_agld : moveSlot 0x32000040 = .agld 1 0x1000 := by decide +kernel
theorem test_word_tile : moveSlot 0x38000040 = .tile false 0x1000 ∧ moveSlot 0x3C000040 = .tile true 0x1000 := by decide +kernel
theorem test_word_wopen : moveSlot 0x6A800040 = .wopen 5 0x1000 := by decide +kernel
theorem test_word_wclose : moveSlot 0x72800000 = .wclose 5 := by decide +kernel
theorem test_word_hstart : moveSlot 0x7C000040 = .hstart 2 0x1000 := by decide +kernel
theorem test_word_fence : moveSlot 0x60000000 = .fence := by decide +kernel
theorem test_word_done : moveSlot 0x80000007 = .done 7 := by decide +kernel
theorem test_word_move_reserved : moveSlot 0x88000000 = .reserved ∧ moveSlot 0x28000001 = .reserved := by decide +kernel

/-- An address generator descriptor: start 0x2000, exponents at 0x3000, steps 64 and 2, 9 uses a step. -/
def agDesc : List Byte := words [0x2000, 0, 0x3000, 0, 64, 2, 0, 0, 9]
def agRun : State := poke 0x1000 agDesc (runs (bundle 0 0 0 0x32000040))
theorem test_agld : agRun.issues 3 .nop .nop noRake (.agld 1 0x1000) ∧ agRun.descGranted 3 [(0x1000, 64)] ∧ agRun.follows 3 ∧
    (localRead 3 0x1000 64 (agRun.descTaken 3 [(0x1000, 64)])).2 = (false, agRun.descTaken 3 [(0x1000, 64)]) ∧
    sees (.agld 3) agRun (fun t => let g := look ({} : Ag) (Q t).ags 1
      g.loaded && g.ecur == 0x2000 && g.xcur == 0x3000 && g.estride == 64 && g.count == 9 && (Q t).nextIssue == 2) = true := by decide +kernel

/-- A tile descriptor of mode BS8 × BS8 with L 1 and a pan store's two tensor headers: K 64, EMAX 3 and −2; `chain` sets CHAINED. -/
def tileRun (chain : Nat) : State :=
  poke 0x1000 (words [0x61 + chain * 2 ^ 16, 0x1040, 0x1080, 0]) <| poke 0x1040 (words [1, 64, 1, 0x03]) <|
    poke 0x1080 (words [1, 64, 1, 0xFE]) <| runs (bundle 0 0 0 0x38000040)
theorem test_tile : (tileRun 0).issues 3 .nop .nop noRake (.tile false 0x1000) ∧
    sees (.tile 3) (tileRun 0) (fun t => (Q t).tileArmed && (Q t).nextIssue == 4 &&
      match (Q t).tile with | some c => c.mode == 1 && c.b == 3 + -2 - 26 && c.wag == 2 && c.nag == 1 && !c.chained | none => false) =
      true := by decide +kernel
theorem test_tile_granted : (tileRun 0).descGranted 3 (moveRuns 3 (.tile false 0x1000) (tileRun 0)) ∧
    (match readTile 3 0x1000 false ((tileRun 0).descTaken 3 (moveRuns 3 (.tile false 0x1000) (tileRun 0))) with
      | .ok c => !c.chained | .error _ => false) = true := by decide +kernel
-- pan 4 of the same region waits at the rendezvous: both stop, CHAIN_MISMATCH with pan 3's logical column (R95)
theorem test_tile_mismatch :
    let s := { tileRun 0 with pans := (tileRun 0).pans ++ [(4, ({ seq := { mode := .waiting, wait := .rendezvous { ctx with chained := true } } } : Pan))] }
    sees (.tile 3) s (fun t => [3, 4].all fun p => let q := (t.pan p).seq
      q.mode == .faulted && q.fault.code == 0x14 && q.fault.detail == 3) = true := by decide +kernel
theorem test_tile_chained : (tileRun 1).issues 3 .nop .nop noRake (.tile false 0x1000) ∧
    sees (.tile 3) (tileRun 1) (fun t => (Q t).mode == .waiting && (Q t).tile.isNone &&
      match (Q t).wait with | .rendezvous c => c.chained | _ => false) = true := by decide +kernel
/-- A window descriptor: 256 bytes at 0x4000 from source 0x123. -/
def winRun : State := poke 0x1000 (words [0x4000, 256, 0x123, 0xFFFFFFF]) (runs (bundle 0 0 0 0x6A800040))
theorem test_wopen : winRun.issues 3 .nop .nop noRake (.wopen 5 0x1000) ∧
    sees (.wopen 3) winRun (fun t => (P t).store.winPend == [(2, 5, some ⟨0x4000, 256, 0x123, 0xFFFFFFF⟩)]) = true := by decide +kernel
theorem test_wclose : (runs (bundle 0 0 0 0x72800000)).issues 3 .nop .nop noRake (.wclose 5) ∧
    sees (.wclose 3) (runs (bundle 0 0 0 0x72800000)) (fun t => (P t).store.winPend == [(1, 5, none)]) = true := by decide +kernel
/-- A haul descriptor: 64 bytes from 0x2000 to 0x3000 of this device's pan 0, no notify. -/
def haulRun : State := poke 0x1000 (words [0x2000, 0, 0x3000, 0, 64, 0, 0, 0]) (runs (bundle 0 0 0 0x7C000040))
theorem test_hstart : haulRun.issues 3 .nop .nop noRake (.hstart 2 0x1000) ∧ haulCtrlReserved 0 = false ∧
    sees (.hstart 3) haulRun (fun t => (Q t).pc == 1 && (t.haul (.pan 3 2)).src == 0x2000 && (t.haul (.pan 3 2)).mode != .idle) = true := by
  decide +kernel
def fenceRun : State := runs (bundle 0 0 0 0x60000000)
/-- A write of channel 0 of pan 3 is out. -/
def fenceWait : State :=
  { fenceRun with issuedOuts := 1, outs := [{ serial := 1, src := 0, tag := 0, who := .haul (.pan 3 0), addr := 0, len := 64, off := 0, write := true, issued := 0 }] }
theorem test_fence : fenceRun.issues 3 .nop .nop noRake .fence ∧ fenceRun.fenceClear 3 fenceRun.issuedOuts = true ∧
    sees (.fence 3) fenceRun (fun t => (Q t).pc == 1) = true := by decide +kernel
theorem test_fence_waits : fenceWait.issues 3 .nop .nop noRake .fence ∧ fenceWait.fenceClear 3 fenceWait.issuedOuts = false ∧
    sees (.fence 3) fenceWait (fun t => (Q t).mode == .waiting && (Q t).wait == .fence 1) = true := by decide +kernel
theorem test_done : (runs (bundle 0 0 0 0x80000007)).issues 3 .nop .nop noRake (.done 7) ∧
    sees (.done 3) (runs (bundle 0 0 0 0x80000007)) (fun t => (Q t).doneShare == some 7 && (Q t).pc == 1) = true := by decide +kernel
/-- Feed TEND, drain DOUT, RADDS of V0 and V0 and SSIG together. -/
def together : State := runsTile (bundle 0x30000000 0x1C818000 0x0C000000 0x50800005)
theorem test_slots_together : together.issues 3 .tend (.dout true 9 4) (rakeSlot 0x0C000000) (.ssig 1 5) ∧
    nextPc (.ssig 1 5) (Q together) = some 1 ∧
    (match rakeSlotEffect 3 (rakeSlot 0x0C000000) (Q together) together with | .ok _ => true | .error _ => false) = true ∧
    (match movePlan 3 (.ssig 1 5) together with | .ok _ => true | .error _ => false) = true ∧
    sees (.ssig 3) together (fun t => (Q t).feedq == [.tend 2] && (Q t).drainq == [.dout 4 3 true 9] && look 0 (Q t).sems 1 == 5) = true := by
  decide +kernel

/-! ### The rake slot (R123) -/

/-- V1 holds 32,767 then fives, V2 ones; V3 the grain 1, 2, … with exponent 4; Q1 is 7 and Q0 is 100. -/
def rk (w : Nat) : State := onPan 3 { seq := { seqOf (bundle 0 0 w 0) with
  v := [(1, { lanes := 32767 :: List.replicate 15 5 }), (2, { lanes := List.replicate 16 1 })
        , (3, { lanes := 0x0201 :: List.replicate 15 0, exponent := some 4 })]
  q := [(0, 100), (1, 2)] } }
/-- The rake word: ROP [31:26], W [25], VD [24:21], VA [20:17], VB [16:13], IMM [12:0]. -/
def rw_ (rop w vd va vb imm : Nat) : Nat := rop * 2 ^ 26 + w * 2 ^ 25 + vd * 2 ^ 21 + va * 2 ^ 17 + vb * 2 ^ 13 + imm
theorem test_word_radds : rakeSlot 0x0C824000 = { rop := 3, w := false, vd := 4, va := 1, vb := 2, imm := 0 } := by decide +kernel
theorem test_word_rmsh : rakeSlot 0x1E825FF1 = { rop := 7, w := true, vd := 4, va := 1, vb := 2, imm := 0x1FF1 } ∧
    (rakeSlot 0x1E825FF1).simm = -15 := by decide +kernel
/-- The result in flight: its register and cycle, its lanes, its value. -/
def due (t : State) : List (Nat × Nat) := (Q t).pend.map fun e => (e.reg, e.at_)
def dueV (t : State) : List Int := ((Q t).pend.map (·.v.lanes)).headD []
def dueQ (t : State) : Int := ((Q t).pend.map (·.q)).headD 0
/-- Register V4 after a rake operation of V1 and V2 into V4. -/
def v4 (t : State) : List Int := (getV (Q t) 4).lanes
theorem test_rnop : (rk 0).issues 3 .nop .nop (rakeSlot 0) .nop ∧ sees (.rnop 3) (rk 0) (fun t => (Q t).pc == 1) = true := by decide +kernel
theorem test_radds : (rk (rw_ 3 0 4 1 2 0)).issues 3 .nop .nop (rakeSlot (rw_ 3 0 4 1 2 0)) .nop ∧
    sees (.radds 3) (rk (rw_ 3 0 4 1 2 0)) (fun t => v4 t == 32767 :: List.replicate 15 6 && look 0 (P t).ctr PanCtr.rakeSat == 1) = true := by
  decide +kernel
theorem test_rsubs : sees (.rsubs 3) (rk (rw_ 4 0 4 1 2 0)) (fun t => v4 t == 32766 :: List.replicate 15 4) = true := by decide +kernel
theorem test_rmin : sees (.rmin 3) (rk (rw_ 5 0 4 1 2 0)) (fun t => v4 t == List.replicate 16 1) = true := by decide +kernel
theorem test_rmax : sees (.rmax 3) (rk (rw_ 6 0 4 1 2 0)) (fun t => v4 t == 32767 :: List.replicate 15 5) = true := by decide +kernel
theorem test_rmsh : sees (.rmsh 3) (rk (rw_ 7 0 4 1 1 0x1FF1)) (fun t => dueV t == 32766 :: List.replicate 15 0 && due t == [(4, 2)] && v4 t == List.replicate 16 0) = true := by
  decide +kernel
theorem test_rshrv : sees (.rshrv 3) (rk (rw_ 8 0 4 1 2 0)) (fun t => v4 t == 16383 :: List.replicate 15 2) = true := by decide +kernel
theorem test_rbc : sees (.rbc 3) (rk (rw_ 9 0 4 0 0 0)) (fun t => v4 t == List.replicate 16 100) = true := by decide +kernel
theorem test_rexp2 : sees (.rexp2 3) (rk (rw_ 14 1 4 5 0 0)) (fun t => ((Q t).pend.map fun e => vLanes true e.v) == [List.replicate 8 16384]) = true := by decide +kernel
theorem test_rsig : sees (.rsig 3) (rk (rw_ 15 0 4 5 0 0)) (fun t => dueV t == List.replicate 16 8192) = true := by decide +kernel
theorem test_rqset : sees (.rqset 3) (rk (rw_ 10 0 0 0 0 1)) (fun t => (List.range 4).all fun g => getQ (Q t) g == -(2 ^ 63)) = true := by decide +kernel
theorem test_rredq : (Q (rk (rw_ 11 0 0 1 0 1))).rowLanes + 16 ≤ 65536 ∧
    sees (.rredq 3) (rk (rw_ 11 0 0 1 0 1)) (fun t => getQ (Q t) 0 == 32767 && (Q t).rowLanes == 16) = true := by decide +kernel
theorem test_rfold : sees (.rfold 3) (rk (rw_ 12 0 0 0 0 0)) (fun t => (List.range 4).all fun g => getQ (Q t) g == 102) = true := by decide +kernel
theorem test_rdiv : sees (.rdiv 3) (rk (rw_ 13 0 0 0 0 20)) (fun t => dueQ t == 10485 && due t == [(16, 66)] && getQ (Q t) 0 == 100) = true := by decide +kernel
theorem test_rbnd : sees (.rbnd 3) (rk (rw_ 17 0 0 3 0 0)) (fun t => (Q t).emin == 1 && (Q t).emax == 2) = true := by decide +kernel
theorem test_rxmax : sees (.rxmax 3) (rk (rw_ 18 0 0 3 0 0)) (fun t => getQ (Q t) 1 == 4) = true := by decide +kernel
theorem test_rssq : (Q (rk (rw_ 19 0 0 3 0 0))).rowLanes + 32 ≤ 32768 ∧
    sees (.rssq 3) (rk (rw_ 19 0 0 3 0 0)) (fun t => dueQ t == 100 + 5 * 2 ^ 28) = true := by decide +kernel
theorem test_rnvar : sees (.rnvar 3) (rk (rw_ 20 0 0 2 0 0)) (fun t => dueQ t ≠ 100 && due t == [(16, 66)]) = true ∧
    sees (.rnvar 3) (rk (rw_ 20 0 0 5 0 0)) (fun t => dueQ t == 0) = true := by decide +kernel
theorem test_rrsq : sees (.rrsq 3) (rk (rw_ 21 0 0 0 0 0)) (fun t => due t == [(16, 40), (18, 40)] && ((Q t).pend.map (·.q)) == [(rsqrt 100).1, (rsqrt 100).2]) = true := by decide +kernel

/-- As `rk`, with generator 1 at 0x2000 and its exponents at 0x3000, and bytes there. -/
def rkMem (w : Nat) : State :=
  poke 0x2000 (words [0x00020001]) <| poke 0x3000 (words [0xFD]) <| (rk w).modSeq 3 fun q =>
    { q with ags := [(1, { loaded := true, estart := 0x2000, xstart := 0x3000, ecur := 0x2000, xcur := 0x3000, estride := 64, xstride := 2 })] }
theorem test_rld : agCheck (Q (rkMem (rw_ 1 0 4 0 0 9))) 1 unitRake 32 1 = none ∧
    sees (.rld 3) (rkMem (rw_ 1 0 4 0 0 9)) (fun t => dueV t == 1 :: 2 :: List.replicate 14 0 && ((Q t).pend.map (·.v.exponent)) == [some (-3)] &&
      (look ({} : Ag) (Q t).ags 1).ecur == 0x2040) = true := by decide +kernel
theorem test_rst : agCheck (Q (rkMem (rw_ 2 0 0 1 0 1))) 1 unitRake 32 0 = none ∧
    sees (.rst 3) (rkMem (rw_ 2 0 0 1 0 1)) (fun t => (localRead 3 0x2000 4 t).1 == words [0x00057FFF]) = true := by decide +kernel
theorem test_rpack : agCheck (Q (rkMem (rw_ 16 0 1 2 0 0))) 1 unitRake 32 1 = none ∧
    sees (.rpack 3) (rkMem (rw_ 16 0 1 2 0 0)) (fun t => (localRead 3 0x2010 2 t).1 == [64, 0] && ((P t).store.narrow.map fun n => (n.addr, n.write)) == [(0x3000, some [3])]) =
      true := by decide +kernel
theorem test_rnpack : agCheck (Q (rkMem (rw_ 22 0 1 3 1 0))) 1 unitRake 32 1 = none ∧
    sees (.rnpack 3) (rkMem (rw_ 22 0 1 3 1 0)) (fun t => (Q t).pc == 1 && (localRead 3 0x2000 1 t).1 != [1]) = true := by decide +kernel

/-! ### Waits, feeders, entries and the drain (chapters 3 and 4) -/

/-- Pan 3 waits at its bundle b. -/
def waits (b : Bundle) (w : Wait) (waited : Nat) : State :=
  onPan 3 { seq := { seqOf b with mode := .waiting, wait := w, waited := waited, waitLimit := 8, sems := [(1, 9)] } }
theorem test_swait_resume : let s := waits (bundle 0 0 0 0x48800009) (.swait 1 9) 2
    (s.modSeq 3 fun q => { q with mode := .running, wait := .none, waited := 0 }).issues 3 .nop .nop noRake (.swait 1 9) ∧
    sees (.swaitResume 3) s (fun t => look 0 (Q t).sems 1 == 0 && (Q t).pc == 1 && (Q t).mode == .running) = true := by decide +kernel
theorem test_wait_timeout : let s := waits (bundle 0 0 0 0x4880000A) (.swait 1 10) 8
    (Q s).waitLimit ≤ (Q s).waited ∧
    sees (.waitTimeout 3) s (fun t => (Q t).fault.code == 6 && (Q t).fault.detail == 1 && (Q t).fault.slot == 3 && !(Q t).fault.async) = true ∧
    sees (.waitTimeout 3) (waits (bundle 0 0 0 0x4880000A) (.swait 1 10) 7) (fun t => (Q t).mode == .waiting) = true := by decide +kernel
theorem test_fence_complete : let s := waits (bundle 0 0 0 0x60000000) (.fence 0) 2
    s.fenceClear 3 0 = true ∧
    (s.modSeq 3 fun q => { q with mode := .running, wait := .none, waited := 0 }).issues 3 .nop .nop noRake .fence ∧
    sees (.fenceComplete 3) s (fun t => (Q t).pc == 1 && (Q t).mode == .running) = true := by decide +kernel
theorem test_dwait_release : (Q (runs (bundle 0 0x30000000 0 0))).drainq = [] ∧
    (runs (bundle 0 0x30000000 0 0)).issues 3 .nop .dwait noRake .nop ∧
    sees (.dwaitRelease 3) (runs (bundle 0 0x30000000 0 0)) (fun t => (Q t).pc == 1) = true := by decide +kernel
/-- The first n pans of region 0 wait for a chained TILE. -/
def chain (n waited : Nat) : State :=
  { State.reset with pans := (List.range n).map fun p => (p, ({ seq := { seqOf (bundle 0 0 0 0x38000040) with
      mode := .waiting, wait := .rendezvous { ctx with chained := true }, waited := waited } } : Pan)) }
/-- Fourteen wait, each with the descriptor and the headers of `tileRun 1`. -/
def chained14 : State :=
  { chain 14 5 with storeMem := (List.range 14).foldl (fun m p =>
      writeBytes (writeBytes (writeBytes m (storeKey p [1, 2, 4, 8, 16] 0x1000) (words [0x10061, 0x1040, 0x1080, 0]))
        (storeKey p [1, 2, 4, 8, 16] 0x1040) (words [1, 64, 1, 0x03])) (storeKey p [1, 2, 4, 8, 16] 0x1080) (words [1, 64, 1, 0xFE])) [] }
theorem test_chain_timeout : ((chain 2 4096).rendezvous 0).length = 2 ∧
    sees (.chainTimeout 0) (chain 2 4096) (fun t => (t.pan 1).seq.fault.code == 0x15 && (t.pan 0).seq.fault.detail == 3) = true ∧
    sees (.chainTimeout 0) (chain 2 4095) (fun t => t == chain 2 4095) = true := by decide +kernel
theorem test_chain_rendezvous : (chained14.rendezvous 0).length = 14 ∧
    ((chained14.rendezvous 0).all fun e => (brineOf (chained14.pan e.1).seq e.2.2).isNone && e.2.2.mode == 1 && !e.2.2.copy) = true ∧
    sees (.chainRendezvous 0) chained14 (fun t => (t.pan 13).lat.chained && (t.pan 13).seq.mode != .waiting) = true := by decide +kernel

/-- A run of slots of copy 0 that starts sums. -/
def wrun (zero : Bool) : WestRun :=
  { id := 0, copy := false, start := true, last := true, zero := zero, h := 0, w := 0, n := 1, wag := 0, mode := 1 }
/-- Pan 3 with a feed order and a lattice. -/
def lat3 (q : List FeedEntry) (opened : Bool) (l : Machine.Lat) : State :=
  onPan 3 { seq := { mode := .running, feedq := q, tileOpen := opened, tile := some ctx, tileSeen := true, holdDone := true, cycle := 5 }, lat := l }
/-- Copy 0 is loaded and ready. -/
def heldLat : Machine.Lat := { copies := [(0, { ready := true, mode := 1 })] }
theorem no_brine : ∀ k, (look ({} : Ag) ([] : Sparse Ag) k).brine = false := fun _ => rfl
theorem test_west_begin : (copyOf heldLat false).ready = true ∧
    sees (.westFeedBegin 3) (lat3 [.run (wrun true) true 5] false heldLat) (fun t => (P t).lat.run == some (wrun true) &&
      (Q t).tileOpen && (Q t).feedq.isEmpty) = true := by decide +kernel
-- a copy that no load has written, and a feed before any TILE (R114)
theorem test_west_lost : sees (.westFeedBegin 3) (lat3 [.run (wrun true) true 5] false {}) (fun t => (Q t).fault.code == 0x17 &&
      (Q t).fault.detail == 1) = true ∧
    sees (.westFeedBegin 3) ((lat3 [.run (wrun true) true 5] false heldLat).modSeq 3 fun q => { q with tileSeen := false })
      (fun t => (Q t).fault.code == 0x17 && (Q t).fault.detail == 0) = true := by decide +kernel
theorem test_west_tend : sees (.westFeedBegin 3) (lat3 [.tend 5] true heldLat) (fun t => !(Q t).tileOpen && (Q t).feedq.isEmpty) = true := by
  decide +kernel
def north3 : State := onPan 3 { seq := { northq := [{ id := 4, copy := true, dp := false, readyAt := 5 }], tile := some ctx, cycle := 5 } }
theorem test_north_begin : (P north3).lat.northFree ≤ (Q north3).cycle ∧
    sees (.northLoadBegin 3) north3 (fun t => !(copyOf (P t).lat true).ready && (Q t).northq.isEmpty &&
      ((P t).lat.load.map fun l => (l.nag, l.mode)) == some (1, 1)) = true := by decide +kernel
/-- The load of copy 0 that begins. -/
def ld1 : NorthLoad := { id := 4, copy := false, dp := false, nag := 1 }
/-- A load of copy 0 under way by generator 1, and a slot of the copy in flight since cycle `f`. -/
def loads (f : List FlightSlot) : State :=
  onPan 3 { seq := { cycle := 200, ags := [(1, { loaded := true, ecur := 0x2000, xcur := 0x3000, estride := 64, xstride := 2 })] }
            lat := { copies := [(0, { mode := 1 })], load := some ld1, flight := f } }
/-- A slot in flight since cycle t, whose column 0 carries the sum 7. -/
def flight (t : Nat) : FlightSlot :=
  { seq := 0, copy := false, start := true, last := true, h := 0, w := 0, window := false, len := 1, b := -20, issued := t
    drain := some {}, cols := [{ sum := 7 }] }
theorem test_held_column : heldBlocked (P (loads [])) ld1 0 = false ∧ heldBlocked (P (loads [])) ld1 1 = false ∧
    (match (heldFetch 3 ld1 (loads [])).1 with | .data cols false => cols.length == 2 | _ => false) = true ∧
    sees (.heldColumnWrite 3 []) (loads []) (fun t => ((P t).lat.load.map (·.next)) == some 2) = true := by decide +kernel
-- the last two columns of a load: the copy holds all of it from the next cycle
theorem test_held_end : sees (.heldColumnWrite 3 []) ((loads []).modLat 3 fun l => { l with load := some { ld1 with next := 62 } })
    (fun t => (P t).lat.load.isNone && (P t).lat.northFree == 201 && (copyOf (P t).lat false).ready &&
      (copyOf (P t).lat false).readyFrom == 201) = true := by decide +kernel
theorem test_held_blocked : heldBlocked (P (loads [flight 150])) ld1 0 = true ∧
    sees (.heldColumnWrite 3 []) (loads [flight 150]) (fun t => look 0 (P t).ctr PanCtr.heldWait == 1) = true := by decide +kernel
theorem test_slot_idle : sees (.westSlotIssue 3 []) (lat3 [] false {}) (fun t => (Q t).cycle == 6 && (P t).ctr.isEmpty) = true := by decide +kernel
theorem test_slot_dry : sees (.westSlotIssue 3 []) (lat3 [] true {}) (fun t => look 0 (P t).ctr PanCtr.bubbleDry == 1) = true := by decide +kernel
theorem test_slot_valid : let s := lat3 [] true { heldLat with run := some (wrun true) }
    notReady (P s) false 0 = false ∧ startBlocked (P s) (some 65) false true 1 0 0 = false ∧ noticeRule (Q s) = none ∧
    (match (westFetch 3 (wrun true) 1 s).1 with | .data _ _ false => true | _ => false) = true ∧
    sees (.westSlotIssue 3 []) s (fun t => (P t).lat.flight.length == 1 && (P t).lat.run.isNone && (Q t).cycle == 6) = true := by decide +kernel
theorem test_slot_stall : let s := (lat3 [] false {}).modSeq 3 fun q => { q with progLen := 2, program := [(0, bundle 0 0 (rw_ 3 0 4 16 2 0) 0)] }
    s.stalled 3 = false ∧ sees (.westSlotIssue 3 []) ((runs (bundle 0 0x30000000 0 0)).modSeq 3 fun q => { q with drainq := [.dout 1 3 false 0] })
      (fun t => look 0 (P t).ctr PanCtr.hazard == 1) = true := by decide +kernel
theorem test_slot_lands : sees (.westSlotIssue 3 []) ((lat3 [] false {}).modSeq 3 fun q => { q with pend := [{ reg := 4, at_ := 6, v := { tag := 5 } }] })
    (fun t => (getV (Q t) 4).tag == 5 && (Q t).pend.isEmpty) = true := by decide +kernel
theorem test_slot_chained : let s := onPan 4 { seq := { mode := .running, cycle := 5 }, lat := { heldLat with run := some { wrun true with chained := true, chainNo := 7 }, decisions := [(7, true)], chained := true } }
    s.logicalCol 4 ≠ 0 ∧ notReady (s.pan 4) false 0 = false ∧
    sees (.westSlotIssue 4 []) s (fun t => (t.pan 4).lat.flight.length == 1 && (t.pan 4).lat.decisions.isEmpty) = true := by
  decide +kernel
/-- Fourteen pans of region 0 with a loaded copy; pan 0 holds a chained slot. -/
def chained0 : State := { State.reset with pans := (List.range 14).map fun p => (p, ({ seq := { cycle := 5, holdDone := true }, lat := { heldLat with
    run := if p = 0 then some { wrun true with chained := true } else none } } : Pan)) }
theorem test_slot_chain0 : chained0.logicalCol 0 = 0 ∧ ((chained0.chainPans 0).all fun e => chainLoaded (chained0.pan e.1) false 0) = true ∧
    sees (.westSlotIssue 0 []) chained0 (fun t => (t.pan 0).lat.flight.length == 1 && (t.pan 13).lat.decisions == [(0, true)]) = true := by
  decide +kernel
theorem test_burst_hold : sees (.burstHoldEnd 3) (onPan 3 { seq := { hold := some 5, cycle := 5 } }) (fun t => (Q t).hold.isNone && (Q t).holdDone) =
    true := by decide +kernel
/-- A feeder read of pan 3 has been out since time 0. -/
def lostRead (now : Nat) : State :=
  { onPan 3 { seq := { mode := .running } } with
    clock := { tide := now }
    outs := [{ src := mkSrc State.reset.deviceId 0 ((State.reset.logicalPan 3).getD 2047), tag := 6, who := .feeder 3 false, addr := 0, len := 64, off := 0, write := false, issued := 0 }] }
theorem test_feed_lost : (lostRead 1000000).out? (mkSrc (lostRead 0).deviceId 0 (((lostRead 0).logicalPan 3).getD 2047)) 6 ≠ none ∧
    sees (.feedLost 3 6) (lostRead 1000000) (fun t => (Q t).fault.code == 0x33 && (Q t).fault.async) = true ∧
    sees (.feedLost 3 6) (lostRead 999999) (fun t => (Q t).mode == .running) = true := by decide +kernel

theorem test_entry_update : let s := onPan 3 { seq := { cycle := 65 }, lat := { flight := [flight 0] } }
    nextFlight (P s).lat 0 = some (flight 0) ∧ (flight 0).issued + 65 + 0 ≤ (Q s).cycle ∧
    sees (.entryUpdate 3 0) s (fun t => (look ({} : AccCol) (look ({} : AccEntry) (P t).lat.acc 0).cols 0).sum == 7) = true := by decide +kernel
/-- The writes under way in the drain's pipeline: cycle, address, first bytes, exponents and semaphore. -/
def pipeOf (t : State) : List (Nat × Nat × List Byte × List (Nat × Nat) × Option Nat) :=
  (P t).lat.pipe.map fun w => (w.at_, w.addr, w.bytes.take 2, w.part.take 1, w.sem)
/-- Entry 0 is complete with the sum 513 in column 0; DOUT with SIG of semaphore 9 to generator 3. -/
def drains (left : Nat) : State :=
  onPan 3 { seq := { drainq := [.dout left 3 true 9], ags := [(3, { loaded := true, ecur := 0x2000, xcur := 0x3000, estride := 64, xstride := 2 })] }
            lat := { acc := [(0, { complete := true, b := 0, drain := some { emin := -128, emax := 127 }, cols := [(0, { sum := 513 })] })]
                     completeq := [0] } }
theorem test_drain_entry : agCheck (Q (drains 1)) 3 unitDrain 64 2 = none ∧ (wideAccess 3 [(4, 0x2000, 64)] (drains 1)).1 = true ∧
    sees (.drainEntry 3) (drains 1) (fun t => pipeOf t == [(5, 0x2000, [64, 0], [], none), (7, 0x3000, [], [(0, 3)], none), (7, 0, [], [], some 9)] &&
      (P t).lat.completeq.isEmpty && (Q t).drainq.isEmpty) = true := by decide +kernel
/-- DRLD of one grain by generators 1 and 3 under a descriptor with RELOAD, BS8, EMIN −128 and EMAX 127. -/
def reloads : State :=
  poke 0x1000 (words [0x401, 0, 0x807F0000, 0]) <| poke 0x2000 (words [513]) <|
    onPan 3 { seq := { drainq := [.drld 1 1 3 0x1000 none], ags := [(1, { loaded := true, ecur := 0x2000, xcur := 0x2800, estride := 128 })
                                                         , (3, { loaded := true, ecur := 0x4040, xcur := 0x3000, estride := 32, xstride := 1 })] } }
theorem test_drld_grain : (P reloads).lat.completeq = [] ∧ firstDrld (Q reloads).drainq = some (1, 1, 3, 0x1000, none) ∧ (P reloads).lat.drainFrom ≤ (Q reloads).cycle ∧
    sees (.drldGrain 3) reloads (fun t => (Q t).mode == .stopped && (Q t).fault.code == 0 && ((pipeOf t)[0]?).map (·.2.1) == some 0x4040 && ((pipeOf t)[0]?).map (·.2.2.1) == some [64, 0] &&
      (Q t).drainq.isEmpty) = true := by decide +kernel
theorem test_pipe_lands : sees (.westSlotIssue 3 []) (onPan 3 { seq := { cycle := 6 }, lat := { pipe := [{ at_ := 6, addr := 0x2000, bytes := [7] }] } })
    (fun t => (localRead 3 0x2000 1 t).1 == [7] && (P t).lat.pipe.isEmpty) = true := by decide +kernel
theorem test_dout_complete : sees (.doutComplete 3) (onPan 3 { lat := { owed := [9] } }) (fun t => look 0 (Q t).sems 9 == 1 &&
    (P t).lat.owed.isEmpty) = true := by decide +kernel
theorem test_entry_chain : let s := onPan 0 { seq := { cycle := 65 }, lat := { flight := [{ flight 0 with chain := some 7 }] } }
    nextFlight (s.pan 0).lat 0 = some { flight 0 with chain := some 7 } ∧ s.logicalCol 0 = 0 ∧
    (s.chainPans 0).find? (fun e => e.2 == 1) = some (1, 1) ∧
    sees (.entryUpdate 0 0) s (fun t => (t.pan 1).lat.chainIn == [(7, 0, 7, false)] && (t.pan 0).lat.acc.isEmpty) = true := by decide +kernel
-- the second grain of a reload uses the parameters the first has read
theorem test_drld_params : let pr : DrainParams := { fmt := 1, emin := -128, emax := 127 }
    let s := reloads.modSeq 3 fun q => { q with drainq := [.drld 1 1 3 0x1000 (some pr)] }
    firstDrld (Q s).drainq = some (1, 1, 3, 0x1000, some pr) ∧ biasOutOfRange pr pr.esIn = false ∧
    sees (.drldGrain 3) s (fun t => ((pipeOf t)[0]?).map (·.2.1) == some 0x4040 && ((pipeOf t)[0]?).map (·.2.2.1) == some [64, 0] && (Q t).drainq.isEmpty) = true := by decide +kernel

/-! ### Pan store (chapter 5) -/

/-- Pan 3 with a store. -/
def st3 (st : Store) : State := onPan 3 { store := st }
/-- A narrow request of bank 0 at address 0, a write or a read, with the answer it belongs to. -/
def narrow3 (w : Option (List Byte)) (acc : List (Nat × Nat × Nat)) : State :=
  onPan 3 { seq := { mode := .running, cycle := 5000 }, lat := { wide := acc }
            store := { narrow := [{ port := 0xD, bank := 0, addr := 8, len := 8, write := w, use := .reply 1 }]
                       writes := [{ id := 1, ack := { op := 0x21, data := List.replicate 8 0, bytes := 8, marks := [false] }, base := 8, left := 1 }] } }
theorem test_narrow_write : (nextNarrow 0 (P (narrow3 (some [1, 2]) [])).store.narrow).isSome = true ∧
    grantNow 3 { port := 0xD, bank := 0, addr := 8, len := 8, write := some [1, 2], use := .reply 1 } (narrow3 (some [1, 2]) []) = true ∧
    sees (.narrowAccess 3 0 []) (narrow3 (some [1, 2]) []) (fun t => (localRead 3 8 2 t).1 == [1, 2] && (P t).store.narrow.isEmpty) = true := by
  decide +kernel
theorem test_narrow_read : sees (.narrowAccess 3 0 []) (poke 8 [9] (narrow3 none [])) (fun t => (t.net.flight.map (·.k.data.take 1)) == [[9]]) =
    true := by decide +kernel
theorem test_narrow_held : bankHeld 3 0 0 (narrow3 none [(5000, 0, 0)]) = true ∧
    sees (.narrowAccess 3 0 []) (narrow3 none [(5000, 0, 0)]) (fun t => t == narrow3 none [(5000, 0, 0)]) = true := by decide +kernel
theorem test_starvation : sees (.starvation 3 0) (narrow3 (some [1]) []) (fun t => (Q t).fault.code == 0x21 && (P t).store.starve == (0xD, 0)) = true := by
  decide +kernel
/-- A write-back or a rewrite of word 1 waits at port 0xF of bank 0, in which the word holds an error. -/
def fix3 (u : NarrowUse) (bad : Bool) : State :=
  st3 { narrow := [{ port := 0xF, bank := 0, addr := 8, len := 8, write := none, use := u }], errs := [{ word := 1, addr := 8, syndrome := 1, uncorrectable := bad }] }
theorem test_correction : (nextNarrow 0 (P (fix3 (.fixup 1) false)).store.narrow).isSome = true ∧
    sees (.correctionWriteback 3) (fix3 (.fixup 1) false) (fun t => (P t).store.narrow.isEmpty && (P t).store.errs.isEmpty && (P t).store.poison.isEmpty) =
      true := by decide +kernel
theorem test_poison_rewrite : sees (.poisonRewrite 3) (fix3 (.rewrite 1) true) (fun t => (P t).store.poison == [1] && (P t).store.narrow.isEmpty &&
    (P t).store.errs.isEmpty) = true := by decide +kernel
theorem test_patrol : sees (.patrolScrub 3 []) { st3 { scrubPos := 131071 } with clock := { tide := 655000000 } }
      (fun t => (P t).store.scrubPos == 0 && (P t).store.scrubPass == 1) = true ∧
    sees (.patrolScrub 3 []) { st3 { scrubPos := 5, banks := [((st3 {}).bankAt 3 320, .asleep)] } with clock := { tide := 655000000 } }
      (fun t => (P t).store.scrubPos == 6) = true ∧
    sees (.patrolScrub 3 []) (st3 { scrubPos := 5 }) (fun t => (P t).store.scrubPos == 5) = true := by decide +kernel
theorem test_debug_locked : sees (.debugAccess 3 8 none) (st3 {}) (fun t => t.sec.answers == [.debug 0 3]) = true := by decide +kernel
theorem test_debug_asleep : sees (.debugAccess 3 8 none) { st3 { banks := [(0, .asleep)] } with sec := { scope := 2 } }
    (fun t => t.sec.answers == [.debug 0 1]) = true := by decide +kernel
theorem test_debug_queued : sees (.debugAccess 3 8 (some 5)) { st3 {} with sec := { scope := 2 } } (fun t => (P t).store.narrow.length == 1) = true := by
  decide +kernel
theorem test_bank_sleep : sees (.bankSleep 3 0x80000001) (st3 {}) (fun t => look .awake (P t).store.banks 31 == .draining &&
    look .awake (P t).store.banks 0 == .draining && look .awake (P t).store.banks 1 == .awake) = true := by decide +kernel
theorem test_bank_sleep_running : sees (.bankSleep 3 1) (onPan 3 { seq := { mode := .running } }) (fun t => (P t).store.banks.isEmpty) = true := by
  decide +kernel
theorem test_bank_drained : (st3 { banks := [(0, .draining)] }).bankMode 3 0 = .draining ∧
    sees (.bankDrained 3 0) (poke 8 [9] (st3 { banks := [(0, .draining)] })) (fun t => look .awake (P t).store.banks 0 == .asleep &&
      t.storeMem.isEmpty) = true ∧
    sees (.bankDrained 3 0) (st3 { banks := [(0, .draining)], heldWake := [0] }) (fun t => look .awake (P t).store.banks 0 == .filling) = true := by
  decide +kernel
theorem test_bank_sleep_bound : sees (.bankSleepBound 3 0) { st3 { banks := [(0, .draining)], outstanding := [(0, 2)] } with clock := { tide := 64000 } }
    (fun t => (Q t).fault.code == 0x31 && (Q t).fault.detail == 8 && look .awake (P t).store.banks 0 == .asleep) = true := by decide +kernel
theorem test_bank_wake : sees (.bankWake 3 1) (st3 { banks := [(0, .asleep)] }) (fun t => (P t).store.fillq == [0]) = true ∧
    sees (.bankWake 3 1) (st3 { banks := [(0, .draining)] }) (fun t => (P t).store.heldWake == [0]) = true ∧
    sees (.bankWake 3 1) (st3 { banks := [(0, .filling)], heldSleep := [0] }) (fun t => (P t).store.heldSleep.isEmpty) = true ∧
    (st3 {}).isSpare 3 = false ∧ (st3 {}).regionDown 0 = false := by decide +kernel
theorem test_bank_fill_done : sees (.bankFillDone 3) (st3 { banks := [(4, .filling)], fillq := [4] }) (fun t => look .asleep (P t).store.banks 4 == .awake &&
    (P t).store.fillq.isEmpty) = true := by decide +kernel
theorem test_store_fill_done : ((st3 {}).fieldPwr 0).wake = none ∧
    sees (.storeFillDone 3) (st3 { fillBusy := true }) (fun t => !(P t).store.fillBusy && (Q t).mode == .stopped) = true ∧
    sees (.storeFillDone 3) (onPan 3 { seq := { heldGo := true, progLen := 1 }, store := { fillBusy := true } }) (fun t => (Q t).mode == .running) =
      true := by decide +kernel
theorem test_tables_clear : sees (.ceTableClear (.pan 3)) (st3 { ce := [(0, { addr := 8, syndrome := 1, count := 1, tide := 0 })] })
      (fun t => (P t).store.ce.isEmpty) = true ∧
    sees (.ceTableClear (.slice 3)) State.reset (fun t => (t.slice 3).ce.isEmpty) = true ∧
    sees (.ceTableClear (.channel 95)) State.reset (fun t => (t.chan 95).ce.isEmpty) = true := by decide +kernel
theorem test_ovf_log_clear : sees (.ovfLogClear 3) (onPan 3 { ovfLog := (default : List _) }) (fun t => (P t).ovfLog.isEmpty) = true := by decide +kernel
theorem test_win_close : sees (.winClose 3 4) (st3 { windows := [(1, ⟨0, 64, 0, 0⟩), (2, ⟨64, 64, 0, 0⟩)] }) (fun t => (P t).store.windows.map (·.1) == [1]) =
    true := by decide +kernel

/-! ### Brine and cellar (chapter 6) -/

/-- Slice 5. -/
def sl5 (x : Slice) (t : Nat) : State := { State.reset with slices := [(5, x)], clock := { tide := t } }
/-- An admitted write that has yet to be performed. -/
def w5 : SliceWrite := { id := 1, piece := 0, parts := [] }
theorem test_slice_sleep : (sl5 {} 9).sliceUsed 5 = false ∧
    sees (.sleep 5 true) (sl5 {} 9) (fun t => (t.slice 5).mode == .draining && (t.slice 5).drainSince == 9) = true ∧
    sees (.sleep 5 false) (sl5 {} 9) (fun t => (t.slice 5).mode == .awake) = true := by decide +kernel
theorem test_slice_drained : sees (.sliceDrained 5) { sl5 { mode := .draining, poison := [1] } 0 with brineMem := [(5 * 2 ^ 25, 9), (6 * 2 ^ 25, 9)] }
    (fun t => (t.slice 5).mode == .asleep && (t.slice 5).poison.isEmpty && t.brineMem == [(6 * 2 ^ 25, 9)]) = true := by decide +kernel
theorem test_slice_sleep_bound : sees (.sliceSleepBound 5) (sl5 { mode := .draining, queue := [w5] } 64000)
    (fun t => (t.slice 5).mode == .failed && t.faults.reports.map (·.code) == [2]) = true ∧
    sees (.sliceSleepBound 5) (sl5 { mode := .draining, queue := [w5] } 63999) (fun t => (t.slice 5).mode == .draining) = true := by decide +kernel
theorem test_slice_wake : sees (.wake 5) (sl5 { mode := .asleep } 0) (fun t => (t.slice 5).mode == .filling) = true := by decide +kernel
theorem test_slice_fill_done : sees (.sliceFillDone 5) (sl5 { mode := .filling } 0) (fun t => (t.slice 5).mode == .awake) = true := by decide +kernel
theorem test_slice_fail : sees (.sliceFail 5 0) (sl5 {} 0) (fun t => (t.slice 5).mode == .failed && t.memdev.slicesFailed == 1) = true := by decide +kernel
theorem test_slice_fail_errors : sees (.sliceFail 5 1) (sl5 { ueTides := List.replicate 65 0 } 999999999) (fun t => (t.slice 5).mode == .failed) = true ∧
    sees (.sliceFail 5 1) (sl5 { ueTides := List.replicate 64 0 } 999999999) (fun t => (t.slice 5).mode == .awake) = true := by decide +kernel
/-- Near lot 1 of job 0: one extent of 1 MiB, number 2 of slice 5. -/
def nearLot (s : State) : State := { s with memdev := { lots := [(1, .near 0 0 1 0)], ext := [(0, 5 * 32 + 2)] } }
theorem test_stand_in : (standInOrder 5).head? ≠ none ∧
    sees (.standInSlice 5) (nearLot (sl5 { mode := .failed } 0)) (fun t => bits (look 0 t.memdev.ext 0) 15 5 ≠ 5 &&
      some (bits (look 0 t.memdev.ext 0) 15 5) == (standInOrder 5).head?) = true ∧
    sees (.standInSlice 5) (sl5 {} 0) (fun t => t == sl5 {} 0) = true := by decide +kernel
theorem test_refresh : (sl5 {} 64000000).refreshDue 5 15 2047 = true ∧
    sees (.refresh 5 15 2047 ⟨3, false⟩) (sl5 {} 64000000) (fun t => look 0 (t.slice 5).refreshed (2048 * 15 + 2047) == 64000000 &&
      look 0 (t.slice 5).ctr sliceWait == 3) = true ∧
    sees (.refresh 5 15 2047 ⟨3, true⟩) (sl5 { postponed := [(15, 7)] } 64000000) (fun t => look 0 (t.slice 5).postponed 15 == 8) = true ∧
    sees (.refresh 5 15 2047 ⟨3, true⟩) (sl5 { postponed := [(15, 8)] } 64000000) (fun t => look 0 (t.slice 5).postponed 15 == 0 &&
      (t.slice 5).refreshed.length == 1) = true ∧
    sees (.refresh 5 15 2047 ⟨3, false⟩) (sl5 {} 5) (fun t => t == sl5 {} 5) = true := by decide +kernel
theorem test_refresh_interval : sees (.refreshIntervalChange 2 1361) State.reset (fun t => (t.fieldPwr 2).brineHot) = true ∧
    sees (.refreshIntervalChange 2 1360) State.reset (fun t => !(t.fieldPwr 2).brineHot) = true ∧
    sees (.refreshIntervalChange 2 1280) { State.reset with fields := [(2, { brineHot := true })] } (fun t => !(t.fieldPwr 2).brineHot) = true ∧
    sees (.refreshIntervalChange 2 1281) { State.reset with fields := [(2, { brineHot := true })] } (fun t => (t.fieldPwr 2).brineHot) = true := by decide +kernel
theorem test_slice_scrub : sees (.sliceScrub 5 []) (sl5 { scrubPos := 524287 } 80000000) (fun t => (t.slice 5).scrubPos == 0 && (t.slice 5).scrubPass == 1) = true ∧
    sees (.sliceScrub 5 []) (sl5 { mode := .asleep } 80000000) (fun t => (t.slice 5).scrubPos == 0) = true := by decide +kernel
theorem test_cellar_scrub : sees (.cellarScrub 7 []) (sl5 {} 240000) (fun t => (t.chan 7).scrubPos == 1) = true := by decide +kernel
theorem test_channel_fail : sees (.cellarChannelFail 7 0) State.reset (fun t => (t.chan 7).mode == .failed && t.faults.reports.map (·.cls) == [7]) = true := by
  decide +kernel
theorem test_channel_upkeep : sees (.mr4Read 7 255) State.reset (fun t => (t.chan 7).mr4 == 255) = true ∧
    sees (.wck2dqTracking 7) State.reset (fun t => (t.chan 7).trackings == 1) = true ∧
    sees (.rfm 7) State.reset (fun t => look 0 (t.chan 7).ctr chanRfm == 1) = true ∧
    sees (.perBankRefresh 7 15) State.reset (fun t => (t.chan 7).refreshBank == 15) = true := by decide +kernel

/-! ### Haul channels (chapter 7) -/

/-- Channel 0 of pan 3. -/
def haul3 (h : Haul) : State := onPan 3 { haul := [(0, h)] }
/-- The channel under test. -/
def H (t : State) : Haul := t.haul (.pan 3 0)
theorem test_start : haulCheck true { src := own 0 (3 * 2 ^ 23 + 0x2000), dst := own 0 (3 * 2 ^ 23 + 0x3000), count := 64 } = none ∧
    sees (.start (.pan 3 0)) (haul3 { src := own 0 (3 * 2 ^ 23 + 0x2000), dst := own 0 (3 * 2 ^ 23 + 0x3000), count := 64 }) (fun t =>
      (H t).mode != .idle) = true := by decide +kernel
theorem test_start_zero : haulCheck true { src := own 0 (3 * 2 ^ 23 + 0x2000), dst := own 0 (3 * 2 ^ 23 + 0x3000) } = none ∧
    sees (.start (.pan 3 0)) (haul3 { src := own 0 (3 * 2 ^ 23 + 0x2000), dst := own 0 (3 * 2 ^ 23 + 0x3000) }) (fun t => (H t).mode == .done) = true := by
  decide +kernel
theorem test_start_bad : (haulCheck true { src := 0, dst := 0, count := 64, ctrl := 2 ^ 24 }).isSome = true ∧
    sees (.start (.pan 3 0)) (haul3 { src := 0, dst := 0, count := 64, ctrl := 2 ^ 24 }) (fun t => (H t).mode == .error && (H t).cause == Cause.cfg &&
      (H t).side == 0) = true := by decide +kernel
theorem test_start_running : sees (.start (.pan 3 0)) (haul3 { mode := .running, count := 5 }) (fun t => t == haul3 { mode := .running, count := 5 }) = true := by
  decide +kernel
theorem test_pause : sees (.pause (.pan 3 0)) (haul3 { mode := .running, src := 0x1000, dst := 0x2000, count := 128, readPos := 64, writePos := 64 })
    (fun t => (H t).mode == .paused && (H t).count == 64 && (H t).src == 0x1040 && (H t).dst == 0x2040) = true ∧
    sees (.pause (.pan 3 0)) (haul3 { count := 5 }) (fun t => (H t).mode == .idle) = true := by decide +kernel
theorem test_flush : sees (.haulFlushComplete 3) { State.reset with cc := [(3, { mode := .running, flushing := true, count := 64, readPos := 64, writePos := 64 })] }
    (fun t => (t.haul (.cc 3)).mode == .done && (t.haul (.cc 3)).count == 0) = true := by decide +kernel
/-- A read of channel 0 of pan 3 out since 0, tag 6, source 77. -/
def haulOut (w : Bool) (now : Nat) : State :=
  { haul3 { mode := .running, count := 64, readPos := 64, unread := 1 } with
    clock := { tide := now }
    outs := [{ src := 77, tag := 6, who := .haul (.pan 3 0), addr := 0x2000, len := 64, off := 0, write := w, issued := 0 }] }
theorem test_haul_error : sees (.haulError { op := 0x21, vc := 2, src := 77, tag := 6, status := 2 }) (haulOut false 0) (fun t => (H t).cause == 2 &&
    (H t).side == 0 && (H t).failAddr == 0x2000 && t.outs.isEmpty) = true := by decide +kernel
theorem test_haul_timeout : sees (.haulTimeout 77 6) (haulOut true 1000000) (fun t => (H t).cause == 7 && (H t).side == 1) = true ∧
    sees (.haulTimeout 77 6) (haulOut true 999999) (fun t => (H t).mode == .running) = true := by decide +kernel
theorem test_rd_data_haul : sees (.rdData { op := 0x21, vc := 2, src := 77, tag := 6, bytes := 64, data := List.replicate 64 1, marks := [false] }) (haulOut false 0)
    (fun t => (H t).unread == 0) = true := by decide +kernel
theorem test_rd_data_unknown : (haulOut false 0).out? 77 7 = none ∧
    sees (.rdData { op := 0x21, vc := 2, src := 77, tag := 7, bytes := 64, data := List.replicate 64 1, marks := [false] }) (haulOut false 0) (fun t => t == haulOut false 0) = true := by decide +kernel
theorem test_wr_ack_haul : sees (.wrAck { op := 0x22, vc := 2, src := 77, tag := 6 }) (haulOut true 0) (fun t => t.outs.isEmpty) = true := by decide +kernel
theorem test_reduce_ack : sees (.reduceAck { op := 0x26, vc := 2, src := 77, tag := 6 }) (haulOut true 0) (fun t => t.outs.isEmpty) = true := by decide +kernel
/-- A feeder's read of pan 3. -/
def feedOut (north : Bool) : State :=
  { onPan 3 { lat := { load := some { id := 0, copy := false, dp := false, nag := 1 }, run := some { id := 0, copy := false, start := true, last := true, zero := false, h := 0, w := 0, n := 1, wag := 0, mode := 1 } } } with
    outs := [{ src := 77, tag := 6, who := .feeder 3 north, addr := 0, len := 64, off := 1, write := false, issued := 0 }] }
theorem test_rd_data_feeders : sees (.rdData { op := 0x21, vc := 2, src := 77, tag := 6, bytes := 1, data := [5], marks := [false] }) (feedOut true)
      (fun t => ((P t).lat.load.map (·.arrived)) == some [(1, [5], false)]) = true ∧
    sees (.rdData { op := 0x21, vc := 2, src := 77, tag := 6, bytes := 1, data := [5], marks := [false] }) (feedOut false)
      (fun t => ((P t).lat.run.map (·.arrived)) == some [(1, [5], false)]) = true := by decide +kernel
-- a response behind an earlier one of its stream waits (R232)
theorem test_rd_data_behind : let k : Packet := { op := 0x21, vc := 2, src := 77, tag := 6, bytes := 1, data := [5], marks := [false] }
    let e (n : Nat) (k : Packet) : Transit := { id := n, k := k, ox := 0, oy := 0, units := [some { gx := 0, gy := 0, port := 8 }] }
    let s := { State.reset with net := { State.reset.net with flight := [e 0 { k with tag := 5 }, e 1 k] } }
    arrive k s = none ∧ sees (.rdData k) s (fun t => t == s) = true := by decide +kernel
theorem test_root_write_ack : sees (.wrAck { op := 0x22, vc := 2, src := 77, tag := 6 }) { State.reset with
      svc := { State.reset.svc with slots := [(2, { unacked := 2 })] }
      outs := [{ src := 77, tag := 6, who := .rootWrite 2, addr := 0, len := 64, off := 0, write := true, issued := 0 }] }
    (fun t => (t.slot 2).unacked == 1) = true := by decide +kernel
/-- A host read of channel 3. -/
def hostOut : State :=
  { State.reset with
    cc := [(3, { mode := .running, ctrl := 2 ^ 24, src := 0x1000, dst := own 2 0, count := 64, readPos := 64, unread := 1 })]
    outs := [{ src := State.reset.haulSrc (.cc 3), tag := 6, who := .haul (.cc 3), addr := 0x1000, len := 64, off := 0, write := false
               issued := 0 }] }
theorem test_host_read : sees (.hostReadCompletion 3 6 true [1, 2]) hostOut (fun t => (t.haul (.cc 3)).unread == 0) = true := by decide +kernel

/-! ### The bund network (chapter 8) -/

/-- A packet of one unit that stands at router (4, 5), from its local port, and goes to (x, y). -/
def packet45 (x y : Nat) : Packet :=
  { op := 0x01, vc := 1, addr := own 2 0, bytes := 64, gx := 4, gy := 5, dgx := x, dgy := y, sgx := 4, sgy := 5 }
def flies (k : Packet) : State :=
  { State.reset with net := { State.reset.net with flight := [{ id := 0, k := k, ox := 4, oy := 5, units := [some { gx := 4, gy := 5, port := 8 }] }] } }
/-- Where the units in the network stand. -/
def stands (t : State) : List (Nat × Nat) := (t.net.flight.map fun e => e.units.filterMap fun u => u.map fun a => (a.gx, a.gy)).flatten
theorem test_forward_east : packetValid (packet45 9 5) = true ∧ ((flies (packet45 9 5)).readyUnits 4 5 0 0).length = 1 ∧
    sees (.packetForward ⟨4, 5, 0, 0, .good⟩ .good false) (flies (packet45 9 5)) (fun t => stands t == [(5, 5)] && look 0 (t.router 4 5).ctr 0x024 == 1) = true := by
  decide +kernel
theorem test_forward_west : sees (.packetForward ⟨4, 5, 1, 0, .good⟩ .good false) (flies (packet45 0 9)) (fun t => stands t == [(3, 5)]) = true := by decide +kernel
theorem test_forward_column : sees (.packetForward ⟨4, 5, 3, 0, .good⟩ .good false) (flies (packet45 4 9)) (fun t => stands t == [(4, 6)]) = true ∧
    sees (.packetForward ⟨4, 5, 2, 0, .good⟩ .good false) (flies (packet45 4 0)) (fun t => stands t == [(4, 4)]) = true := by decide +kernel
theorem test_forward_leaves : sees (.packetForward ⟨4, 5, ((flies (packet45 4 5)).diePort 4 5 (packet45 4 5) true), 0, .good⟩ .good false) (flies (packet45 4 5))
    (fun t => (stands t).isEmpty && look 0 (t.router 4 5).ctr 0x024 == 1) = true := by decide +kernel
theorem test_forward_none : (flies (packet45 9 5)).readyUnits 4 5 1 0 = [] ∧
    sees (.packetForward ⟨4, 5, 1, 0, .good⟩ .good false) (flies (packet45 9 5)) (fun t => t == flies (packet45 9 5)) = true := by decide +kernel
/-- A bulk packet of two units holds lane 0 east, and an urgent one stands behind it. -/
def held45 : State :=
  { State.reset with net := { State.reset.net with
      routers := [(5 * 60 + 4, { held := [(0, some 0)] })]
      flight := [{ id := 0, k := { packet45 9 5 with bytes := 128 }, ox := 4, oy := 5, units := [some { gx := 6, gy := 5, port := 1 }, some { gx := 4, gy := 5, port := 8 }] }
                 , { id := 1, k := { packet45 9 5 with op := 0x02, bytes := 64 }, ox := 4, oy := 5, units := [some { gx := 4, gy := 5, port := 1, seq := 1 }] }] } }
theorem test_forward_held : (held45.readyUnits 4 5 0 0).any (fun d => d.t.id == 0) = true ∧ (held45.readyUnits 4 5 0 0).all (fun d => d.t.k.vc != 0) = true ∧
    sees (.packetForward ⟨4, 5, 0, 0, .good⟩ .good false) held45 (fun t => stands t == [(6, 5), (5, 5), (4, 5)]) = true := by decide +kernel
theorem test_forward_invalid : let s := flies { op := 0x3F, gx := 4, gy := 5 }
    packetValid { op := 0x3F, gx := 4, gy := 5 } = false ∧
    sees (.packetForward ⟨4, 5, 0, 0, .good⟩ .good false) s (fun t => t.net.flight.isEmpty && look 0 (t.router 4 5).ctr 0x03C == 1 && t.faults.reports.length == 1) = true := by
  decide +kernel
theorem test_router_fail : sees (.routerFail 4 5) (flies (packet45 9 5)) (fun t => t.routerFailed 4 5 && t.net.flight.isEmpty && t.net.failedEpoch == 1 &&
    (t.pan (posAt 4 5)).seq.mode == .faulted && (t.slice (posAt 4 5)).mode == .failed) = true := by decide +kernel
theorem test_row_dead : let s := { State.reset with net := { State.reset.net with routers := [(5 * 60 + 4, { state := 2 })] } }
    s.routerFailed 4 5 = true ∧ sees (.rowDeadSet 4 5) s (fun t => look 0 t.net.rowDead 5 == 16) = true := by decide +kernel

/-! ### Operations at their targets (chapters 8 and 10) -/

/-- The lead Hakar core's source id. -/
def hak : Nat := State.reset.hakarSrc
/-- What answers in the network carry: status and data. -/
def said (t : State) : List (Nat × List Byte) := t.net.flight.map fun e => (e.k.status, e.k.data)
theorem test_rd_pan : let k : Packet := { op := 1, addr := own 0 8, src := hak, bytes := 8 }
    (State.reset.panByte (addrOffset k.addr) 8).isSome = true ∧ State.reset.isOwn k.addr = true ∧
    sees (.rd k []) State.reset (fun t => (t.pan 0).store.narrow.length == 1) = true := by decide +kernel
theorem test_rd_brine : let k : Packet := { op := 1, addr := own 1 (2 ^ 47 + 5 * 2 ^ 36 + 8), src := hak, bytes := 2 }
    (match State.reset.brinePieces k.src (addrOffset k.addr) 2 with | .ok _ => true | _ => false) = true ∧
    sees (.rd k []) { State.reset with brineMem := [(5 * 2 ^ 25 + 9, 7)] } (fun t => said t == [(0, [0, 7])]) = true := by decide +kernel
theorem test_rd_cellar : let k : Packet := { op := 1, addr := own 2 8, src := hak, bytes := 2 }
    addrOffset k.addr + 2 ≤ State.reset.cellarUsable ∧
    sees (.rd k []) { State.reset with cellarMem := [(9, 7)] } (fun t => said t == [(0, [0, 7])]) = true := by decide +kernel
theorem test_rd_control : let k : Packet := { op := 1, addr := own 3 (9 * 2 ^ 40), src := hak, bytes := 4 }
    State.reset.debugAt k.src (addrOffset k.addr) = none ∧ (controlRead k.src (addrOffset k.addr) 4 (takePacket k State.reset)).1 = 0 ∧
    sees (.rd k []) State.reset (fun t => said t == [(0, [0, 0, 0, 128])]) = true := by decide +kernel
theorem test_rd_other : let k : Packet := { op := 1, addr := mkAddr 5 2 8, src := hak, bytes := 2 }
    State.reset.isOwn k.addr = false ∧ sees (.rd k []) State.reset (fun t => t == State.reset) = true ∧
    sees (.wr ⟨{ k with op := 2, data := [1, 2] }, false⟩) State.reset (fun t => t == State.reset) = true := by decide +kernel
theorem test_wr_pan : let k : Packet := { op := 2, addr := own 0 8, src := hak, bytes := 2, data := [1, 2] }
    State.reset.admits 0 k.src 8 2 = none ∧ sees (.wr ⟨k, false⟩) State.reset (fun t => (t.pan 0).store.narrow.length == 1) = true := by decide +kernel
theorem test_wr_pan_rejected : let k : Packet := { op := 2, addr := own 0 8, src := 5, bytes := 2, data := [1, 2] }
    State.reset.admits 0 k.src 8 2 = some Cause.windowFault ∧
    sees (.wr ⟨k, false⟩) State.reset (fun t => said t == [(Cause.windowFault, [])] && (t.pan 0).store.lastReject == (1, 8, 5)) = true := by decide +kernel
theorem test_wr_brine : sees (.wr ⟨{ op := 2, addr := own 1 (2 ^ 47 + 5 * 2 ^ 36 + 8), src := hak, bytes := 2, data := [0, 7] }, false⟩) State.reset
    (fun t => t.brineMem == [(5 * 2 ^ 25 + 9, 7)] && said t == [(0, [])]) = true := by decide +kernel
theorem test_wr_cellar : sees (.wr ⟨{ op := 2, addr := own 2 8, src := hak, bytes := 2, data := [0, 7] }, false⟩) State.reset
    (fun t => t.cellarMem == [(9, 7)] && said t == [(0, [])]) = true := by decide +kernel
theorem test_wr_control : sees (.wr ⟨{ op := 2, addr := own 3 (9 * 2 ^ 40 + 4), src := hak, bytes := 4, data := [1, 0, 0, 0] }, false⟩) State.reset
    (fun t => (said t).length == 1) = true := by decide +kernel
/-- Group 0 holds routers (4, 5) and (5, 5); `bus` is its route. -/
def grp (bus : Bool) : State := { State.reset with net := { State.reset.net with groups := [(0, { valid := true, bus := bus, fields := 1, rects := [(4, 5, 5, 5)] })] } }
def groupAddr : Nat := own 0 (2 ^ 46)
theorem test_mc_wr : let k : Packet := { op := 4, addr := groupAddr, src := hak, bytes := 2, data := [1, 2], sgx := 4, sgy := 5 }
    ((grp false).groupOf k.addr).isSome = true ∧ sees (.mcWr ⟨k, []⟩) (grp false) (fun t => (t.net.combine.map (·.waiting)) == [[(4, 5), (5, 5)]]) = true ∧
    State.reset.groupOf k.addr = none ∧ sees (.mcWr ⟨k, []⟩) State.reset (fun t => said t == [(2, [])]) = true := by decide +kernel
theorem test_bus_wr : let k : Packet := { op := 5, addr := groupAddr, src := hak, bytes := 2, data := [1, 2], sgx := 4, sgy := 5 }
    sees (.busWr k) (grp true) (fun t => look 0 t.net.busGrant 0 == 79) = true ∧
    sees (.busWr k) State.reset (fun t => said t == [(2, [])]) = true := by decide +kernel
theorem test_group_held : let k : Packet := { op := 4, addr := own 3 0, src := hak, bytes := 4, data := [1, 2, 3, 4], sgx := 4, sgy := 5 }
    State.reset.mcHeld k = false ∧ State.reset.busHeld { k with op := 5 } = false ∧
    sees (.mcWr ⟨k, []⟩) State.reset (fun t => said t == [(0x0A, [])]) = true ∧
    sees (.busWr { k with op := 5 }) State.reset (fun t => said t == [(0x0A, [])]) = true := by decide +kernel
theorem test_group_empty : ({ State.reset with net := {} }).groupMembers { valid := true } = [] := by decide +kernel
/-- A group write from router (4, 5). -/
def comb : Combine := { src := 7, tag := 6, addr := 9, gx := 4, gy := 5 }
theorem test_group_member : let k : Packet := { op := 4, src := hak, bytes := 2, data := [1, 2] }
    (memberWrite 8 k (comb, State.reset) ((4, 5), [])).1.waiting = [(4, 5)] ∧
    (memberWrite 8 { k with src := 5 } (comb, State.reset) ((4, 5), [])).1.causes = [(5, 4, Cause.windowFault)] := by decide +kernel
theorem test_combine : let s := { State.reset with net := { State.reset.net with combine := [{ comb with causes := [(5, 4, 3)] }] } }
    sees (.wrAckCombine 7 6) s (fun t => t.net.combine.isEmpty && said t == [(3, [])]) = true ∧
    sees (.wrAckCombine 7 6) { s with net := { s.net with combine := [{ comb with waiting := [(4, 5)] }] } } (fun t => t.net.combine.length == 1 &&
      t.net.flight.isEmpty) = true := by decide +kernel
/-- An ATOMIC request of core 0: operation, width, number and operands. -/
def atom (aop : Nat) (w64 : Bool) (seq a : Nat) : Packet :=
  { op := 3, addr := own 2 16, src := hak, bytes := if w64 then 12 else 8
    data := leBytes (aop * 2 ^ 28 + (if w64 then 2 ^ 27 else 0) + seq) 4 ++ leBytes a (if w64 then 8 else 4) }
theorem test_atomic_add : sees (.atomic (atom 1 false 5 10)) { State.reset with cellarMem := [(16, 7)] } (fun t =>
    t.cellarMem == [(16, 17)] && said t == [(0, [7, 0, 0, 0])] && (t.svc.records.map (·.done)) == [[(5, 7, false)]]) = true := by decide +kernel
theorem test_atomic_swap : sees (.atomic (atom 2 true 5 10)) { State.reset with cellarMem := [(16, 7)] } (fun t =>
    t.cellarMem == [(16, 10)] && said t == [(0, [7, 0, 0, 0, 0, 0, 0, 0])]) = true := by decide +kernel
theorem test_atomic_cas : sees (.atomic { atom 3 false 5 7 with bytes := 12, data := (atom 3 false 5 7).data ++ leBytes 10 4 })
    { State.reset with cellarMem := [(16, 7)] } (fun t => t.cellarMem == [(16, 10)] && said t == [(0, [7, 0, 0, 0])]) = true := by decide +kernel
theorem test_atomic_again : sees (.atomic (atom 1 false 5 10)) { State.reset with
      svc := { State.reset.svc with records := [{ src := hak, high := 5, done := [(5, 7, false)] }] } }
    (fun t => t.cellarMem.isEmpty && said t == [(0, [7, 0, 0, 0])] && look 0 t.svc.ctr 0x0C == 1) = true := by decide +kernel
theorem test_atomic_bad : sees (.atomic (atom 0 false 5 10)) State.reset (fun t => said t == [(0x0A, [])]) = true ∧
    sees (.atomic { atom 1 false 5 10 with addr := own 2 8 }) State.reset (fun t => said t == [(0x0A, [])]) = true := by decide +kernel
/-- An ATOMIC command of tag 9 waits for number 4. -/
def atomWait : State :=
  { State.reset with
    hif := { State.reset.hif with atomics := [{ tag := 9, job := 0, addr := 16, aop := 1, w64 := false, a := 1, b := 0, aseq := 4, first := 0, sent := 0 }] }
    outs := [{ src := hak, tag := 6, who := .atomic, addr := 16, len := 4, off := 4, write := false, issued := 0 }] }
theorem test_atomic_data : sees (.atomicData { op := 0x23, vc := 2, src := hak, tag := 6, bytes := 4, data := [7, 0, 0, 0] }) atomWait (fun t =>
      t.outs.isEmpty && t.hif.atomics.isEmpty && (t.hif.heldEntries ++ t.hif.written.map (·.2)).map (·.status) == [0]) = true ∧
    sees (.atomicData { op := 0x23, vc := 2, src := hak, tag := 6, status := 0x0A }) atomWait (fun t => (t.hif.atomics.map (·.refused)) == [true]) =
      true := by decide +kernel

/-! ### Collectives and commits (chapter 10) -/

/-- Slot 2 as x. -/
def slot2 (x : Slot) : State := { State.reset with svc := { State.reset.svc with slots := [(2, x)] } }
/-- Slot 2 after. -/
def S2 (t : State) : Slot := t.slot 2
/-- A REDUCE of one chunk of fives to slot 2 by an input. -/
def contribute (input off : Nat) : Packet :=
  { op := 6, addr := own 0 (2 ^ 47 + 2 * 2 ^ 31 + input * 2 ^ 24 + off), src := hak, bytes := 64, marks := [false], data := (List.replicate 16 (leBytes 5 4)).flatten }
theorem test_reduce : let s := slot2 { valid := true, expect := [0, 1] }
    panForm (addrOffset (contribute 0 0).addr) = .reduction 2 0 0 ∧ reduceOk (s.slot 2) 0 0 (contribute 0 0) = true ∧
    sees (.reduce (contribute 0 0)) s (fun t => (look ({} : Chunk) (S2 t).data 0).acc == List.replicate 16 5 && (S2 t).status == 1 && said t == [(0, [])]) =
      true := by decide +kernel
theorem test_reduce_combines : sees (.reduce (contribute 1 0)) (slot2 { valid := true, expect := [0, 1, 2], data := [(0, { acc := List.replicate 16 3, seen := [0] })] })
    (fun t => (look ({} : Chunk) (S2 t).data 0).acc == List.replicate 16 8 && (look ({} : Chunk) (S2 t).data 0).seen == [0, 1]) = true := by decide +kernel
theorem test_reduce_repeated : sees (.reduce (contribute 0 0)) (slot2 { valid := true, expect := [0, 1], data := [(0, { acc := List.replicate 16 3, seen := [0] })] })
    (fun t => (S2 t).dups == 1 && (look ({} : Chunk) (S2 t).data 0).acc == List.replicate 16 3) = true := by decide +kernel
theorem test_reduce_bad : reduceOk (State.reset.slot 2) 0 0 (contribute 0 0) = false ∧
    sees (.reduce (contribute 0 0)) State.reset (fun t => said t == [(0x0A, [])]) = true := by decide +kernel
theorem test_arrive : sees (.arrive 2 0) (slot2 { valid := true, rop := 3, expect := [0, 1] }) (fun t => (S2 t).arrived == [0] && (S2 t).status == 1) = true ∧
    sees (.arrive 2 1) (slot2 { valid := true, rop := 3, expect := [0, 1], arrived := [0], root := true }) (fun t => (S2 t).status == 3) = true ∧
    sees (.arrive 2 1) (slot2 { valid := true, rop := 3, expect := [0, 1], arrived := [0] }) (fun t => (S2 t).status == 2) = true := by decide +kernel
theorem test_barrier : let k (rel : Nat) : Packet := { op := 0x12, vc := 0, addr := own 3 (9 * 2 ^ 40 + 0x14), src := hak, bytes := 4, data := leBytes (rel * 2 ^ 31 + 64 * 2 ^ 24 + 2 * 2 ^ 16 + 9) 4 }
    sees (.barrier (k 0)) (slot2 { valid := true, rop := 3, gen := 9, expect := [0, 64] }) (fun t => (S2 t).arrived == [64]) = true ∧
    sees (.barrier (k 1)) (slot2 { valid := true, rop := 3, gen := 9, expect := [0, 64], status := 2 }) (fun t => (S2 t).status == 3) = true := by decide +kernel
theorem test_urg_wr : let k : Packet := { op := 0x10, vc := 0, addr := own 3 0x80, src := hak, bytes := 4, data := [2, 0, 0, 0] }
    sees (.urgWr k) State.reset (fun t => t.net.flight.isEmpty && look 0 (t.pan 0).seq.sems 0 == 2) = true ∧
    sees (.urgWr { k with addr := mkAddr 5 3 0 }) State.reset (fun t => t == State.reset) = true := by decide +kernel
/-- A commit record to this device, or bounced to it. -/
def commits (op off : Nat) : Packet := { op := op, vc := 0, addr := own 3 (9 * 2 ^ 40 + off), src := hak, bytes := 16, data := commitBytes { kind := 1, step := 3 } }
theorem test_commit : sees (.commit (commits 0x11 0x20)) State.reset (fun t => t.svc.commitIn == [(0, { kind := 1, step := 3 })]) = true := by decide +kernel
theorem test_commit_full : sees (.commit (commits 0x11 0x20)) { State.reset with svc := { State.reset.svc with commitIn := List.replicate 64 (1, { kind := 1 }) } }
    (fun t => t.svc.commitIn.length == 64 && look 0 t.svc.ctr 0x18 == 1 && t.net.flight.length == 1) = true := by decide +kernel
theorem test_commit_mark : sees (.commit { op := 0x11, vc := 0, addr := own 3 0x80, src := hak, bytes := 4, data := [2, 0, 0, 0] }) State.reset
    (fun t => look 0 (t.pan 0).seq.sems 0 == 2) = true := by decide +kernel
theorem test_commit_bounce : sees (.commitBounce (commits 0x10 0x30)) State.reset (fun t => t.svc.bounced == [(0, { kind := 1, step := 3 }, 0)]) = true := by decide +kernel
theorem test_commit_bounce_full : sees (.commitBounce (commits 0x10 0x30)) { State.reset with
      svc := { State.reset.svc with bounced := List.replicate 64 (1, { kind := 1 }, 0) } }
    (fun t => t.svc.bounced.length == 64 && look 0 t.svc.ctr 0x18 == 1) = true := by decide +kernel
/-- A record bounced by device 0 at time 0. -/
def bouncedAt (now : Nat) : State := { State.reset with svc := { State.reset.svc with bounced := [(0, { kind := 1 }, 0)] }, clock := { tide := now } }
theorem test_commit_resend : sees .commitResend (bouncedAt 100000) (fun t => t.svc.bounced.isEmpty && t.net.flight.length == 1) = true ∧
    sees .commitResend (bouncedAt 99999) (fun t => t.svc.bounced.length == 1) = true := by decide +kernel

/-! ### Finron (chapter 9) -/

/-- Port 2 as p, with device 0 at the origin of a domain of 4 by 1 by 1. -/
def fin2 (p : Port) (t : Nat) : State :=
  { State.reset with fin := { dx := 4, selfPos := some (0, 0, 0), ports := [(2, p)] }, clock := { tide := t } }
/-- Port 2 after. -/
def F2 (t : State) : Port := t.port 2
/-- Headers of a response without payload, and with one unit of it. -/
def head (seq : Nat) : FinHeader := sealHeader { op := 0x22, vc := 2, src := hak, tag := 6, seq := seq }
def headP (seq : Nat) : FinHeader := sealHeader { op := 0x21, vc := 2, src := hak, tag := 6, seq := seq, punits := 1, bytes := 64 }
/-- A clean unit from lane 0 that is not the first of its codeword. -/
def clean : Fec := { first := false }
theorem test_header_bad : let h := { head 1 with crc := (head 1).crc + 1 }
    h.crc ≠ headerCrc h ∧ sees (.headerUnitReceive 2 h clean) (fin2 { state := 2 } 0) (fun t => (F2 t).nak &&
      look 0 (F2 t).ctr 0x018 == 1 && t.fin.control.map (fun e => e.2.op) == [0x3E]) = true := by decide +kernel
theorem test_header_good : (head 1).crc = headerCrc (head 1) ∧ headerBad (head 1) = false ∧
    sees (.headerUnitReceive 2 (head 1) clean) (fin2 { state := 2 } 0) (fun t => (F2 t).rxSeq == 2) = true := by decide +kernel
theorem test_header_payload : headerBad (headP 1) = false ∧
    sees (.headerUnitReceive 2 (headP 1) clean) (fin2 { state := 2 } 0) (fun t => (F2 t).rxSeq == 2 && (F2 t).arriving.length == 1) = true := by
  decide +kernel
theorem test_header_reserved : let h := sealHeader { headP 1 with reserved := 1 }
    headerBad h = true ∧ sees (.headerUnitReceive 2 h clean) (fin2 { state := 2 } 0) (fun t => ((F2 t).arriving.map fun e => e.2.2.2) == [true] &&
      t.faults.reports.length == 1) = true := by decide +kernel
theorem test_header_again : sees (.headerUnitReceive 2 (head 1) clean) (fin2 { state := 2, rxSeq := 3 } 0) (fun t => (F2 t).rxSeq == 3 && !(F2 t).nak) = true := by
  decide +kernel
theorem test_header_ahead : sees (.headerUnitReceive 2 (head 4) clean) (fin2 { state := 2, rxSeq := 3 } 0) (fun t => (F2 t).rxSeq == 3 && (F2 t).nak) = true := by
  decide +kernel
-- link-control headers: a map with a reserved value, and a credit return
theorem test_header_control : headerBad (sealHeader { op := 0x3F, addr := 0x765432A0 * 2 ^ 32 }) = true ∧
    sees (.headerUnitReceive 2 (sealHeader { op := 0x3F, addr := 0x765432A0 * 2 ^ 32 }) clean) (fin2 { state := 2 } 0)
      (fun t => (F2 t).laneMap == [0, 1, 2, 3, 4, 5, 6, 7] && t.faults.reports.length == 1) = true ∧
    sees (.headerUnitReceive 2 (sealHeader { op := 0x3D, ack := 4095, crvc := 1, crcnt := 2 }) clean) (fin2 { state := 2, used := [(4, 5)] } 0)
      (fun t => look 0 (F2 t).used 4 == 3) = true := by decide +kernel
theorem test_payload : sees (.payloadUnitReceive 2 clean (List.replicate 64 1)) (fin2 { state := 2, arriving := [({ headP 1 with punits := 2 }, [], [], false)] } 0)
      (fun t => ((F2 t).arriving.map fun e => e.2.2.1) == [[false]]) = true ∧
    sees (.payloadUnitReceive 2 clean (List.replicate 64 1)) (fin2 { state := 2, arriving := [(headP 1, [], [], false)] } 0)
      (fun t => (F2 t).arriving.isEmpty) = true ∧
    sees (.payloadUnitReceive 2 clean (List.replicate 64 1)) (fin2 { state := 2, arriving := [(headP 1, [], [], true)] } 0)
      (fun t => (F2 t).arriving.isEmpty && t.net.flight.isEmpty) = true := by decide +kernel
theorem test_link_idle : sees (.linkIdle 2 4 1 9) (fin2 { state := 2, freedSeen := [(1, 7)], used := [(4, 5)] } 0) (fun t => look 0 (F2 t).used 4 == 3 &&
      look 0 (F2 t).freedSeen 1 == 9) = true ∧
    sees (.linkIdle 2 4 1 9) (fin2 { state := 4 } 0) (fun t => t == fin2 { state := 4 } 0) = true := by decide +kernel
/-- The replay buffer holds packets 5 and 6 since time 0. -/
def replays : Port := { state := 2, replay := [(5, head 5, [], 0), (6, head 6, [], 0)] }
theorem test_link_nak : sees (.linkNak 2 5) (fin2 replays 9) (fun t => ((F2 t).replay.map (·.1)) == [6] && t.fin.sent.length == 1 &&
    look 0 (F2 t).ctr 0x01C == 1) = true := by decide +kernel
theorem test_link_lane : sees (.linkLane 2 0x76543218 40) (fin2 { state := 2 } 0) (fun t => (F2 t).laneMap == [8, 1, 2, 3, 4, 5, 6, 7] && (F2 t).mapFrom == 40 &&
    (F2 t).spareUsed && (F2 t).state == 2) = true ∧
    sees (.linkLane 2 0xFFFF3210 40) (fin2 { state := 2 } 0) (fun t => (F2 t).state == 3) = true ∧
    sees (.linkLane 2 0xFFFFF210 40) (fin2 { state := 2 } 0) (fun t => (F2 t).state == 4) = true := by decide +kernel
theorem test_replay_timer : sees (.linkReplayTimer 2) (fin2 replays 320) (fun t => t.fin.sent.length == 2 && (F2 t).replay.length == 2 &&
      look 0 (F2 t).ctr 0x020 == 1) = true ∧
    sees (.linkReplayTimer 2) (fin2 replays 319) (fun t => t.fin.sent.isEmpty) = true := by decide +kernel
theorem test_credit_return : sees (.creditReturn 2 1) (fin2 { state := 2, unreported := [(1, 3)], freed := [(1, 9)] } 0) (fun t =>
      (t.fin.control.map fun e => (e.2.op, e.2.crvc, e.2.crcnt)) == [(0x3D, 1, 9)] && look 0 (F2 t).unreported 1 == 0) = true ∧
    sees (.creditReturn 2 1) (fin2 { state := 2 } 0) (fun t => t.fin.control.isEmpty) = true := by decide +kernel
theorem test_lane_judge : laneDegraded { uncorr := [3] } 3 7 = true ∧
    sees (.laneJudge 2 3 true) (fin2 { state := 2 } 7) (fun t => (F2 t).laneMap == [0, 1, 2, 8, 4, 5, 6, 7] && (F2 t).spareUsed &&
      t.faults.reports.map (fun r => (r.unitIdx, r.detail, r.tide)) == [(35, 8, 7)]) = true ∧
    sees (.laneJudge 2 3 false) (fin2 { state := 2 } 7) (fun t => t == fin2 { state := 2 } 7) = true := by decide +kernel
/-- A read for device 1, one position on in x. -/
def abroad : Packet := { op := 1, addr := mkAddr 1 2 8, src := hak, tag := 6, bytes := 2 }
/-- Every port is up. -/
def allUp : State := { fin2 {} 0 with fin := { (fin2 {} 0).fin with ports := (List.range 16).map fun n => (n, ({ state := 2 } : Port))
                                                                    route := [(1, { x := 1, y := 0, z := 0 })] } }
theorem test_transmit : (allUp.egress abroad.src 1).isSome = true ∧ allUp.requantises abroad = false ∧
    sees (.packetTransmit abroad) allUp (fun t => (t.fin.sent.map fun e => (e.2.1.op, e.2.1.tag, e.2.1.addr)) == [(1, 6, mkAddr 1 2 8)]) = true := by decide +kernel
theorem test_transmit_no_route : State.reset.egress hak 5 = none ∧
    sees (.packetTransmit { op := 2, addr := mkAddr 5 2 8, src := hak }) State.reset (fun t => said t == [(2, [])]) = true := by decide +kernel

/-! ### Jobs (chapter 11) -/

/-- Job 3, on logical regions 0 and 1, as x. -/
def job3 (x : Job) : State := { State.reset with jobs := [(3, x)] }
/-- A job with its tally's newest record at `state` of step 5. -/
def stepping (state : Nat) : Job := { mode := .running, regions := [0, 1], jobId := 77, inFlight := true, nextStep := 5, tally := [{ state := state, step := 5, aseq := 8, atomics := 2 }] }
/-- Job 3 after. -/
def J (t : State) : Job := (t.job? 3).getD {}
theorem test_step_dispatch : sees (.stepDispatch 3) (job3 (stepping 1)) (fun t => (J t).head.state == 2) = true := by decide +kernel
theorem test_step_commit : sees (.stepCommit 3) (job3 { stepping 2 with commitHere := true }) (fun t => (J t).head.state == 4 && (J t).nextStep == 6 &&
    look 0 t.svc.aseq 19 == 10 && t.hif.heldEntries.length + t.hif.written.length == 1) = true := by decide +kernel
/-- Job 3 spans devices and this device leads. -/
def led (x : Job) : State := job3 { x with lead := 0, image := some { members := [0, 4] } }
theorem test_shares_done : sees (.sharesDone 4 { kind := 1, jobId := 77, step := 5, aseq := 9 }) (led (stepping 2)) (fun t => (J t).membersDone == [(4, 9)]) = true ∧
    sees (.sharesDone 4 { kind := 1, jobId := 77, step := 5 }) (led (stepping 4)) (fun t => (J t).membersDone.isEmpty && t.net.flight.length == 0) = true := by
  decide +kernel
theorem test_shares_done_resend : sees (.sharesDoneResend 3) { job3 { stepping 2 with doneSent := some 0 } with clock := { tide := 1000000 } }
      (fun t => (J t).doneSent == some 1000000) = true ∧
    sees (.sharesDoneResend 3) { job3 { stepping 2 with doneSent := some 0 } with clock := { tide := 999999 } } (fun t => (J t).doneSent == some 0) = true := by
  decide +kernel
theorem test_replay_ack : sees (.replayAck 4 { kind := 4, replay := 1, share := 2, jobId := 77, step := 5 })
    (led { stepping 2 with replaySent := [(4, { kind := 3, replay := 1, share := 2, jobId := 77, step := 5 }, 0)] }) (fun t => (J t).replaySent.isEmpty) = true := by
  decide +kernel
theorem test_share_replay_resend : sees (.shareReplayResend 3) { led { stepping 2 with replaySent := [(4, { kind := 3 }, 0)] } with clock := { tide := 1000000 } }
    (fun t => ((J t).replaySent.map fun e => e.2.2) == [1000000]) = true := by decide +kernel
/-- A fault report waits, and job 3 runs share 0 of one share on its first region. -/
def reported (f : FaultRec) : State :=
  { job3 { stepping 2 with runs := [{ share := 0, started := true }], image := some { layers := [[{ programs := [{}] }]] } } with
    faults := { State.reset.faults with reports := [f] } }
theorem test_fault_receive : sees .faultRecordReceive (reported { type := 2, cls := 2 }) (fun t => t.faults.reports.isEmpty && t.faults.unmirrored.length == 1 &&
      (J t).mode == .running) = true ∧
    sees .faultRecordReceive (reported { type := 1, cls := 3, code := 6, unitCls := 2, unitIdx := 0, jobs := 8 }) (fun t => (J t).mode == .replaying &&
      ((J t).replay.map (·.shares)) == some [0]) = true := by decide +kernel
theorem test_share_replay : sees (.shareReplay 4 { kind := 3, replay := 1, share := 0, jobId := 77, step := 5 })
      (job3 { stepping 2 with lead := 0, runs := [{ share := 0 }], image := some { members := [0, 4], layers := [[{ programs := [{}] }]] } })
      (fun t => (J t).mode == .replaying && (J t).replaySeen.length == 1) = true ∧
    sees (.shareReplay 4 { kind := 3, replay := 1, share := 0, jobId := 77, step := 4 })
      (led { stepping 2 with replaySeen := [(4, { kind := 3, replay := 1, share := 0, jobId := 77, step := 4 })] })
      (fun t => (J t).mode == .running && (J t).replaySeen.length == 1) = true := by decide +kernel
-- a class R fault after the commit decision waits for the next step, whose dispatch answers it
theorem test_fault_later : let f : FaultRec := { type := 1, cls := 3, code := 6, unitCls := 2, unitIdx := 0, jobs := 8 }
    sees .faultRecordReceive ((reported f).setJob 3 { J (reported f) with commitHere := true }) (fun t => (J t).later == [f]) = true ∧
    sees (.stepDispatch 3) (job3 { stepping 1 with later := [f], runs := [{ share := 0 }], image := some { layers := [[{ programs := [{}] }]] } })
      (fun t => (J t).later.isEmpty && (J t).head.state == 3) = true := by decide +kernel
/-- Job 3 replays, in a phase, and one old write of its pan 0 is unanswered since time 0 or not. -/
def replaying (r : Replay) (out : Bool) (now : Nat) : State :=
  { job3 { stepping 3 with mode := .replaying, replay := some r, runs := [{ share := 0, started := true }], image := some { layers := [[{ programs := [{}] }]] } } with
    clock := { tide := now }
    outs := if out then [{ src := 0, tag := 6, who := .absorbed 0, addr := 0, len := 64, off := 0, write := true, issued := 0 }] else [] }
def phase4 : Replay := { phase := 4, shares := [0], fence := [], since := 0 }
theorem test_quiesced : let s := replaying phase4 false 0
    s.oldWrites (J s) phase4 = [] ∧ sees (.replayQuiesced 3) s (fun t => ((J t).replay.map (·.phase)) != some 4) = true := by decide +kernel
theorem test_not_quiesced : let s := replaying phase4 true 9
    s.oldWrites (J s) phase4 ≠ [] ∧ sees (.replayQuiesced 3) s (fun t => ((J t).replay.map (·.phase)) == some 4) = true := by decide +kernel
theorem test_quiesce_limit : let s := replaying phase4 true 1000000
    (∀ o ∈ s.oldWrites (J s) phase4, o.issued + 1000000 ≤ s.clock.tide) ∧
    sees (.quiesceTimeLimit 3) s (fun t => ((J t).replay.map (·.phase)) != some 4 && t.outs.all fun o => o.who == .expired) = true := by decide +kernel
theorem test_replay_resume : let s := replaying { phase4 with phase := 6 } false 0
    s.standInDue 3 = false ∧ sees (.replayResume 3) s (fun t => ((J t).replay.map (·.phase)) != some 6) = true := by decide +kernel
theorem test_replay_prior : let s := replaying { phase4 with phase := 6, prior := [{ share := 0 }] } false 0
    s.standInDue 3 = false ∧ sees (.replayResume 3) s (fun t => ((J t).replay.map (·.phase)) == some 7) = true := by decide +kernel
theorem test_member_failure : let s := led { stepping 2 with order := some (9, 4, none) }
    (s.otherMembers (J s)).contains 4 = true ∧
    sees (.memberFailure 3 4) s (fun t => (J t).mode == .held && (J t).head.state == 5) = true := by decide +kernel
theorem test_member_failure_held : let s := led { stepping 5 with mode := .held, inFlight := false }
    sees (.memberFailure 3 4) s (fun t => (J t).mode == .held && t.hif.heldEntries.length + t.hif.written.length == 1) = true := by decide +kernel
theorem test_quiesced_killed : let s := replaying phase4 false 0
    sees (.replayQuiesced 3) (s.setJob 3 { J s with killed := some (9, false) }) (fun t => (J t).mode == .ending) = true := by decide +kernel
theorem test_zeroisation : sees (.zeroisation 3) (job3 { mode := .ending, regions := [0] }) (fun t => (J t).zeroing && (t.pan 0).store.fillBusy) = true ∧
    sees (.zeroisation 3) (job3 { mode := .ending, retain := true }) (fun t => !(J t).zeroing) = true := by decide +kernel
theorem test_zeroisation_done : sees (.zeroisationDone 3) { job3 { mode := .ending, zeroing := true, regions := [0], ending := some (1, 0, 9) } with
      memdev := { lots := [(1, .near 3 0 1 0)] } } (fun t => t.jobs.isEmpty && t.memdev.lots.isEmpty) = true ∧
    sees (.zeroisationDone 3) { job3 { mode := .ending, zeroing := true, regions := [0], ending := some (1, 0, 9) } with
      pans := [(0, { store := { fillBusy := true } })] } (fun t => t.jobs.length == 1) = true ∧
    sees (.zeroisationDone 3) { job3 { mode := .ending, zeroing := true, regions := [0], ending := some (1, 0, 9) } with
      hif := { State.reset.hif with journal := [{ tag := 5, digest := 0, opcode := 0x14, job := 3 }], transfers := [{ tag := 5, src := 0, dst := 0, count := 1, modes := 0, vector := 0 }] } }
      (fun t => t.jobs.length == 1) = true := by decide +kernel

/-! ### Clocks (chapter 12) -/

/-- The clock as c. -/
def clk (c : Clock) : State := { State.reset with clock := c }
theorem test_grade_request : sees (.gradeRequest 3) (clk { tide := 1 }) (fun t => t.clock.pending == some 3 && t.clock.slot == 65536) = true ∧
    sees (.gradeRequest 13) (clk { tide := 1 }) (fun t => t.clock.pending == some 13 && t.clock.slot == 65536) = true ∧
    sees (.gradeRequest 12) (clk { tide := 1 }) (fun t => t == clk { tide := 1 }) = true ∧
    sees (.gradeRequest 5) (clk { pending := some 3, slot := 65536 }) (fun t => t.clock.held == some 5) = true ∧
    sees (.gradeRequest 3) (clk { pending := some 3, slot := 65536, held := some 5 }) (fun t => t.clock.held == none) = true ∧
    sees (.gradeRequest 5) { clk { pending := some 3, slot := 65536 } with fields := [(1, { wake := some (9, .ramp, false, 0) })] }
      (fun t => t.clock.held == some 5 && (t.fieldPwr 1).wake == some (9, .ramp, true, 0)) = true := by decide +kernel
theorem test_grade_change : sees .gradeChange (clk { tide := 65536, pending := some 3, slot := 65536 }) (fun t => t.clock.grade == 3 && t.clock.pending == none &&
      t.clock.changes == 1 && (t.region 107).grade == 3) = true ∧
    sees .gradeChange (clk { tide := 65536, pending := some 5, held := some 3, slot := 65536 }) (fun t => t.clock.grade == 5 && t.clock.pending == some 3 &&
      t.clock.slot == 131072) = true ∧
    sees .gradeChange (clk { tide := 65535, pending := some 3, slot := 65536 }) (fun t => t.clock.grade == 12) = true := by decide +kernel
theorem test_vcore : sees .vcoreRise (clk { tide := 25536, pending := some 14, slot := 65536 }) (fun t => t.clock.vcore == 14) = true ∧
    sees .vcoreFall (clk { tide := 69632, grade := 3, landed := some (65536, false) }) (fun t => t.clock.vcore == 3) = true := by decide +kernel
theorem test_tide_resync : sees .tideResync (clk { replica := [(3, 8)] }) (fun t => t.clock.replica.isEmpty) = true := by decide +kernel
theorem test_tide_exchange : sees (.tideExchange 2 ⟨3, 4⟩) (fin2 { state := 2 } 0) (fun t => t.clock.stamps == [(2, ⟨3, 4⟩)] && t.clock.stampsSent.length == 1) = true := by
  decide +kernel
/-- This device is no master and its parent is device 1 over port 2, whose state is n. -/
def child (n : Nat) : State := { fin2 { state := n, peer := some (1, 3) } 0 with clock :=
  { master := false, parent := 1, parentPort := some 2, stamps := [(2, ⟨100, 400⟩)] } }
theorem test_tide_stamp : sees (.tideStampMessage 2 ⟨100, 400⟩ ⟨200, 240⟩) (child 2) (fun t => t.clock.offset == 30 && t.draws == 1) = true ∧
    sees (.tideStampMessage 2 ⟨100, 400⟩ ⟨200, 240⟩) (clk { master := true }) (fun t => t == clk { master := true }) = true ∧
    sees (.tideStampMessage 2 ⟨100, 401⟩ ⟨200, 240⟩) (child 2) (fun t => t == child 2) = true := by decide +kernel
theorem test_ptm : sees (.ptmMeasure 90) (clk { tide := 100, master := false }) (fun t => t.clock.ptmOffset == -10 && t.clock.ptmValid && t.draws == 0) = true ∧
    sees (.ptmMeasure 90) (clk { tide := 100 }) (fun t => t.clock.ptmOffset == -10 && t.draws == 1) = true := by decide +kernel
theorem test_holdover : sees .tideHoldover (child 4) (fun t => !t.clock.locked && t.clock.relocks == 1) = true := by decide +kernel
theorem test_parent : sees .tideParentReselect (fin2 {} 0) (fun t => t.clock.master && t.clock.parent == 8191) = true := by decide +kernel
theorem test_parent_found : let s := { allUp with fin := { allUp.fin with selfPos := some (1, 0, 0), route := [(0, { x := 0, y := 0, z := 0 })] } }
    s.posNumber 1 0 0 ≠ s.masterPos ∧ sees .tideParentReselect s (fun t => !t.clock.master && t.clock.parent == 0) = true := by decide +kernel
theorem test_fault_share : let s := reported { type := 1, cls := 3, code := 6, unitCls := 2, unitIdx := 0, jobs := 8 }
    s.priorAt (J s) 0 = false ∧ s.sharesOn (J s) 0 = [0] := by decide +kernel

/-! ### Power (chapter 13) -/

/-- The power block as p, grade g in force. -/
def pwr (p : Power) (g : Nat) : State := { State.reset with power := p, clock := { grade := g } }
/-- VIN at 1 V carries w watts in field 0. -/
def rail (w : Nat) : RailSample := { vin := 1000, fields := (1000 * w) :: List.replicate 11 0 }
-- 12 A at 12 V and 10 A at 0.9 V are 153 W
theorem test_power_sum : sees (.powerEvaluation { vin := 12000, fields := List.replicate 12 1000, vsd := (900, 10000) }) (pwr {} 12)
    (fun t => t.power.now == 153 && t.power.rails == [10000, 0, 0, 0]) = true := by decide +kernel
theorem test_power_cut : sees (.powerEvaluation (rail 6251)) (pwr {} 12) (fun t => t.power.cap == 4 && t.power.capEvents == 1 && t.power.now == 6251) = true ∧
    sees (.powerEvaluation (rail 5001)) (pwr { overs := 50 } 12) (fun t => t.power.cap == 4 && t.power.excursions == 1) = true := by decide +kernel
theorem test_power_above : sees (.powerEvaluation (rail 6000)) (pwr {} 12) (fun t => t.clock.pending == some 11 && t.clock.slot == 65536 && t.power.cap == 0) = true ∧
    sees (.powerEvaluation (rail 6000)) (pwr { cap := 8 } 12) (fun t => t.clock.pending == none && t.power.cap == 10) = true ∧
    sees (.powerEvaluation (rail 6000)) (pwr {} 0) (fun t => t.power.cap == 2) = true := by decide +kernel
theorem test_power_below : sees (.powerEvaluation (rail 4849)) (pwr { cap := 3 } 12) (fun t => t.power.cap == 2) = true ∧
    sees (.powerEvaluation (rail 4849)) (pwr {} 11) (fun t => t.clock.pending == some 12) = true ∧
    sees (.powerEvaluation (rail 4850)) (pwr { cap := 3 } 12) (fun t => t.power.cap == 3 && t.power.avg == 4850) = true ∧
    sees (.powerEvaluation (rail 5000)) (pwr {} 12) (fun t => t.power.cap == 0 && t.clock.pending == none) = true := by decide +kernel
/-- Field 2's power state as f, region 20's as r, at time t. -/
def fld (f : FieldPwr) (r : Region) (t : Nat) : State := { State.reset with fields := [(2, f)], regions := [(20, r)], clock := { tide := t } }
/-- Field 2 after. -/
def L (t : State) : FieldPwr := t.fieldPwr 2
/-- Region 20 after. -/
def R (t : State) : Region := t.region 20
theorem test_fast_loop : (fld {} {} 0).peakCurrent 2 = 0 ∧
    sees (.fastCurrentLoop 2 263001 { bundPeriod := 0 }) (fld {} {} 0) (fun t => (L t).level == 8 && (L t).current == 26300) = true ∧
    sees (.fastCurrentLoop 2 252999 { bundPeriod := 0 }) (fld { level := 8, below := 8 } {} 0) (fun t => (L t).level == 8 && (L t).below == 9) = true ∧
    sees (.fastCurrentLoop 2 252999 { bundPeriod := 0 }) (fld { level := 8, below := 9 } {} 0) (fun t => (L t).level == 7 && (L t).below == 0) = true ∧
    sees (.fastCurrentLoop 2 253000 { bundPeriod := 0 }) (fld { level := 8, below := 9 } {} 0) (fun t => (L t).level == 8 && (L t).below == 0) = true ∧
    sees (.fastCurrentLoop 2 263000 { bundPeriod := 0 }) (fld { level := 8, below := 9 } {} 0) (fun t => (L t).level == 8) = true := by decide +kernel
-- a droop of 6.1 % calls for level 2 (R351), which falls by one a cycle once the supply is back; level 8 withholds 8 of every 64 edges
theorem test_stretch : droopLevel 3 61 = 2 ∧ sees (.fastCurrentLoop 2 0 { regions := [{ region := 20, cycles := [(5, 738), (1, 786)] }] })
      (fld { level := 9 } {} 0) (fun t => (R t).stretch == 6 && (R t).level == 1 && (R t).highLevel == 2 && (R t).owedEdges == 54) = true ∧
    sees (.fastCurrentLoop 2 0 { bund := [(2, 0), (3, 211), (10, 0)] }) (fld {} {} 0) (fun t => (L t).bundLevel == 0 && (L t).bundStretch == 9) =
      true := by decide +kernel
theorem test_load_notice : sees (.loadNoticeArrival 20) (fld {} { notices := 1 } 7) (fun t => (R t).peak && (R t).peakFrom == some 7 && (R t).notices == 0) =
      true ∧
    sees (.loadNoticeArrival 20) (fld {} {} 7) (fun t => t == fld {} {} 7) = true := by decide +kernel
theorem test_peak_end : sees (.peakEnd 20) { fld {} { peak := true } 0 with pans := (regionPans 20).map fun p =>
    (p, ({ seq := { lastValid := some 5, cycle := 1029 } } : Pan)) } (fun t => !(R t).peak) = true := by decide +kernel
-- the lowest of an interval's samples, with the grade in force then (R364, R381)
theorem test_minv : sees (.minvInterval 20 700 9 ⟨[(690, 10), (690, 11)]⟩) { fld {} { minvHead := 15, highLevel := 2 } 30 with
        clock := { tide := 30, grade := 3, landings := [(20, 5)] } } (fun t => (R t).minvHead == 0 && (R t).minvAll == 690 &&
      look ({} : MinvEntry) (R t).minv 0 == { stretch := 2, grade := 5, mv := 690, tide := 10 } && (R t).highLevel == 0) = true ∧
    sees (.minvInterval 20 700 9 ⟨[]⟩) (fld {} { clk := .gated } 30) (fun t => (look ({} : MinvEntry) (R t).minv 1).off && (R t).minvAll == 0x3FF) =
      true := by decide +kernel
theorem test_thermal : sees (.thermalSample 20 ⟨1519, 100⟩) (fld {} {} 7) (fun t => (R t).temp == 1519 && (R t).thermal == 0 && (R t).coolSince == some 7) = true ∧
    sees (.thermalSample 20 ⟨1760, 100⟩) (fld {} {} 7) (fun t => (R t).pwr == .gated && (t.faults.reports.map (·.code)).getLast? == some 110) = true ∧
    sees (.thermalSample 20 ⟨1839, 100⟩) (fld {} {} 7) (fun t => (R t).pwr == .gated) = true ∧
    sees (.thermalSample 20 ⟨3, 1760⟩) (fld {} { pwr := .gated } 7) (fun t => (t.faults.reports.map (·.code)).getLast? == some 110) = true := by decide +kernel
theorem test_rest_deadline : sees (.restDeadline 20) (fld {} { restSince := some 0 } 50000000) (fun t => (R t).pwr == .rested && (R t).clk == .gated) = true ∧
    sees (.restDeadline 20) (fld {} { restSince := some 0 } 49999999) (fun t => (R t).pwr == .running) = true := by decide +kernel
theorem test_rest_draining : sees (.restDeadline 20) { fld {} { restSince := some 0 } 50000000 with
      pans := [((regionPans 20).headD 0, { store := { banks := [(0, .draining)] } })] }
    (fun t => (R t).pwr == .running && (R t).restGate) = true := by decide +kernel
theorem test_phase_fail : sees (.phaseFail 20 11) (fld {} {} 0) (fun t => (R t).phases == 2048 && t.faults.reports.map (·.cls) == [0]) = true ∧
    sees (.phaseFail 20 4) (fld {} { phases := 15 } 0) (fun t => t.faults.reports.map (·.cls) == [4]) = true ∧
    sees (.phaseFail 135 5) State.reset (fun t => look 0 t.power.domPhases 135 == 32) = true ∧
    sees (.phaseFail 108 2) { State.reset with power := { domPhases := [(108, 3)] } } (fun t => t.faults.reports.map (·.cls) == [7]) = true := by decide +kernel
theorem test_region_clock : sees (.regionClockFail 20) (fld {} {} 0) (fun t => (R t).clk == .stopped && t.faults.reports.length == 1) = true ∧
    sees (.regionClockFail 20) (fld { wake := some (20, .fill, false, 0) } {} 0) (fun t => (R t).pwr == .gated && (L t).wake == none) = true := by decide +kernel
theorem test_region_wake : sees (.regionWake 20) (fld {} { pwr := .rested, coolSince := some 0 } 10000000) (fun t =>
      (L t).wake == some (20, .waiting, false, 10000000)) = true ∧
    sees (.regionWake 20) (fld { wake := some (25, .waiting, false, 9), wakeAsked := 10000000 } { pwr := .rested, coolSince := some 0 } 10000000) (fun t =>
      (L t).wake == some (20, .waiting, false, 10000000) && (L t).queue == [(10000000, 25)]) = true := by decide +kernel
theorem test_wake_admit : sees (.wakeAdmit 2) (fld { wake := some (20, .waiting, false, 0), current := 22300 } {} 9) (fun t =>
      (L t).wake == some (20, .ramp, false, 9) && (R t).pwr == .waking) = true ∧
    sees (.wakeAdmit 2) (fld { wake := some (20, .waiting, false, 0), current := 22301 } {} 9) (fun t => (L t).wake == some (20, .waiting, false, 0)) = true ∧
    sees (.wakeAdmitTimeout 2) (fld { wake := some (20, .waiting, false, 0), current := 22301 } {} 50000) (fun t =>
      (L t).wake == some (20, .ramp, true, 50000) && t.power.slowWakes == 1) = true := by decide +kernel
theorem test_wake_ramp : sees (.wakeRampDone 2) (fld { wake := some (20, .ramp, true, 0) } {} 9) (fun t => (L t).wake == some (20, .regulate, true, 9)) =
      true ∧
    (fld { wake := some (20, .ramp, true, 0) } { level := 2 } 9).rampPaused 2 = true ∧
    sees (.wakeRampDone 2) (fld { wake := some (20, .ramp, true, 0) } { level := 2 } 9) (fun t => (L t).wake == some (20, .ramp, true, 0)) = true := by decide +kernel
theorem test_wake_regulated : sees (.wakeRegulated 2) (fld { wake := some (20, .regulate, false, 0) } { pwr := .waking, clk := .gated, grade := 3 } 9) (fun t =>
    (R t).pwr == .running && (R t).grade == 12 && (t.pan 300).store.fillBusy) = true := by decide +kernel
/-- The budget as b. -/
def bud (b : Budget) : State := { State.reset with power := { budget := b } }
/-- The budget after. -/
def B (t : State) : Budget := t.power.budget
theorem test_budget_report : sees (.budgetReport 4000 1000) (bud { joined := true, keeperId := 7, group := 3, idle := 50 }) (fun t => (B t).slack == 500 &&
      ((B t).sent.map fun m => (m.1, m.2.kind, m.2.hi, m.2.lo)) == [(7, 1, 4000, 500)]) = true ∧
    sees (.budgetReport 4000 1000) (bud { joined := true, keeper := true, idle := 50 }) (fun t => (B t).reports == [(0, 500, 0)] && (B t).sent.isEmpty) = true := by decide +kernel
/-- The keeper of members 0 and 7, with reports of both. -/
def keeps : Budget := { joined := true, keeper := true, total := 8000, members := [(0, 3000, 5000, 4000), (7, 3000, 5000, 4000)], reports := [(0, 0, 0), (7, 500, 0)] }
theorem test_budget_reassign : sees .budgetReassign (bud keeps) (fun t => (B t).members == reassign 0 keeps) = true ∧
    reassign 0 { keeps with reports := [] } = keeps.members ∧
    sees .budgetReassign (bud { keeps with reports := [] }) (fun t => t == bud { keeps with reports := [] }) = true := by decide +kernel
theorem test_budget_receive : sees (.budgetLimitReceive { kind := 2, group := 3, device := 7, lo := 4100 }) (bud { joined := true, keeperId := 7, group := 3 })
      (fun t => t.power.newLimit == some 4100) = true ∧
    sees (.budgetLimitReceive { kind := 1, group := 0, device := 7, lo := 100 }) (bud keeps) (fun t => (B t).reports == [(0, 0, 0), (7, 100, 0)]) = true := by
  decide +kernel
theorem test_energy : sees (.energyCharge [] [] 9) State.reset (fun t => t.power.devUj == 9) = true ∧
    sees (.energyCharge [(0, 5)] [] 0) (job3 { regions := [0] }) (fun t => (J t).regionUj == 5) = true ∧
    sees (.energyCharge [(0, 5)] [] 0) { State.reset with regions := [(0, { pwr := .rested })] } (fun t => t.power.devUj == 5) = true ∧
    sees (.energyCharge [] [{ uj := 10, units := [(3, 1), (4, 2)] }] 0) { job3 {} with jobs := [(3, {}), (4, {})] }
      (fun t => (J t).sharedUj == 3 && ((t.job? 4).map (·.sharedUj)) == some 6 && t.power.devUj == 1) = true := by decide +kernel

/-! ### Host commands (chapter 15) -/

/-- A command of tag 9 for job 3. -/
def c9 : Cmd := { tag := 9, job := 3 }
/-- Hakar takes commands. -/
def serving (s : State) : State := { s with boot := { s.boot with state := .ready, phase := 11 }, hif := { s.hif with taking := true } }
/-- The entries the command left: opcode, status, info, payload words. -/
def ended (t : State) : List (Nat × Nat × Nat × List Nat) := t.hif.heldEntries.map fun e => (e.opcode, e.status, e.info, e.payload)
/-- One image of one share of one program, with a weights tensor that carries two bytes. -/
def image1 : Image := { layers := [[{ programs := [{ bundles := [0] }] }]], tensors := [{ kind := .weights, bytes := 64, data := [1, 2] }] }
/-- One image of one share of one program. -/
def bare : Image := { layers := [[{ programs := [{ bundles := [0] }] }]] }
theorem test_performs : ∀ op ∈ [1, 2, 3, 4, 5, 6, 7, 8, 9, 10, 11, 12, 13, 14, 15, 16, 17, 18, 19, 20, 21, 22, 23], (serving (job3 {})).performs c9 op := by
  decide +kernel
theorem test_image_load : imageOk image1 = true ∧ imageFault image1 = none ∧
    sees (.imageLoad c9 { addr := 4096, len := 64 } image1) (serving (job3 { regions := [0], cellarMib := 4 })) (fun t =>
      (ended t).map (·.2.1) == [0] && ((J t).image.map fun i => i.layers.length) == some 1) = true := by decide +kernel
theorem test_image_bad : imageFault { image1 with stepping := 0 } ≠ none ∧
    sees (.imageLoad c9 { addr := 4096, len := 64 } { image1 with stepping := 0 }) (serving (job3 {})) (fun t =>
      (ended t).map (fun e => some e.2.1) == [imageFault { image1 with stepping := 0 }] && (J t).image.isNone) = true := by decide +kernel
theorem test_job_create : sees (.jobCreate { c9 with job := 255 } 2 77 0 0 8191) (serving State.reset) (fun t =>
      ended t == [(2, 0, 0, [3, 0, 0])] && ((t.job? 0).map (·.regions)) == some [0, 1]) = true ∧
    sees (.jobCreate c9 96 77 0 0 8191) (serving State.reset) (fun t => ((t.job? 3).map fun x => x.regions.length) == some 96) = true := by decide +kernel
theorem test_place : sees (.place c9 5 { addr := 64, len := 4096 }) (serving (job3 { regions := [0], brineMib := 64, cellarMib := 4, image := some bare }))  (fun t => (ended t).map (·.2.1) == [0] && (J t).mode == .placed) = true ∧
    sees (.place c9 5 { addr := 64 }) (serving State.reset) (fun t => (ended t).map (·.2.1) == [5]) = true := by decide +kernel
/-- Job 3 is placed, with regions 0 and 1. -/
def placed3 : Job := { mode := .placed, regions := [0, 1], jobId := 77 }
theorem test_run : sees (.run c9 6 0) (serving (job3 placed3)) (fun t => (J t).order == some (9, 4, none) && (J t).inFlight && (J t).head.step == 6) = true ∧
    sees (.run c9 6 2) (serving (job3 placed3)) (fun t => (J t).order == some (9, 4, some 2)) = true ∧
    sees (.step c9 6) (serving (job3 placed3)) (fun t => (J t).order == some (9, 5, some 1)) = true ∧
    sees (.resume c9 6) (serving (job3 { placed3 with mode := .held })) (fun t => (J t).order == some (9, 22, some 1)) = true ∧
    sees (.step c9 6) (serving (job3 (stepping 2))) (fun t => (ended t).map (·.2.1) == [5]) = true ∧
    sees (.resume c9 6) (serving (job3 placed3)) (fun t => (ended t).map (·.2.1) == [5]) = true := by decide +kernel
theorem test_kill : sees (.kill c9) (serving (job3 (stepping 2))) (fun t => (J t).mode == .ending && ended t == [(6, 0, 1, [])]) = true ∧
    sees (.kill { c9 with flags := 1 }) (serving (job3 (stepping 2))) (fun t => (J t).killed == some (9, true) && (ended t).isEmpty) = true ∧
    sees (.kill c9) (serving (job3 { mode := .ending, retain := true, ending := some (0, 0, 1) })) (fun t => (J t).released && (J t).ending == some (0, 0, 9)) =
      true := by decide +kernel
-- a command of the job that was rung earlier, and a KILL, go first; a slot that names another command holds this one (R430, R431)
theorem test_turn : let j (op : Nat) (s : State) : State := { s with hif := { s.hif with journal := [{ tag := 4, digest := 0, opcode := op, job := 3 }] } }
    sees (.step c9 6) (j 5 (serving (job3 placed3))) (fun t => t == j 5 (serving (job3 placed3))) = true ∧
    sees (.step { c9 with tag := 4 } 6) (j 4 (serving (job3 placed3))) (fun t => t == j 4 (serving (job3 placed3))) = true ∧
    sees (.kill c9) (j 5 (serving (job3 placed3))) (fun t => (J t).mode == .ending) = true := by decide +kernel
theorem test_kill_replay : sees (.kill c9) (serving (replaying phase4 false 0)) (fun t => (J t).killed == some (9, false) && (J t).mode == .replaying) =
    true := by decide +kernel
theorem test_dump : sees (.dump { c9 with flags := 1 } 2 0 0 { addr := 64, len := 16 }) (serving (job3 { mode := .ending, retain := true })) (fun t =>
      ended t == [(7, 0, 16, [])] && (J t).released) = true ∧
    sees (.dump c9 2 0 0 { addr := 64, len := 16 }) (serving (job3 placed3)) (fun t => (ended t).map (·.2.1) == [16]) = true := by decide +kernel
/-- Job 3 with 1,620 MiB of brine and 4 MiB of cellar. -/
def lots3 : State := serving (job3 { placed3 with brineMib := 1620, cellarMib := 4 })
theorem test_lot_alloc : sees (.lotAlloc c9 2 1) lots3 (fun t => (ended t).map (·.2.1) == [0] && t.memdev.allocated.length == 1) = true ∧
    sees (.lotAlloc c9 2 1) (serving (job3 placed3)) (fun t => (ended t).map (·.2.1) == [8] && t.memdev.lots.isEmpty) = true ∧
    sees (.lotAlloc c9 3 4) lots3 (fun t => (ended t).map (·.2.1) == [0] && t.memdev.cellarLots.length == 1) = true ∧
    sees (.lotAlloc c9 3 5) lots3 (fun t => (ended t).map (·.2.1) == [8]) = true ∧
    sees (.lotAlloc c9 4 5) lots3 (fun t => ended t == [(8, 2, 16, [])]) = true := by decide +kernel
theorem test_lot_free : sees (.lotFree c9 (mkAddr 0 1 (2 ^ 36))) { lots3 with memdev := { lots := [(1, .near 3 0 1 0)], allocated := [1] } }
      (fun t => (ended t).map (·.2.1) == [0] && t.memdev.lots.isEmpty) = true ∧
    sees (.lotFree c9 (mkAddr 0 1 (2 ^ 36))) { lots3 with memdev := { lots := [(1, .near 3 0 1 0)] } } (fun t => (ended t).map (·.2.1) == [5]) = true ∧
    sees (.lotFree c9 (mkAddr 0 2 0)) { lots3 with memdev := { cellarLots := [⟨0, 2 ^ 21, 3⟩] } } (fun t =>
      (ended t).map (·.2.1) == [0] && t.memdev.cellarLots.isEmpty) = true := by decide +kernel
theorem test_power_policy : sees (.powerPolicy c9 2500 8000 15) (serving State.reset) (fun t => t.power.newLimit == some 2500 && t.power.window == 8000 &&
      t.power.gradeMax == 15) = true ∧
    sees (.powerPolicy c9 2499 8000 15) (serving State.reset) (fun t => ended t == [(10, 2, 16, [])]) = true ∧
    sees (.powerPolicy c9 5501 8000 15) (serving State.reset) (fun t => ended t == [(10, 2, 16, [])]) = true := by decide +kernel
/-- Members 0 and 7. -/
def two : List BudgetMember := [⟨0, 3000, 5000⟩, ⟨7, 3000, 5000⟩]
theorem test_budget_join : State.reset.membersOk two = true ∧
    sees (.budgetJoin c9 3 8001 0 { addr := 64, len := 2 } two) (serving State.reset) (fun t => (ended t).map (·.2.1) == [0] && (B t).joined && (B t).keeper &&
      (B t).members == joinLimits 8001 two) = true ∧
    sees (.budgetJoin c9 3 8001 7 { addr := 64, len := 2 } two) (serving State.reset) (fun t => (B t).joined && !(B t).keeper && (B t).keeperId == 7) = true ∧
    sees (.budgetJoin c9 3 8001 0 { addr := 64, len := 2 } two) (serving (bud { joined := true })) (fun t => (ended t).map (·.2.1) == [17]) = true ∧
    sees (.budgetJoin c9 3 8001 7 { addr := 64, len := 2 } two) (serving (bud { joined := true, group := 3, keeperId := 5 })) (fun t => (B t).keeperId == 7) =
      true ∧
    sees (.budgetJoin { c9 with flags := 1 } 3 0 0 {} []) (serving (bud { joined := true, group := 3 })) (fun t => !(B t).joined &&
      t.power.newLimit == some 5000) = true := by decide +kernel
theorem test_join_limits : (∀ m ∈ two, m.lower ≤ m.upper ∧ m.upper ≤ m.lower + 3000) ∧ sumNat (two.map (·.lower)) ≤ 8001 ∧ 8001 ≤ sumNat (two.map (·.upper)) := by
  decide +kernel
theorem test_energy_query : sees (.energyQuery c9) (serving (job3 { regionUj := 7 })) (fun t => (ended t).map (·.2.1) == [0]) = true ∧
    sees (.energyQuery { c9 with job := 255 }) (serving State.reset) (fun t => (ended t).map (·.2.1) == [5]) = true := by decide +kernel
theorem test_assay_report : sees (.assayReport c9 { addr := 64, len := 4096 }) (serving State.reset) (fun t => (ended t).map (·.2.1) == [0]) = true ∧
    sees (.assayReport c9 { addr := 64 }) { serving State.reset with boot := { (serving State.reset).boot with diff := { cause := 2, epoch := 1 } } } (fun t =>
      ended t == [(0x10, 0x15, 16, [])]) = true := by decide +kernel
/-- A domain of 4 by 1 by 1, this device at the origin. -/
def domain4 (s : State) : State := { s with fin := { dx := 4, selfPos := some (0, 0, 0) } }
theorem test_alias_set : (domain4 State.reset).aliasOk (2 ^ 31 + 1 * 2 ^ 13 + 2) = true ∧
    sees (.aliasSet c9 { addr := 64, len := 4 } [2 ^ 31 + 1 * 2 ^ 13 + 2]) (domain4 (serving State.reset)) (fun t => (ended t).map (·.2.1) == [0] &&
      t.svc.aliases == [(0, 1, 2)] && look 0 t.fin.posState 1 == 8) = true ∧
    (domain4 State.reset).aliasOk (2 ^ 32 - 1) = false ∧
    sees (.aliasSet c9 { addr := 64, len := 4 } [2 ^ 32 - 1]) (domain4 (serving State.reset)) (fun t => ended t == [(0x11, 2, 0x18, [])]) = true := by decide +kernel
theorem test_fw_update : State.reset.eligible { sigOk := true } = true ∧
    sees (.fwUpdate c9 { addr := 64, len := 64 } { sigOk := true }) (serving State.reset) (fun t => ended t == [(0x12, 0, 1, [])] &&
      t.sec.slot1 == some { sigOk := true }) = true ∧
    sees (.fwUpdate c9 { addr := 64, len := 64 } { sigOk := true }) { serving State.reset with sec := { running := some 1, slot1 := some { sigOk := true } } }
      (fun t => ended t == [(0x12, 0, 0, [])]) = true ∧
    sees (.fwUpdate c9 { addr := 64, len := 64 } {}) (serving State.reset) (fun t => (ended t).map (·.2.1) == [0x13] && t.sec.slot1 == none) = true := by decide +kernel
theorem test_attest : sees (.attest c9 5 { addr := 64, len := 50303 }) (serving State.reset) (fun t => ended t == [(0x13, 0x15, 50304, [])]) = true ∧
    sees (.attest c9 5 { addr := 64, len := 50304 }) { serving State.reset with sec := { entropyFailed := true } } (fun t =>
      (ended t).map (·.2.1) == [0x13]) = true := by decide +kernel
theorem test_attest_answers : (serving State.reset).sec.entropyFailed = false ∧ (serving State.reset).sec.service = true := by decide +kernel
theorem test_transfer : sees (.transfer c9 64 128 64 0 16) (serving State.reset) (fun t => (t.haul (.cc 1)).cmd == some 9) = true ∧
    sees (.transfer c9 64 128 64 0 255) (serving State.reset) (fun t => (t.haul (.cc 1)).ctrl % 256 == 255) = true := by decide +kernel
theorem test_atomic_cmd : sees (.atomicCmd c9 (mkAddr 0 2 16) 1 0 5 0) (serving State.reset) (fun t => look 0 t.svc.aseq 14 == 1 &&
    t.hif.atomics.length == 1 && (t.net.flight.map (·.k.op)) == [3]) = true ∧
    sees (.atomicCmd c9 (mkAddr 0 2 16) 1 4 5 0) (serving State.reset) (fun t => ended t == [(0x15, 2, 0x18, [])]) = true := by decide +kernel
/-- Commands wait as `atomWait` says, refused or not, at time t. -/
def atomAt (r : Bool) (t : Nat) : State := { atomWait with hif := { atomWait.hif with atomics := atomWait.hif.atomics.map fun w => { w with refused := r } }
                                                           clock := { tide := t } }
theorem test_atomic_retry : sees .atomicRetry State.reset (fun t => t == State.reset) = true ∧
    sees .atomicRetry (atomAt true 999999) (fun t => (t.hif.atomics.map (·.sent)) == [0]) = true ∧
    sees .atomicRetry (atomAt true 1000000) (fun t => (t.hif.atomics.map (·.sent)) == [1000000]) = true ∧
    sees .atomicRetry (atomAt true 20000000) (fun t => t.hif.atomics.isEmpty && (ended t).map (·.2.1) == [0x16]) = true := by decide +kernel
theorem test_tag_query : sees (.tagQuery c9 [5]) (serving State.reset) (fun t => ((ended t).getLast?.map fun e => (e.2.1, e.2.2.1)) == some (0, 1)) = true := by
  decide +kernel
/-- Slot 2 holds the command: first word, job and flags word, and tag. -/
def belled (w tag : Nat) (s : State) : State := { s with slotMem := writeBytes [] 512 (leBytes w 4 ++ leBytes 0 4 ++ leBytes tag 8) }
theorem test_doorbell : sees (.doorbell 2) { State.reset with hif := { State.reset.hif with busy := [2] } } (fun t => t.hif.doorbellIgnored == 1) = true ∧
    sees (.doorbell 2) State.reset (fun t => t.hif.heldBells == [2] && t.hif.busy == [2]) = true := by decide +kernel
theorem test_doorbell_taken : sees (.doorbell 2) (belled 0x06FF0000 9 (serving State.reset)) (fun t => (t.hif.journal.map fun j => (j.tag, j.opcode)) == [(9, 6)]) = true ∧
    sees (.doorbell 2) (belled 0x18FF0000 9 (serving State.reset)) (fun t => (ended t).map (fun e => (e.1, e.2.1)) == [(0x18, 1)]) = true ∧
    sees (.doorbell 2) (belled 0x06FF0000 0 (serving State.reset)) (fun t => (ended t).map (fun e => (e.1, e.2.1)) == [(6, 2)]) = true := by decide +kernel

/-! ### Host interface, messages and registers (chapter 15) -/

/-- The host interface as h. -/
def hif (h : HostIf) : State := { State.reset with hif := h }
theorem test_ring_enable : sees (.ringEnable 16) (hif { heldEntries := [{ tag := 5 }], tail := 7, ringBase := 4096 }) (fun t => t.hif.ringOn && t.hif.ringLog == 16 &&
      t.hif.tail == 1 && t.hif.heldEntries.isEmpty) = true ∧
    sees (.ringEnable 6) (hif { ringOn := true, tail := 7 }) (fun t => t.hif.tail == 7) = true := by decide +kernel
theorem test_ring_head : sees (.ringHeadWrite 8) (hif { ringOn := true, tail := 7, head := 3 }) (fun t => t.hif.head == 3 && t.hif.headErr == 1) = true ∧
    sees (.ringHeadWrite 7) (hif { ringOn := true, tail := 7, head := 3, written := [(3, {}), (6, {})] }) (fun t => t.hif.head == 7 && t.hif.written.isEmpty) =
      true := by decide +kernel
theorem test_aperture : sees (.apertureWrite true 0xFFFFFFFF) (hif { aperture := 2 ^ 30 }) (fun t => t.hif.aperture == 0x7FFFFFFF40000000) = true ∧
    sees (.apertureWrite false 0xFFFFFFFF) (hif { aperture := 2 ^ 33 }) (fun t => t.hif.aperture == 0x2C0000000) = true := by decide +kernel
theorem test_bar2_write : sees (.bar2Write 8 [1, 2]) (hif { aperture := own 2 0 }) (fun t => (t.net.flight.map (·.k.op)) == [2] && t.outs.length == 1) = true ∧
    sees (.bar2Write 8 [1, 2]) (hif { aperture := own 3 (2 ^ 40) }) (fun t => t.net.flight.isEmpty && t.hif.apertureErr == 1) = true := by decide +kernel
theorem test_bar2_read : sees (.bar2Read 8 512 5) (hif { aperture := own 2 0 }) (fun t => (t.net.flight.map (·.k.bytes)) == [512] && t.outs.length == 1) = true ∧
    sees (.bar2Read 8 512 5) (hif { aperture := 2 ^ 63 }) (fun t => t.hif.bar2Done == [(5, none)]) = true := by decide +kernel
/-- A BAR2 read of tag 5 has waited since time 0. -/
def bar2Waits (t : Nat) : State := { hif { bar2Reads := [{ tag := 5, addr := 8, len := 4, since := 0 }] } with clock := { tide := t } }
theorem test_bar2_timeout : sees (.bar2ReadTimeout 5) (bar2Waits 1000000) (fun t => t.hif.bar2Done == [(5, none)]) = true ∧
    sees (.bar2ReadTimeout 5) (bar2Waits 999999) (fun t => t.hif.bar2Done.isEmpty) = true := by decide +kernel
/-- Coalescing of 2 µs began at time 0. -/
def coalescing (t : Nat) : State := { hif { coalesce := 2, coalesceFrom := some 0, unmasked := [0] } with clock := { tide := t } }
theorem test_coalesce : sees .intCoalesceExpiry (coalescing 2000) (fun t => t.hif.messages == [0] && t.hif.coalesceFrom == none) = true ∧
    sees .intCoalesceExpiry (coalescing 1999) (fun t => t.hif.messages.isEmpty) = true ∧
    sees .intCoalesceExpiry State.reset (fun t => t == State.reset) = true := by decide +kernel
/-- Vector 20 was signalled at time 0, and is owed another message or not. -/
def spaced (o : List Nat) (t : Nat) : State := { hif { unmasked := [20] } with faults := { holdoff := [(20, 0)], owed := o }, clock := { tide := t } }
theorem test_holdoff : sees (.vectorHoldoffExpiry 20) (spaced [20] 100000) (fun t => t.hif.messages == [20] && t.faults.holdoff == [(20, 100000)]) = true ∧
    sees (.vectorHoldoffExpiry 20) (spaced [] 100000) (fun t => t.hif.messages.isEmpty && t.faults.holdoff.isEmpty) = true ∧
    sees (.vectorHoldoffExpiry 20) (spaced [20] 99999) (fun t => t.hif.messages.isEmpty) = true ∧
    sees (.vectorHoldoffExpiry 20) State.reset (fun t => t == State.reset) = true := by decide +kernel
theorem test_unmask : sees (.vectorUnmask 255) (hif { pendingBits := [255] }) (fun t => t.hif.messages == [255] && t.hif.pendingBits.isEmpty &&
      t.hif.unmasked == [255]) = true ∧
    (signalVector 4 State.reset).hif.pendingBits = [4] ∧ (signalVector 4 (hif { unmasked := [4] })).hif.messages = [4] := by decide +kernel
theorem test_register_write : (bar0Block 0xFFC).isSome = true ∧ (bar0Block 0x10101C).isSome = true ∧ bar0Block 0x1000 = none ∧ bar0Block 0x101020 = none ∧
    sees (.registerWrite (.control hak (own 3 0)) 0x3FFF) State.reset (fun t => (t.pan 0).seq.entry == 0x1FFF) = true ∧
    sees (.rcRead (.control hak (own 3 0))) State.reset (fun t => t == State.reset) = true := by decide +kernel
theorem test_register_refused : (match State.reset.controlSpan (mkSrc 0 1 0) 0 4 with | .ok l => !l.isEmpty && l.all fun r => openReg r.1 r.2 == false | _ => false) = true ∧
    State.reset.ownControl (mkSrc 5 1 0) = false ∧ (controlWrite (mkSrc 5 1 0) 0 [1, 0, 0, 0] State.reset).1 = 0x0A := by decide +kernel
theorem test_seq_ctl : ((writeReg false (.seq 3) 0x04 2 (onPan 3 { seq := { mode := .running } })).pan 3).seq.mode = .stopped ∧
    ((writeReg false (.seq 3) 0x04 1 (onPan 3 { seq := { progLen := 1 } })).pan 3).seq.mode = .running := by decide +kernel
theorem test_prog_busy : (writeReg false (.prog 3) 0 5 (onPan 3 { seq := { mode := .running } })).pan 3 = { seq := { mode := .running } } ∧
    ((writeReg false (.store 3) 0x20 0xFFFF (onPan 3 {})).pan 3).store.swz = [1, 2, 4, 8, 0xFFF] ∧
    (writeReg false .hif 0x08 5 (hif { ringOn := true })).hif.ringBase = 0 ∧ (writeReg false (.seq 3) 0x10 5 State.reset) = State.reset := by decide +kernel

/-! ### Gauges, faults and cores (chapter 16) -/

/-- Gauge 63 as g, at time t. -/
def gau (g : Gauge) (t : Nat) : State := { State.reset with gauges := [(63, g)], clock := { tide := t } }
/-- Gauge 63 after. -/
def G (t : State) : Gauge := t.gauge 63
/-- An event gauge of 10 µs windows with both thresholds. -/
def desc1 : GaugeDesc := { source := 1, windowNs := 10000, low := 2, high := 9, lowEn := true, highEn := true, width := 4 }
theorem test_gauge_config : descOk { desc1 with width := 0 } = true ∧
    sees (.gaugeConfig c9 63 { addr := 64, len := 64 } { desc1 with width := 0 }) { serving State.reset with clock := { tide := 1 } } (fun t =>
      (ended t).map (·.2.1) == [0] && (G t).enabled && (G t).began == 20000) = true ∧
    descOk { desc1 with reservedZero := false } = false ∧
    sees (.gaugeConfig c9 63 { addr := 64, len := 64 } { desc1 with reservedZero := false }) (serving State.reset) (fun t => ended t == [(0x0D, 2, 0x18, [])]) =
      true := by decide +kernel
theorem test_gauge_read : sees (.gaugeRead c9 63 { addr := 64, len := 256 }) (serving (gau { ring := [{ count := 3 }] } 0))
    (fun t => ended t == [(0x0E, 0, 256, [])]) = true := by decide +kernel
/-- A gauge that measures from time 0. -/
def measures : Gauge := { enabled := true, desc := desc1 }
theorem test_gauge_event : sees (.gaugeEvent 63 5 10000) (gau measures 0) (fun t => ((G t).opens.map fun e => (e.1, e.2.count, e.2.sum)) == [(1, 1, 5)]) = true ∧
    sees (.gaugeEvent 63 5 9999) (gau { measures with since := 10000 } 0) (fun t => t.faults.late == 1 && (G t).opens.isEmpty) = true ∧
    sees (.gaugeEvent 63 5 9999) (gau measures 20000) (fun t => t.faults.late == 0 && (G t).opens.length == 1) = true ∧
    sees (.gaugeEvent 63 5 9999) (gau measures 20001) (fun t => t.faults.late == 1 && (G t).opens.isEmpty) = true ∧
    sees (.gaugeEvent 63 5 9999) (gau { measures with began := 10000 } 0) (fun t => t == gau { measures with began := 10000 } 0) = true := by decide +kernel
/-- A level gauge sampled every 100 µs. -/
def level1 : Gauge := { enabled := true, desc := { source := 0x11, sampleNs := 100000, windowNs := 1000000 } }
theorem test_level : levelMin 0x11 ≠ none ∧ (gau level1 100000).measurable level1.desc = true ∧
    sees (.levelSample 63 5) (gau level1 100000) (fun t => ((G t).opens.map fun e => (e.1, e.2.count)) == [(0, 1)]) = true ∧
    sees (.levelSample 63 5) (gau level1 100001) (fun t => (G t).opens.isEmpty) = true := by decide +kernel
/-- A gauge whose window 0 holds three events. -/
def opened (lo hi : Bool) : Gauge := { enabled := true, desc := { desc1 with lowEn := lo, highEn := hi, low := 4, high := 2 }, opens := [(0, { count := 3, sum := 3, min := 1, max := 1 })] }
theorem test_window_close : sees (.windowClose 63) (gau (opened false false) 19999) (fun t => (G t).ring.isEmpty) = true ∧
    sees (.windowClose 63) (gau (opened false false) 20000) (fun t => (G t).ring.length == 1 && (G t).opens.isEmpty && (G t).since == 10000) = true ∧
    sees (.windowClose 63) (gau (opened true true) 20000) (fun t => (t.faults.unmirrored.map (·.type)) == [0x10] && (G t).ring.length == 1) = true := by decide +kernel
/-- The faults block as f. -/
def flt (f : Faults) : State := { State.reset with faults := f }
/-- A record that names job 3. -/
def rec1 : FaultRec := { type := 2, cls := 2, code := 1, unitCls := 2, unitIdx := 5, jobs := 8 }
theorem test_mirror : coalesces rec1 { seq := 1, record := rec1 } = true ∧
    sees .faultMirror (flt { unmirrored := [rec1], log := [{ seq := 1, record := rec1 }] }) (fun t => (t.faults.log.map (·.repeats)) == [1] &&
      t.faults.unmirrored.isEmpty) = true ∧
    sees .faultMirror (flt { unmirrored := [rec1] }) (fun t => (t.faults.log.map (·.seq)) == [1] && t.faults.next == 2 && look 0 t.faults.classes 2 == 1) = true ∧
    coalesces rec1 { seq := 1, record := { rec1 with code := 2 } } = false ∧
    sees .faultMirror (flt { unmirrored := [rec1], log := [{ seq := 1, record := { rec1 with code := 2 } }], next := 2 }) (fun t => t.faults.log.length == 2) = true ∧
    sees .faultMirror State.reset (fun t => t == State.reset) = true := by decide +kernel
theorem test_device_fatal : sees (.deviceFatal { rec1 with cls := 7 }) State.reset (fun t => t.faults.fatalN && (t.faults.log.map (·.seq)) == [1] &&
    t.faults.fatal.isSome) = true := by decide +kernel
theorem test_fault_read : sees (.faultRead c9 1 { addr := 64, len := 128 } 2) { serving State.reset with faults := { log := [{ seq := 1, record := rec1 }], next := 2 } }
      (fun t => ended t == [(0x0F, 0, 1, [2, 0])] && t.faults.readTo == 1) = true ∧
    sees (.faultRead c9 5 { addr := 64, len := 128 } 2) (serving State.reset) (fun t => (ended t).length == 1) = true := by decide +kernel
theorem test_heartbeat : sees .heartbeat { State.reset with clock := { tide := 7 } } (fun t => t.hif.heartbeat == 7) = true ∧
    sees .heartbeat { hif { coreRuns := false } with clock := { tide := 7 } } (fun t => t.hif.heartbeat == 0) = true := by decide +kernel
theorem test_takeover : sees .coreTakeover { State.reset with clock := { tide := 1000000 } } (fun t => t.hif.lead == 1 && t.hif.takeovers == 1 &&
      (t.hif.heldEntries.map (·.kind)) == [6]) = true ∧
    sees .coreTakeover { State.reset with clock := { tide := 999999 } } (fun t => t.hif.lead == 0) = true ∧
    sees .coreTakeover { flt { fatal := some { seq := 1, record := rec1 } } with hif := { standby := [] }, clock := { tide := 1000000 } } (fun t => !t.hif.coreRuns) = true := by
  decide +kernel
theorem test_diff : sees (.diffOffset 0xFFFFFFFF) State.reset (fun t => t.boot.diffOffset == 0xFFFFFFFC) = true ∧
    sees .diffData { State.reset with boot := { diffOffset := 0xFFFFFFFC } } (fun t => t.boot.diffOffset == 0) = true := by decide +kernel

/-! ### Security (chapter 17) -/

/-- The security subsystem as x. -/
def sec (x : Security) : State := { State.reset with sec := x }
theorem test_dbg_challenge : sees (.dbgChallenge 77) State.reset (fun t => t.sec.nonce == some (77, 0)) = true ∧
    sees (.dbgChallenge 77) (sec { service := false }) (fun t => t == sec { service := false }) = true := by decide +kernel
/-- A token for nonce 77. -/
def token1 : DebugToken := { scope := 2, nonce := 77, sigOk := true }
/-- The nonce 77 was issued at time 0. -/
def challenged : Security := { nonce := some (77, 0) }
theorem test_dbg_token : sees (.dbgToken token1) (sec challenged) (fun t => t.sec.unlocking == some 2 && t.sec.tokenStatus == some 0 && !t.hif.taking) = true ∧
    sees (.dbgToken token1) (sec { challenged with entropyFailed := true }) (fun t => t.sec.tokenStatus == some 4) = true ∧
    sees (.dbgToken { token1 with sigOk := false }) (sec challenged) (fun t => t.sec.tokenStatus == some 1) = true ∧
    sees (.dbgToken { token1 with nonce := 78 }) (sec challenged) (fun t => t.sec.tokenStatus == some 2 && t.sec.nonce == none) = true ∧
    sees (.dbgToken token1) { sec challenged with clock := { tide := 600000000000 } } (fun t => t.sec.tokenStatus == some 2) = true ∧
    sees (.dbgToken token1) { sec challenged with jobs := [(3, {})] } (fun t => t.sec.tokenStatus == some 3) = true := by decide +kernel
theorem test_zeroised : sees .debugZeroiseDone { sec { unlocking := some 2 } with storeMem := [(0, 1)], brineMem := [(0, 1)] } (fun t => t.sec.scope == 2 &&
      t.storeMem.isEmpty && t.brineMem.isEmpty && t.hif.taking) = true ∧
    sees .debugZeroiseDone State.reset (fun t => t == State.reset) = true := by decide +kernel
theorem test_nonce_expiry : sees .nonceExpiry { sec challenged with clock := { tide := 600000000000 } } (fun t => t.sec.nonce == none) = true ∧
    sees .nonceExpiry { sec challenged with clock := { tide := 599999999999 } } (fun t => t.sec.nonce.isSome) = true := by decide +kernel
theorem test_spdm : sees .getVersion State.reset (fun t => t.sec.answers == [.version 1 3]) = true ∧
    sees .getCapabilities State.reset (fun t => t.sec.answers == [.capabilities true true true false]) = true ∧
    sees .negotiateAlgorithms State.reset (fun t => t.sec.answers == [.algorithms "TPM_ALG_SHA3_512" 0x1F3D 1]) = true ∧
    sees (.spdmUnsupportedRequest 255) State.reset (fun t => t.sec.answers == [.unsupportedRequest]) = true ∧
    sees (.challenge 5) (sec { entropyFailed := true }) (fun t => t.sec.answers == [.unspecified]) = true ∧
    sees .entropyTestFail State.reset (fun t => t.sec.entropyFailed) = true := by decide +kernel
theorem test_spdm_signed : sees (.challenge 5) State.reset (fun t => t.sec.signed == 1 && t.draws == 1) = true ∧
    sees (.getMeasurements 5) State.reset (fun t => t.sec.signed == 1) = true ∧
    sees (.getMeasurements 0xFF) State.reset (fun t => t.sec.signed == 1 && t.draws == 1) = true := by decide +kernel

/-! ### Bring-up (chapter 14) -/

/-- The bring-up block as b. -/
def boot (b : Boot) : State := { State.reset with boot := b }
theorem test_pwrgd : sees (.pwrgdRelease ⟨3, true⟩ false true) { State.reset with powered := false } (fun t => t.powered && t.boot.phase == 1 && t.boot.strap == 3 &&
      t.sec.service) = true ∧
    sees (.pwrgdRelease ⟨3, true⟩ false false) { State.reset with powered := false } (fun t => t.boot.state == .refused && !t.sec.service) = true ∧
    sees (.pwrgdRelease ⟨3, true⟩ true true) { State.reset with powered := false } (fun t => t.boot.heldReset) = true ∧
    sees (.pwrgdRelease ⟨3, true⟩ false true) { State.reset with powered := false, faults := { thermtripN := true } } (fun t => t.faults.thermtripN) = true ∧
    sees (.pwrgdRelease ⟨3, false⟩ false true) { State.reset with powered := false, faults := { thermtripN := true } } (fun t => !t.faults.thermtripN) = true ∧
    sees .pwrgdFall State.reset (fun t => !t.powered) = true ∧
    sees .pllLockLoss State.reset (fun t => !t.powered && t.faults.fatalN) = true := by decide +kernel
theorem test_resets : sees (.perstNAssert 1000 true) State.reset (fun t => t.boot.warm && t.boot.phase == 1) = true ∧
    sees (.perstNAssert 500 true) State.reset (fun t => t == State.reset) = true ∧
    sees (.resetNRelease 1000 true) State.reset (fun t => t.boot.warm) = true ∧
    sees (.resetNRelease 500 true) State.reset (fun t => t == State.reset) = true ∧
    sees (.pcieHotReset true) State.reset (fun t => t.boot.warm) = true ∧
    sees (.resetNRelease 0 true) (boot { heldReset := true, phase := 1 }) (fun t => !t.boot.heldReset) = true ∧
    sees (.pcieHotReset true) (boot { heldReset := true }) (fun t => t == boot { heldReset := true }) = true := by decide +kernel
/-- Bring-up stands at phase n with these firmware slots. -/
def fw (n : Nat) (a b : Option FwImage) (c : Option Nat) : State := { boot { phase := n } with sec := { slot0 := a, slot1 := b, chosen := c, running := none } }
/-- A signed image of a build number. -/
def built (n : Nat) : FwImage := { build := n, sigOk := true }
theorem test_select : sees .firmwareSelect (fw 1 (some (built 1)) (some (built 2)) none) (fun t => t.sec.chosen == some 1 && t.boot.phase == 2) = true ∧
    sees .firmwareSelect (fw 1 (some (built 1)) (some (built 1)) none) (fun t => t.sec.chosen == some 0) = true ∧
    sees .firmwareSelect (fw 1 (some (built 1)) none none) (fun t => t.sec.chosen == some 0) = true ∧
    sees .firmwareSelect (fw 1 none (some (built 1)) none) (fun t => t.sec.chosen == some 1) = true ∧
    sees .firmwareSelect (fw 1 none none none) (fun t => t.boot.state == .refused) = true := by decide +kernel
theorem test_body : sees .firmwareBodyCheck (fw 2 (some (built 1)) none (some 0)) (fun t => t.sec.running == some 0 && t.boot.phase == 3) = true ∧
    sees .firmwareBodyCheck (fw 2 (some { built 1 with bodyDigest := 1 }) (some (built 1)) (some 0)) (fun t => t.sec.chosen == some 1 && t.sec.failed == [0]) = true ∧
    sees .firmwareBodyCheck (fw 2 (some { built 1 with bodyDigest := 1 }) none (some 0)) (fun t => t.boot.state == .refused) = true := by decide +kernel
theorem test_config_retry : sees .configRequestRetry (boot { phase := 2 }) (fun t => t.hif.configRetries == 1 && t.hif.configReads.isEmpty) = true ∧
    sees .configRequestRetry (boot { state := .ready }) (fun t => t.hif.configRetries == 0 && [(0, 0x00121F3D), (8, 0x120000A1), (0x80, 0x80FF0011), (0x16C, 0x0001002F)].all t.hif.configReads.contains) = true := by decide +kernel
theorem test_arb_commit : sees .arbCommit { boot { state := .ready, commitDue := true } with sec := { slot0 := some { svn := 5, arbCommit := true, revokeOther := true } } }
      (fun t => t.sec.arb == 5 && t.sec.revoke == 2 && !t.boot.commitDue) = true ∧
    sees .arbCommit State.reset (fun t => t == State.reset) = true := by decide +kernel
/-- A record of the board: 4 by 2 by 1 positions, this device at (1, 1, 0), all cellar sites, with its CRC or another word. -/
def board (bad : Nat) : List Byte :=
  let head := words [0xB0C50100, 0xFFFFFF, 9600 * 16 + 4, 3 * 256 + 16, 256 + 16, 0, 2 ^ 31 + 7, 0, 0, 2, 0, 0, 0, 0, 0]
  head ++ leBytes ((crc32c head + bad) % 2 ^ 32) 4
-- the stepping alone settles FUSE_AUTH here: FM_DIGEST is 1,264 bytes of SHAKE256
theorem test_factory_map : sees (.factoryMapCheck (board 0)) (boot { phase := 3, fuses := { stepping := 0 } }) (fun t => t.boot.found == 1 &&
      t.boot.bcr == { dx := 4, dy := 2, dz := 1, x := 1, y := 1, z := 0, exp := [none, some 7, none, none], portsDisabled := 2 }) = true ∧
    sees (.factoryMapCheck (board 1)) (boot { phase := 3, fuses := { stepping := 0 } }) (fun t => t.boot.found == 3 && t.boot.bcr.sites == 0) = true ∧
    sees (.factoryMapCheck []) (boot { phase := 3, bcrFlash := board 0, fuses := { stepping := 0 } }) (fun t => t.boot.found == 1 && t.boot.bcr.dx == 4) =
      true := by decide +kernel
theorem test_list_check : sees (.assayListCheck []) (boot { phase := 3 }) (fun t => t.boot.phase == 4 && t.boot.listUsed == 0 &&
    (t.chan 95).mode == .training) = true := by decide +kernel
-- a tag chain with a torn append, a failed last record, and a damaged record (R407), under a toy tag
theorem test_tag_chain : let tag (v : Nat) (r : AssayRecord) : Nat := 2 * v + r.index + 1
    let l := chainRecords tag 0 [{ type := 2, index := 7 }, { type := 2, index := 9 }, { type := 1 }]
    let torn : AssayRecord := { type := 2, index := 1, tag := 4 }
    (l.map (·.tag) = [8, 26, 53]) ∧ tagChain tag 0 l = (l, false) ∧
    tagChain tag 0 (l.take 2 ++ [torn] ++ l.drop 2) = (l, false) ∧ tagChain tag 0 (l ++ [torn]) = (l, false) ∧
    (tagChain tag 0 (torn :: torn :: l)).2 = true := by decide +kernel
theorem test_assay_complete : sees (.assayComplete { bad := [⟨9, 7, 0⟩] }) { boot { phase := 4 } with chans := [(7, {}), (8, {})] } (fun t => t.boot.phase == 6 &&
    (t.chan 7).mode == .failed && (t.chan 8).mode == .active) = true := by decide +kernel
theorem test_cellar_pass : sees (.cellarAssayPass 7) { State.reset with chans := [(7, { mode := .training })] } (fun t => (t.chan 7).mode == .filling &&
      t.memdev.cellarFill) = true ∧
    sees (.cellarAssayPass 7) State.reset (fun t => t == State.reset) = true := by decide +kernel
theorem test_cellar_fill : sees .cellarFillDone { State.reset with memdev := { cellarFill := true }, chans := [(7, { mode := .filling })], cellarMem := [(3, 1)] } (fun t =>
    !t.memdev.cellarFill && t.cellarMem.isEmpty && (t.chan 7).mode == .active) = true := by decide +kernel
theorem test_brine_fill : sees .brineFillDone { State.reset with memdev := { brineFill := true }, slices := [(7, { mode := .filling })] } (fun t =>
      !t.memdev.brineFill && (t.slice 7).mode == .awake) = true ∧
    sees .brineFillDone { boot { phase := 8 } with memdev := { brineFill := true } } (fun t => t.boot.phase == 9) = true := by decide +kernel
theorem test_idle_reserve : sees (.idleReserveFail 2) State.reset (fun t => (t.topoOf 2).resState == 3 && (t.region 26).fenced && (t.region 26).pwr == .gated) = true ∧
    sees (.idleReserveFail 2) { State.reset with topo := [(2, { resState := 3 })] } (fun t => !(t.region 26).fenced) = true := by decide +kernel
theorem test_port_trained : (allUp.peerOk 2 5 3 = false) ∧
    sees (.portTrained 2 8 5 3) { allUp with fin := { allUp.fin with ports := [(2, { state := 1 })] } } (fun t => (F2 t).state == 4 && bit t.boot.found 8) = true ∧
    sees (.portTrained 2 7 5 3) (fin2 { state := 1 } 0) (fun t => (F2 t).state == 1) = true ∧
    sees (.peerTimeout 2) (fin2 { state := 1, trainFrom := some 5 } 2000000005) (fun t => (F2 t).state == 4) = true ∧
    sees (.peerTimeout 2) (fin2 { state := 1, trainFrom := some 5 } 2000000004) (fun t => (F2 t).state == 1) = true ∧
    sees (.peerTimeout 2) (fin2 { state := 2 } 0) (fun t => (F2 t).state == 2) = true := by decide +kernel
/-- Port 0 (towards greater x) trains with device 1's port. -/
def trains : State := { State.reset with fin := { dx := 4, selfPos := some (0, 0, 0), ports := [(0, { state := 1 })] } }
theorem test_port_good : ((List.range 16).any fun p => trains.peerOk 0 1 p && sees (.portTrained 0 8 1 p) trains (fun t => (t.port 0).state == 2 &&
    (t.port 0).peer == some (1, p))) = true := by decide +kernel
/-- Bring-up stands at the agreement, and found these causes before. -/
def agrees (found : Nat) : State := boot { phase := 9, found := found }
theorem test_agreement_bad : sees (.topologyAgreement {} none none) (agrees 2) (fun t => t.boot.state == .notReady && bit t.boot.diff.cause 1 && t.hif.taking) =
    true := by decide +kernel
theorem test_agreement_good : sees (.topologyAgreement { densities := (List.range 24).map fun i => (i, 4) } none none) (agrees 0) (fun t =>
      t.boot.state == .ready && t.boot.phase == 10) = true ∧
    sees (.topologyAgreement { densities := (List.range 24).map fun i => (i, 4), routers := [70] } none none) (agrees 0) (fun t =>
      t.boot.state == .notReady && t.boot.diff.cause == 16 && t.boot.diff.entries == [(3, 1, 0, 1, 70)]) = true := by decide +kernel
theorem test_list_update : sees .assayListUpdate (boot { phase := 6, bad := [⟨2, 7, 0⟩] }) (fun t => t.boot.phase == 8 && t.boot.epoch == 1 &&
    t.boot.list.length == 1 && t.memdev.n == 1620 && ((t.topoOf 0).rtt.map (·.spare)) == [7, 14, 14, 14, 14, 14, 14, 14]) = true := by decide +kernel
theorem test_agreement_other : sees (.topologyAgreement {} none none) (boot { state := .ready }) (fun t => t == boot { state := .ready }) = true := by decide +kernel

/-! ### Every command and the queue -/

theorem test_queue : Machine.step { State.reset with pending := [.heartbeat, .getVersion] } = exec .heartbeat { State.reset with pending := [.getVersion] } := rfl
theorem test_idle : (match Machine.step State.reset with | .next t => t.clock.tide == 1 && t.pending.isEmpty | _ => false) = true := by decide +kernel
theorem test_unpowered : sees .heartbeat { State.reset with powered := false } (fun t => t == { State.reset with powered := false }) = true ∧
    (match Machine.step { State.reset with powered := false } with | .next t => t == { State.reset with powered := false } | _ => false) = true := by decide +kernel
theorem test_partials : (List.replicate 32 (-128 : Int)).length = 32 ∧ dot (List.replicate 32 (-128)) (List.replicate 32 (-128)) = 2 ^ 19 ∧
    dot (List.replicate 32 (-8)) (List.replicate 32 (-128)) = 2 ^ 15 ∧ dot (List.replicate 32 (-8)) (List.replicate 32 (-8)) = 2 ^ 11 := by decide +kernel
theorem test_store_mapping : bankOf [1, 2, 4, 8, 16] (64 * 33) = 0 ∧ bankOf [1, 2, 4, 8, 16] (64 * 131071) = 0 ∧ placeOf [1, 2, 4, 8, 16] (64 * 32 + 5) = 2 ^ 18 + 64 + 5 := by
  decide +kernel

/-! ### The package (chapter 18; the worked examples of R492 to R496 and the table of VIN lands) -/

theorem test_lands : rowName 20 = ['A', 'A'] ∧ rowName 39 = ['B', 'A'] ∧ rowName 118 = ['F', 'D'] ∧ rowName 93 = ['D', 'V'] ∧ rowName 112 = ['E', 'V'] ∧
    rowName 61 = ['C', 'D'] ∧ landCentre 93 18 = (17050, 106150) ∧ landAt 93 18 = some (.cellar 37 "DQ5") ∧ landAt 112 67 = some (.finron 11 3 "RX_C") ∧
    landAt 61 95 = some (.vinSense 6) ∧ landAt 61 96 = some (.vssSense 6) ∧ landField 61 95 = 6 ∧ landAt 118 165 = none := by decide +kernel
theorem test_vin_lands : vinLands 1 = 478 ∧ vinLands 2 = 477 := by decide +kernel

/-! ### Ill-formed commands: for each check of `Instr.wf` a command in range that it passes, and the same with one operand out of range,
which it refuses -/

theorem test_ill_formed_unit_1 : (([.cellarAssayPass, .wck2dqTracking, .rfm] : List (Nat → Instr)).all fun f => (f (96 - 1)).wf && !(f (96)).wf) = true := by decide +kernel
theorem test_ill_formed_unit_2 : (([.peerTimeout, .linkReplayTimer, .stepDispatch, .stepCommit, .sharesDoneResend, .shareReplayResend, .replayQuiesced, .replayResume,
  .zeroisation, .zeroisationDone, .gradeRequest, .quiesceTimeLimit] : List (Nat → Instr)).all fun f => (f (16 - 1)).wf && !(f (16)).wf) = true := by decide +kernel
theorem test_ill_formed_unit_3 : (([.idleReserveFail, .wakeAdmit, .wakeAdmitTimeout, .wakeRampDone, .wakeRegulated] : List (Nat → Instr)).all fun f => (f (12 - 1)).wf && !(f (12)).wf) = true := by decide +kernel
theorem test_ill_formed_unit_4 : (([.go, .stop, .faultClear, .fnop, .wfeed, .hload, .tend, .dnop, .dout, .drld, .dwait, .rnop, .rld, .rst, .radds, .rsubs, .rmin, .rmax,
  .rmsh, .rshrv, .rbc, .rqset, .rredq, .rfold, .rdiv, .rexp2, .rsig, .rpack, .rbnd, .rxmax] : List (Nat → Instr)).all fun f => (f (1620 - 1)).wf && !(f (1620)).wf) = true := by decide +kernel
theorem test_ill_formed_unit_5 : (([.rssq, .rnvar, .rrsq, .rnpack, .mnop, .lset, .loop, .jmp, .spin, .halt, .agld, .tile, .notice, .swait, .ssig, .notify, .fence, .wopen,
  .wclose, .hstart, .done, .swaitResume, .waitTimeout, .fenceComplete, .dwaitRelease, .westFeedBegin, .northLoadBegin, .burstHoldEnd,
  .drainEntry, .drldGrain] : List (Nat → Instr)).all fun f => (f (1620 - 1)).wf && !(f (1620)).wf) = true := by decide +kernel
theorem test_ill_formed_unit_6 : (([.doutComplete, .correctionWriteback, .poisonRewrite, .ovfLogClear, .bankFillDone, .storeFillDone, .sliceDrained, .sliceSleepBound, .wake,
  .sliceFillDone, .standInSlice, .reservedOpcode] : List (Nat → Instr)).all fun f => (f (1620 - 1)).wf && !(f (1620)).wf) = true := by decide +kernel
theorem test_ill_formed_unit_7 : (([.chainRendezvous, .chainTimeout, .loadNoticeArrival, .peakEnd, .restDeadline, .regionWake, .regionClockFail] : List (Nat → Instr)).all fun f => (f (108 - 1)).wf && !(f (108)).wf) = true := by decide +kernel
theorem test_ill_formed_unit_8 : (([.haulFlushComplete] : List (Nat → Instr)).all fun f => (f (32 - 1)).wf && !(f (32)).wf) = true := by decide +kernel
theorem test_ill_formed_unit_9 : (([.ptmMeasure] : List (Nat → Instr)).all fun f => (f (2 ^ 64 - 1)).wf && !(f (2 ^ 64)).wf) = true := by decide +kernel
theorem test_ill_formed_unit_10 : (Instr.powerEvaluation (rail 65535)).wf = true ∧ (Instr.powerEvaluation (rail 65536)).wf = false ∧
    (Instr.powerEvaluation { vin := 1, fields := [] }).wf = false := by decide +kernel
theorem test_ill_formed_unit_11 : (([.doorbell, .windowClose] : List (Nat → Instr)).all fun f => (f (64 - 1)).wf && !(f (64)).wf) = true := by decide +kernel
theorem test_ill_formed_unit_12 : (([.ringHeadWrite, .diffOffset] : List (Nat → Instr)).all fun f => (f (2 ^ 32 - 1)).wf && !(f (2 ^ 32)).wf) = true := by decide +kernel
theorem test_ill_formed_unit_13 : (([.dbgChallenge, .challenge] : List (Nat → Instr)).all fun f => (f (2 ^ 256 - 1)).wf && !(f (2 ^ 256)).wf) = true := by decide +kernel
theorem test_ill_formed_unit_14 : (([.getMeasurements, .spdmUnsupportedRequest, .vectorHoldoffExpiry, .vectorUnmask] : List (Nat → Instr)).all fun f => (f (256 - 1)).wf && !(f (256)).wf) = true := by decide +kernel
theorem test_well_formed_1 : (([.pwrgdRelease ⟨3, true⟩ false true, .factoryMapCheck (List.replicate 64 0), .configRequestRetry, .portTrained 15 8 8191 15, .semClear 1619 0, .heldColumnWrite 1619 [], .westSlotIssue 1619 [],
  .feedLost 1619 0, .bankSleep 1619 0, .bankWake 1619 0, .patrolScrub 1619 [], .winClose 1619 0, .sleep 1619 true, .sliceScrub 1619 [],
  .semNotify 1619 15 1, .entryUpdate 1619 63, .narrowAccess 1619 31 [], .starvation 1619 31, .bankDrained 1619 31, .bankSleepBound 1619 31,
  .sliceFail 1619 1, .internalCheckFail 1619 6, .ceTableClear (.pan 1619), .debugAccess 1619 8 (some 5), .refresh 1619 15 2047 ⟨0, false⟩,
  .refreshIntervalChange 11 0, .cellarScrub 95 [], .cellarChannelFail 95 1, .mr4Read 95 255, .perBankRefresh 95 15, .start (.pan 1619 3),
  .pause (.pan 1619 3), .hostReadCompletion 31 0 true [], .rdData { op := 0x21 }, .wrAck { op := 0x22 }, .mcWr ⟨{ op := 4 }, []⟩, .busWr { op := 5 }] : List Instr).all fun i => i.wf) = true := by decide +kernel
theorem test_well_formed_2 : (([.atomicData { op := 0x23 }, .reduce { op := 6 }, .reduceAck { op := 0x26 }, .barrier { op := 0x12 }, .rd { op := 1 } [],
  .haulError { op := 0x21, status := 2 }, .wr ⟨{ op := 2 }, false⟩, .urgWr { op := 0x10 }, .atomic { op := 3 }, .commit { op := 0x11 },
  .commitBounce { op := 0x10 }, .routerFail 59 26, .rowDeadSet 59 26, .arrive 63 63, .headerUnitReceive 15 (head 1) clean,
  .payloadUnitReceive 15 clean (List.replicate 64 0), .linkIdle 15 4095 3 4095, .linkNak 15 4095, .linkLane 15 0xF6543218 0,
  .laneJudge 15 8 true, .creditReturn 15 3, .sharesDone 8190 { kind := 1 }, .shareReplay 8190 { kind := 3 }, .replayAck 8190 { kind := 4 },
  .memberFailure 15 8190, .tideExchange 15 ⟨0, 0⟩, .tideStampMessage 15 ⟨0, 0⟩ ⟨0, 0⟩, .fastCurrentLoop 11 0 ⟨[{ region := 107 }], [], 65535⟩,
  .minvInterval 107 1023 0 ⟨[(1023, 0)]⟩, .thermalSample 107 ⟨32767, -32768⟩, .phaseFail 107 11, .phaseFail 135 5, .budgetReport 65535 10000,
  .budgetLimitReceive { kind := 2, group := 0, device := 8191, hi := 65535, lo := 65535 }, .energyCharge [(107, 1)] [{ uj := 1, units := [(15, 1)] }] 0,
  .imageLoad c9 {} bare] : List Instr).all fun i => i.wf) = true := by decide +kernel
theorem test_well_formed_3 : (([.jobCreate c9 (2 ^ 32 - 1) (2 ^ 32 - 1) (2 ^ 32 - 1) (2 ^ 32 - 1) (2 ^ 32 - 1), .place c9 (2 ^ 64 - 1) {}, .run c9 (2 ^ 32 - 1) (2 ^ 32 - 1),
  .step c9 (2 ^ 32 - 1), .resume c9 (2 ^ 32 - 1), .kill c9, .energyQuery c9, .assayReport c9 {},
  .dump c9 (2 ^ 32 - 1) (2 ^ 32 - 1) (2 ^ 64 - 1) {}, .lotAlloc c9 (2 ^ 32 - 1) (2 ^ 32 - 1), .lotFree c9 (2 ^ 64 - 1),
  .powerPolicy c9 (2 ^ 32 - 1) (2 ^ 32 - 1) (2 ^ 32 - 1), .budgetJoin c9 (2 ^ 32 - 1) (2 ^ 32 - 1) (2 ^ 32 - 1) { len := 2 } two,
  .gaugeConfig c9 (2 ^ 32 - 1) {} desc1, .gaugeRead c9 (2 ^ 32 - 1) {}, .faultRead c9 (2 ^ 64 - 1) {} (2 ^ 32 - 1),
  .aliasSet c9 {} [2 ^ 32 - 1], .fwUpdate c9 {} {}, .attest c9 (2 ^ 256 - 1) {},
  .transfer c9 (2 ^ 64 - 1) (2 ^ 64 - 1) (2 ^ 32 - 1) (2 ^ 32 - 1) (2 ^ 32 - 1), .atomicCmd c9 (2 ^ 64 - 1) 15 (2 ^ 28 - 1) (2 ^ 64 - 1) (2 ^ 32 - 1),
  .tagQuery c9 [2 ^ 64 - 1], .ringEnable 16, .apertureWrite true (2 ^ 32 - 1), .bar2Write (2 ^ 36 - 1) [0], .bar2Write 0 (List.replicate 512 0),
  .bar2Read (2 ^ 36 - 4096) 4096 16383, .bar2Read 0 4096 0, .gaugeEvent 63 (-(2 ^ 63)) (2 ^ 64 - 1), .levelSample 63 (2 ^ 63 - 1),
  .deviceFatal { type := 255, cls := 7, code := 65535, unitCls := 15, unitIdx := 65535, addr := 2 ^ 64 - 1, detail := 2 ^ 32 - 1, jobs := 65535 },
  .dbgToken { header := 65535, keySlot := 255, scope := 255, serial := 2 ^ 64 - 1, nonce := 2 ^ 256 - 1 }, .registerWrite (.bar0 0) (2 ^ 32 - 1)] : List Instr).all fun i => i.wf) = true := by decide +kernel
theorem test_ill_formed_1 : (([.factoryMapCheck [0], .portTrained 16 8 8191 15,
  .portTrained 15 8 8192 15, .portTrained 15 8 8191 16, .semClear 1620 0, .heldColumnWrite 1620 [], .westSlotIssue 1620 [], .feedLost 1620 0,
  .bankSleep 1620 0, .bankWake 1620 0, .patrolScrub 1620 [], .winClose 1620 0, .sleep 1620 true, .sliceScrub 1620 [], .semNotify 1620 15 1,
  .semNotify 1619 16 1, .entryUpdate 1620 63, .entryUpdate 1619 64, .narrowAccess 1620 31 [], .narrowAccess 1619 32 [], .starvation 1620 31,
  .starvation 1619 32, .bankDrained 1620 31, .bankDrained 1619 32, .bankSleepBound 1620 31, .bankSleepBound 1619 32] : List Instr).all fun i => !i.wf) = true := by decide +kernel
theorem test_ill_formed_2 : (([.sliceFail 1620 1, .sliceFail 1619 2, .internalCheckFail 1620 6, .internalCheckFail 1619 7, .ceTableClear (.pan 1620),
  .ceTableClear (.slice 1620), .ceTableClear (.channel 96), .debugAccess 1620 8 (some 5), .debugAccess 1619 (2 ^ 23) (some 5),
  .debugAccess 1619 9 (some 5), .debugAccess 1619 8 (some (2 ^ 64)), .refresh 1620 15 2047 ⟨0, false⟩, .refresh 1619 16 2047 ⟨0, false⟩, .refresh 1619 15 2048 ⟨0, false⟩,
  .refreshIntervalChange 12 0, .cellarScrub 96 [], .cellarChannelFail 96 1, .cellarChannelFail 95 2, .mr4Read 96 255, .mr4Read 95 256,
  .perBankRefresh 96 15, .perBankRefresh 95 16, .start (.pan 1620 3), .start (.pan 1619 4), .start (.cc 32), .pause (.pan 1620 3),
  .pause (.pan 1619 4), .pause (.cc 32), .hostReadCompletion 32 0 true [], .rdData { op := 0x3F }, .wrAck { op := 0x3F }, .mcWr ⟨{ op := 0x3F }, []⟩,
  .busWr { op := 0x3F }, .atomicData { op := 0x3F }, .reduce { op := 0x3F }, .reduceAck { op := 0x3F }] : List Instr).all fun i => !i.wf) = true := by decide +kernel
theorem test_ill_formed_3 : (([.barrier { op := 0x3F }, .rd { op := 2 } [], .haulError { op := 0x21 }, .wr ⟨{ op := 0x3F }, false⟩, .wr ⟨{ op := 2, bytes := 1 }, false⟩, .urgWr { op := 0x3F },
  .urgWr { op := 0x10, bytes := 1 }, .atomic { op := 0x3F }, .atomic { op := 3, bytes := 1 }, .commit { op := 0x3F },
  .commit { op := 0x11, bytes := 1 }, .commitBounce { op := 0x3F }, .commitBounce { op := 0x10, bytes := 1 }, .routerFail 60 26,
  .routerFail 59 27, .rowDeadSet 60 26, .rowDeadSet 59 27, .arrive 64 63, .arrive 63 64, .headerUnitReceive 16 (head 1) clean,
  .headerUnitReceive 15 (head 1) { lane := 9 }, .payloadUnitReceive 16 clean (List.replicate 64 0),
  .payloadUnitReceive 15 { lane := 9 } (List.replicate 64 0), .payloadUnitReceive 15 clean [], .linkIdle 16 4095 3 4095,
  .linkIdle 15 4096 3 4095, .linkIdle 15 4095 4 4095, .linkIdle 15 4095 3 4096, .linkNak 16 4095, .linkNak 15 4096, .linkLane 16 0xF6543218 0,
  .linkLane 15 (2 ^ 32) 0, .laneJudge 16 8 true, .laneJudge 15 9 true, .creditReturn 16 3, .creditReturn 15 4] : List Instr).all fun i => !i.wf) = true := by decide +kernel
theorem test_ill_formed_4 : (([.sharesDone 8191 { kind := 1 }, .shareReplay 8191 { kind := 3 }, .shareReplay 8190 { kind := 4 }, .replayAck 8191 { kind := 4 },
  .replayAck 8190 { kind := 3 }, .memberFailure 16 8190, .memberFailure 15 8191, .tideExchange 16 ⟨0, 0⟩, .tideStampMessage 16 ⟨0, 0⟩ ⟨0, 0⟩,
  .fastCurrentLoop 12 0 ⟨[{ region := 107 }], [], 65535⟩, .fastCurrentLoop 11 0 ⟨[], [], 65536⟩, .fastCurrentLoop 11 0 ⟨[{ region := 108 }], [], 65535⟩, .minvInterval 108 1023 0 ⟨[]⟩, .minvInterval 107 1024 0 ⟨[]⟩,
  .minvInterval 107 1023 0 ⟨[(1024, 0)]⟩, .thermalSample 108 ⟨0, 0⟩, .thermalSample 107 ⟨0, 32768⟩, .thermalSample 107 ⟨-32769, 0⟩, .phaseFail 136 11,
  .phaseFail 107 12, .phaseFail 136 5, .phaseFail 135 6, .budgetReport 65536 10000, .budgetReport 65535 0,
  .budgetLimitReceive { kind := 2, group := 0, device := 8192, hi := 0, lo := 0 },
  .budgetLimitReceive { kind := 2, group := 0, device := 0, hi := 65536, lo := 0 },
  .budgetLimitReceive { kind := 2, group := 0, device := 0, hi := 0, lo := 65536 }, .energyCharge [(108, 1)] [{ uj := 1, units := [(15, 1)] }] 0,
  .energyCharge [(107, 1)] [{ uj := 1, units := [(16, 1)] }] 0, .imageLoad { c9 with tag := 2 ^ 64 } {} bare,
  .imageLoad c9 {} { layers := [[{ programs := List.replicate 15 {} }]] },
  .jobCreate { c9 with tag := 2 ^ 64 } (2 ^ 32 - 1) (2 ^ 32 - 1) (2 ^ 32 - 1) (2 ^ 32 - 1) (2 ^ 32 - 1),
  .jobCreate c9 (2 ^ 32) (2 ^ 32 - 1) (2 ^ 32 - 1) (2 ^ 32 - 1) (2 ^ 32 - 1),
  .jobCreate c9 (2 ^ 32 - 1) (2 ^ 32) (2 ^ 32 - 1) (2 ^ 32 - 1) (2 ^ 32 - 1),
  .jobCreate c9 (2 ^ 32 - 1) (2 ^ 32 - 1) (2 ^ 32) (2 ^ 32 - 1) (2 ^ 32 - 1),
  .jobCreate c9 (2 ^ 32 - 1) (2 ^ 32 - 1) (2 ^ 32 - 1) (2 ^ 32) (2 ^ 32 - 1),
  .jobCreate c9 (2 ^ 32 - 1) (2 ^ 32 - 1) (2 ^ 32 - 1) (2 ^ 32 - 1) (2 ^ 32)] : List Instr).all fun i => !i.wf) = true := by decide +kernel
theorem test_ill_formed_5 : (([.place { c9 with tag := 2 ^ 64 } (2 ^ 64 - 1) {}, .place c9 (2 ^ 64) {}, .run { c9 with tag := 2 ^ 64 } (2 ^ 32 - 1) (2 ^ 32 - 1),
  .run c9 (2 ^ 32) (2 ^ 32 - 1), .run c9 (2 ^ 32 - 1) (2 ^ 32), .step { c9 with tag := 2 ^ 64 } (2 ^ 32 - 1), .step c9 (2 ^ 32),
  .resume { c9 with tag := 2 ^ 64 } (2 ^ 32 - 1), .resume c9 (2 ^ 32), .kill { c9 with tag := 2 ^ 64 }, .kill { c9 with job := 256 },
  .kill { c9 with flags := 256 }, .energyQuery { c9 with tag := 2 ^ 64 }, .assayReport { c9 with tag := 2 ^ 64 } {},
  .dump { c9 with tag := 2 ^ 64 } (2 ^ 32 - 1) (2 ^ 32 - 1) (2 ^ 64 - 1) {}, .dump c9 (2 ^ 32) (2 ^ 32 - 1) (2 ^ 64 - 1) {},
  .dump c9 (2 ^ 32 - 1) (2 ^ 32) (2 ^ 64 - 1) {}, .dump c9 (2 ^ 32 - 1) (2 ^ 32 - 1) (2 ^ 64) {},
  .dump c9 (2 ^ 32 - 1) (2 ^ 32 - 1) (2 ^ 64 - 1) { len := 2 ^ 32 }, .dump c9 (2 ^ 32 - 1) (2 ^ 32 - 1) (2 ^ 64 - 1) { addr := 2 ^ 64 },
  .lotAlloc { c9 with tag := 2 ^ 64 } (2 ^ 32 - 1) (2 ^ 32 - 1), .lotAlloc c9 (2 ^ 32) (2 ^ 32 - 1), .lotAlloc c9 (2 ^ 32 - 1) (2 ^ 32),
  .lotFree { c9 with tag := 2 ^ 64 } (2 ^ 64 - 1), .lotFree c9 (2 ^ 64),
  .powerPolicy { c9 with tag := 2 ^ 64 } (2 ^ 32 - 1) (2 ^ 32 - 1) (2 ^ 32 - 1), .powerPolicy c9 (2 ^ 32) (2 ^ 32 - 1) (2 ^ 32 - 1),
  .powerPolicy c9 (2 ^ 32 - 1) (2 ^ 32) (2 ^ 32 - 1), .powerPolicy c9 (2 ^ 32 - 1) (2 ^ 32 - 1) (2 ^ 32),
  .budgetJoin { c9 with tag := 2 ^ 64 } (2 ^ 32 - 1) (2 ^ 32 - 1) (2 ^ 32 - 1) { len := 2 } two, .budgetJoin c9 (2 ^ 32) (2 ^ 32 - 1) (2 ^ 32 - 1) { len := 2 } two,
  .budgetJoin c9 (2 ^ 32 - 1) (2 ^ 32) (2 ^ 32 - 1) { len := 2 } two, .budgetJoin c9 (2 ^ 32 - 1) (2 ^ 32 - 1) (2 ^ 32) { len := 2 } two,
  .gaugeConfig { c9 with tag := 2 ^ 64 } (2 ^ 32 - 1) {} desc1, .gaugeConfig c9 (2 ^ 32) {} desc1,
  .gaugeRead { c9 with tag := 2 ^ 64 } (2 ^ 32 - 1) {}] : List Instr).all fun i => !i.wf) = true := by decide +kernel
theorem test_ill_formed_6 : (([.gaugeRead c9 (2 ^ 32) {}, .faultRead { c9 with tag := 2 ^ 64 } (2 ^ 64 - 1) {} (2 ^ 32 - 1), .faultRead c9 (2 ^ 64) {} (2 ^ 32 - 1),
  .faultRead c9 (2 ^ 64 - 1) {} (2 ^ 32), .aliasSet { c9 with tag := 2 ^ 64 } {} [2 ^ 32 - 1], .aliasSet c9 {} [2 ^ 32],
  .fwUpdate { c9 with tag := 2 ^ 64 } {} {}, .fwUpdate c9 { len := 2 ^ 64 } {}, .attest { c9 with tag := 2 ^ 64 } (2 ^ 256 - 1) {},
  .attest c9 (2 ^ 256) {}, .transfer { c9 with tag := 2 ^ 64 } (2 ^ 64 - 1) (2 ^ 64 - 1) (2 ^ 32 - 1) (2 ^ 32 - 1) (2 ^ 32 - 1),
  .transfer c9 (2 ^ 64) (2 ^ 64 - 1) (2 ^ 32 - 1) (2 ^ 32 - 1) (2 ^ 32 - 1),
  .transfer c9 (2 ^ 64 - 1) (2 ^ 64) (2 ^ 32 - 1) (2 ^ 32 - 1) (2 ^ 32 - 1),
  .transfer c9 (2 ^ 64 - 1) (2 ^ 64 - 1) (2 ^ 32) (2 ^ 32 - 1) (2 ^ 32 - 1),
  .transfer c9 (2 ^ 64 - 1) (2 ^ 64 - 1) (2 ^ 32 - 1) (2 ^ 32) (2 ^ 32 - 1),
  .transfer c9 (2 ^ 64 - 1) (2 ^ 64 - 1) (2 ^ 32 - 1) (2 ^ 32 - 1) (2 ^ 32),
  .atomicCmd { c9 with tag := 2 ^ 64 } (2 ^ 64 - 1) 15 (2 ^ 28 - 1) (2 ^ 64 - 1) (2 ^ 32 - 1), .atomicCmd c9 (2 ^ 64) 15 (2 ^ 28 - 1) (2 ^ 64 - 1) (2 ^ 32 - 1),
  .atomicCmd c9 (2 ^ 64 - 1) 16 (2 ^ 28 - 1) (2 ^ 64 - 1) (2 ^ 32 - 1), .atomicCmd c9 (2 ^ 64 - 1) 15 (2 ^ 28 - 1) (2 ^ 64) (2 ^ 32 - 1),
  .atomicCmd c9 (2 ^ 64 - 1) 15 (2 ^ 28 - 1) (2 ^ 64 - 1) (2 ^ 32), .tagQuery { c9 with tag := 2 ^ 64 } [2 ^ 64 - 1], .tagQuery c9 [2 ^ 64],
  .ringEnable 5, .ringEnable 17, .apertureWrite true (2 ^ 32), .bar2Write (2 ^ 36) [0], .bar2Write 0 (List.replicate 513 0),
  .bar2Read (2 ^ 36 - 4095) 4096 16383, .bar2Read (2 ^ 36 - 4096) 0 16383, .bar2Read (2 ^ 36 - 4096) 4096 16384, .bar2Read 0 4097 0,
  .gaugeEvent 64 (-(2 ^ 63)) (2 ^ 64 - 1), .gaugeEvent 63 (-(2 ^ 63) - 1) (2 ^ 64 - 1), .gaugeEvent 63 (2 ^ 63) (2 ^ 64 - 1),
  .gaugeEvent 63 (-(2 ^ 63)) (2 ^ 64)] : List Instr).all fun i => !i.wf) = true := by decide +kernel
theorem test_ill_formed_7 : (([.levelSample 64 (2 ^ 63 - 1), .levelSample 63 (-(2 ^ 63) - 1), .levelSample 63 (2 ^ 63), .deviceFatal { type := 1, cls := 6 },
  .deviceFatal { type := 256, cls := 7 }, .deviceFatal { type := 1, cls := 7, code := 65536 },
  .deviceFatal { type := 1, cls := 7, unitCls := 16 }, .deviceFatal { type := 1, cls := 7, unitIdx := 65536 },
  .deviceFatal { type := 1, cls := 7, addr := 2 ^ 64 }, .deviceFatal { type := 1, cls := 7, detail := 2 ^ 32 },
  .deviceFatal { type := 1, cls := 7, jobs := 65536 }, .dbgToken { header := 65536 }, .dbgToken { keySlot := 256 }, .dbgToken { scope := 256 },
  .dbgToken { serial := 2 ^ 64 }, .dbgToken { nonce := 2 ^ 256 }, .registerWrite (.bar0 0) (2 ^ 32)] : List Instr).all fun i => !i.wf) = true := by decide +kernel
theorem test_ill_formed_lists : (Instr.assayListCheck []).wf = true ∧
    ∀ c g t k (buf : HostBuf) ms, 2 ≤ buf.len → buf.len ≤ 8191 → ms.length ≠ buf.len → (Instr.budgetJoin c g t k buf ms).wf = false := by
  refine ⟨rfl, fun c g t k buf ms h1 h2 h => ?_⟩
  simp only [Instr.wf, Bool.and_eq_false_iff, Bool.or_eq_false_iff, decide_eq_false_iff_not, beq_eq_false_iff_ne]; omega
theorem test_ill_formed_no_change : exec (.go 1620) State.reset = .next State.reset ∧ exec (.ringEnable 5) State.reset = .next State.reset := by
  exact ⟨rfl, rfl⟩

end Sys2Proof.Tests
end

section
/-! SUPPORT. The unpowered device and PWRGD's release (R4, R384, R397, log 69), and the settlement of O3. -/

namespace Sys2Proof.Machine
open Sys2Proof

/-! ### An unpowered device stands still -/

/-- Every command but PWRGD_RELEASE reaches its meaning through `act`, which asks for power. -/
theorem exec_eq_act (i : Instr) (h : ∀ lands held ok, i ≠ .pwrgdRelease lands held ok) : ∃ ok f, exec i = act ok f := by
  cases i with
  | pwrgdRelease lands held ok => exact absurd rfl (h lands held ok)
  | ceTableClear u => cases u <;> exact ⟨_, _, rfl⟩
  | _ => exact ⟨_, _, rfl⟩

theorem exec_unpowered {s : State} {i : Instr} (hs : s.powered = false) (h : ∀ lands held ok, i ≠ .pwrgdRelease lands held ok) :
    exec i s = .next s := by
  obtain ⟨ok, f, hact⟩ := exec_eq_act i h
  rw [hact, act_unpowered s f hs]

theorem tick_unpowered {s : State} (hs : s.powered = false) : tick s = s := by
  simp [tick, hs]

theorem step_idle_unpowered {s : State} (hs : s.powered = false) (hp : s.pending = []) : step s = .next s := by
  simp only [step, hp, tick_unpowered hs]

/-! ### What PWRGD's release does to the parts of the state -/

@[simp] theorem signalVector_powered (v : Nat) (s : State) : (signalVector v s).powered = s.powered := rfl
@[simp] theorem signalVector_boot (v : Nat) (s : State) : (signalVector v s).boot = s.boot := rfl
@[simp] theorem signalVector_sec (v : Nat) (s : State) : (signalVector v s).sec = s.sec := rfl
@[simp] theorem signalVector_faults (v : Nat) (s : State) : (signalVector v s).faults = s.faults := rfl

/-- An I3C notice leaves the lands as they are. -/
@[simp] theorem ibi_thermtripN (b : Nat) (s : State) : (ibi b s).faults.thermtripN = s.faults.thermtripN := rfl

@[simp] theorem selfTests_powered (ok : Bool) (s : State) : (selfTests ok s).powered = s.powered := by cases ok <;> rfl
@[simp] theorem selfTests_faults (ok : Bool) (s : State) : (selfTests ok s).faults = s.faults := by cases ok <;> rfl

/-- The self-tests decide whether the module offers service, and nothing else of it (R471). -/
@[simp] theorem selfTests_sec (ok : Bool) (s : State) : (selfTests ok s).sec = { s.sec with service := ok && s.sec.service } := by
  cases ok <;> rfl

/-- Of the bring-up the self-tests decide the state of BOOT_STATUS alone (R471). -/
@[simp] theorem selfTests_boot (ok : Bool) (s : State) :
    (selfTests ok s).boot = { s.boot with state := if ok then s.boot.state else .refused } := by
  cases ok <;> rfl

/-- A cold bring-up held by RESET_N runs no self-test, as if it had passed. -/
theorem pwrgdRelease_eq_selfTests (strap : Nat) (held ok vaux : Bool) (s : State) :
    pwrgdRelease strap held ok vaux s =
      selfTests (held || ok) ((bringUp false vaux s).modBoot fun x => { x with strap := strap % 4, heldReset := held }) := by
  cases held <;> rfl

/-- A step of bring-up that changes what BOOT_STATUS shows signals it (R426, R468). -/
theorem bootStep_of_change {f : State → State} {s : State} (h : bootStatus (f s).boot ≠ bootStatus s.boot) :
    bootStep f s = ibi 0x01 (signalVector 1 (f s)) := if_neg h

/-- PWRGD_RELEASE always signals, since phase 1 differs from the Reset column (log 25). -/
theorem exec_pwrgdRelease (strap : Nat) (vaux held ok : Bool) (s : State) :
    exec (.pwrgdRelease ⟨strap, vaux⟩ held ok) s = .next (ibi 0x01 (signalVector 1 (pwrgdRelease strap held ok vaux s))) := by
  have hphase : (pwrgdRelease strap held ok vaux s).boot.phase = 1 := by simp [pwrgdRelease_eq_selfTests, bringUp]
  have hshown : bootStatus (pwrgdRelease strap held ok vaux s).boot ≠ bootStatus {} := by simp [bootStatus, hphase]
  exact congrArg Host.Outcome.next (bootStep_of_change (s := s.modBoot fun _ => {}) hshown)

/-! ### What outlives the loss of power -/

/-- All that outlives the loss of power (R4, log 69): OTP, fuses, boot flash and host memory, THERMTRIP_N where VAUX stayed in range,
and the model's own queue and counter of free values. The rest is at reset. -/
def State.survivors (vaux : Bool) (s : State) : State :=
  { pending := s.pending, hostMem := s.hostMem, draws := s.draws
    boot := { fuses := s.boot.fuses, bcrFlash := s.boot.bcrFlash, list := s.boot.list }
    sec := { vkd0 := s.sec.vkd0, vkd1 := s.sec.vkd1, revoke := s.sec.revoke, arb := s.sec.arb, slot0 := s.sec.slot0, slot1 := s.sec.slot1 }
    faults := { thermtripN := vaux && s.faults.thermtripN } }

/-- PWRGD's release reads nothing of the state but its survivors: no volatile state survives. -/
theorem pwrgdRelease_survivors (strap : Nat) (held ok vaux : Bool) (s : State) :
    pwrgdRelease strap held ok vaux (s.survivors vaux) = pwrgdRelease strap held ok vaux s := by
  cases vaux <;> rfl

theorem exec_pwrgdRelease_of_survivors_eq {a b : State} {vaux : Bool} (h : a.survivors vaux = b.survivors vaux)
    (strap : Nat) (held ok : Bool) :
    exec (.pwrgdRelease ⟨strap, vaux⟩ held ok) a = exec (.pwrgdRelease ⟨strap, vaux⟩ held ok) b := by
  rw [exec_pwrgdRelease, exec_pwrgdRelease, ← pwrgdRelease_survivors _ _ _ _ a, h, pwrgdRelease_survivors]

/-- Settles O3: every command but PWRGD's release passes through `act`, and the release factors through `State.survivors`. -/
theorem unpoweredNothingOperates : Obligations.UnpoweredNothingOperates := by
  refine ⟨fun s i hs hi => exec_unpowered hs hi, fun s hs hp => step_idle_unpowered hs hp, ?_⟩
  intro a b strap vaux held ok hvkd0 hvkd1 hrevoke harb hfuses hbcr hlist hslot0 hslot1 hhost htherm hpending hdraws
  constructor
  · have hland : (vaux && a.faults.thermtripN) = (vaux && b.faults.thermtripN) := by
      cases vaux with
      | false => rfl
      | true => rw [htherm rfl]
    have hsurv : a.survivors vaux = b.survivors vaux := by
      simp only [State.survivors, hvkd0, hvkd1, hrevoke, harb, hfuses, hbcr, hlist, hslot0, hslot1, hhost, hland, hpending, hdraws]
    exact exec_pwrgdRelease_of_survivors_eq hsurv strap held ok
  · refine ⟨_, exec_pwrgdRelease strap vaux held ok a, ?_⟩
    simp +contextual [pwrgdRelease_eq_selfTests, bringUp]

end Sys2Proof.Machine
end

section
/-! SUPPORT. The partial of a grain (R47): what `dot` sums and how large it can be, and the settlement of O7. -/

namespace Sys2Proof.Machine
open Sys2Proof

/-! ### The partial is the sum of products -/

theorem sumInt_eq_sum (l : List Int) : sumInt l = l.sum := List.sum_eq_foldl.symm

@[simp] theorem sumInt_cons (x : Int) (l : List Int) : sumInt (x :: l) = x + sumInt l := by
  simp only [sumInt_eq_sum, List.sum_cons]

@[simp] theorem dot_nil (as : List Int) : dot [] as = 0 := rfl
@[simp] theorem dot_cons_cons (w a : Int) (ws as : List Int) : dot (w :: ws) (a :: as) = w * a + dot ws as := rfl

/-- No bit of a partial is lost: over lists of one length `dot` is the sum of the products of the elements at each place. -/
theorem dot_eq_sumInt_products {ws as : List Int} (h : ws.length = as.length) :
    dot ws as = sumInt ((List.range ws.length).map fun i => ws.getD i 0 * as.getD i 0) := by
  induction ws generalizing as with
  | nil => rfl
  | cons w ws ih =>
    cases as with
    | nil => contradiction
    | cons a as =>
      have hrest := ih (Nat.succ.inj h)
      simpa [List.range_succ_eq_map, Function.comp_def] using hrest

/-! ### The partial's magnitude -/

/-- The magnitude of a partial is at most the number of pairs times the product of the elements' largest magnitudes. -/
theorem natAbs_dot_le {m n : Nat} {ws as : List Int} (hw : ∀ w ∈ ws, w.natAbs ≤ m) (ha : ∀ a ∈ as, a.natAbs ≤ n) :
    (dot ws as).natAbs ≤ ws.length * (m * n) := by
  induction ws generalizing as with
  | nil => simp
  | cons w ws ih =>
    cases as with
    | nil => exact Nat.zero_le _
    | cons a as =>
      obtain ⟨hw₀, hws⟩ := List.forall_mem_cons.mp hw
      obtain ⟨ha₀, has⟩ := List.forall_mem_cons.mp ha
      calc (dot (w :: ws) (a :: as)).natAbs
        _ ≤ (w * a).natAbs + (dot ws as).natAbs := Int.natAbs_add_le ..
        _ ≤ m * n + ws.length * (m * n) := Nat.add_le_add (Int.natAbs_mul .. ▸ Nat.mul_le_mul hw₀ ha₀) (ih hws has)
        _ = (w :: ws).length * (m * n) := by rw [List.length_cons, Nat.succ_mul, Nat.add_comm]

theorem natAbs_le_of_bs8 {l : List Int} (h : ∀ x ∈ l, -128 ≤ x ∧ x ≤ 127) : ∀ x ∈ l, x.natAbs ≤ 128 := fun x hx => by
  have := h x hx; omega

theorem natAbs_le_of_bs4 {l : List Int} (h : ∀ x ∈ l, -8 ≤ x ∧ x ≤ 7) : ∀ x ∈ l, x.natAbs ≤ 8 := fun x hx => by
  have := h x hx; omega

/-- Settles O7: 32 products of magnitudes at most 128 and 128, 8 and 128, or 8 and 8 make 2^19, 2^15 and 2^11. -/
theorem partialsAreExactAndBounded : Obligations.PartialsAreExactAndBounded := by
  intro ws as hws has
  have hbound {m n : Nat} (hw : ∀ w ∈ ws, w.natAbs ≤ m) (ha : ∀ a ∈ as, a.natAbs ≤ n) : (dot ws as).natAbs ≤ 32 * (m * n) :=
    hws ▸ natAbs_dot_le hw ha
  refine ⟨hws ▸ dot_eq_sumInt_products (hws.trans has.symm), ?bs8bs8, ?bs4bs8, ?bs4bs4, rfl, rfl, rfl⟩
  case bs8bs8 => exact fun hw ha => hbound (natAbs_le_of_bs8 hw) (natAbs_le_of_bs8 ha)
  case bs4bs8 => exact fun hw ha => hbound (natAbs_le_of_bs4 hw) (natAbs_le_of_bs8 ha)
  case bs4bs4 => exact fun hw ha => hbound (natAbs_le_of_bs4 hw) (natAbs_le_of_bs4 ha)

end Sys2Proof.Machine
end

section
/-! SUPPORT. The mapping of the pan store (R144): a unit's bank is its low five bits exclusive-or a constant of its row. The settlement
of O8. -/

namespace Sys2Proof.Machine
open Sys2Proof

/-! ### The bank, bit by bit -/

/-- A mask has the listed bits set, and no others. -/
theorem testBit_maskOf {l : List Nat} {k : Nat} : (maskOf l).testBit k ↔ k ∈ l := by
  induction l with
  | nil => simp [maskOf]
  | cons i l ih => simp [maskOf, ih, Nat.testBit_two_pow, eq_comm (a := k)]

theorem testBit_mod_32 (n k : Nat) : (n % 32).testBit k = (decide (k < 5) && n.testBit k) := Nat.testBit_mod_two_pow n 5 k

/-- Bit k of the bank is bit k of the unit exclusive-or the parity of its row's bits under SWZ_ROW[k]. -/
theorem testBit_bankOf (swz : List Nat) (a k : Nat) :
    (bankOf swz a).testBit k = (decide (k < 5) && ((a / 64).testBit k ^^ parity12 (a / 2048 % 4096 &&& swz.getD k 0))) := by
  have hrow : a / 64 / 32 = a / 2048 := Nat.div_div_eq_div_mul a 64 32
  rw [Bool.eq_iff_iff, bankOf, testBit_maskOf, hrow]
  simp

theorem bankOf_lt (swz : List Nat) (a : Nat) : bankOf swz a < 2 ^ 5 :=
  Nat.lt_pow_two_of_testBit _ fun k hk => by simp [testBit_bankOf, Nat.not_lt.mpr hk]

/-! ### Within a row the bank is the unit's low bits exclusive-or a constant -/

/-- The bank of a byte is its unit's low five bits exclusive-or the bank of its row's first byte. -/
theorem bankOf_eq_xor_rowStart (swz : List Nat) (a : Nat) :
    bankOf swz a = (a / 64 % 32) ^^^ bankOf swz (2048 * (a / 2048)) := by
  have hunit : 2048 * (a / 2048) / 64 = 2 ^ 5 * (a / 2048) := by omega
  have hrow : 2048 * (a / 2048) / 2048 = a / 2048 := by omega
  refine Nat.eq_of_testBit_eq fun k => ?_
  by_cases hk : k < 5
  · have hlow : (2 ^ 5 * (a / 2048)).testBit k = false := by rw [Nat.testBit_two_pow_mul, decide_eq_false (by omega), Bool.false_and]
    simp only [Nat.testBit_xor, testBit_bankOf, testBit_mod_32, hunit, hrow, hlow, decide_eq_true hk, Bool.true_and, Bool.false_xor]
  · simp [testBit_bankOf, testBit_mod_32, hk]

/-- A row places its units in banks of their own. -/
theorem bankOf_eq_iff_of_row_eq {swz : List Nat} {a b : Nat} (hrow : a / 2048 = b / 2048) :
    bankOf swz a = bankOf swz b ↔ a / 64 % 32 = b / 64 % 32 := by
  rw [bankOf_eq_xor_rowStart swz a, bankOf_eq_xor_rowStart swz b, hrow, Nat.xor_left_inj]

/-- Every bank holds a unit of each row. -/
theorem exists_unit_of_row_of_bank (swz : List Nat) (r : Nat) {k : Nat} (hk : k < 2 ^ 5) :
    ∃ u, u / 32 = r ∧ bankOf swz (64 * u) = k := by
  have hlow : k ^^^ bankOf swz (2048 * r) < 2 ^ 5 := Nat.xor_lt_two_pow hk (bankOf_lt swz _)
  refine ⟨32 * r + (k ^^^ bankOf swz (2048 * r)), by omega, ?_⟩
  generalize hx : k ^^^ bankOf swz (2048 * r) = x at hlow
  have hunit : 64 * (32 * r + x) / 64 % 32 = x := by omega
  have hrow : 64 * (32 * r + x) / 2048 = r := by omega
  rw [bankOf_eq_xor_rowStart, hunit, hrow, ← hx, Nat.xor_xor_cancel_right]

/-! ### The swizzle of reset -/

/-- A mask of one bit picks that bit of the row index. -/
theorem parity12_and_two_pow (v : Nat) {k : Nat} (hk : k < 12) : parity12 (v &&& 2 ^ k) = v.testBit k := by
  have hprefix (n : Nat) : (List.range n).foldl (fun b i => b ^^ (v &&& 2 ^ k).testBit i) false = (decide (k < n) && v.testBit k) := by
    induction n with
    | zero => rfl
    | succ n ih =>
      rw [List.range_succ, List.foldl_append, ih]
      by_cases h : k = n
      · simp [h]
      · have hlt : k < n + 1 ↔ k < n := by omega
        simp [h, hlt, Nat.testBit_two_pow]
  rw [parity12, hprefix, decide_eq_true hk, Bool.true_and]

/-- At reset the bank is u[4:0] exclusive-or u[9:5] (R144). -/
theorem bankOf_resetSwizzle (a : Nat) : bankOf [1, 2, 4, 8, 16] a = (a / 64 % 32) ^^^ (a / 2048 % 32) := by
  have hmask : ∀ k < 5, [1, 2, 4, 8, 16].getD k 0 = 2 ^ k := by decide
  refine Nat.eq_of_testBit_eq fun k => ?_
  by_cases hk : k < 5
  · have hk12 : k < 12 := by omega
    have hrow : (a / 2048 % 4096).testBit k = (a / 2048).testBit k := by
      rw [Nat.testBit_mod_two_pow _ 12, decide_eq_true hk12, Bool.true_and]
    rw [testBit_bankOf, hmask k hk, parity12_and_two_pow _ hk12, hrow]
    simp [testBit_mod_32, hk]
  · simp [testBit_bankOf, testBit_mod_32, hk]

/-! ### The place of a byte -/

/-- A place tells its bank, its row and its byte. -/
theorem placeOf_eq_iff {swz : List Nat} {a b : Nat} :
    placeOf swz a = placeOf swz b ↔ bankOf swz a = bankOf swz b ∧ a / 2048 % 4096 = b / 2048 % 4096 ∧ a % 64 = b % 64 := by
  have ha := bankOf_lt swz a
  have hb := bankOf_lt swz b
  simp only [placeOf]
  omega

theorem eq_of_placeOf_eq {swz : List Nat} {a b : Nat} (ha : a < 2 ^ 23) (hb : b < 2 ^ 23) (h : placeOf swz a = placeOf swz b) : a = b := by
  obtain ⟨hbank, hrow, hbyte⟩ := placeOf_eq_iff.mp h
  have hrow' : a / 2048 = b / 2048 := by omega
  have hunit := (bankOf_eq_iff_of_row_eq hrow').mp hbank
  omega

/-- The bytes of a unit stand side by side in its row. -/
theorem placeOf_unit_add (swz : List Nat) {u i : Nat} (hu : u < 2 ^ 17) (hi : i < 64) :
    placeOf swz (64 * u + i) = bankOf swz (64 * u) * 2 ^ 18 + u / 32 * 64 + i := by
  have hrow : (64 * u + i) / 2048 = 64 * u / 2048 := by omega
  have hbank : bankOf swz (64 * u + i) = bankOf swz (64 * u) := (bankOf_eq_iff_of_row_eq hrow).mpr (by omega)
  rw [placeOf, hbank]
  omega

/-- Settles O8: a row's banks are its units' low bits exclusive-or a constant, so the mapping is one to one and meets every bank. -/
theorem storeMapping : Obligations.StoreMapping := by
  refine ⟨fun _ => rfl, fun swz _ _ => ⟨fun u hu => ⟨?bits, bankOf_lt swz _, ?place, ?reset, ?pair⟩, ?injective, ?onto⟩⟩
  case bits =>
    intro k hk
    have hunit : 64 * u / 64 = u := by omega
    have hrow : 64 * u / 2048 % 4096 = u / 32 := by omega
    rw [testBit_bankOf, hunit, hrow, decide_eq_true hk, Bool.true_and]
  case place => exact fun i hi => placeOf_unit_add swz hu hi
  case reset =>
    have hunit : 64 * u / 64 = u := by omega
    have hrow : 64 * u / 2048 = u / 32 := by omega
    rw [bankOf_resetSwizzle, hunit, hrow]
  case pair =>
    intro heven hsame
    have hrow : 64 * u / 2048 = 64 * (u + 1) / 2048 := by omega
    have hunit := (bankOf_eq_iff_of_row_eq hrow).mp hsame
    omega
  case injective => exact fun a b ha hb => eq_of_placeOf_eq ha hb
  case onto =>
    intro r k hr hk
    obtain ⟨u, hrow, hbank⟩ := exists_unit_of_row_of_bank swz r hk
    exact ⟨u, hrow, by omega, hbank⟩

end Sys2Proof.Machine
end

section
/-! SUPPORT. What every command but a few leaves as it is (R4, R479, R487): the queue, the OTP, the debug scope and the canonical form of
the
memories. `State.Keeps` says so of two states, and its lemmas compose: each part of the model has one, named after it, in the sections
that follow. -/

namespace Sys2Proof.Machine
open Sys2Proof

/-- The one-time-programmable store: the digests, KEY_REVOKE and the ARB count. -/
abbrev Security.otp (c : Security) : Nat × Nat × Nat × Nat := (c.vkd0, c.vkd1, c.revoke, c.arb)

/-- What a part of a command leaves as it is: the queue, the OTP, the debug scope in force, and the canonical form of the memories. -/
structure State.Keeps (s t : State) : Prop where
  pending : t.pending = s.pending
  otp : t.sec.otp = s.sec.otp
  scope : t.sec.scope = s.sec.scope
  canonical : s.memoriesCanonical → t.memoriesCanonical

/-- The parts that `State.Keeps` speaks of. -/
abbrev State.kept (s : State) : List Instr × (Nat × Nat × Nat × Nat) × Nat × Mem × Mem × Mem × Mem × Mem :=
  (s.pending, s.sec.otp, s.sec.scope, s.storeMem, s.brineMem, s.cellarMem, s.hostMem, s.slotMem)

namespace State.Keeps
variable {s t u : State}

theorem refl (s : State) : s.Keeps s := ⟨rfl, rfl, rfl, id⟩

theorem trans (h : s.Keeps t) (h' : t.Keeps u) : s.Keeps u :=
  ⟨h'.pending.trans h.pending, h'.otp.trans h.otp, h'.scope.trans h.scope, fun hs => h'.canonical (h.canonical hs)⟩

/-- A change of other parts. -/
theorem same (h : s.Keeps t) (e : u.kept = t.kept) : s.Keeps u := by
  simp only [State.kept, Prod.mk.injEq] at e
  obtain ⟨e1, e2, e3, e4, e5, e6, e7, e8⟩ := e
  refine h.trans ⟨e1, by simp [e2], e3, fun hs => ?_⟩
  simpa only [State.memoriesCanonical, e4, e5, e6, e7, e8] using hs

theorem ite {c : Prop} {_ : Decidable c} (ht : s.Keeps t) (hu : s.Keeps u) : s.Keeps (if c then t else u) := by
  split
  · exact ht
  · exact hu

/-- A change of the memories that keeps their form. -/
theorem mems (h : s.Keeps t) (hp : u.pending = t.pending) (hs : u.sec = t.sec) (hm : t.memoriesCanonical → u.memoriesCanonical) :
    s.Keeps u :=
  h.trans ⟨hp, by rw [hs], by rw [hs], hm⟩

theorem storeMem (h : s.Keeps t) {m : Mem} (hm : Memory.wf t.storeMem → Memory.wf m) : s.Keeps { t with storeMem := m } :=
  h.mems rfl rfl fun ⟨h1, h2, h3, h4, h5⟩ => ⟨hm h1, h2, h3, h4, h5⟩

theorem brineMem (h : s.Keeps t) {m : Mem} (hm : Memory.wf t.brineMem → Memory.wf m) : s.Keeps { t with brineMem := m } :=
  h.mems rfl rfl fun ⟨h1, h2, h3, h4, h5⟩ => ⟨h1, hm h2, h3, h4, h5⟩

theorem cellarMem (h : s.Keeps t) {m : Mem} (hm : Memory.wf t.cellarMem → Memory.wf m) : s.Keeps { t with cellarMem := m } :=
  h.mems rfl rfl fun ⟨h1, h2, h3, h4, h5⟩ => ⟨h1, h2, hm h3, h4, h5⟩

theorem hostMem (h : s.Keeps t) {m : Mem} (hm : Memory.wf t.hostMem → Memory.wf m) : s.Keeps { t with hostMem := m } :=
  h.mems rfl rfl fun ⟨h1, h2, h3, h4, h5⟩ => ⟨h1, h2, h3, hm h4, h5⟩

theorem slotMem (h : s.Keeps t) {m : Mem} (hm : Memory.wf t.slotMem → Memory.wf m) : s.Keeps { t with slotMem := m } :=
  h.mems rfl rfl fun ⟨h1, h2, h3, h4, h5⟩ => ⟨h1, h2, h3, h4, hm h5⟩

/-! ### Folds, and what a call hands back beside the state -/

theorem foldl {α : Type} {l : List α} {f : State → α → State} (h : s.Keeps t) (hf : ∀ t a, s.Keeps t → s.Keeps (f t a)) :
    s.Keeps (l.foldl f t) := by
  induction l generalizing t with
  | nil => exact h
  | cons a l ih => exact ih (hf t a h)

theorem foldl_snd {α β : Type} {l : List α} {f : β × State → α → β × State} {p : β × State} (h : s.Keeps p.2)
    (hf : ∀ p a, s.Keeps p.2 → s.Keeps (f p a).2) : s.Keeps (l.foldl f p).2 := by
  induction l generalizing p with
  | nil => exact h
  | cons a l ih => exact ih (hf p a h)

theorem foldl_snd_snd {α β γ : Type} {l : List α} {f : β × γ × State → α → β × γ × State} {p : β × γ × State} (h : s.Keeps p.2.2)
    (hf : ∀ p a, s.Keeps p.2.2 → s.Keeps (f p a).2.2) : s.Keeps (l.foldl f p).2.2 := by
  induction l generalizing p with
  | nil => exact h
  | cons a l ih => exact ih (hf p a h)

theorem of_eq {α : Type} {p : α × State} {a : α} (h : s.Keeps p.2) (e : p = (a, t)) : s.Keeps t := by
  rw [e] at h; exact h

theorem of_eq2 {α β : Type} {p : α × β × State} {a : α} {b : β} (h : s.Keeps p.2.2) (e : p = (a, b, t)) : s.Keeps t := by
  rw [e] at h; exact h

theorem of_eq3 {α β γ : Type} {p : α × β × γ × State} {a : α} {b : β} {c : γ} (h : s.Keeps p.2.2.2) (e : p = (a, b, c, t)) :
    s.Keeps t := by
  rw [e] at h; exact h

theorem foldState {α : Type} {l : List α} {f : State → α → State} (h : s.Keeps t) (hf : ∀ t a, s.Keeps t → s.Keeps (f t a)) :
    s.Keeps (Machine.foldState l f t) :=
  h.foldl hf

end State.Keeps

/-- What a slot leaves of `s`, whether it takes effect or faults. -/
def State.KeepsSlot (s : State) : Except SlotFault State → Prop
  | .ok u => s.Keeps u
  | .error e => s.Keeps e.after

/-- What a move plan leaves of `s`, on whatever it takes effect, or where it faults. -/
def State.KeepsPlan (s : State) : MovePlan → Prop
  | .ok f => ∀ u, s.Keeps u → s.Keeps (f u)
  | .error e => s.Keeps e.after

end Sys2Proof.Machine
end

section
/-! SUPPORT. `stagePayloads` over any allocator: the recursion of IMAGE_LOAD in a form the kernel can unfold. -/

namespace Sys2Proof.Machine
open Sys2Proof

/-- `stagePayloads` over any allocator. -/
def stageWith (alloc : Nat → Nat → State → Option (CellarLot × State)) (job quota : Nat) :
    List (Nat × Tensor) → State → Option (List CellarLot × State)
  | [], s => some ([], s)
  | (_, t) :: ts, s =>
    match alloc job (max t.bytes t.data.length) s with
    | none => none
    | some (l, s1) =>
      if quota < s1.cellarUsed job then none
      else match stageWith alloc job quota ts (cellarWrite l.base (padPayload t) [] s1) with
        | none => none
        | some (ls, s2) => some (l :: ls, s2)

/-- `stagePayloads` is `stageWith allocCellar`. The allocator is kept a variable where terms are compared: the kernel cannot evaluate
`allocCellar` (its unit of 2 MiB is a literal it would unfold). -/
theorem stagePayloads_eq : stagePayloads = stageWith allocCellar := by
  delta stagePayloads stagePayloads._f
  generalize allocCellar = alloc
  revert alloc
  refine id fun alloc => ?_
  funext job quota ts s
  induction ts generalizing s with
  | nil => rfl
  | cons x ts ih =>
    rw [stageWith]
    simp only [← ih] <;> rfl

end Sys2Proof.Machine
end

section
/-! SUPPORT. What the shared operations keep (`State.Keeps`), function by function. -/

namespace Sys2Proof.Machine.State.Keeps
open Sys2Proof Sys2Proof.Machine
variable {s t u : State}

theorem modPan {p : Nat} {f : Pan → Pan} (h : s.Keeps t) : s.Keeps (State.modPan t p f) := h.same rfl

theorem modSeq {p : Nat} {f : Seq → Seq} (h : s.Keeps t) : s.Keeps (State.modSeq t p f) := h.modPan

theorem modLat {p : Nat} {f : Lat → Lat} (h : s.Keeps t) : s.Keeps (State.modLat t p f) := h.modPan

theorem modStore {p : Nat} {f : Store → Store} (h : s.Keeps t) : s.Keeps (State.modStore t p f) := h.modPan

theorem bumpPan {p ctr n : Nat} (h : s.Keeps t) : s.Keeps (State.bumpPan t p ctr n) := .ite h h.modPan

theorem modSlice {i : Nat} {f : Slice → Slice} (h : s.Keeps t) : s.Keeps (State.modSlice t i f) := h.same rfl

theorem modChan {i : Nat} {f : Chan → Chan} (h : s.Keeps t) : s.Keeps (State.modChan t i f) := h.same rfl

theorem modRegion {r : Nat} {f : Region → Region} (h : s.Keeps t) : s.Keeps (State.modRegion t r f) := h.same rfl

theorem modField {i : Nat} {f : FieldPwr → FieldPwr} (h : s.Keeps t) : s.Keeps (State.modField t i f) := h.same rfl

theorem modTopo {i : Nat} {f : Topo → Topo} (h : s.Keeps t) : s.Keeps (State.modTopo t i f) := h.same rfl

theorem modRouter {gx gy : Nat} {f : Router → Router} (h : s.Keeps t) : s.Keeps (State.modRouter t gx gy f) := h.same rfl

theorem bumpRouter {gx gy ctr n : Nat} (h : s.Keeps t) : s.Keeps (State.bumpRouter t gx gy ctr n) := h.modRouter

theorem modPort {n : Nat} {f : Port → Port} (h : s.Keeps t) : s.Keeps (State.modPort t n f) := h.same rfl

theorem bumpPort {n ctr k : Nat} (h : s.Keeps t) : s.Keeps (State.bumpPort t n ctr k) := h.modPort

theorem bumpSlice {i ctr k : Nat} (h : s.Keeps t) : s.Keeps (State.bumpSlice t i ctr k) := .ite h h.modSlice

theorem bumpChan {i ctr k : Nat} (h : s.Keeps t) : s.Keeps (State.bumpChan t i ctr k) := .ite h h.modChan

theorem modSlot {g : Nat} {f : Slot → Slot} (h : s.Keeps t) : s.Keeps (State.modSlot t g f) := h.same rfl

theorem bumpSvc {ctr k : Nat} (h : s.Keeps t) : s.Keeps (State.bumpSvc t ctr k) := h.same (by rfl)

theorem modGauge {i : Nat} {f : Gauge → Gauge} (h : s.Keeps t) : s.Keeps (State.modGauge t i f) := h.same rfl

theorem setJob {j : Nat} {x : Job} (h : s.Keeps t) : s.Keeps (State.setJob t j x) := h.same rfl

theorem modJob {j : Nat} {f : Job → Job} (h : s.Keeps t) : s.Keeps (State.modJob t j f) := by
  unfold State.modJob
  split
  · exact h
  · exact h.setJob

theorem modHif {f : HostIf → HostIf} (h : s.Keeps t) : s.Keeps (State.modHif t f) := h.same rfl

theorem modNet {f : Net → Net} (h : s.Keeps t) : s.Keeps (State.modNet t f) := h.same rfl

theorem modFaults {f : Faults → Faults} (h : s.Keeps t) : s.Keeps (State.modFaults t f) := h.same rfl

theorem modClock {f : Clock → Clock} (h : s.Keeps t) : s.Keeps (State.modClock t f) := h.same rfl

theorem modPower {f : Power → Power} (h : s.Keeps t) : s.Keeps (State.modPower t f) := h.same rfl

theorem modBoot {f : Boot → Boot} (h : s.Keeps t) : s.Keeps (State.modBoot t f) := h.same rfl

theorem modMem {f : MemDev → MemDev} (h : s.Keeps t) : s.Keeps (State.modMem t f) := h.same rfl

theorem modSec {f : Security → Security} (h : s.Keeps t) (hf : ∀ c, (f c).otp = c.otp ∧ (f c).scope = c.scope :=
  by exact fun _ => ⟨rfl, rfl⟩) : s.Keeps (t.modSec f) :=
  h.trans ⟨rfl, (hf t.sec).1, (hf t.sec).2, id⟩

theorem modHaul {h' : HaulId} {f : Haul → Haul} (h : s.Keeps t) : s.Keeps (State.modHaul t h' f) := by
  unfold State.modHaul
  split
  · exact h.modPan
  · exact h.same rfl

theorem draw (h : s.Keeps t) : s.Keeps (State.draw t).2 := by
  unfold State.draw
  dsimp only
  exact h.same (by rfl)

theorem report {r : FaultRec} (h : s.Keeps t) : s.Keeps (Machine.report r t) := h.modFaults

theorem ibi {b : Nat} (h : s.Keeps t) : s.Keeps (Machine.ibi b t) := h.modFaults

theorem expire {f : Outst → Bool} (h : s.Keeps t) : s.Keeps (Machine.expire f t) := h.same rfl

theorem modPanReports {p : Nat} {f : FaultRec → FaultRec} (h : s.Keeps t) : s.Keeps (Machine.modPanReports p f t) := h.same rfl

theorem replaceFault {p : Nat} {f : FaultReg} (h : s.Keeps t) : s.Keeps (Machine.replaceFault p f t) := h.modPanReports.modSeq

theorem sameCycleFault {p : Nat} {f : FaultReg} (h : s.Keeps t) : s.Keeps (Machine.sameCycleFault p f t) :=
  .ite h.replaceFault h

theorem panFaultOne {p code cls detail : Nat} {slot : Option Nat} {pc : Nat} (h : s.Keeps t) :
    s.Keeps (Machine.panFaultOne p code cls detail slot pc t) :=
  .ite h.sameCycleFault h.modPan.expire.report

theorem stopPeer {cycle : Nat} {new : Nat × Nat × Nat} {q : Nat} (h : s.Keeps t) : s.Keeps (Machine.stopPeer cycle new t q) :=
  .ite (.ite h (.ite h.replaceFault.modSeq (.ite h.modPanReports.modSeq h.modSeq))) (.ite h.modSeq h.panFaultOne.modSeq)

theorem panFault {p code detail : Nat} {slot : Option Nat} (h : s.Keeps t) : s.Keeps (Machine.panFault p code detail slot t) :=
  .ite ((State.Keeps.ite h.panFaultOne h.panFaultOne.modPanReports).modSeq.foldState (fun _ _ h => h.stopPeer)) h.panFaultOne

theorem inCycle {p : Nat} {f : State → State} (h : s.Keeps t) (hf : ∀ t, s.Keeps t → s.Keeps (f t)) : s.Keeps (Machine.inCycle p f t) :=
    by
  unfold Machine.inCycle
  dsimp only
  split
  · exact hf t h
  · exact .ite (.ite h.panFault h) (hf t h)

theorem semAdd {p sem n : Nat} (h : s.Keeps t) : s.Keeps (Machine.semAdd p sem n t) := .ite h.modSeq.panFault h.modSeq

end Sys2Proof.Machine.State.Keeps
end

section
/-! SUPPORT. What what a command reads of its operands keep (`State.Keeps`), function by function. -/

namespace Sys2Proof.Machine.State.Keeps
open Sys2Proof Sys2Proof.Machine
variable {s t u : State}

theorem urgentGate {gx gy : Nat} (h : s.Keeps t) : s.Keeps (Machine.urgentGate gx gy t) := .ite h.modRouter h.modRouter

theorem inject {gx gy dgx dgy : Nat} {k : Packet} (h : s.Keeps t) : s.Keeps (Machine.inject gx gy dgx dgy k t) := by
  unfold Machine.inject
  exact State.Keeps.modNet (.ite (State.Keeps.ite h.urgentGate h).bumpRouter (.ite h.urgentGate h))

theorem sendFrom {gx gy : Nat} {k : Packet} (h : s.Keeps t) : s.Keeps (Machine.sendFrom gx gy k t) :=
  .ite (.ite h h.inject) h.inject

theorem sendBack {gx gy : Nat} {k : Packet} (h : s.Keeps t) : s.Keeps (Machine.sendBack gx gy k t) := .ite h.modNet h.inject

theorem respond {gx gy : Nat} {k : Packet} {op status : Nat} {data : List Byte} {marks : List Bool} (h : s.Keeps t) :
    s.Keeps (Machine.respond gx gy k op status data marks t) :=
  h.sendBack

theorem addOut {o : Outst} (h : s.Keeps t) : s.Keeps (Machine.addOut o t) := h.same rfl

end Sys2Proof.Machine.State.Keeps
end

section
/-! SUPPORT. What the completion ring keeps (`State.Keeps`), function by function. -/

namespace Sys2Proof.Machine.State.Keeps
open Sys2Proof Sys2Proof.Machine
variable {s t u : State}

theorem signalVector {v : Nat} (h : s.Keeps t) : s.Keeps (Machine.signalVector v t) := h.modHif

theorem putEntry {i : Nat} {e : Entry} (h : s.Keeps t) : s.Keeps (Machine.putEntry i e t) :=
  h.hostMem fun m => wf_writeBytes (wf_writeBytes m _ _) _ _

theorem ringSignal (h : s.Keeps t) : s.Keeps (Machine.ringSignal t) := .ite h.modHif.signalVector h.modHif

theorem writeEntry {e : Entry} (h : s.Keeps t) : s.Keeps (Machine.writeEntry e t) := h.putEntry.modHif.ringSignal

theorem postEntry {e : Entry} (h : s.Keeps t) : s.Keeps (Machine.postEntry e t) := .ite h.writeEntry h.modHif

theorem flushHeld {n : Nat} (h : s.Keeps t) : s.Keeps (Machine.flushHeld n t) := by
  induction n generalizing t with
  | zero => exact h
  | succ n ih =>
    unfold Machine.flushHeld
    split
    · exact h
    · split
      · exact ih h.modHif.writeEntry
      · exact h

theorem finishTag {tag : Nat} {e : Entry} (h : s.Keeps t) : s.Keeps (Machine.finishTag tag e t) := by
  unfold Machine.finishTag
  dsimp only
  split
  · exact h.modHif.postEntry
  · exact h.modHif.postEntry.foldl (fun _ _ h => h.postEntry)

theorem finish {c : Cmd} {opcode status info : Nat} {payload : List Nat} (h : s.Keeps t) :
    s.Keeps (Machine.finish c opcode status info payload t) :=
  h.finishTag

theorem finishWith {c : Cmd} {opcode status : Nat} (h : s.Keeps t) : s.Keeps (Machine.finishWith c opcode status t) := h.finish

end Sys2Proof.Machine.State.Keeps
end

section
/-! SUPPORT. What the doorbell keeps (`State.Keeps`), function by function. -/

namespace Sys2Proof.Machine.State.Keeps
open Sys2Proof Sys2Proof.Machine
variable {s t u : State}

theorem takeSlot {slot : Nat} (h : s.Keeps t) : s.Keeps (Machine.takeSlot slot t) := by
  unfold Machine.takeSlot
  dsimp only
  split
  · exact .ite h.modHif.modHif h.modHif.postEntry
  · exact .ite h.modHif.postEntry h.modHif.postEntry
  · split
    · exact h.modHif.modHif.finishTag
    · split
      · exact h.modHif.modHif.finishTag
      · split
        · exact h.modHif.modHif.finishTag
        · exact h.modHif.modHif

theorem doorbell {slot : Nat} (h : s.Keeps t) : s.Keeps (Machine.doorbell slot t) :=
  .ite h.modHif (.ite h.modHif (.ite h.modHif (.ite h.modHif h.takeSlot)))

theorem takeHeldBells (h : s.Keeps t) : s.Keeps (Machine.takeHeldBells t) := h.modHif.foldState (fun _ _ h => h.takeSlot)

theorem ringCtl {enable : Bool} {log2E : Nat} (h : s.Keeps t) : s.Keeps (Machine.ringCtl enable log2E t) :=
  .ite h.modHif.modHif.flushHeld h.modHif.modHif

theorem ringHead {v : Nat} (h : s.Keeps t) : s.Keeps (Machine.ringHead v t) := .ite h.modHif.flushHeld h.modHif

theorem apertureWrite {hi : Bool} {v : Nat} (h : s.Keeps t) : s.Keeps (Machine.apertureWrite hi v t) := h.modHif

theorem vectorUnmask {v : Nat} (h : s.Keeps t) : s.Keeps (Machine.vectorUnmask v t) := h.modHif

theorem msixWrite {o v : Nat} (h : s.Keeps t) : s.Keeps (Machine.msixWrite o v t) :=
  .ite (.ite h.modHif h.vectorUnmask) h.modHif

theorem slotWrite {o : Nat} {bs : List Byte} (h : s.Keeps t) : s.Keeps (Machine.slotWrite o bs t) :=
  .ite h (h.slotMem fun m => wf_writeBytes m _ _)

end Sys2Proof.Machine.State.Keeps
end

section
/-! SUPPORT. What collectives keep (`State.Keeps`), function by function. -/

namespace Sys2Proof.Machine.State.Keeps
open Sys2Proof Sys2Proof.Machine
variable {s t u : State}

theorem injectCommit {k : Packet} (h : s.Keeps t) : s.Keeps (Machine.injectCommit k t) := .ite (h.same (by rfl)) h.sendFrom

theorem releaseCommits (h : s.Keeps t) : s.Keeps (Machine.releaseCommits t) := (h.same (by rfl)).foldState (fun _ _ h => h.sendFrom)

theorem sendCommit {addr n : Nat} (h : s.Keeps t) : s.Keeps (Machine.sendCommit addr n t) := h.injectCommit

theorem sendNotes {notes : List Nat} (h : s.Keeps t) : s.Keeps (Machine.sendNotes notes t) := h.foldState (fun _ _ h => h.sendCommit)

theorem sendRecord {dev : Nat} {c : CommitRecord} (h : s.Keeps t) : s.Keeps (Machine.sendRecord dev c t) := h.injectCommit

theorem bulkOut {k : Packet} (h : s.Keeps t) : s.Keeps (Machine.bulkOut k t) := .ite h.respond h.modNet

theorem chunkToParent {g ci : Nat} (h : s.Keeps t) : s.Keeps (Machine.chunkToParent g ci t) := h.addOut.bulkOut

theorem rootWrite {g addr : Nat} {bs : List Byte} {marks : List Bool} (h : s.Keeps t) : s.Keeps (Machine.rootWrite g addr bs marks t) :=
  h.addOut.modSlot.sendFrom

theorem rootResult {g : Nat} (h : s.Keeps t) : s.Keeps (Machine.rootResult g t) :=
  (h.modSlot.foldState (fun _ _ h => h.rootWrite)).rootWrite

theorem rootAck {g : Nat} (h : s.Keeps t) : s.Keeps (Machine.rootAck g t) := .ite h.modSlot.sendNotes h.modSlot

theorem takeChunk {g ci input : Nat} {vals : List Int} {marked : Bool} (h : s.Keeps t) :
    s.Keeps (Machine.takeChunk g ci input vals marked t) :=
  .ite h.modSlot (.ite h.modSlot (.ite (State.Keeps.ite h.modSlot h.modSlot.chunkToParent).rootResult (.ite h.modSlot
    h.modSlot.chunkToParent)))

theorem sendBarrier {dev : Nat} {release : Bool} {input g gen : Nat} (h : s.Keeps t) :
    s.Keeps (Machine.sendBarrier dev release input g gen t) :=
  h.sendFrom

theorem releaseSlot {g : Nat} (h : s.Keeps t) : s.Keeps (Machine.releaseSlot g t) :=
  (h.modSlot.foldState (fun _ _ h => h.sendBarrier)).sendNotes

theorem barrierArrive {g input : Nat} {dev : Option Nat} (h : s.Keeps t) : s.Keeps (Machine.barrierArrive g input dev t) :=
  .ite h (.ite h.modSlot (.ite h.modSlot (.ite h.modSlot.modSlot.releaseSlot h.modSlot.modSlot.sendBarrier)))

theorem barrierTarget {k : Packet} (h : s.Keeps t) : s.Keeps (Machine.barrierTarget k t) :=
  .ite h (.ite (.ite h.releaseSlot h) (.ite h.barrierArrive (.ite h.modSlot h)))

end Sys2Proof.Machine.State.Keeps
end

section
/-! SUPPORT. What brine and cellar keep (`State.Keeps`), function by function. -/

namespace Sys2Proof.Machine.State.Keeps
open Sys2Proof Sys2Proof.Machine
variable {s t u : State}

theorem brineObserve {o : WordObs} (h : s.Keeps t) : s.Keeps (Machine.brineObserve o t) := by
  unfold Machine.brineObserve
  dsimp only
  split
  · exact .ite h.modSlice h.modSlice.bumpSlice.modSlice.report
  · split
    · exact h.bumpSlice.bumpSlice.modSlice
    · exact h.bumpSlice.bumpSlice.modSlice.report

theorem brineFlip {o : WordObs} (h : s.Keeps t) : s.Keeps (Machine.brineFlip t o) := h.modSlice

theorem brineDecode {sl b : Nat} (h : s.Keeps t) : s.Keeps (Machine.brineDecode sl b t) :=
  h.modSlice.foldState (fun _ _ h => h.brineObserve)

theorem brineReadUnit {sl b n : Nat} (h : s.Keeps t) : s.Keeps (Machine.brineReadUnit sl b n t).2.2 := by
  unfold Machine.brineReadUnit
  dsimp only
  exact h.brineDecode.bumpSlice

theorem brineWriteUnit {sl b : Nat} {bs : List Byte} {marked : Bool} (h : s.Keeps t) : s.Keeps (Machine.brineWriteUnit sl b bs marked
    t) :=
  ((State.Keeps.ite h.brineDecode h).brineMem fun m => wf_writeBytes m _ _).modSlice.bumpSlice

theorem brineWriteParts {sl : Nat} {parts : List (Nat × List Byte × Bool)} (h : s.Keeps t) : s.Keeps (Machine.brineWriteParts sl parts
    t) :=
  h.foldState (fun _ _ h => h.brineWriteUnit)

theorem pieceDone {id : Nat} (h : s.Keeps t) : s.Keeps (Machine.pieceDone id t) := by
  unfold Machine.pieceDone
  split
  · exact h
  · exact .ite h.modMem.respond h.modMem

theorem performPiece {e : Nat × SliceWrite} (h : s.Keeps t) : s.Keeps (Machine.performPiece t e) := h.modSlice.brineWriteParts.pieceDone

theorem performOne {id : Nat} (h : s.Keeps t) : s.Keeps (Machine.performOne t id) := h.foldState (fun _ _ h => h.performPiece)

theorem performAll {ids : List Nat} (h : s.Keeps t) : s.Keeps (Machine.performAll ids t) := h.foldState (fun _ _ h => h.performOne)

theorem settleSlice {sl : Nat} (h : s.Keeps t) : s.Keeps (Machine.settleSlice sl t) := .ite h h.performAll

theorem sliceWrite {sl b : Nat} {bs : List Byte} {marked : Bool} (h : s.Keeps t) : s.Keeps (Machine.sliceWrite sl b bs marked t) :=
  h.settleSlice.brineWriteUnit

theorem performWrite {id : Nat} (h : s.Keeps t) : s.Keeps (Machine.performWrite id t) := h.performAll

theorem loseQueue {sl : Nat} (h : s.Keeps t) : s.Keeps (Machine.loseQueue sl t) := h.same rfl

theorem brineWrite {a off : Nat} {bs : List Byte} {marks : List Bool} {ps : Pieces} (h : s.Keeps t) :
    s.Keeps (Machine.brineWrite a off bs marks ps t).2 := by
  induction ps generalizing t off bs with
  | nil => exact h
  | cons x ps ih =>
    unfold Machine.brineWrite
    split
    · exact ih h.bumpSlice
    · exact ih h.settleSlice.brineWriteParts

theorem brineAdmit {id a piece off : Nat} {bs : List Byte} {marks : List Bool} {ps : Pieces} (h : s.Keeps t) :
    s.Keeps (Machine.brineAdmit id a piece off bs marks ps t).2.2 := by
  induction ps generalizing t piece off bs with
  | nil => exact h
  | cons x ps ih =>
    unfold Machine.brineAdmit
    split
    · exact ih h.bumpSlice
    · exact ih h.modSlice

theorem brineAdmitted {k : Packet} {ps : Pieces} (h : s.Keeps t) : s.Keeps (Machine.brineAdmitted k ps t) :=
  .ite h.modMem.brineAdmit.respond h.modMem.brineAdmit.modMem

theorem brineReadPiece {sl : Nat} {us : List (Nat × Nat)} (h : s.Keeps t) : s.Keeps (Machine.brineReadPiece sl us t).2.2 := by
  induction us generalizing t with
  | nil => exact h
  | cons x us ih => exact ih (h.settleSlice.brineReadUnit (n := x.2))

theorem brineRead {ps : Pieces} (h : s.Keeps t) : s.Keeps (Machine.brineRead ps t).2.2.2 := by
  induction ps generalizing t with
  | nil => exact h
  | cons x ps ih =>
    unfold Machine.brineRead
    split
    · exact ih h.bumpSlice
    · exact ih h.brineReadPiece

theorem clearSlice {sl : Nat} (h : s.Keeps t) : s.Keeps (Machine.clearSlice sl t) := (h.brineMem fun m => wf_clearRange m _ _).modSlice

theorem fillRange {sl lo hi : Nat} (h : s.Keeps t) : s.Keeps (Machine.fillRange sl lo hi t) :=
  (h.brineMem fun m => wf_clearRange m _ _).modSlice

theorem fillSlice {sl : Nat} (h : s.Keeps t) : s.Keeps (Machine.fillSlice sl t) := h.clearSlice.modSlice

theorem wakeFor {sl : Nat} (h : s.Keeps t) : s.Keeps (Machine.wakeFor sl t) := .ite h h.fillSlice

theorem sliceSleep {sl : Nat} {fromHakar : Bool} (h : s.Keeps t) : s.Keeps (Machine.sliceSleep sl fromHakar t) :=
  .ite h.modSlice h

theorem sliceDrained {sl : Nat} (h : s.Keeps t) : s.Keeps (Machine.sliceDrained sl t) := .ite h.clearSlice.modSlice h

theorem failSlice {sl code : Nat} (h : s.Keeps t) : s.Keeps (Machine.failSlice sl code t) :=
  .ite h h.loseQueue.clearSlice.modSlice.modMem.report

theorem sliceSleepBound {sl : Nat} (h : s.Keeps t) : s.Keeps (Machine.sliceSleepBound sl t) := .ite h.failSlice h

theorem sliceWake {sl : Nat} (h : s.Keeps t) : s.Keeps (Machine.sliceWake sl t) := .ite h.clearSlice.modSlice h

theorem sliceFillDone {sl : Nat} (h : s.Keeps t) : s.Keeps (Machine.sliceFillDone sl t) := .ite h.fillSlice h

theorem sliceFail {sl code : Nat} (h : s.Keeps t) : s.Keeps (Machine.sliceFail sl code t) := .ite h h.failSlice

theorem refreshRow {sl bank row waited : Nat} {busy : Bool} (h : s.Keeps t) : s.Keeps (Machine.refreshRow sl bank row waited busy t) :=
  .ite (.ite h.modSlice h.modSlice.bumpSlice) h

theorem refreshInterval {f : Nat} {temp16 : Int} (h : s.Keeps t) : s.Keeps (Machine.refreshInterval f temp16 t) := h.modField

theorem sliceScrub {sl : Nat} {obs : List WordObs} (h : s.Keeps t) : s.Keeps (Machine.sliceScrub sl obs t) :=
  .ite (h.foldl (fun _ _ h => h.brineFlip)).brineDecode.bumpSlice.modSlice (h.foldl (fun _ _ h => h.brineFlip))

theorem touchCheck {ch v : Nat} (h : s.Keeps t) : s.Keeps (Machine.touchCheck ch v t) := h.modChan.bumpChan

theorem cellarObserve {ch cha syndrome : Nat} {ue : Bool} (h : s.Keeps t) : s.Keeps (Machine.cellarObserve ch cha syndrome ue t) := by
  unfold Machine.cellarObserve
  dsimp only
  split
  · exact .ite h.modChan h.modChan.bumpChan.modChan.report
  · split
    · exact h.bumpChan.bumpChan.modChan
    · exact h.bumpChan.bumpChan.modChan.report

theorem cellarFlip {ch cha : Nat} {o : WordObs} (h : s.Keeps t) : s.Keeps (Machine.cellarFlip ch cha o t) := h.modChan

theorem cellarFlips {obs : List WordObs} (h : s.Keeps t) : s.Keeps (Machine.cellarFlips obs t) := h.foldState (fun _ _ h => h.cellarFlip)

theorem cellarDecode {ch cha : Nat} (h : s.Keeps t) : s.Keeps (Machine.cellarDecode ch cha t) :=
  h.modChan.foldState (fun _ _ h => h.cellarObserve)

theorem cellarReadUnit {a n : Nat} (h : s.Keeps t) : s.Keeps (Machine.cellarReadUnit a n t).2.2 := by
  unfold Machine.cellarReadUnit
  dsimp only
  exact h.cellarDecode.touchCheck.bumpChan

theorem cellarWriteUnit {a : Nat} {bs : List Byte} {marked : Bool} (h : s.Keeps t) : s.Keeps (Machine.cellarWriteUnit a bs marked t) :=
  ((State.Keeps.ite h.cellarDecode h).cellarMem fun m => wf_writeBytes m _ _).touchCheck.modChan.bumpChan

theorem cellarWrite {a : Nat} {bs : List Byte} {marks : List Bool} (h : s.Keeps t) : s.Keeps (Machine.cellarWrite a bs marks t) :=
  h.foldState (fun _ _ h => h.cellarWriteUnit)

theorem cellarRead {us : List (Nat × Nat)} (h : s.Keeps t) : s.Keeps (Machine.cellarRead us t).2.2 := by
  induction us generalizing t with
  | nil => exact h
  | cons x us ih => exact ih (h.cellarReadUnit (n := x.2))

theorem cellarScrub {ch : Nat} {obs : List WordObs} (h : s.Keeps t) : s.Keeps (Machine.cellarScrub ch obs t) :=
  .ite (h.foldState (fun _ _ h => h.cellarFlip)).cellarDecode.bumpChan.modChan (h.foldState (fun _ _ h => h.cellarFlip))

theorem channelFail {ch code : Nat} (h : s.Keeps t) : s.Keeps (Machine.channelFail ch code t) := .ite h h.modChan.report

end Sys2Proof.Machine.State.Keeps
end

section
/-! SUPPORT. What the pan store keeps (`State.Keeps`), function by function. -/

namespace Sys2Proof.Machine.State.Keeps
open Sys2Proof Sys2Proof.Machine
variable {s t u : State}

theorem storeFlip {p : Nat} {o : WordObs} (h : s.Keeps t) : s.Keeps (Machine.storeFlip p t o) := h.same rfl

theorem storeFlips {p : Nat} {obs : List WordObs} (h : s.Keeps t) : s.Keeps (Machine.storeFlips p obs t) :=
  h.foldl (fun _ _ h => h.storeFlip)

theorem storeDecode {p : Nat} {e : WordErr} (h : s.Keeps t) : s.Keeps (Machine.storeDecode p t e) := by
  unfold Machine.storeDecode
  dsimp only
  split
  · exact h.bumpPan.modStore.report
  · split
    · exact h.bumpPan.bumpPan.modStore
    · exact h.bumpPan.bumpPan.modStore.report

theorem decodeUnit {p a : Nat} (h : s.Keeps t) : s.Keeps (Machine.decodeUnit p a t) := h.foldl (fun _ _ h => h.storeDecode)

theorem storeWrite {p a : Nat} {bs : List Byte} {marked : Bool} (h : s.Keeps t) : s.Keeps (Machine.storeWrite p a bs marked t) :=
  (State.Keeps.ite h.decodeUnit.bumpPan h).modStore.storeMem fun m => wf_writeBytes m _ _

theorem storeRead {p a n : Nat} (h : s.Keeps t) : s.Keeps (Machine.storeRead p a n t).2.2 := by
  unfold Machine.storeRead
  dsimp only
  exact .ite h.decodeUnit.bumpPan h.decodeUnit

theorem localRead {p a n : Nat} (h : s.Keeps t) : s.Keeps (Machine.localRead p a n t).2.2 := by
  refine h.foldl_snd_snd (p := ([], false, t)) fun b u h => ?_
  dsimp only
  split
  · exact h.storeRead (n := u.2)
  · dsimp only
    exact h.bumpPan

theorem portReads {p : Nat} {runs : List (Nat × Nat)} (h : s.Keeps t) : s.Keeps (Machine.portReads p runs t).2.2 := by
  refine h.foldl_snd (p := (false, t)) fun b u h => ?_
  dsimp only
  split
  · exact h.storeRead (n := 64)
  · dsimp only
    exact h.bumpPan

theorem localWrite {p a : Nat} {bs : List Byte} {marked : Bool} (h : s.Keeps t) : s.Keeps (Machine.localWrite p a bs marked t) := by
  refine h.foldl_snd (p := (bs, t)) fun b u h => ?_
  dsimp only
  split
  · exact h.storeWrite
  · dsimp only
    exact h.bumpPan

theorem wideAccessAt {p d : Nat} {reqs : List (Nat × Nat × Nat)} (h : s.Keeps t) : s.Keeps (Machine.wideAccessAt p d reqs t).2 := by
  unfold Machine.wideAccessAt
  dsimp only
  split
  · dsimp only
    exact h.modStore.panFault
  · dsimp only
    exact h.modLat

theorem wideAccess {p : Nat} {reqs : List (Nat × Nat × Nat)} (h : s.Keeps t) : s.Keeps (Machine.wideAccess p reqs t).2 := h.wideAccessAt

theorem wideRmw {p d a n : Nat} (h : s.Keeps t) : s.Keeps (Machine.wideRmw p d a n t).2 := by
  unfold Machine.wideRmw
  dsimp only
  split
  · exact h.wideAccessAt
  · split
    · exact h.wideAccessAt.wideAccessAt
    · exact h.wideAccessAt.wideAccessAt.wideAccessAt

theorem recordReject {p src a cause : Nat} (h : s.Keeps t) : s.Keeps (Machine.recordReject p src a cause t) := h.bumpPan.modStore

theorem enqueue {p port a n : Nat} {data : Option (List Byte)} {marks : List Bool} {ack : Packet} (h : s.Keeps t) :
    s.Keeps (Machine.enqueue p port a n data marks ack t) :=
  h.modPan

theorem panStoreWrite {p a : Nat} {k : Packet} (h : s.Keeps t) : s.Keeps (Machine.panStoreWrite p a k t) := by
  unfold Machine.panStoreWrite
  split
  · exact h.recordReject.respond
  · exact .ite h.respond h.enqueue

theorem panStoreRead {p a : Nat} {k : Packet} (h : s.Keeps t) : s.Keeps (Machine.panStoreRead p a k t) :=
  .ite h.recordReject.respond h.enqueue

theorem haulStoreWrite {p ch a : Nat} {k : Packet} (h : s.Keeps t) : s.Keeps (Machine.haulStoreWrite p ch a k t) :=
  .ite h.enqueue h.bumpPan.respond

theorem haulStoreRead {p ch a : Nat} {k : Packet} (h : s.Keeps t) : s.Keeps (Machine.haulStoreRead p ch a k t) :=
  .ite h.bumpPan.respond h.enqueue

theorem occupyRuns {p port : Nat} {runs : List (Nat × Nat)} {write : Bool} (h : s.Keeps t) :
    s.Keeps (Machine.occupyRuns p port runs write t) :=
  (h.foldl (fun _ _ h => h.modPan)).modPan

theorem ask {p port a n : Nat} {data : Option (List Byte)} {use : NarrowUse} (h : s.Keeps t) :
    s.Keeps (Machine.ask p port a n data use t) :=
  h.foldl (fun _ _ h => (.ite h.modStore (.ite h.bumpPan h)))

theorem unitDone {p id : Nat} {r : Narrow} {bs : List Byte} {m : Bool} (h : s.Keeps t) : s.Keeps (Machine.unitDone p id r bs m t) := by
  unfold Machine.unitDone
  split
  · exact h
  · dsimp only
    split
    · exact .ite h.modStore.modSec h.modStore.sendBack
    · exact h.modStore

theorem finishLoad {p id : Nat} (h : s.Keeps t) : s.Keeps (Machine.finishLoad p id t) := by
  unfold Machine.finishLoad
  dsimp only
  split
  · exact h
  · exact .ite h.localRead.localRead.modSeq.panFault h.localRead.localRead.modSeq.modSeq

theorem serveUse {p : Nat} {r : Narrow} (h : s.Keeps t) : s.Keeps (Machine.serveUse p r t) := by
  unfold Machine.serveUse
  split
  · split
    · exact h.storeWrite.unitDone
    · exact (State.Keeps.ite h.decodeUnit.bumpPan h.decodeUnit).unitDone
  · exact h.storeWrite
  · exact .ite h h.modSeq
  · exact .ite h h.modLat
  · exact .ite h h.finishLoad
  · exact h.storeRead
  · exact h.modStore
  · exact h.modStore

theorem settleStore {p n : Nat} (h : s.Keeps t) : s.Keeps (Machine.settleStore p n t) := by
  induction n generalizing t with
  | zero => exact h
  | succ n ih =>
    unfold Machine.settleStore
    split
    · exact h
    · exact ih h.modStore.serveUse

theorem sluiceAccess {p a n : Nat} {write : Bool} (h : s.Keeps t) : s.Keeps (Machine.sluiceAccess p a n write t) :=
  h.settleStore.occupyRuns

theorem narrowServe {p bank : Nat} {obs : List WordObs} (h : s.Keeps t) : s.Keeps (Machine.narrowServe p bank obs t) := by
  unfold Machine.narrowServe
  dsimp only
  split
  · exact h.storeFlips
  · exact .ite h.storeFlips h.storeFlips.modPan.serveUse

theorem starve {p bank : Nat} (h : s.Keeps t) : s.Keeps (Machine.starve p bank t) := by
  unfold Machine.starve
  dsimp only
  split
  · exact h
  · exact .ite h h.modStore.panFault.modLat.modStore.narrowServe

theorem serveKind {p : Nat} {kind : NarrowUse → Bool} (h : s.Keeps t) : s.Keeps (Machine.serveKind p kind t) := by
  unfold Machine.serveKind
  split
  · exact h
  · exact .ite h.narrowServe h

theorem sleepBank {p b : Nat} (h : s.Keeps t) : s.Keeps (Machine.sleepBank p t b) := by
  unfold Machine.sleepBank
  split
  · exact h.modStore
  · exact h.modStore
  · exact h

theorem bankSleep {p mask : Nat} (h : s.Keeps t) : s.Keeps (Machine.bankSleep p mask t) :=
  .ite h (h.foldl (fun _ _ h => h.sleepBank))

theorem loseBank {p bank : Nat} (h : s.Keeps t) : s.Keeps (Machine.loseBank p bank t) :=
  (h.storeMem fun m => wf_clearRange m (p * 2 ^ 23 + bank * 2 ^ 18) (p * 2 ^ 23 + bank * 2 ^ 18 + 2 ^ 18)).same rfl

theorem bankAsleepNow {p b : Nat} (h : s.Keeps t) : s.Keeps (Machine.bankAsleepNow p b t) := h.loseBank.modStore

theorem bankDrained {p b : Nat} (h : s.Keeps t) : s.Keeps (Machine.bankDrained p b t) := .ite h.bankAsleepNow h

theorem boundFault {p : Nat} (h : s.Keeps t) : s.Keeps (Machine.boundFault p t) := .ite h.report h.panFault

theorem bankSleepBound {p b : Nat} (h : s.Keeps t) : s.Keeps (Machine.bankSleepBound p b t) :=
  .ite h.boundFault.modStore.bankAsleepNow h

theorem wakeBank {p b : Nat} (h : s.Keeps t) : s.Keeps (Machine.wakeBank p t b) := by
  unfold Machine.wakeBank
  split
  · exact .ite h h.modStore
  · exact h.modStore
  · exact h.modStore
  · exact h

theorem bankFillDone {p : Nat} (h : s.Keeps t) : s.Keeps (Machine.bankFillDone p t) := by
  unfold Machine.bankFillDone
  split
  · exact h
  · exact .ite h.loseBank.modStore.modStore.sleepBank h.loseBank.modStore

theorem beginStoreFill {p : Nat} (h : s.Keeps t) : s.Keeps (Machine.beginStoreFill p t) :=
  (h.storeMem fun m => wf_clearRange m (p * 2 ^ 23) (p * 2 ^ 23 + 2 ^ 23)).same rfl

theorem gateStore {p : Nat} (h : s.Keeps t) : s.Keeps (Machine.gateStore p t) := h.beginStoreFill.modStore

theorem scrubUnit {p u : Nat} (h : s.Keeps t) : s.Keeps (Machine.scrubUnit p u t) := .ite h.modPan.serveUse h.modStore

theorem patrolScrub {p : Nat} {obs : List WordObs} (h : s.Keeps t) : s.Keeps (Machine.patrolScrub p obs t) :=
  .ite h.storeFlips (State.Keeps.ite h.storeFlips.scrubUnit h.storeFlips).modStore

theorem winClose {p mask : Nat} (h : s.Keeps t) : s.Keeps (Machine.winClose p mask t) := h.modStore

end Sys2Proof.Machine.State.Keeps
end

section
/-! SUPPORT. What the haul channels keep (`State.Keeps`), function by function. -/

namespace Sys2Proof.Machine.State.Keeps
open Sys2Proof Sys2Proof.Machine
variable {s t u : State}

theorem issueFrom {r : Nat × Nat} {k : Packet} (h : s.Keeps t) : s.Keeps (Machine.issueFrom r k t) := by
  unfold Machine.issueFrom
  split
  · exact h.sendFrom
  · split
    · exact .ite h.respond h.inject
    · exact h.sendFrom
    · exact h.sendFrom

theorem haulIssue {c : HaulId} {k : Packet} {off len : Nat} {write : Bool} (h : s.Keeps t) :
    s.Keeps (Machine.haulIssue c k off len write t) := by
  unfold Machine.haulIssue
  split
  · exact .ite h.addOut.respond (.ite h.addOut.haulStoreWrite h.addOut.haulStoreRead)
  · exact h.addOut.issueFrom

theorem haulReads {c : HaulId} {n : Nat} (h : s.Keeps t) : s.Keeps (Machine.haulReads c n t) := by
  induction n generalizing t with
  | zero => exact h
  | succ n ih =>
    unfold Machine.haulReads
    dsimp only
    exact .ite h (.ite (ih h.modHaul.addOut) (ih h.modHaul.haulIssue))

theorem haulWriteOne {c : HaulId} {x : Haul} {o len : Nat} {run : List (Byte × Bool)} (h : s.Keeps t) :
    s.Keeps (Machine.haulWriteOne c x o len run t) := by
  unfold Machine.haulWriteOne
  dsimp only
  split
  · split
    · exact h.modHaul.report
    · exact (h.hostMem fun m => wf_writeBytes m _ _).modHaul
  · exact h.modHaul.modHaul.haulIssue

theorem haulWrites {c : HaulId} {n : Nat} (h : s.Keeps t) : s.Keeps (Machine.haulWrites c n t) := by
  induction n generalizing t with
  | zero => exact h
  | succ n ih =>
    unfold Machine.haulWrites
    dsimp only
    exact .ite h (.ite h (.ite (ih h.haulWriteOne) (.ite (.ite h.modHaul (ih h.haulWriteOne)) h)))

theorem haulDone {c : HaulId} (h : s.Keeps t) : s.Keeps (Machine.haulDone c t) := by
  unfold Machine.haulDone
  dsimp only
  split
  · split
    · exact h.modHaul.semAdd
    · exact h.modHaul.signalVector
    · exact h.modHaul.sendFrom
    · exact h.modHaul
  · split
    · split
      · exact h.modHaul.semAdd.finishTag
      · exact h.modHaul.signalVector.finishTag
      · exact h.modHaul.sendFrom.finishTag
      · exact h.modHaul.finishTag
    · split
      · exact h.modHaul.semAdd
      · exact h.modHaul.signalVector
      · exact h.modHaul.sendFrom
      · exact h.modHaul

theorem haulError {c : HaulId} (h : s.Keeps t) : s.Keeps (Machine.haulError c t) := by
  unfold Machine.haulError
  dsimp only
  split
  · split
    · exact h.expire.modHaul.report
    · exact h.expire.modHaul
  · split
    · split
      · exact h.expire.modHaul.report.finishTag
      · exact h.expire.modHaul.finishTag
    · split
      · exact h.expire.modHaul.report
      · exact h.expire.modHaul

theorem haulFlush {c : HaulId} (h : s.Keeps t) : s.Keeps (Machine.haulFlush c t) := .ite h h.modHaul.addOut

theorem haulSettle {c : HaulId} (h : s.Keeps t) : s.Keeps (Machine.haulSettle c t) := by
  unfold Machine.haulSettle
  dsimp only
  split
  · exact .ite (.ite h.haulFlush h.haulDone) h
  · exact .ite (.ite h.haulFlush (.ite h.haulDone h.modHaul)) h
  · exact .ite h h.haulError
  · exact h

theorem haulRun {c : HaulId} (h : s.Keeps t) : s.Keeps (Machine.haulRun c t) := h.haulReads.haulWrites.haulSettle

theorem haulStart {c : HaulId} (h : s.Keeps t) : s.Keeps (Machine.haulStart c t) := by
  unfold Machine.haulStart
  dsimp only
  split
  · exact h
  · split
    · exact h.expire.modHaul.haulError
    · exact .ite h.expire.modHaul.haulDone h.expire.modHaul.haulRun

theorem startWaiting {n : Nat} (h : s.Keeps t) : s.Keeps (Machine.startWaiting n t) := by
  induction n generalizing t with
  | zero => exact h
  | succ n ih =>
    unfold Machine.startWaiting
    split
    · exact ih h.modHif.modHaul.haulStart
    · exact h

theorem hostReadsGoOn (h : s.Keeps t) : s.Keeps (Machine.hostReadsGoOn t) := h.foldState (fun _ _ h => (.ite h.haulRun h))

theorem haulAfter (h : s.Keeps t) : s.Keeps (Machine.haulAfter t) := h.hostReadsGoOn.startWaiting

theorem dropOut {src tag : Nat} (h : s.Keeps t) : s.Keeps (Machine.dropOut src tag t) := h.same rfl

theorem expireOut {src tag : Nat} (h : s.Keeps t) : s.Keeps (Machine.expireOut src tag t) := h.expire

theorem haulFailed {c : HaulId} {o : Outst} {cause : Nat} (h : s.Keeps t) : s.Keeps (Machine.haulFailed c o cause t) :=
  h.modHaul.haulSettle

theorem flushFailed {c : HaulId} {o : Outst} {cause : Nat} (h : s.Keeps t) : s.Keeps (Machine.flushFailed c o cause t) :=
  h.modHaul.haulSettle

theorem haulReadBack {c : HaulId} {o : Outst} {k : Packet} (h : s.Keeps t) : s.Keeps (Machine.haulReadBack c o k t) := h.modHaul.haulRun

theorem haulAcked {c : HaulId} (h : s.Keeps t) : s.Keeps (Machine.haulAcked c t) := h.modHaul.haulRun.haulAfter

theorem flushDone {c : HaulId} (h : s.Keeps t) : s.Keeps (Machine.flushDone c t) := by
  unfold Machine.flushDone
  dsimp only
  split
  · exact (h.modHaul.same (by rfl)).haulSettle
  · exact .ite (h.modHaul.same (by rfl)).haulDone (h.modHaul.same (by rfl)).modHaul
  · exact .ite (h.modHaul.same (by rfl)).haulDone (h.modHaul.same (by rfl)).modHaul
  · exact h.modHaul.same (by rfl)

theorem idleChannels {p : Nat} (h : s.Keeps t) : s.Keeps (Machine.idleChannels p t) := h.same (by rfl)

end Sys2Proof.Machine.State.Keeps
end

section
/-! SUPPORT. What the rake keeps (`State.Keeps`), function by function. -/

namespace Sys2Proof.Machine.State.Keeps
open Sys2Proof Sys2Proof.Machine
variable {s t u : State}

theorem queueLoad {p : Nat} {r : RakeOp} {ea xa xn : Nat} (h : s.Keeps t) : s.Keeps (Machine.queueLoad p r ea xa xn t) := h.modSeq.ask.ask

theorem rakeLoad {p : Nat} {r : RakeOp} (h : s.Keeps t) : s.KeepsSlot (Machine.rakeLoad p r t) := by
  unfold Machine.rakeLoad
  dsimp only
  split
  · exact h
  · split
    · exact h.queueLoad
    · split
      · exact h.occupyRuns.localRead.localRead
      · exact h.occupyRuns.localRead.localRead.modSeq

theorem rakeWrite {p a : Nat} {bs : List Byte} (h : s.Keeps t) : s.Keeps (Machine.rakeWrite p a bs t) :=
  .ite h.occupyRuns.localWrite h.ask

theorem rakeStore {p : Nat} {r : RakeOp} (h : s.Keeps t) : s.KeepsSlot (Machine.rakeStore p r t) := by
  unfold Machine.rakeStore
  dsimp only
  split
  · exact h
  · exact h.rakeWrite.modSeq

theorem countDrain {p : Nat} {d : DrainOut} (h : s.Keeps t) : s.Keeps (Machine.countDrain p d t) := h.bumpPan.bumpPan.bumpPan

theorem rakePack {p : Nat} {r : RakeOp} {vals : List Int} {scale : Int} (h : s.Keeps t) :
    s.KeepsSlot (Machine.rakePack p r vals scale t) := by
  unfold Machine.rakePack
  dsimp only
  split
  · exact h
  · exact h.rakeWrite.rakeWrite.countDrain.modSeq

theorem rakeEffect {p : Nat} {r : RakeOp} (h : s.Keeps t) : s.KeepsSlot (Machine.rakeEffect p r t) := by
  unfold Machine.rakeEffect
  dsimp only
  split
  · exact h.rakeLoad
  · exact h.rakeStore
  · exact h.rakePack
  · exact (h.same (by rfl)).rakePack
  · split
    · exact h
    · exact (State.Keeps.ite (h.same (by rfl)) h).modSeq.bumpPan

end Sys2Proof.Machine.State.Keeps
end

section
/-! SUPPORT. What the sequencer keeps (`State.Keeps`), function by function. -/

namespace Sys2Proof.Machine.State.Keeps
open Sys2Proof Sys2Proof.Machine
variable {s t u : State}

theorem dropFeeder {p : Nat} (h : s.Keeps t) : s.Keeps (Machine.dropFeeder p t) := h.expire

theorem goNow {p : Nat} (h : s.Keeps t) : s.Keeps (Machine.goNow p t) :=
  .ite h.modPan.dropFeeder.panFaultOne h.modPan.dropFeeder

theorem go {p : Nat} (h : s.Keeps t) : s.Keeps (Machine.go p t) :=
  .ite h (.ite (.ite h.modSeq h.goNow) h)

theorem stop {p : Nat} (h : s.Keeps t) : s.Keeps (Machine.stop p t) := .ite h.modPan.dropFeeder h

theorem faultClear {p : Nat} (h : s.Keeps t) : s.Keeps (Machine.faultClear p t) := h.modSeq

theorem semClear {p mask : Nat} (h : s.Keeps t) : s.Keeps (Machine.semClear p mask t) := h.modSeq

theorem waitTimeout {p : Nat} (h : s.Keeps t) : s.Keeps (Machine.waitTimeout p t) := by
  unfold Machine.waitTimeout
  dsimp only
  split
  · exact .ite h.panFault h
  · exact h

theorem chainFaults {r : Nat} {ws : List (Nat × Nat × Nat)} (h : s.Keeps t) : s.Keeps (Machine.chainFaults r ws t) := by
  unfold Machine.chainFaults
  split
  · exact h
  · exact .ite ((h.foldState (fun _ _ h => h.panFaultOne)).foldState (fun _ _ h => h.stopPeer)) (h.foldState (fun _ _ h => h.panFaultOne))

theorem chainDisagree {p : Nat} (h : s.Keeps t) : s.Keeps (Machine.chainDisagree p t) := h.chainFaults

theorem chainTimeout {r : Nat} (h : s.Keeps t) : s.Keeps (Machine.chainTimeout r t) := .ite h.chainFaults h

theorem storeFillDone {p : Nat} (h : s.Keeps t) : s.Keeps (Machine.storeFillDone p t) :=
  .ite h (.ite h.modStore.modStore.modSeq.go h.modStore.modStore)

end Sys2Proof.Machine.State.Keeps
end

section
/-! SUPPORT. What the lattice keeps (`State.Keeps`), function by function. -/

namespace Sys2Proof.Machine.State.Keeps
open Sys2Proof Sys2Proof.Machine
variable {s t u : State}

theorem feederRead {p : Nat} {north : Bool} {off : Nat} {addr : Int} {n : Nat} (h : s.Keeps t) :
    s.Keeps (Machine.feederRead p north off addr n t) :=
  h.addOut.sendFrom

theorem feedAhead {p n : Nat} (h : s.Keeps t) : s.Keeps (Machine.feedAhead p n t) := by
  induction n generalizing t with
  | zero => exact h
  | succ n ih =>
    unfold Machine.feedAhead
    dsimp only
    split
    · exact h
    · split
      · exact h
      · exact ih h.modPan.feederRead.feederRead

theorem heldAhead {p n : Nat} (h : s.Keeps t) : s.Keeps (Machine.heldAhead p n t) := by
  induction n generalizing t with
  | zero => exact h
  | succ n ih =>
    unfold Machine.heldAhead
    dsimp only
    split
    · exact h
    · split
      · exact h
      · exact ih h.modPan.feederRead.feederRead

theorem westFeedBegin {p : Nat} (h : s.Keeps t) : s.Keeps (Machine.westFeedBegin p t) := by
  unfold Machine.westFeedBegin
  dsimp only
  split
  · exact h
  · split
    · exact h
    · exact .ite h h.modPan
    · exact .ite h (.ite h.panFault (.ite h.panFault h.modPan.feedAhead))

theorem drainVectors {p : Nat} {d : List Byte} {n : Nat} (h : s.Keeps t) : s.Keeps (Machine.drainVectors p d n t).2.2 := by
  unfold Machine.drainVectors
  dsimp only
  exact (h.foldl_snd_snd (fun _ _ h => by
      dsimp only
      exact h.localRead))

theorem northLoadBegin {p : Nat} (h : s.Keeps t) : s.Keeps (Machine.northLoadBegin p t) := by
  unfold Machine.northLoadBegin
  dsimp only
  split
  · exact h
  · split
    · exact h
    · split
      · exact h
      · split
        · exact h.panFault
        · split
          · exact .ite h.localRead.panFault (.ite h.localRead.panFault h.localRead.modPan.heldAhead)
          · exact .ite h.panFault (.ite h.panFault h.modPan.heldAhead)

theorem heldFetch {p : Nat} {ld : NorthLoad} (h : s.Keeps t) : s.Keeps (Machine.heldFetch p ld t).2 := by
  unfold Machine.heldFetch
  dsimp only
  split
  · split
    · exact h
    · exact h
  · split
    · exact h
    · split
      · exact h.wideAccess
      · exact h.wideAccess.portReads.portReads.modSeq

theorem heldFinish {p : Nat} {ld : NorthLoad} (h : s.Keeps t) : s.Keeps (Machine.heldFinish p ld t) := h.same rfl

theorem heldWrite {p : Nat} {ld : NorthLoad} (h : s.Keeps t) : s.Keeps (Machine.heldWrite p ld t) := by
  unfold Machine.heldWrite
  dsimp only
  split
  · rename_i e8
    exact (h.heldFetch.of_eq e8).bumpPan
  · rename_i e8
    exact .ite (h.heldFetch.of_eq e8) (h.heldFetch.of_eq e8).panFault
  · rename_i e8
    exact .ite (h.heldFetch.of_eq e8).panFault (.ite (h.heldFetch.of_eq e8).heldFinish (h.heldFetch.of_eq e8).modLat)

theorem paramCycle {p : Nat} {ld : NorthLoad} (h : s.Keeps t) : s.Keeps (Machine.paramCycle p ld t) := by
  unfold Machine.paramCycle
  dsimp only
  exact .ite h.wideAccess (.ite h.wideAccess.localRead.panFault (.ite h.wideAccess.localRead.panFault
    (.ite h.wideAccess.localRead.heldFinish h.wideAccess.localRead.modLat)))

theorem heldCycle {p : Nat} (h : s.Keeps t) : s.Keeps (Machine.heldCycle p t) := by
  unfold Machine.heldCycle
  dsimp only
  split
  · exact h
  · exact .ite h (.ite h.modLat.paramCycle (.ite h.modLat.bumpPan h.modLat.heldWrite.heldAhead))

theorem heldColumnWrite {p : Nat} {obs : List WordObs} (h : s.Keeps t) : s.Keeps (Machine.heldColumnWrite p obs t) :=
  h.storeFlips.inCycle (fun _ h => h.heldCycle)

theorem mergeWord {p w : Nat} {bs : List (Nat × Nat)} (h : s.Keeps t) : s.Keeps (Machine.mergeWord p w bs t) := by
  unfold Machine.mergeWord
  split
  · split
    · exact h
    · exact h.storeWrite.foldl fun _ _ h => h.storeMem fun m => wf_writeBytes m _ _
  · exact h.bumpPan

theorem makeWrites {p : Nat} (h : s.Keeps t) : s.Keeps (Machine.makeWrites p t) :=
  (State.Keeps.ite h (h.modLat.foldl (fun _ _ h => by
    dsimp only
    split
    · exact (State.Keeps.ite h.localWrite h.mergeWord).modLat
    · exact (.ite h.localWrite h.mergeWord))))

theorem nextCycle {p : Nat} (h : s.Keeps t) : s.Keeps (Machine.nextCycle p t) := .ite h.modPan.bumpPan h.modPan

theorem passCycle {p : Nat} (h : s.Keeps t) : s.Keeps (Machine.passCycle p t) := by
  unfold Machine.passCycle
  dsimp only
  split
  · exact .ite (State.Keeps.ite h h.panFaultOne).makeWrites.nextCycle.bumpPan.modSeq (State.Keeps.ite h
      h.panFaultOne).makeWrites.nextCycle
  · exact .ite h.makeWrites.nextCycle.bumpPan.modSeq h.makeWrites.nextCycle

theorem sendDecision {p k : Nat} {v : Bool} (h : s.Keeps t) : s.Keeps (Machine.sendDecision p k v t) :=
  h.foldState (fun _ _ h => (.ite h h.modLat))

theorem westFetch {p : Nat} {r : WestRun} {mode : Nat} (h : s.Keeps t) : s.Keeps (Machine.westFetch p r mode t).2 := by
  unfold Machine.westFetch
  dsimp only
  split
  · exact h
  · split
    · split
      · exact h
      · exact h
    · split
      · exact h
      · split
        · exact h.wideAccess
        · exact h.wideAccess.localRead.localRead.modSeq

theorem issueSlot {p : Nat} {r : WestRun} {c : HeldCopy} {es xs : List Byte} (h : s.Keeps t) : s.Keeps (Machine.issueSlot p r c es xs
    t) :=
  h.modPan.bumpPan

theorem bubble {p ctr k : Nat} {col : Option Nat} (h : s.Keeps t) : s.Keeps (Machine.bubble p ctr k col t) :=
  .ite h.bumpPan.sendDecision h.bumpPan

theorem giveNotice {p : Nat} (h : s.Keeps t) : s.Keeps (Machine.giveNotice p t) := .ite h h.modRegion

theorem holdBurst {p : Nat} {q : Seq} {ins : Bool} (h : s.Keeps t) : s.Keeps (Machine.holdBurst p q ins t) :=
  .ite h.modSeq.bumpPan.bumpPan.giveNotice h.modSeq.bumpPan

theorem tryIssue {p : Nat} {r : WestRun} {follow : Bool} (h : s.Keeps t) : s.Keeps (Machine.tryIssue p r follow t).2 := by
  unfold Machine.tryIssue
  extract_lets x c col k
  split
  · exact h.bubble
  · split
    · exact h.panFault
    · split
      · exact h.bubble
      · have hw : s.Keeps (Machine.westFetch p r c.mode t).2 := h.westFetch
        generalize Machine.westFetch p r c.mode t = w at hw
        obtain ⟨d, s1⟩ := w
        split
        · rename_i e
          exact (hw.of_eq e).bubble
        · exact h.holdBurst
        · rename_i e _
          cases e
          exact .ite hw hw.panFault
        · rename_i e _
          have hw := hw.of_eq e
          split
          · exact hw.panFault
          · exact .ite hw.issueSlot.sendDecision hw.issueSlot

theorem noRun {p : Nat} (h : s.Keeps t) : s.Keeps (Machine.noRun p t) := .ite h.bubble h

theorem followAct {p : Nat} (h : s.Keeps t) : s.Keeps (Machine.followAct p t) := by
  unfold Machine.followAct
  dsimp only
  split
  · exact h.modLat.bumpPan
  · split
    · exact h.noRun
    · exact .ite h (.ite h.modLat (.ite h.tryIssue.modLat h.tryIssue))
  · exact .ite h.noRun h

theorem westAct {p : Nat} (h : s.Keeps t) : s.Keeps (Machine.westAct p t) := by
  unfold Machine.westAct
  dsimp only
  split
  · exact .ite h.bumpPan h
  · split
    · exact .ite h.followAct h.noRun
    · exact .ite h.followAct h.tryIssue

theorem westSlotIssue {p : Nat} {obs : List WordObs} (h : s.Keeps t) : s.Keeps (Machine.westSlotIssue p obs t) :=
  (h.storeFlips.inCycle (fun _ h => h.westAct)).feedAhead.passCycle

theorem burstHoldEnd {p : Nat} (h : s.Keeps t) : s.Keeps (Machine.burstHoldEnd p t) := h.modSeq

theorem accSum {x : Int} (h : s.Keeps t) : s.Keeps (Machine.accSum x t).2 := by
  unfold Machine.accSum
  split
  · exact h
  · exact h.draw

theorem entryUpdate {p col : Nat} (h : s.Keeps t) : s.Keeps (Machine.entryUpdate p col t) := by
  unfold Machine.entryUpdate
  extract_lets x
  split
  · exact h
  · rename_i f _
    refine .ite h ?_
    extract_lets own take k s1
    have hk {u : State} (h : s.Keeps u) : s.Keeps (take u) := h.modLat.bumpPan
    clear_value take
    split
    · exact h
    · extract_lets sum ovf
      have h1 : s.Keeps s1 := .ite h.modLat h
      clear_value s1
      split
      · split
        · exact hk h1
        · exact hk h1.modLat
      · split
        · exact h
        · split
          · exact h1.panFault
          · have h3 {x : Int} {f : Machine.Lat → Machine.Lat} : s.Keeps (take ((Machine.accSum x s1).2.modLat p f)) :=
              hk h1.accSum.modLat
            dsimp only
            exact .ite h3 (.ite h3.panFault (.ite h3.panFault h3))

theorem flushExps {p : Nat} (h : s.Keeps t) : s.Keeps (Machine.flushExps p t) := by
  unfold Machine.flushExps
  split
  · exact h
  · dsimp only
    exact .ite (.ite h.modLat.wideAccessAt.modLat h.modLat.wideAccessAt) (.ite h.modLat.wideRmw.modLat h.modLat.wideRmw)

theorem putExp {p a : Nat} {e : Int} (h : s.Keeps t) : s.Keeps (Machine.putExp p a e t) := by
  unfold Machine.putExp
  dsimp only
  split
  · split
    · split
      · exact (State.Keeps.ite h h.flushExps).modLat.flushExps
      · exact h.modLat.flushExps
    · split
      · exact (State.Keeps.ite h h.flushExps).modLat
      · exact h.modLat
  · split
    · exact (State.Keeps.ite h h.flushExps).modLat
    · exact h.modLat

theorem ovfEntry {p j a : Nat} (h : s.Keeps t) : s.Keeps (Machine.ovfEntry p j a t) := h.modPan.bumpPan

theorem convertGrain {p : Nat} {d : DrainParams} {b : Int} {ch0 : Nat} {vs : List (Int × Bool)} {ea xa : Nat} (h : s.Keeps t) :
    s.Keeps (Machine.convertGrain p d b ch0 vs ea xa t).2 := by
  unfold Machine.convertGrain
  dsimp only
  split
  · exact h
  · have h1 {l : List ((Int × Bool) × Nat)} {o : DrainOut} :
        s.Keeps (Machine.countDrain p o (l.foldl (fun t v => Machine.ovfEntry p v.2 ea t) t)) :=
      (h.foldl fun _ _ h => h.ovfEntry).countDrain
    dsimp only
    split
    · exact h1.putExp
    · exact h1

theorem pipeElems {p a : Nat} {bs : List Byte} {mark : Bool} (h : s.Keeps t) : s.Keeps (Machine.pipeElems p a bs mark t) :=
  .ite h h.modLat

theorem pipeEnd {p sem : Nat} (h : s.Keeps t) : s.Keeps (Machine.pipeEnd p sem t) := .ite h h.modLat

theorem drainWide {p a n : Nat} (h : s.Keeps t) : s.Keeps (Machine.drainWide p a n t).2 := by
  unfold Machine.drainWide
  dsimp only
  split
  · exact h.wideAccessAt.wideAccessAt
  · exact h.wideAccessAt

theorem drainEntry {p : Nat} (h : s.Keeps t) : s.Keeps (Machine.drainEntry p t) := by
  unfold Machine.drainEntry
  extract_lets x
  split
  · extract_lets e
    split
    · exact h
    · extract_lets len
      refine .ite h ?_
      split
      · exact h.panFault
      · refine .ite h.panFault ?_
        dsimp only
        refine .ite h.drainWide ?_
        exact .ite (.ite h.drainWide.modPan.convertGrain.convertGrain.pipeElems.flushExps.pipeEnd
          h.drainWide.modPan.convertGrain.convertGrain.pipeElems.flushExps) h.drainWide.modPan.convertGrain.convertGrain.pipeElems
  · exact h

theorem doutComplete {p : Nat} (h : s.Keeps t) : s.Keeps (Machine.doutComplete p t) := by
  unfold Machine.doutComplete
  split
  · exact h
  · exact h.modLat.semAdd

theorem descReads {p : Nat} {use : NarrowUse} {served : Bool} {runs : List (Nat × Nat)} (h : s.Keeps t) :
    s.Keeps (Machine.descReads p use served runs t).2 := by
  unfold Machine.descReads
  split
  · exact h
  · split
    · exact h
    · split
      · exact h.occupyRuns
      · exact h.foldl fun _ _ h => h.ask

theorem drldBegin {p desc : Nat} (h : s.Keeps t) : s.Keeps (Machine.drldBegin p desc t) := by
  unfold Machine.drldBegin
  dsimp only
  exact .ite h.descReads (.ite h.descReads.modLat.localRead.panFault (.ite h.descReads.modLat.localRead.panFault
    (.ite h.descReads.modLat.localRead.panFault (.ite h.descReads.modLat.localRead.panFault
    (.ite h.descReads.modLat.localRead.drainVectors.panFault h.descReads.modLat.localRead.drainVectors.modSeq)))))

theorem drldOne {p n sag dag : Nat} {pr : DrainParams} (h : s.Keeps t) : s.Keeps (Machine.drldOne p n sag dag pr t) := by
  unfold Machine.drldOne
  extract_lets x
  split
  · exact h.panFault
  · exact h.panFault
  · refine .ite h.draw.panFault ?_
    dsimp only
    refine .ite h.wideAccess (.ite h.wideAccess.localRead.drainWide ?_)
    exact .ite h.wideAccess.localRead.drainWide.modPan.convertGrain.pipeElems.flushExps
      h.wideAccess.localRead.drainWide.modPan.convertGrain.pipeElems

theorem drldGrain {p : Nat} (h : s.Keeps t) : s.Keeps (Machine.drldGrain p t) := by
  unfold Machine.drldGrain
  dsimp only
  split
  · exact h
  · split
    · exact h
    · exact h.drldOne
    · split
      · exact h.drldBegin.drldOne
      · exact h.drldBegin

theorem feederStop {p : Nat} {north : Bool} {cause : Nat} (h : s.Keeps t) : s.Keeps (Machine.feederStop p north cause t) := h.panFault

theorem feederData {p : Nat} {north : Bool} {off : Nat} {bs : List Byte} {mark : Bool} (h : s.Keeps t) :
    s.Keeps (Machine.feederData p north off bs mark t) :=
  .ite h.modLat h.modPan

theorem feedLost {p tag : Nat} (h : s.Keeps t) : s.Keeps (Machine.feedLost p tag t) := by
  unfold Machine.feedLost
  dsimp only
  split
  · split
    · exact .ite h.expireOut.feederStop h
    · exact h
  · exact h

end Sys2Proof.Machine.State.Keeps
end

section
/-! SUPPORT. What register accesses keep (`State.Keeps`), function by function. -/

namespace Sys2Proof.Machine.State.Keeps
open Sys2Proof Sys2Proof.Machine
variable {s t u : State}

theorem readSide {hakar : Bool} {x : Block} {x' : Nat} (h : s.Keeps t) : s.Keeps (Machine.readSide hakar t x x') := by
  unfold Machine.readSide
  split
  · exact .ite h.modPan h
  · exact .ite h.modPan h
  · exact .ite h.modPan h
  · exact .ite h.modHaul (.ite h.modHaul (.ite h.modHaul h))
  · exact .ite h.modPan h
  · exact .ite h.modSlice h
  · exact .ite h.modChan h
  · exact .ite h.modRouter h
  · exact .ite h.modPort h
  · exact .ite (h.same (by rfl)) (.ite h.modSlot h)
  · exact .ite h.modHif (.ite h.modHif (.ite h.modHif h))
  · exact .ite h.modClock (.ite h.modClock (.ite h.modClock (.ite h.modRegion (.ite h.modField h))))
  · exact .ite h.modPower (.ite h.modPower (.ite h.modPower (.ite h.modPower (.ite h.modPower (.ite h.modRegion (.ite h.modRegion
      (.ite h.modPower h)))))))
  · exact .ite h.modFaults (.ite h.modFaults (.ite h.modFaults (.ite h.modFaults (.ite h.modFaults h))))
  · exact h

theorem readRegs {hakar : Bool} {l : List (Block × Nat)} (h : s.Keeps t) : s.Keeps (Machine.readRegs hakar l t).2 := by
  induction l generalizing t with
  | nil => exact h
  | cons x l ih => exact ih h.readSide

end Sys2Proof.Machine.State.Keeps
end

section
/-! SUPPORT. What register writes and reads keep (`State.Keeps`), function by function. -/

namespace Sys2Proof.Machine.State.Keeps
open Sys2Proof Sys2Proof.Machine
variable {s t u : State}

theorem writeSeq {p o v : Nat} (h : s.Keeps t) : s.Keeps (Machine.writeSeq p o v t) :=
  .ite h.modSeq (.ite (.ite h.stop (.ite h.go h)) (.ite h.modSeq (.ite (.ite h.faultClear h) (.ite h.modSeq (.ite h.semClear
    (.ite h.semAdd (.ite h.modSeq h)))))))

theorem writeProg {p o v : Nat} (h : s.Keeps t) : s.Keeps (Machine.writeProg p o v t) := h.modSeq

theorem writeHaul {c : HaulId} {o v : Nat} (h : s.Keeps t) : s.Keeps (Machine.writeHaul c o v t) :=
  .ite (.ite h h.modHaul) (.ite (.ite h h.modHaul) (.ite (.ite h h.modHaul) (.ite (.ite h h.modHaul) (.ite (.ite h h.modHaul)
    (.ite (State.Keeps.ite (State.Keeps.ite (State.Keeps.ite h h.modHaul).haulStart (.ite h h.modHaul)).modHaul.haulWrites.haulSettle
    (.ite (State.Keeps.ite h h.modHaul).haulStart (.ite h h.modHaul))).haulAfter h)))))

theorem writeStore {p o v : Nat} (h : s.Keeps t) : s.Keeps (Machine.writeStore p o v t) :=
  .ite h.modPan (.ite h.bankSleep (.ite (h.foldl (fun _ _ h => h.wakeBank)) (.ite h.winClose (.ite (.ite h.modStore h) h))))

theorem writeReg {hakar : Bool} {b : Block} {o v : Nat} (h : s.Keeps t) : s.Keeps (Machine.writeReg hakar b o v t) := by
  unfold Machine.writeReg
  split
  · exact h.writeSeq
  · exact h.writeProg
  · exact .ite h.modPan h
  · exact h.writeHaul
  · exact h.writeStore
  · exact .ite (.ite (State.Keeps.ite h.sliceSleep h).sliceWake (.ite h.sliceSleep h)) (.ite h.modSlice h)
  · exact .ite h.modChan h
  · exact .ite h.modPort h
  · exact .ite h.barrierArrive h
  · exact .ite (.ite h h.modHif) (.ite (.ite h h.modHif) (.ite h.ringCtl (.ite h.ringHead (.ite h.modHif (.ite h.doorbell
      (.ite h.apertureWrite (.ite h.apertureWrite h)))))))
  · exact h.slotWrite
  · exact h.msixWrite
  · exact h

theorem queueCommit {dev : Nat} {c : CommitRecord} (h : s.Keeps t) : s.Keeps (Machine.queueCommit dev c t).2 := by
  unfold Machine.queueCommit
  split
  · exact h.same rfl
  · exact h.bumpSvc

theorem queueBounce {dev : Nat} {c : CommitRecord} (h : s.Keeps t) : s.Keeps (Machine.queueBounce dev c t) :=
  .ite (h.same (by rfl)) h.bumpSvc

theorem writeWords {hakar : Bool} {l : List (Block × Nat)} {bs : List Byte} (h : s.Keeps t) : s.Keeps (Machine.writeWords hakar l bs t) :=
  by
  induction l generalizing t bs with
  | nil => exact h
  | cons x l ih => exact ih h.writeReg

theorem controlWrite {src off : Nat} {bs : List Byte} (h : s.Keeps t) : s.Keeps (Machine.controlWrite src off bs t).2 := by
  unfold Machine.controlWrite
  split
  · exact h
  · split
    · exact h
    · split
      · exact h.queueCommit
      · split
        · exact h.queueBounce
        · exact h.writeWords

theorem controlRead {src off n : Nat} (h : s.Keeps t) : s.Keeps (Machine.controlRead src off n t).2.2 := by
  unfold Machine.controlRead
  split
  · exact h
  · exact h.readRegs

theorem registerWrite {path : RegPath} {v : Nat} (h : s.Keeps t) : s.Keeps (Machine.registerWrite path v t) := by
  unfold Machine.registerWrite
  split
  · split
    · exact h.writeReg
    · exact h
  · exact .ite h.controlWrite h

theorem rcRead {path : RegPath} (h : s.Keeps t) : s.Keeps (Machine.rcRead path t) := by
  unfold Machine.rcRead
  split
  · split
    · exact h.readSide
    · exact h
  · exact .ite h.controlRead h

end Sys2Proof.Machine.State.Keeps
end

section
/-! SUPPORT. What the network keeps (`State.Keeps`), function by function. -/

namespace Sys2Proof.Machine.State.Keeps
open Sys2Proof Sys2Proof.Machine
variable {s t u : State}

theorem dropTransit {id : Nat} (h : s.Keeps t) : s.Keeps (Machine.dropTransit id t) := h.modNet

theorem takePacket {k : Packet} (h : s.Keeps t) : s.Keeps (Machine.takePacket k t) := by
  unfold Machine.takePacket
  split
  · exact h.dropTransit
  · exact h

theorem discardAt {gx gy : Nat} {k : Packet} (h : s.Keeps t) : s.Keeps (Machine.discardAt gx gy k t) := h.takePacket.bumpRouter.report

theorem routerFail {gx gy : Nat} (h : s.Keeps t) : s.Keeps (Machine.routerFail gx gy t) := by
  unfold Machine.routerFail
  split
  · exact h
  · split
    · exact (h.foldState (fun _ _ h => h.dropTransit)).modRouter.modNet.panFault.failSlice.report
    · exact (h.foldState (fun _ _ h => h.dropTransit)).modRouter.modNet.panFault.failSlice.report.report

theorem rowDeadSet {gx gy : Nat} (h : s.Keeps t) : s.Keeps (Machine.rowDeadSet gx gy t) := .ite h.modNet h

theorem putTransit {t' : Transit} (h : s.Keeps t) : s.Keeps (Machine.putTransit t' t) := h.modNet

theorem laneGranted {gx gy out lane : Nat} {r : Ready} (h : s.Keeps t) : s.Keeps (Machine.laneGranted gx gy out lane r t) := h.modRouter

theorem linkEvent {gx gy port : Nat} (h : s.Keeps t) : s.Keeps (Machine.linkEvent gx gy port t) :=
  .ite h.modRouter.routerFail h.modRouter

theorem linkResult {t' : Transit} {i gx gy port : Nat} {check : LinkCheck} (h : s.Keeps t) :
    s.Keeps (Machine.linkResult t' i gx gy port check t) := by
  unfold Machine.linkResult
  split
  · exact h
  · exact h.bumpRouter
  · exact h.putTransit.linkEvent
  · exact h.dropTransit.bumpRouter.bumpRouter.linkEvent

theorem sendUnit {gx gy out lane : Nat} {check : LinkCheck} {waited : Bool} {r : Ready} (h : s.Keeps t) :
    s.Keeps (Machine.sendUnit gx gy out lane check waited r t) := by
  unfold Machine.sendUnit
  dsimp only
  split
  · exact h.bumpRouter.bumpRouter.bumpRouter.laneGranted.putTransit.modNet.linkResult
  · exact h.bumpRouter.bumpRouter.bumpRouter.laneGranted.putTransit

theorem packetForward {gx gy out lane : Nat} {edge check : LinkCheck} {waited : Bool} (h : s.Keeps t) :
    s.Keeps (Machine.packetForward gx gy out lane edge check waited t) := by
  unfold Machine.packetForward
  dsimp only
  split
  · exact h
  · split
    · exact h.discardAt
    · split
      · exact h
      · split
        · exact .ite (.ite h.linkResult h) (State.Keeps.ite h.linkResult h).sendUnit
        · exact .ite h.linkResult h

theorem arrive {k : Packet} (h : s.Keeps t) (e : Machine.arrive k t = some u) : s.Keeps u := by
  unfold Machine.arrive at e
  split at e
  · cases e; exact h
  · split at e
    · cases e; exact h.dropTransit
    · cases e

theorem atTarget {k : Packet} {f : State → State} (h : s.Keeps t) (hf : ∀ t, s.Keeps t → s.Keeps (f t)) :
    s.Keeps (Machine.atTarget k f t) := by
  unfold Machine.atTarget
  split
  · exact h.discardAt
  · split
    · exact h
    · rename_i e
      exact hf _ (h.arrive e)

theorem mcastCounts {g : Group} {k : Packet} {links : List (Branch × Branch)} {checks : List ReplicaCheck} {members : List (Nat × Nat)}
    (h : s.Keeps t) : s.Keeps (Machine.mcastCounts g k links checks members t) :=
  ((h.foldState (fun _ _ h => h.bumpRouter)).foldState (fun _ _ h => h.bumpRouter)).foldState (fun _ _ h => h.bumpRouter.bumpRouter)

theorem replicaChecks {root : Branch} {links : List (Branch × Branch)} {checks : List ReplicaCheck} (h : s.Keeps t) :
    s.Keeps (Machine.replicaChecks root links checks t) :=
  (h.foldState (fun _ _ h => by
    dsimp only
    split
    · exact h
    · exact h.bumpRouter
    · exact h.linkEvent
    · exact h.bumpRouter.bumpRouter.linkEvent))

theorem groupDeliver {b : Nat} {k : Packet} {c0 : Combine} {reached : List ((Nat × Nat) × List Bool)} {lost : List (Nat × Nat)} (h :
    s.Keeps t) : s.Keeps (Machine.groupDeliver b k c0 reached lost t) := by
  have h1 : s.Keeps (reached.foldl (memberWrite b k) ({ c0 with waiting := lost }, t)).2 := by
    refine h.foldl_snd (p := ({ c0 with waiting := lost }, t)) fun q m h => ?_
    unfold memberWrite
    dsimp only
    split
    · exact h
    · split
      · exact h.recordReject
      · split
        · exact h
        · exact h.enqueue
  exact h1.same rfl

theorem mcastWrite {b : Nat} {g : Group} {k : Packet} {checks : List ReplicaCheck} (h : s.Keeps t) :
    s.Keeps (Machine.mcastWrite b g k checks t) := h.mcastCounts.replicaChecks.groupDeliver

theorem mcWrite {k : Packet} {checks : List ReplicaCheck} (h : s.Keeps t) : s.Keeps (Machine.mcWrite k checks t) := by
  unfold Machine.mcWrite
  split
  · exact h.respond
  · exact h.mcastWrite
  · exact h

theorem busDeliver {b : Nat} {g : Group} {k : Packet} (h : s.Keeps t) : s.Keeps (Machine.busDeliver b g k t) :=
  (h.modNet.bumpRouter.foldState fun _ _ h => h.bumpRouter).groupDeliver

theorem busWrite {k : Packet} (h : s.Keeps t) : s.Keeps (Machine.busWrite k t) := by
  unfold Machine.busWrite
  split
  · exact h.respond
  · exact h.busDeliver
  · exact h

theorem combineUp {waiting : List (Nat × Nat)} {ls : List (Branch × Branch)} (h : s.Keeps t) :
    s.Keeps (Machine.combineUp waiting ls t).2 := by
  induction ls generalizing t with
  | nil => exact h
  | cons l ls ih =>
    unfold Machine.combineUp
    split
    · exact ih h.bumpRouter
    · exact ih h

theorem wrAckCombine {src tag : Nat} (h : s.Keeps t) : s.Keeps (Machine.wrAckCombine src tag t) := by
  unfold Machine.wrAckCombine
  split
  · exact h
  · exact .ite h.combineUp.modNet.inject h.combineUp.modNet

end Sys2Proof.Machine.State.Keeps
end

section
/-! SUPPORT. What requests at their targets keep (`State.Keeps`), function by function. -/

namespace Sys2Proof.Machine.State.Keeps
open Sys2Proof Sys2Proof.Machine
variable {s t u : State}

theorem debugPort {p off : Nat} {write : Bool} {k : Packet} (h : s.Keeps t) : s.Keeps (Machine.debugPort p off write k t) :=
  .ite h.respond (.ite h.respond (.ite h.enqueue h.enqueue))

theorem memFlips {space : Nat} {obs : List WordObs} (h : s.Keeps t) : s.Keeps (Machine.memFlips space obs t) :=
  .ite (h.foldl (fun _ _ h => h.brineFlip)) (.ite h.cellarFlips h)

theorem rdTarget {k : Packet} {obs : List WordObs} (h : s.Keeps t) : s.Keeps (Machine.rdTarget k obs t) := by
  unfold Machine.rdTarget
  dsimp only
  split
  · split
    · exact h.memFlips.panStoreRead
    · exact h.memFlips.respond
  · split
    · exact h.memFlips.respond
    · exact .ite h.memFlips.brineRead.respond h.memFlips.brineRead.respond
  · exact .ite h.memFlips.respond h.memFlips.cellarRead.respond
  · split
    · exact h.memFlips.debugPort
    · exact .ite h.memFlips.controlRead.respond h.memFlips.respond

theorem reduceTarget {k : Packet} (h : s.Keeps t) : s.Keeps (Machine.reduceTarget k t) := by
  unfold Machine.reduceTarget
  split
  · exact .ite h.respond (h.foldState (fun _ _ h => h.takeChunk)).respond
  · exact h.respond
  · exact h.respond

theorem wrTarget {k : Packet} (h : s.Keeps t) : s.Keeps (Machine.wrTarget k t) := by
  unfold Machine.wrTarget
  dsimp only
  split
  · split
    · split
      · exact h.respond
      · exact .ite h.busWrite h.mcWrite
    · exact h.reduceTarget
    · split
      · exact h.panStoreWrite
      · exact h.respond
  · split
    · exact h.respond
    · exact h.brineWrite.respond
  · exact .ite h.respond h.cellarWrite.respond
  · split
    · exact .ite h.debugPort h.respond
    · exact h.controlWrite.respond

theorem wrLater {k : Packet} (h : s.Keeps t) : s.Keeps (Machine.wrLater k t) := by
  unfold Machine.wrLater
  split
  · exact h.brineAdmitted
  · exact h.wrTarget

theorem commitTarget {k : Packet} (h : s.Keeps t) : s.Keeps (Machine.commitTarget k t) :=
  .ite h (.ite (.ite h.queueCommit h.queueCommit.sendFrom) (.ite h.controlWrite h))

theorem commitResend (h : s.Keeps t) : s.Keeps (Machine.commitResend t) := by
  unfold Machine.commitResend
  split
  · exact h
  · exact .ite (h.same (by rfl)).sendRecord h

theorem atomicPerform_rejected {k : Packet} {aop n a b c : Nat} (h : s.Keeps t)
    (e : Machine.atomicPerform k aop n a b t = .rejected c u) : s.Keeps u := by
  unfold Machine.atomicPerform at e
  dsimp only at e
  split at e
  · split at e
    · cases e; exact h
    · split at e
      · cases e; exact h.recordReject
      · cases e
  · split at e
    · cases e; exact h
    · split at e
      · cases e; exact h.brineRead
      · cases e
  · split at e
    · cases e; exact h
    · cases e
  · cases e; exact h

theorem atomicPerform_done {k : Packet} {aop n a b v : Nat} {m : Bool} (h : s.Keeps t)
    (e : Machine.atomicPerform k aop n a b t = .done v m u) : s.Keeps u := by
  unfold Machine.atomicPerform at e
  dsimp only at e
  split at e
  · split at e
    · cases e
    · split at e
      · cases e
      · cases e; exact .ite (h.sluiceAccess.storeRead (n := n)) (h.sluiceAccess.storeRead (n := n)).storeWrite
  · split at e
    · cases e
    · split at e
      · cases e
      · cases e; exact .ite h.brineRead h.brineRead.brineWrite
  · split at e
    · cases e
    · have hr := h.cellarRead (us := [(addrOffset k.addr, n)])
      generalize Machine.cellarRead [(addrOffset k.addr, n)] t = w at hr e
      cases e; exact .ite hr hr.cellarWrite
  · cases e

theorem atomicUnit {k : Packet} (h : s.Keeps t) : s.Keeps (Machine.atomicUnit k t).2.2.2 := by
  unfold Machine.atomicUnit
  extract_lets hd aop w64 n sq a b want refuse bad old dd back known ahead
  have hr : s.Keeps refuse.2.2.2 := h.bumpSvc
  clear_value refuse
  split
  · exact h
  · split
    · exact hr
    · split
      · exact State.Keeps.bumpSvc (h.same (by rfl))
      · split
        · rename_i e
          exact h.atomicPerform_rejected e
        · rename_i e
          dsimp only
          split
          · exact hr
          · exact State.Keeps.bumpSvc ((h.atomicPerform_done e).same (by rfl))

theorem atomicDone {w : AtomicWait} {status info : Nat} {payload : List Nat} (h : s.Keeps t) :
    s.Keeps (Machine.atomicDone w status info payload t) :=
  h.modHif.finishTag

theorem atomicAnswer {k : Packet} (h : s.Keeps t) : s.Keeps (Machine.atomicAnswer k t) := by
  unfold Machine.atomicAnswer
  dsimp only
  split
  · exact h
  · split
    · exact h.dropOut
    · split
      · exact h
      · split
        · exact h.dropOut
        · exact .ite h.dropOut.modHif (.ite h.dropOut.atomicDone (.ite h.dropOut.atomicDone h.dropOut.atomicDone))

theorem hostAccessEvent {code addr tag : Nat} (h : s.Keeps t) : s.Keeps (Machine.hostAccessEvent code addr tag t) := h.modHif.report

theorem bar2Write {o : Nat} {data : List Byte} (h : s.Keeps t) : s.Keeps (Machine.bar2Write o data t) :=
  .ite h.hostAccessEvent h.addOut.issueFrom

theorem bar2Abort {tag : Nat} (h : s.Keeps t) : s.Keeps (Machine.bar2Abort tag t) := by
  unfold Machine.bar2Abort
  split
  · exact h
  · exact h.expire.modHif.hostAccessEvent

theorem bar2Read {o len tag : Nat} (h : s.Keeps t) : s.Keeps (Machine.bar2Read o len tag t) :=
  .ite h.modHif.bar2Abort (h.modHif.foldState (fun _ _ h => h.addOut.sendFrom))

theorem bar2Data {tag off : Nat} {bs : List Byte} (h : s.Keeps t) : s.Keeps (Machine.bar2Data tag off bs t) := by
  unfold Machine.bar2Data
  split
  · exact h
  · exact .ite h.modHif h.modHif

theorem rdDataBack {k : Packet} (h : s.Keeps t) : s.Keeps (Machine.rdDataBack k t) := by
  unfold Machine.rdDataBack
  split
  · exact h
  · split
    · exact .ite h (.ite h.dropOut.haulFailed.haulAfter h.dropOut.haulReadBack.haulAfter)
    · exact .ite h.dropOut.feederStop (.ite h.dropOut.feederData.heldAhead h.dropOut.feederData.feedAhead)
    · exact .ite h (.ite h.dropOut.bar2Abort h.dropOut.bar2Data)
    · exact h.dropOut.releaseCommits
    · exact h

theorem writeAcked {k : Packet} (h : s.Keeps t) : s.Keeps (Machine.writeAcked k t) := by
  unfold Machine.writeAcked
  split
  · exact h
  · split
    · exact h
    · split
      · exact .ite h.dropOut.haulFailed.haulAfter h.dropOut.haulAcked
      · exact .ite h.dropOut.releaseCommits h.dropOut.releaseCommits.rootAck
      · exact .ite h.dropOut.hostAccessEvent h.dropOut
      · exact h.dropOut.releaseCommits

theorem haulErrorBack {k : Packet} (h : s.Keeps t) : s.Keeps (Machine.haulErrorBack k t) := by
  unfold Machine.haulErrorBack
  split
  · split
    · exact h.dropOut.haulFailed.haulAfter
    · exact h.dropOut.releaseCommits
    · exact h
  · exact h

end Sys2Proof.Machine.State.Keeps
end

section
/-! SUPPORT. What the Finron ports keep (`State.Keeps`), function by function. -/

namespace Sys2Proof.Machine.State.Keeps
open Sys2Proof Sys2Proof.Machine
variable {s t u : State}

theorem portTraffic {n m : Nat} (h : s.Keeps t) : s.Keeps (Machine.portTraffic n m t) := h.modPort

theorem creditFrom {n vc cnt : Nat} (h : s.Keeps t) : s.Keeps (Machine.creditFrom n vc cnt t) := h.modPort

theorem ackFrom {n ack : Nat} (h : s.Keeps t) : s.Keeps (Machine.ackFrom n ack t) := h.modPort

theorem freedHere {n vc k : Nat} (h : s.Keeps t) : s.Keeps (Machine.freedHere n vc k t) := h.modPort

theorem poolTake {n : Nat} {h' : FinHeader} (h : s.Keeps t) : s.Keeps (Machine.poolTake n h' t) := h.modPort

theorem poolFree {from_ : Option (Nat × Nat)} {slots : Nat} (h : s.Keeps t) : s.Keeps (Machine.poolFree from_ slots t) := by
  unfold Machine.poolFree
  split
  · exact h
  · exact h.modPort.freedHere

theorem transmit {n : Nat} {h' : FinHeader} {bs : List Byte} (h : s.Keeps t) : s.Keeps (Machine.transmit n h' bs t) := h.same (by rfl)

theorem handOut {n : Nat} {h' : FinHeader} {bs : List Byte} {from_ : Option (Nat × Nat)} (h : s.Keeps t) :
    s.Keeps (Machine.handOut n h' bs from_ t) :=
  .ite ((State.Keeps.ite h h.modPort).same (by rfl)) h.transmit.poolFree

theorem flushSome {n m : Nat} (h : s.Keeps t) : s.Keeps (Machine.flushSome n m t) := by
  induction n generalizing t with
  | zero => exact h
  | succ n ih =>
    unfold Machine.flushSome
    split
    · exact h
    · exact ih (h.same (by rfl)).transmit.poolFree

theorem restGrants {n : Nat} (h : s.Keeps t) : s.Keeps (Machine.restGrants n t) := h.modPort

theorem flushPort {n : Nat} (h : s.Keeps t) : s.Keeps (Machine.flushPort n t) := h.flushSome.restGrants

theorem sendControl {n op crvc addr : Nat} (h : s.Keeps t) : s.Keeps (Machine.sendControl n op crvc addr t) := (h.same (by rfl)).modPort

theorem resend {n : Nat} {timer : Bool} (h : s.Keeps t) : s.Keeps (Machine.resend n timer t) :=
  .ite h (h.same (by rfl)).bumpPort.bumpPort

theorem sendOut {k : Packet} (h : s.Keeps t) : s.Keeps (Machine.sendOut k t) := by
  unfold Machine.sendOut
  dsimp only
  split
  · exact .ite h h.respond
  · exact (State.Keeps.ite h.bumpPort.bumpPort h).portTraffic.handOut

theorem packetTransmit {k : Packet} (h : s.Keeps t) : s.Keeps (Machine.packetTransmit k t) :=
  .ite h (.ite h.modNet.sendOut (h.atTarget (fun _ h => h.sendOut)))

theorem ingress {n : Nat} {h' : FinHeader} {bs : List Byte} {ms : List Bool} (h : s.Keeps t) : s.Keeps (Machine.ingress n h' bs ms t) :=
  .ite (.ite h h.respond) (.ite h.inject h.issueFrom)

theorem answerFarEnd {n : Nat} {h' : FinHeader} (h : s.Keeps t) : s.Keeps (Machine.answerFarEnd n h' t) := .ite h h.respond

theorem packetIn {n : Nat} {h' : FinHeader} {bs : List Byte} {ms : List Bool} (h : s.Keeps t) : s.Keeps (Machine.packetIn n h' bs ms t) :=
  by
  unfold Machine.packetIn
  dsimp only
  split
  · exact h.portTraffic.poolTake.ingress.poolFree
  · exact h.portTraffic.poolTake.portTraffic.handOut
  · exact h.portTraffic.poolTake.answerFarEnd.poolFree
  · exact h.portTraffic.poolTake.poolFree

theorem fecCounts {n : Nat} {f : Fec} (h : s.Keeps t) : s.Keeps (Machine.fecCounts n f t) :=
  .ite h h.modPort.bumpPort.bumpPort.bumpPort

theorem linkDiscard {n : Nat} (h : s.Keeps t) : s.Keeps (Machine.linkDiscard n t) := h.bumpPort.report

theorem nakFrom {n : Nat} (h : s.Keeps t) : s.Keeps (Machine.nakFrom n t) := h.modPort.sendControl

theorem expectUnits {n : Nat} {h' : FinHeader} {discard : Bool} (h : s.Keeps t) : s.Keeps (Machine.expectUnits n h' discard t) :=
  .ite h h.modPort

theorem payloadReceive {n : Nat} {f : Fec} {bs : List Byte} (h : s.Keeps t) : s.Keeps (Machine.payloadReceive n f bs t) := by
  unfold Machine.payloadReceive
  dsimp only
  split
  · exact h
  · split
    · exact h.fecCounts
    · exact h.fecCounts.modPort
    · exact .ite h.fecCounts.bumpPort.modPort.packetIn h.fecCounts.bumpPort.modPort

theorem linkIdle {n ack crvc crcnt : Nat} (h : s.Keeps t) : s.Keeps (Machine.linkIdle n ack crvc crcnt t) :=
  .ite h.creditFrom.ackFrom.flushPort h

theorem linkNak {n ack : Nat} (h : s.Keeps t) : s.Keeps (Machine.linkNak n ack t) := .ite h.ackFrom.resend h

theorem markSegment {role : Nat} (h : s.Keeps t) : s.Keeps (Machine.markSegment role t) := by
  unfold Machine.markSegment
  split
  · exact h
  · exact h.same (by rfl)

theorem portDown {n : Nat} (h : s.Keeps t) : s.Keeps (Machine.portDown n t) :=
  .ite h (State.Keeps.ite ((h.same (by rfl)).foldState (fun _ _ h => h.poolFree)).markSegment ((h.same (by rfl)).foldState (fun _ _ h =>
    h.poolFree))).flushPort.report

theorem laneEvent {n lane : Nat} {dropped : Bool} (h : s.Keeps t) : s.Keeps (Machine.laneEvent n lane dropped t) := h.bumpPort.report

theorem linkLane {n map codeword : Nat} (h : s.Keeps t) : s.Keeps (Machine.linkLane n map codeword t) :=
  .ite h (.ite h.linkDiscard (.ite (h.modPort.foldState (fun _ _ h => h.laneEvent)).portDown (h.modPort.foldState (fun _ _ h =>
    h.laneEvent))))

theorem headerReceive {n : Nat} {h' : FinHeader} {f : Fec} (h : s.Keeps t) : s.Keeps (Machine.headerReceive n h' f t) :=
  .ite h (.ite (State.Keeps.ite h.fecCounts h.fecCounts.expectUnits).bumpPort.nakFrom (.ite h.fecCounts.linkDiscard
    (.ite h.fecCounts.creditFrom.ackFrom.resend (.ite h.fecCounts.creditFrom.ackFrom.flushPort.linkLane
    (.ite h.fecCounts.creditFrom.ackFrom.flushPort (.ite (.ite h.fecCounts.creditFrom.ackFrom.expectUnits
    (.ite h.fecCounts.creditFrom.ackFrom.expectUnits h.fecCounts.creditFrom.ackFrom.expectUnits.nakFrom))
    (.ite h.fecCounts.creditFrom.ackFrom.modPort.flushPort.linkDiscard.expectUnits.freedHere
    (.ite h.fecCounts.creditFrom.ackFrom.modPort.flushPort.packetIn
    h.fecCounts.creditFrom.ackFrom.modPort.flushPort.expectUnits))))))))

theorem laneJudge {n lane : Nat} {lost : Bool} (h : s.Keeps t) : s.Keeps (Machine.laneJudge n lane lost t) := by
  unfold Machine.laneJudge
  dsimp only
  split
  · exact h
  · split
    · exact h
    · exact .ite h.draw.modPort.laneEvent.sendControl.portDown h.draw.modPort.laneEvent.sendControl

end Sys2Proof.Machine.State.Keeps
end

section
/-! SUPPORT. What placement keeps (`State.Keeps`), function by function. -/

namespace Sys2Proof.Machine.State.Keeps
open Sys2Proof Sys2Proof.Machine
variable {s t u : State}

theorem zeroLot {l : Lot} (h : s.Keeps t) : s.Keeps (Machine.zeroLot l t) := by
  have h1 {xs : List Nat} : s.Keeps (Machine.foldState xs (fun t sl => Machine.settleSlice sl t) t) :=
    h.foldState fun _ _ h => h.settleSlice
  exact (h1.brineMem fun m => wf_filter m _).same rfl

theorem freeLot {l : Nat} (h : s.Keeps t) : s.Keeps (Machine.freeLot l t) := h.same rfl

theorem lotWriteUnit {l o : Nat} {bs : List Byte} {marked : Bool} (h : s.Keeps t) : s.Keeps (Machine.lotWriteUnit l o bs marked t) := by
  unfold Machine.lotWriteUnit
  split
  · exact h
  · exact h.sliceWrite

theorem allocNear {job bytes region l : Nat} (h : s.Keeps t) (e : Machine.allocNear job bytes region t = some (l, u)) : s.Keeps u := by
  simp only [Machine.allocNear] at e
  split at e
  · cases e
  · split at e
    · cases e
      exact (h.foldState fun _ _ h => h.wakeFor).modMem
    · cases e

theorem allocEven {job bytes l : Nat} (h : s.Keeps t) (e : Machine.allocEven job bytes t = some (l, u)) : s.Keeps u := by
  simp only [Machine.allocEven] at e
  split at e
  · split at e
    · cases e
    · cases e
      exact (h.foldState fun _ _ h => h.wakeFor).modMem
  · cases e

theorem allocCellar {job bytes : Nat} {l : CellarLot} (h : s.Keeps t) (e : Machine.allocCellar job bytes t = some (l, u)) : s.Keeps u :=
    by
  generalize hf : Machine.allocCellar = f at e
  delta Machine.allocCellar at hf
  subst hf
  beta_reduce at e
  extract_lets a b c d at e
  clear_value a b c d
  split at e
  · cases e
  · cases e
    exact h.modMem

theorem zeroCellar {l : CellarLot} (h : s.Keeps t) : s.Keeps (Machine.zeroCellar l t) :=
  (h.cellarMem fun m => wf_clearRange m _ _).same rfl

theorem allocLots {job bytes k : Nat} {home : Option Nat} {ls : List Nat} (h : s.Keeps t)
    (e : Machine.allocLots job bytes home k t = some (ls, u)) : s.Keeps u := by
  induction k generalizing t u ls with
  | zero => cases e; exact h
  | succ k ih =>
    simp only [Machine.allocLots] at e
    split at e
    · cases e
    · rename_i l s1 e1
      have h1 : s.Keeps s1 := by
        split at e1
        · exact h.allocNear e1
        · exact h.allocEven e1
      split at e
      · cases e
      · rename_i e2
        cases e
        exact ih h1 e2

theorem placeTensors {job : Nat} {x : Job} {copies : List (Nat × Nat)} {ts : List (Tensor × Nat)} {ps : List Placed} (h : s.Keeps t)
    (e : Machine.placeTensors job x copies ts t = some (ps, u)) : s.Keeps u := by
  induction ts generalizing t u ps with
  | nil => cases e; exact h
  | cons y ts ih =>
    simp only [Machine.placeTensors] at e
    split at e
    · cases e
    · rename_i e1
      split at e
      · cases e
      · rename_i e2
        cases e
        exact ih (h.allocLots e1) e2

theorem copyUnits {l a n : Nat} (h : s.Keeps t) : s.Keeps (Machine.copyUnits l a n t) := by
  induction n generalizing t with
  | zero => exact h
  | succ n ih => exact ((ih h).cellarReadUnit (n := 64)).lotWriteUnit

theorem writePayloads {im : Image} {ps : List Placed} (h : s.Keeps t) : s.Keeps (Machine.writePayloads im ps t) :=
  h.foldState (fun _ _ h => (.ite h (h.foldState (fun _ _ h => h.copyUnits))))

theorem putReq {bytes l : Nat} (h : s.Keeps t) : s.Keeps (Machine.putReq bytes t l) := by
  unfold Machine.putReq
  split
  · exact h
  · exact h.same (by rfl)

theorem writeReqs {im : Image} {ps : List Placed} (h : s.Keeps t) : s.Keeps (Machine.writeReqs im ps t) :=
  h.foldState (fun _ _ h => (.ite (h.foldState (fun _ _ h => h.putReq)) h))

theorem writeReport {j : Nat} (h : s.Keeps t) : s.Keeps (Machine.writeReport j t) := by
  unfold Machine.writeReport
  split
  · exact h
  · exact h.hostMem fun m => wf_writeBytes m _ _

theorem shareMove {j logical : Nat} (h : s.Keeps t) : s.Keeps (Machine.shareMove j logical t).2 := by
  unfold Machine.shareMove
  split
  · exact h
  · dsimp only
    split
    · exact h
    · exact h.setJob.writeReport.postEntry

end Sys2Proof.Machine.State.Keeps
end

section
/-! SUPPORT. What fencing keeps (`State.Keeps`), function by function. -/

namespace Sys2Proof.Machine.State.Keeps
open Sys2Proof Sys2Proof.Machine
variable {s t u : State}

theorem appendRun {r : Nat} (h : s.Keeps t) : s.Keeps (Machine.appendRun r t) := .ite h.modBoot h

theorem fenceRegion {r : Nat} (h : s.Keeps t) : s.Keeps (Machine.fenceRegion r t) :=
  (h.foldState (fun _ _ h => h.stop.idleChannels.gateStore)).modRegion.modField.modTopo.modBoot.appendRun

theorem rewriteGroups {old : State} (h : s.Keeps t) : s.Keeps (Machine.rewriteGroups old t) := h.modNet

theorem settleRegion {r : Nat} (h : s.Keeps t) : s.Keeps (Machine.settleRegion r t).2 := by
  unfold Machine.settleRegion
  split
  · exact h
  · exact (State.Keeps.ite h.modTopo.modRegion h.modTopo).modRegion.rewriteGroups

theorem settleFences {fence : List Nat} (h : s.Keeps t) : s.Keeps (Machine.settleFences fence t) :=
  h.foldState (fun _ _ h => h.settleRegion)

end Sys2Proof.Machine.State.Keeps
end

section
/-! SUPPORT. What jobs keep (`State.Keeps`), function by function. -/

namespace Sys2Proof.Machine.State.Keeps
open Sys2Proof Sys2Proof.Machine
variable {s t u : State}

theorem mirrorTally {j : Nat} (h : s.Keeps t) : s.Keeps (Machine.mirrorTally j t) := by
  unfold Machine.mirrorTally
  split
  · exact h.same (by rfl)
  · exact h.same (by rfl)

theorem spareSource {j step : Nat} (h : s.Keeps t) : s.Keeps (Machine.spareSource j step t) := by
  unfold Machine.spareSource
  split
  · exact .ite (h.same (by rfl)) h
  · exact h

theorem hakarStore {p a : Nat} {bs : List Byte} (h : s.Keeps t) : s.Keeps (Machine.hakarStore p a bs t) := by
  unfold Machine.hakarStore
  split
  · exact h
  · split
    · exact h.recordReject
    · exact h.sluiceAccess.localWrite

theorem loadProgram {x : Job} {l step p : Nat} {pr : PanProgram} (h : s.Keeps t) : s.Keeps (Machine.loadProgram x l step p pr t) :=
  (h.modPan.foldState (fun _ _ h => h.hakarStore)).foldState (fun _ _ h => h.hakarStore)

theorem prepPan {p : Nat} (h : s.Keeps t) : s.Keeps (Machine.prepPan p t) := h.stop.faultClear.semClear.winClose

theorem startShare {x : Job} {l step i : Nat} {run : Bool} (h : s.Keeps t) : s.Keeps (Machine.startShare x l step i run t) :=
  .ite ((h.foldState (fun _ _ h => h.stop.faultClear.loadProgram)).foldState (fun _ _ h => h.go)) (h.foldState (fun _ _ h =>
    h.stop.faultClear.loadProgram))

theorem kickRegion {j r : Nat} (h : s.Keeps t) : s.Keeps (Machine.kickRegion j r t) := by
  unfold Machine.kickRegion
  dsimp only
  split
  · exact h
  · split
    · exact h
    · split
      · exact h
      · exact h.setJob.startShare

theorem kickPrior {j : Nat} (h : s.Keeps t) : s.Keeps (Machine.kickPrior j t) := by
  unfold Machine.kickPrior
  dsimp only
  split
  · exact h
  · split
    · exact h
    · split
      · exact h
      · exact h.setJob.startShare

theorem kickPriors {j : Nat} (h : s.Keeps t) : s.Keeps (Machine.kickPriors j t) := by
  unfold Machine.kickPriors
  split
  · split
    · exact h.foldState (fun _ _ h => h.kickPrior)
    · exact h
  · exact h

theorem kickJob {j : Nat} (h : s.Keeps t) : s.Keeps (Machine.kickJob j t) := by
  unfold Machine.kickJob
  split
  · exact h
  · exact h.kickPriors.foldState (fun _ _ h => h.kickRegion)

theorem kickAll (h : s.Keeps t) : s.Keeps (Machine.kickAll t) := h.foldState (fun _ _ h => h.kickJob)

theorem beginStep {j step : Nat} (h : s.Keeps t) : s.Keeps (Machine.beginStep j step t) := h.spareSource.modJob.mirrorTally

theorem readySlots {j : Nat} (h : s.Keeps t) : s.Keeps (Machine.readySlots j t) := by
  unfold Machine.readySlots
  split
  · exact h
  · exact h.same (by rfl)

theorem stepDispatch {j : Nat} (h : s.Keeps t) : s.Keeps (Machine.stepDispatch j t) := by
  unfold Machine.stepDispatch
  split
  · exact h
  · exact .ite h ((h.readySlots.foldState (fun _ _ h => h.prepPan)).same (by rfl)).modJob.mirrorTally.kickJob

theorem endOrder {j status : Nat} (h : s.Keeps t) : s.Keeps (Machine.endOrder j status t) := by
  unfold Machine.endOrder
  split
  · exact h
  · split
    · exact h
    · exact h.setJob.finishTag

theorem dropFences {x : Job} (h : s.Keeps t) : s.Keeps (Job.dropFences x t) := by
  unfold Job.dropFences
  split
  · exact h.settleFences
  · exact h

theorem spendAseq {j : Nat} {x : Job} (h : s.Keeps t) : s.Keeps (Machine.spendAseq j x t) := .ite (h.same (by rfl)) h

theorem endJob {j reason code tag : Nat} (h : s.Keeps t) : s.Keeps (Machine.endJob j reason code tag t) := by
  unfold Machine.endJob
  split
  · exact h
  · split
    · exact h
    · split
      · exact (State.Keeps.ite ((h.foldState (fun _ _ h => h.stop.idleChannels)).dropFences.spendAseq.endOrder.foldState (fun _ _ h =>
          h.finishTag)) ((h.foldState (fun _ _ h => h.stop.idleChannels)).dropFences.spendAseq.endOrder.foldState (fun _ _ h =>
          h.finishTag)).finishTag).modJob.mirrorTally
      · exact ((h.foldState (fun _ _ h => h.stop.idleChannels)).dropFences.spendAseq.endOrder.foldState (fun _ _ h =>
          h.finishTag)).modJob.mirrorTally

theorem endBySelf {j reason code : Nat} (h : s.Keeps t) : s.Keeps (Machine.endBySelf j reason code t) := by
  unfold Machine.endBySelf
  split
  · exact h
  · exact h.endJob

theorem killNow {j tag : Nat} {graceful : Bool} (h : s.Keeps t) : s.Keeps (Machine.killNow j tag graceful t) := by
  unfold Machine.killNow
  split
  · exact h
  · exact h.endJob.finishTag

theorem tryDecide {j : Nat} (h : s.Keeps t) : s.Keeps (Machine.tryDecide j t) := by
  unfold Machine.tryDecide
  split
  · exact h
  · exact .ite h (.ite h.setJob (.ite (.ite (h.setJob.foldState (fun _ _ h => h.sendRecord)) h) (.ite h h.setJob.sendRecord)))

theorem takeArith {p : Nat} (h : s.Keeps t) : s.Keeps (Machine.takeArith p t).2 := by
  unfold Machine.takeArith
  dsimp only
  exact h.modPan

theorem finishReplay {j : Nat} (h : s.Keeps t) : s.Keeps (Machine.finishReplay j t) := by
  unfold Machine.finishReplay
  split
  · exact h
  · split
    · exact h
    · exact (h.setJob.foldState (fun _ _ h => h.haulStart)).kickJob.tryDecide

theorem panDoneStep {j : Nat} {x : Job} {p share lp : Nat} (h : s.Keeps t) : s.Keeps (panDone.panDoneStep j x p share lp t) :=
  .ite h h.modPan.setJob.mirrorTally.kickPriors.kickRegion.tryDecide

theorem panDone {p share : Nat} (h : s.Keeps t) : s.Keeps (Machine.panDone p share t) := by
  unfold Machine.panDone
  split
  · exact h
  · split
    · exact h
    · split
      · exact .ite (.ite h.modPan.setJob.finishReplay h.modPan.setJob.kickPriors.kickRegion) h.panDoneStep
      · exact h.panDoneStep

theorem afterCommit {j : Nat} (h : s.Keeps t) : s.Keeps (Machine.afterCommit j t) := by
  unfold Machine.afterCommit
  dsimp only
  split
  · exact h
  · split
    · split
      · split
        · split
          · exact (State.Keeps.ite h.setJob.finishTag h.setJob).endJob.finishTag
          · exact h.endJob.finishTag
        · exact h.endJob.finishTag
      · split
        · split
          · exact (State.Keeps.ite h.setJob.finishTag h.setJob).endJob.finishTag
          · exact h.endJob.finishTag
        · exact h.endJob.finishTag
    · split
      · split
        · split
          · exact .ite h.setJob.finishTag h.setJob
          · exact h
        · split
          · exact h.setJob.beginStep
          · exact h
      · split
        · split
          · exact .ite h.setJob.finishTag h.setJob
          · exact h
        · split
          · exact h.setJob.beginStep
          · exact h

theorem commitStep {j : Nat} (h : s.Keeps t) : s.Keeps (Machine.commitStep j t) := by
  unfold Machine.commitStep
  dsimp only
  split
  · exact h
  · split
    · exact (State.Keeps.ite (h.setJob.mirrorTally.same (by rfl)).sendNotes.postEntry (h.setJob.mirrorTally.same
        (by rfl)).sendNotes.finishTag).afterCommit
    · exact (h.setJob.mirrorTally.same (by rfl)).sendNotes.postEntry.afterCommit

theorem takeCommit {dev : Nat} {c : CommitRecord} (h : s.Keeps t) : s.Keeps (Machine.takeCommit dev c t) := h.same rfl

theorem stepCommit {j : Nat} (h : s.Keeps t) : s.Keeps (Machine.stepCommit j t) := by
  unfold Machine.stepCommit
  split
  · exact h
  · split
    · exact h.commitStep
    · split
      · exact h
      · exact .ite h.takeCommit.commitStep h

theorem sharesDone {dev : Nat} {c : CommitRecord} (h : s.Keeps t) : s.Keeps (Machine.sharesDone dev c t) := by
  unfold Machine.sharesDone
  dsimp only
  split
  · exact h.takeCommit
  · exact .ite h.takeCommit (.ite h.takeCommit.sendRecord (.ite (.ite h.takeCommit.sendRecord (.ite h.takeCommit
      h.takeCommit.setJob.tryDecide)) h.takeCommit))

theorem sharesDoneResend {j : Nat} (h : s.Keeps t) : s.Keeps (Machine.sharesDoneResend j t) := by
  unfold Machine.sharesDoneResend
  split
  · exact h
  · split
    · exact h
    · exact .ite h h.setJob.sendRecord

theorem replayAck {dev : Nat} {c : CommitRecord} (h : s.Keeps t) : s.Keeps (Machine.replayAck dev c t) := by
  unfold Machine.replayAck
  dsimp only
  split
  · exact h.takeCommit
  · exact h.takeCommit.setJob

theorem shareReplayResend {j : Nat} (h : s.Keeps t) : s.Keeps (Machine.shareReplayResend j t) := by
  unfold Machine.shareReplayResend
  split
  · exact h
  · exact h.setJob.foldState (fun _ _ h => h.sendRecord)

end Sys2Proof.Machine.State.Keeps
end

section
/-! SUPPORT. What replays keep (`State.Keeps`), function by function. -/

namespace Sys2Proof.Machine.State.Keeps
open Sys2Proof Sys2Proof.Machine
variable {s t u : State}

theorem regionGone {j logical : Nat} (h : s.Keeps t) : s.Keeps (Machine.regionGone j logical t) := by
  unfold Machine.regionGone
  dsimp only
  exact .ite h.shareMove h.shareMove.endBySelf

theorem reserveGone {f : Nat} (h : s.Keeps t) : s.Keeps (Machine.reserveGone f t) := h.fenceRegion.modTopo

theorem idleReserveFail {f : Nat} (h : s.Keeps t) : s.Keeps (Machine.idleReserveFail f t) := .ite h h.reserveGone.report

theorem replaceNow {r : Nat} (h : s.Keeps t) : s.Keeps (Machine.replaceNow r t) := by
  unfold Machine.replaceNow
  dsimp only
  split
  · exact .ite h (.ite h.idleReserveFail h.fenceRegion)
  · exact .ite h.fenceRegion.settleRegion (h.fenceRegion.settleRegion.foldState (fun _ _ h => h.regionGone))

theorem sendShareReplays {j : Nat} {to_ : List (Nat × Nat)} (h : s.Keeps t) : s.Keeps (Machine.sendShareReplays j to_ t) :=
  (h.foldState (fun _ _ h => by
    split
    · exact h
    · exact h.setJob.sendRecord))

theorem quietPan {p : Nat} (h : s.Keeps t) : s.Keeps (Machine.quietPan p t) := h.stop.faultClear.takeArith.idleChannels

theorem startReplay {j : Nat} {a : ReplayAsk} (h : s.Keeps t) : s.Keeps (Machine.startReplay j a t) := by
  unfold Machine.startReplay
  split
  · exact h
  · exact .ite (h.setJob.foldState (fun _ _ h => h.fenceRegion)).endBySelf
      ((h.foldState (fun _ _ h => h.quietPan)).setJob.mirrorTally.foldState (fun _ _ h => h.fenceRegion)).sendShareReplays

theorem replayShares {j : Nat} {shares : List Nat} (h : s.Keeps t) : s.Keeps (Machine.replayShares j shares t) := by
  unfold Machine.replayShares
  split
  · exact h
  · exact .ite h h.startReplay

theorem replayAt {j r : Nat} (h : s.Keeps t) : s.Keeps (Machine.replayAt j r t) := by
  unfold Machine.replayAt
  split
  · exact h
  · exact .ite h.startReplay h.replayShares

theorem shareReplay {dev : Nat} {c : CommitRecord} (h : s.Keeps t) : s.Keeps (Machine.shareReplay dev c t) := by
  unfold Machine.shareReplay
  dsimp only
  split
  · exact h.takeCommit
  · exact .ite h.takeCommit.sendRecord (.ite h.takeCommit (State.Keeps.ite h.takeCommit.setJob.startReplay
      h.takeCommit.setJob).sendRecord)

theorem refetchUnits {copy : Nat} {us : List (Nat × Nat × Nat)} (h : s.Keeps t) (e : Machine.refetchUnits copy us t = some u) :
    s.Keeps u := by
  induction us generalizing t with
  | nil => cases e; exact h
  | cons x us ih =>
    simp only [Machine.refetchUnits] at e
    split at e
    · cases e
    · exact ih (h.cellarReadUnit (n := 64)).sliceWrite e

theorem maskSequence {x : Job} {i : Nat} (h : s.Keeps t) : s.Keeps (Machine.maskSequence x i t) := by
  unfold Machine.maskSequence
  dsimp only
  split
  · exact h
  · split
    · exact h
    · split
      · exact h
      · split
        · exact h
        · exact h.settleSlice.brineWriteUnit

theorem endSequences {j units : Nat} {us : List (Nat × Nat × Nat)} (h : s.Keeps t) : s.Keeps (Machine.endSequences j units us t) := by
  unfold Machine.endSequences
  split
  · exact h
  · exact ((h.foldState (fun _ _ h => h.sliceWrite)).foldState (fun _ _ h => h.maskSequence)).setJob.foldState (fun _ _ h => h.postEntry)

theorem refetchLot {j gen l : Nat} {p : Placed} {w : Nat → Bool} {v : State} (h : s.Keeps t)
    (e : Machine.refetchLot j gen l p w t = .done v) : s.Keeps v := by
  unfold Machine.refetchLot at e
  split at e
  · dsimp only at e
    split at e
    · cases e; exact h
    · split at e
      · split at e
        · split at e
          · cases e
          · cases e
        · split at e
          · cases e
          · cases e
      · split at e
        · cases e; exact h.endSequences
        · split at e
          · rename_i e1
            cases e
            exact h.refetchUnits e1
          · cases e
  · cases e; exact h

theorem refetchAll {j gen : Nat} {shs : List Share} {ps : List Placed} {ws : List Nat} (h : s.Keeps t)
    (e : Machine.refetchAll j gen shs ps t = some (u, ws)) : s.Keeps u := by
  induction ps generalizing t u ws with
  | nil => cases e; exact h
  | cons p ps ih =>
    simp only [Machine.refetchAll] at e
    split at e
    · cases e
    · rename_i e1
      exact ih (h.refetchLot e1) e
    · obtain ⟨r, hr, e'⟩ := Option.map_eq_some_iff.mp e
      cases e'
      exact ih h hr

theorem poisonReplay {j : Nat} {shares : List Nat} (h : s.Keeps t) : s.Keeps (Machine.poisonReplay j shares t) := by
  unfold Machine.poisonReplay
  split
  · exact h
  · refine .ite h ?_
    dsimp only
    split
    · exact h.endBySelf
    · rename_i e
      exact (h.refetchAll e).startReplay

theorem poisonPrior {j : Nat} (h : s.Keeps t) : s.Keeps (Machine.poisonPrior j t) := by
  unfold Machine.poisonPrior
  split
  · exact h
  · split
    · exact h
    · split
      · rename_i e
        exact (h.refetchAll e).startReplay
      · exact h.endBySelf

theorem failTransfer {c : Nat} (h : s.Keeps t) : s.Keeps (Machine.failTransfer c t) := by
  unfold Machine.failTransfer
  dsimp only
  split
  · exact h
  · split
    · exact h.modHaul.finishTag.haulAfter
    · exact h.modHaul.haulAfter

theorem poisonToHost {c : Nat} (h : s.Keeps t) : s.Keeps (Machine.poisonToHost c t) := by
  unfold Machine.poisonToHost
  refine .ite h ?_
  dsimp only
  split
  · exact h.failTransfer
  · split
    · exact h.failTransfer.endBySelf
    · rename_i e
      exact (h.refetchLot e).haulStart.haulAfter
    · exact .ite h.failTransfer h.startReplay

theorem replaceRegion {j r tide : Nat} (h : s.Keeps t) : s.Keeps (Machine.replaceRegion j r tide t) := by
  unfold Machine.replaceRegion
  dsimp only
  split
  · exact h.modRegion
  · exact .ite h.modRegion (.ite h.modRegion.replaceNow h.modRegion.startReplay)

theorem endByFault {j reason code : Nat} (h : s.Keeps t) : s.Keeps (Machine.endByFault j reason code t) := by
  unfold Machine.endByFault
  split
  · exact h
  · exact (State.Keeps.ite h.commitStep h).endBySelf

theorem deferFault {f : FaultRec} {j : Nat} (h : s.Keeps t) : s.Keeps (Machine.deferFault f j t) := h.modJob

theorem actOnFault {f : FaultRec} {j : Nat} (h : s.Keeps t) : s.Keeps (Machine.actOnFault f j t) := by
  have hrep : s.Keeps (match recordRegion f with | some r => Machine.replaceRegion j r f.tide t | none => t) := by
    split
    · exact h.replaceRegion
    · exact h
  have hat : s.Keeps (match recordRegion f with | some r => Machine.replayAt j r t | none => t) := by
    split
    · exact h.replayAt
    · exact h
  unfold Machine.actOnFault
  split
  · exact h
  · extract_lets here prior late
    clear_value here prior late
    refine .ite h (.ite ?_ (.ite (.ite hrep (.ite h.endByFault (.ite h.deferFault (.ite (.ite h.poisonPrior h.poisonReplay) hat))))
      (.ite hrep (.ite (.ite h.endByFault (.ite (.ite h.startReplay h) (.ite (.ite h.deferFault hat) h)))
        (.ite h.replayShares (.ite h.replayShares (.ite (.ite h.startReplay h) h)))))))
    split
    · exact .ite h.replaceRegion h
    · exact h

theorem faultRecordReceive (h : s.Keeps t) : s.Keeps (Machine.faultRecordReceive t) := by
  unfold Machine.faultRecordReceive
  split
  · exact h
  · rename_i f rest _
    extract_lets s1 js s2
    have h1 : s.Keeps s1 := h.modFaults
    clear_value s1
    refine State.Keeps.foldState (.ite h1.poisonToHost (.ite ?_ (h1.foldState fun _ _ h => h.actOnFault))) fun _ _ h => h.tryDecide
    split
    · exact .ite h1 h1.modRegion.replaceNow
    · exact h1

theorem dispatchStep {j : Nat} (h : s.Keeps t) : s.Keeps (Machine.dispatchStep j t) := by
  have h1 := h.stepDispatch (j := j)
  unfold Machine.dispatchStep
  dsimp only
  split
  · exact .ite (h1.setJob.foldState fun _ _ h => h.actOnFault) h1
  · exact h1

theorem takeRegion {j r : Nat} (h : s.Keeps t) : s.Keeps (Machine.takeRegion j r t) := by
  unfold Machine.takeRegion
  dsimp only
  split
  · exact h
  · exact .ite h.settleRegion h.settleRegion.regionGone

theorem reloadShares {j : Nat} (h : s.Keeps t) : s.Keeps (Machine.reloadShares j t) := by
  unfold Machine.reloadShares
  split
  · exact h
  · split
    · exact h
    · exact ((h.foldState (fun _ _ h => h.prepPan)).foldState (fun _ _ h => h.startShare)).setJob

theorem takeAndReload {j : Nat} {r : Replay} (h : s.Keeps t) : s.Keeps (Machine.takeAndReload j r t) :=
  (h.foldState (fun _ _ h => h.takeRegion)).reloadShares

theorem phaseFour {j : Nat} {x : Job} {r : Replay} (h : s.Keeps t) : s.Keeps (Machine.phaseFour j x r t) := by
  unfold Machine.phaseFour
  split
  · exact h.killNow
  · exact h.takeAndReload

theorem replayQuiesced {j : Nat} (h : s.Keeps t) : s.Keeps (Machine.replayQuiesced j t) := by
  unfold Machine.replayQuiesced
  split
  · exact h
  · split
    · exact h
    · exact .ite h.phaseFour h

theorem quiesceTimeLimit {j : Nat} (h : s.Keeps t) : s.Keeps (Machine.quiesceTimeLimit j t) := by
  unfold Machine.quiesceTimeLimit
  split
  · exact h
  · split
    · exact h
    · exact .ite h.expire.phaseFour h

theorem replayResume {j : Nat} (h : s.Keeps t) : s.Keeps (Machine.replayResume j t) := by
  unfold Machine.replayResume
  split
  · exact h
  · split
    · exact h
    · split
      · exact h
      · split
        · exact h.killNow
        · exact .ite h (.ite h.setJob.finishReplay h.setJob.kickPriors)

theorem moveExtents {sl cand : Nat} {xs : List (Nat × Nat)} (h : s.Keeps t) (e : Machine.moveExtents sl cand xs t = some u) : s.Keeps u :=
  by
  induction xs generalizing t with
  | nil => cases e; exact h
  | cons x xs ih =>
    simp only [Machine.moveExtents] at e
    split at e
    · cases e
    · exact ih h.fillRange.modMem e

theorem moveSpread {cand : Nat} {es : List (Nat × Int)} (h : s.Keeps t) (e : Machine.moveSpread cand es t = some u) : s.Keeps u := by
  induction es generalizing t with
  | nil => cases e; exact h
  | cons x xs ih =>
    simp only [Machine.moveSpread] at e
    split at e
    · cases e
    · exact ih h.fillRange.modMem e

theorem standInto {sl cand : Nat} (h : s.Keeps t) (e : Machine.standInto sl cand t = some u) : s.Keeps u := by
  simp only [Machine.standInto] at e
  split at e
  · cases e
  · split at e
    · cases e
    · rename_i s1 e1
      have h1 := h.moveExtents e1
      obtain ⟨v, hv, rfl⟩ := Option.map_eq_some_iff.mp e
      have hv' : s.Keeps v := by
        split at hv
        · exact h1.moveSpread hv
        · cases hm : Machine.moveSpread cand (s1.spreadOf sl) s1 with
          | none => simp only [hm, Option.getD_none, Option.some.injEq] at hv; exact hv ▸ h1
          | some w => simp only [hm, Option.getD_some, Option.some.injEq] at hv; exact hv ▸ h1.moveSpread hm
      exact hv'.wakeFor

theorem standInSlice {sl : Nat} (h : s.Keeps t) : s.Keeps (Machine.standInSlice sl t) := by
  unfold Machine.standInSlice
  split
  · exact h
  · dsimp only
    split
    · rename_i e
      obtain ⟨c, -, hc⟩ := List.exists_of_findSome?_eq_some e
      obtain ⟨v, hv, e'⟩ := Option.map_eq_some_iff.mp hc
      cases e'
      exact (h.standInto hv).modFaults
    · exact h.foldState fun _ _ h => h.endBySelf

theorem markDead {d : Nat} (h : s.Keeps t) : s.Keeps (Machine.markDead d t) := by
  unfold Machine.markDead
  split
  · exact h.same (by rfl)
  · exact h

theorem tellMember {j dev step : Nat} (h : s.Keeps t) : s.Keeps (Machine.tellMember j dev step t) := h.postEntry

theorem memberFailure {j dev : Nat} (h : s.Keeps t) : s.Keeps (Machine.memberFailure j dev t) := by
  unfold Machine.memberFailure
  split
  · exact h
  · exact .ite h (.ite h.markDead.tellMember (.ite h ((h.markDead.foldState (fun _ _ h => h.stop.idleChannels)).foldState (fun _ _ h =>
      h.takeRegion)).modJob.mirrorTally.endOrder.tellMember))

theorem clearTables {j : Nat} {x : Job} (h : s.Keeps t) : s.Keeps (Machine.clearTables j x t) :=
  (h.same (by rfl)).foldState (fun _ _ h => h.modSeq)

theorem loadZeroing {p : Nat} (h : s.Keeps t) : s.Keeps (Machine.loadZeroing p t) := h.modSeq

theorem zeroLots {j : Nat} {x : Job} (h : s.Keeps t) : s.Keeps (Machine.zeroLots j x t) :=
  ((h.foldState (fun _ _ h => h.loadZeroing)).foldState (fun _ _ h => h.zeroLot)).foldState (fun _ _ h => h.zeroCellar)

theorem zeroisation {j : Nat} (h : s.Keeps t) : s.Keeps (Machine.zeroisation j t) := by
  unfold Machine.zeroisation
  split
  · exact h
  · exact .ite h (.ite h.clearTables (h.clearTables.setJob.zeroLots.foldState (fun _ _ h => h.beginStoreFill)))

theorem freeLots {j : Nat} (h : s.Keeps t) : s.Keeps (Machine.freeLots j t) := (h.foldState (fun _ _ h => h.freeLot)).modMem

theorem zeroisationDone {j : Nat} (h : s.Keeps t) : s.Keeps (Machine.zeroisationDone j t) := by
  unfold Machine.zeroisationDone
  split
  · exact h
  · refine .ite h ?_
    have h1 {l : List (Machine.Journal)} {g : Machine.Journal → Entry} {m : List (Nat × List Machine.Tally)} :
        s.Keeps { Machine.foldState l (fun t e => Machine.finishTag e.tag (g e) t) t with mirror := m } :=
      (h.foldState fun _ _ h => h.finishTag).same rfl
    split
    · refine postEntry ?_
      exact State.Keeps.same (h1.freeLots) rfl
    · exact State.Keeps.same (h1.freeLots) rfl

end Sys2Proof.Machine.State.Keeps
end

section
/-! SUPPORT. What the clocks keep (`State.Keeps`), function by function. -/

namespace Sys2Proof.Machine.State.Keeps
open Sys2Proof Sys2Proof.Machine
variable {s t u : State}

theorem slowWakes (h : s.Keeps t) : s.Keeps (Machine.slowWakes t) := h.same rfl

theorem gradeRequest {g : Nat} (h : s.Keeps t) : s.Keeps (Machine.gradeRequest g t) := by
  unfold Machine.gradeRequest
  split
  · exact .ite h.modClock.slowWakes h.modClock
  · exact .ite h (.ite h.modClock.slowWakes h.modClock)

theorem gradeChange (h : s.Keeps t) : s.Keeps (Machine.gradeChange t) := by
  unfold Machine.gradeChange
  split
  · exact h
  · exact .ite h (h.same (by rfl))

theorem vcoreRise (h : s.Keeps t) : s.Keeps (Machine.vcoreRise t) := by
  unfold Machine.vcoreRise
  split
  · exact .ite h.modClock h
  · exact h

theorem vcoreFall (h : s.Keeps t) : s.Keeps (Machine.vcoreFall t) := by
  unfold Machine.vcoreFall
  split
  · exact .ite h.modClock h
  · exact h

theorem driftReplicas {d : Int} (h : s.Keeps t) : s.Keeps (Machine.driftReplicas d t) := h.same rfl

theorem tick (h : s.Keeps t) : s.Keeps (Machine.tick t) :=
  .ite h (.ite h.modClock.driftReplicas.modPower h.modClock.driftReplicas)

theorem tideExchange {n : Nat} {t' : TideStamps} (h : s.Keeps t) : s.Keeps (Machine.tideExchange n t' t) := .ite h h.modClock

theorem tideStampMessage {n : Nat} {mine peer : TideStamps} (h : s.Keeps t) : s.Keeps (Machine.tideStampMessage n mine peer t) :=
  .ite h (h.same (by rfl)).modClock

theorem ptmMeasure {host : Nat} (h : s.Keeps t) : s.Keeps (Machine.ptmMeasure host t) :=
  .ite (h.same (by rfl)).modClock h.modClock

theorem tideHoldover (h : s.Keeps t) : s.Keeps (Machine.tideHoldover t) := .ite h h.modClock

theorem tideReselect (h : s.Keeps t) : s.Keeps (Machine.tideReselect t) := by
  unfold Machine.tideReselect
  dsimp only
  split
  · exact h.modClock
  · split
    · exact h.modClock
    · split
      · exact h.modClock
      · exact h.modClock

end Sys2Proof.Machine.State.Keeps
end

section
/-! SUPPORT. What power and heat keep (`State.Keeps`), function by function. -/

namespace Sys2Proof.Machine.State.Keeps
open Sys2Proof Sys2Proof.Machine
variable {s t u : State}

theorem plainRequest {skip : Bool} {g : Nat} (h : s.Keeps t) : s.Keeps (Machine.plainRequest skip g t) := .ite h h.gradeRequest

theorem powerLaw {p : Nat} (h : s.Keeps t) : s.Keeps (Machine.powerLaw p t) := by
  unfold Machine.powerLaw
  split
  · exact .ite (State.Keeps.ite h.modPower.modPower.gradeRequest h.modPower.modPower).plainRequest
      (.ite (State.Keeps.ite h.modPower.modPower.gradeRequest h.modPower.modPower).plainRequest (.ite h.modPower.modPower.gradeRequest
      h.modPower.modPower))
  · exact .ite (State.Keeps.ite h.modPower.gradeRequest h.modPower).plainRequest (.ite (State.Keeps.ite h.modPower.gradeRequest
      h.modPower).plainRequest (.ite h.modPower.gradeRequest h.modPower))

theorem powerEvaluation {r : RailSample} (h : s.Keeps t) : s.Keeps (Machine.powerEvaluation r t) := h.modPower.powerLaw

theorem pauseRamp {f : Nat} (h : s.Keeps t) : s.Keeps (Machine.pauseRamp f t) := by
  unfold Machine.pauseRamp
  split
  · exact .ite h.modField h
  · exact h

theorem regionSample {e : RegionSample} (h : s.Keeps t) : s.Keeps (Machine.regionSample e t) := h.modRegion

theorem fastLoop {f mA : Nat} {l : LoopSample} (h : s.Keeps t) : s.Keeps (Machine.fastLoop f mA l t) :=
  (h.foldState (fun _ _ h => h.regionSample)).modField.pauseRamp

theorem loadNotice {r : Nat} (h : s.Keeps t) : s.Keeps (Machine.loadNotice r t) := .ite h h.modRegion

theorem peakEnd {r : Nat} (h : s.Keeps t) : s.Keeps (Machine.peakEnd r t) := .ite h.modRegion h

theorem gateRest {r : Nat} (h : s.Keeps t) : s.Keeps (Machine.gateRest r t) :=
  (h.foldState (fun _ _ h => h.stop.idleChannels.gateStore)).modRegion

theorem gateDrained {r : Nat} (h : s.Keeps t) : s.Keeps (Machine.gateDrained r t) := .ite h.modRegion h.gateRest

theorem restDrained {r : Nat} (h : s.Keeps t) : s.Keeps (Machine.restDrained r t) := .ite h.gateDrained h

theorem beginRest {r : Nat} (h : s.Keeps t) : s.Keeps (Machine.beginRest r t) :=
  .ite h.modPower.modField.report.modRegion h.modPower.modField.report.modRegion.gateDrained

theorem restOnDone {r : Nat} (h : s.Keeps t) : s.Keeps (Machine.restOnDone r t) := .ite h.gateDrained h

theorem restHottest {f : Nat} (h : s.Keeps t) : s.Keeps (Machine.restHottest f t) := by
  unfold Machine.restHottest
  split
  · exact h
  · split
    · exact .ite h h.beginRest
    · exact h.beginRest

theorem gateHot {r : Nat} (h : s.Keeps t) : s.Keeps (Machine.gateHot r t) :=
  (h.foldState (fun _ _ h => h.stop.idleChannels.gateStore)).modRegion.modField

theorem faultInWake {r : Nat} (h : s.Keeps t) : s.Keeps (Machine.faultInWake r t) := by
  unfold Machine.faultInWake
  split
  · exact .ite h.gateHot h
  · exact h

theorem heatActions {r : Nat} {old t16 : Int} (h : s.Keeps t) : s.Keeps (Machine.heatActions r old t16 t) := by
  have h1 {f : FaultRec} : s.Keeps (if 110 * 16 ≤ t16 && !((t.region r).pwr == .gated && ((t.region r).fenced || decide (110 * 16 ≤ old)))
      then Machine.report f (Machine.gateHot r t) else t) := .ite h.gateHot.report h
  unfold Machine.heatActions
  dsimp only
  split
  · split
    · exact h1.modFaults.report
    · exact h1.modFaults
  · exact h1

theorem thermalSample {r : Nat} {p : SensorPair} (h : s.Keeps t) : s.Keeps (Machine.thermalSample r p t) :=
  (State.Keeps.ite h.modRegion.modPower.ibi h.modRegion.modPower).heatActions.restHottest

theorem restDeadline {r : Nat} (h : s.Keeps t) : s.Keeps (Machine.restDeadline r t) := by
  unfold Machine.restDeadline
  split
  · exact h
  · exact .ite h (((h.foldState (fun _ _ h => h.replayShares)).foldState (fun _ _ h => h.startReplay)).foldState (fun _ _ h =>
      h.stop)).gateDrained

theorem regionWake {r : Nat} (h : s.Keeps t) : s.Keeps (Machine.regionWake r t) := .ite h h.modField

theorem beginRamp {f r : Nat} {slow : Bool} (h : s.Keeps t) : s.Keeps (Machine.beginRamp f r slow t) :=
  .ite h.modField.modRegion.modPower h.modField.modRegion

theorem wakeAdmit {f : Nat} (h : s.Keeps t) : s.Keeps (Machine.wakeAdmit f t) := by
  unfold Machine.wakeAdmit
  split
  · exact .ite h.beginRamp h
  · exact h

theorem wakeAdmitTimeout {f : Nat} (h : s.Keeps t) : s.Keeps (Machine.wakeAdmitTimeout f t) := by
  unfold Machine.wakeAdmitTimeout
  split
  · exact .ite h.beginRamp h
  · exact h

theorem wakeRampDone {f : Nat} (h : s.Keeps t) : s.Keeps (Machine.wakeRampDone f t) := by
  unfold Machine.wakeRampDone
  split
  · exact .ite h h.modField
  · exact h

theorem wakeRegulated {f : Nat} (h : s.Keeps t) : s.Keeps (Machine.wakeRegulated f t) := by
  unfold Machine.wakeRegulated
  split
  · exact .ite h (h.modField.modRegion.foldState (fun _ _ h => h.beginStoreFill))
  · exact h

theorem holdReserve {r : Nat} (h : s.Keeps t) : s.Keeps (Machine.holdReserve r t) := .ite h.modRegion h

theorem wakeFilled {r : Nat} (h : s.Keeps t) : s.Keeps (Machine.wakeFilled r t) := by
  unfold Machine.wakeFilled
  split
  · exact .ite h.modField.holdReserve.kickAll h
  · exact h

theorem phaseFail {d ph : Nat} (h : s.Keeps t) : s.Keeps (Machine.phaseFail d ph t) := by
  unfold Machine.phaseFail
  dsimp only
  split
  · split
    · exact h
    · split
      · exact h.modRegion.faultInWake.report
      · exact h.modRegion.report
  · split
    · exact h
    · exact h.modPower.report

theorem regionClockFail {r : Nat} (h : s.Keeps t) : s.Keeps (Machine.regionClockFail r t) :=
  .ite h (h.foldState (fun _ _ h => h.stop)).modRegion.faultInWake.report

theorem budgetReport {watts interval : Nat} (h : s.Keeps t) : s.Keeps (Machine.budgetReport watts interval t) :=
  .ite h h.modPower

theorem sendLimits {ms : List (Nat × Nat × Nat × Nat)} (h : s.Keeps t) : s.Keeps (Machine.sendLimits ms t) :=
  h.foldState (fun _ _ h => (.ite h.modPower h.modPower))

theorem budgetReassign (h : s.Keeps t) : s.Keeps (Machine.budgetReassign t) := .ite h h.modPower.sendLimits

theorem budgetLimit {m : BudgetMsg} (h : s.Keeps t) : s.Keeps (Machine.budgetLimit m t) :=
  .ite h (.ite h.modPower (.ite h.modPower h))

theorem chargeDevice {uj : Nat} (h : s.Keeps t) : s.Keeps (Machine.chargeDevice uj t) := h.modPower

theorem chargeDomain {d : DomainEnergy} (h : s.Keeps t) : s.Keeps (Machine.chargeDomain d t) :=
  (h.foldState (fun _ _ h => h.modJob)).chargeDevice

theorem chargeRegion {e : Nat × Nat} (h : s.Keeps t) : s.Keeps (Machine.chargeRegion e t) := by
  unfold Machine.chargeRegion
  split
  · exact h.modJob
  · exact h.chargeDevice

theorem energyCharge {regions : List (Nat × Nat)} {shared : List DomainEnergy} {dev : Nat} (h : s.Keeps t) :
    s.Keeps (Machine.energyCharge regions shared dev t) :=
  (((h.foldState (fun _ _ h => h.chargeRegion)).foldState (fun _ _ h => h.chargeDomain)).same (by rfl)).chargeDevice

end Sys2Proof.Machine.State.Keeps
end

section
/-! SUPPORT. What the issue of bundles keep (`State.Keeps`), function by function. -/

namespace Sys2Proof.Machine.State.Keeps
open Sys2Proof Sys2Proof.Machine
variable {s t u : State}

theorem feedEffect {p : Nat} {f : FeedOp} {q0 : Seq} (h : s.Keeps t) : s.Keeps (Machine.feedEffect p f q0 t) := by
  unfold Machine.feedEffect
  split
  · cases q0.tile
    · exact h.draw.modSeq
    · exact h.modSeq
  · exact h.modSeq
  · exact h.modSeq
  · exact h

theorem drainEffect {p : Nat} {d : DrainOp} {q0 : Seq} (h : s.Keeps t) : s.Keeps (Machine.drainEffect p d q0 t) := by
  unfold Machine.drainEffect
  split
  · cases q0.tile
    · exact h.draw.modSeq
    · exact h.modSeq
  · exact h.modSeq
  · exact h

theorem rakeSlotEffect {p : Nat} {r : RakeOp} {q0 : Seq} (h : s.Keeps t) : s.KeepsSlot (Machine.rakeSlotEffect p r q0 t) := by
  unfold Machine.rakeSlotEffect
  split
  · exact h
  · have hr := h.rakeEffect (p := p) (r := r)
    split
    · rename_i e1
      rw [e1] at hr; exact hr
    · rename_i e1
      rw [e1] at hr
      exact State.Keeps.modSeq hr

theorem touchRuns {p : Nat} {runs : List (Nat × Nat)} (h : s.Keeps t) : s.Keeps (Machine.touchRuns p runs t) :=
  h.foldl fun _ _ h => h.localRead

theorem withDesc {p a n : Nat} {use : List Byte → State → MovePlan} (h : s.Keeps t) (hu : ∀ d u, s.Keeps u → s.KeepsPlan (use d u)) :
    s.KeepsPlan (Machine.withDesc p a n t use) := by
  unfold Machine.withDesc
  have hr := h.localRead (p := p) (a := a) (n := n)
  generalize Machine.localRead p a n t = w at hr
  dsimp only
  split
  · exact hr
  · have hw := hu w.1 w.2.2 hr
    split
    · rename_i e1
      rw [e1] at hw; exact hw
    · rename_i e1
      rw [e1] at hw
      exact fun u hu => hw _ hu.touchRuns

theorem planAgld {p ag a : Nat} (h : s.Keeps t) : s.KeepsPlan (Machine.planAgld p ag a t) := by
  refine h.withDesc fun d u h => ?_
  split
  · exact h
  · dsimp only
    split
    · exact h
    · exact fun _ h => h.modSeq

theorem readTile_error {p a : Nat} {copy : Bool} {e : SlotFault} (h : s.Keeps t) (hr : Machine.readTile p a copy t = .error e) :
    s.Keeps e.after := by
  unfold Machine.readTile at hr
  have h1 := h.localRead (p := p) (a := a) (n := 64)
  generalize Machine.localRead p a 64 t = w1 at hr h1
  dsimp only at hr
  split at hr
  · cases hr; exact h1
  · split at hr
    · cases hr; exact h1
    · have h2 := h1.localRead (p := p) (a := word w1.1 4 4) (n := 64)
      generalize Machine.localRead p (word w1.1 4 4) 64 w1.2.2 = w2 at hr h2
      have h3 := h2.localRead (p := p) (a := word w1.1 8 4) (n := 64)
      generalize Machine.localRead p (word w1.1 8 4) 64 w2.2.2 = w3 at hr h3
      split at hr
      · cases hr; exact h3
      · split at hr
        · cases hr; exact h3
        · cases hr

theorem movePlan {p : Nat} {m : MoveOp} (h : s.Keeps t) : s.KeepsPlan (Machine.movePlan p m t) := by
  cases m with
  | lset | loop | halt | swait | done => exact fun _ h => h.modSeq
  | agld => exact h.planAgld
  | tile copy a =>
    unfold Machine.movePlan
    dsimp only
    split
    · rename_i e
      exact h.readTile_error e
    · exact fun _ h => h.touchRuns.same rfl
  | notice => exact fun _ h => h.modSeq.giveNotice
  | ssig sem n =>
    unfold Machine.movePlan
    dsimp only
    split
    · exact h
    · exact fun _ h => h.modSeq
  | notify => exact fun _ h => h.sendFrom
  | wopen w a =>
    unfold Machine.movePlan
    refine h.withDesc fun d u h => ?_
    split
    · exact h
    · exact fun _ h => h.modStore
  | wclose => exact fun _ h => h.modStore
  | hstart ch a =>
    unfold Machine.movePlan
    refine h.withDesc fun d u h => ?_
    split
    · exact h
    · exact fun _ h => h.modHaul.haulStart
  | _ => exact fun _ h => h

theorem keepFault {a b : SlotFault × Nat} (ha : s.Keeps a.1.after) (hb : s.Keeps b.1.after) : s.Keeps (Machine.keepFault a b).1.after :=
    by
  unfold Machine.keepFault
  dsimp only
  split
  · exact hb
  · exact ha

theorem afterDone {p : Nat} {m : MoveOp} (h : s.Keeps t) : s.Keeps (Machine.afterDone p m t) := by
  unfold Machine.afterDone
  split
  · exact h.panDone.restOnDone
  · exact h

/-- Every fault of a bundle holds a state that keeps what `s.Keeps` names. -/
theorem bundleFaults {p : Nat} {b : Bundle} {rake : Except SlotFault State} {plan : MovePlan} {e : SlotFault × Nat} (h : s.Keeps t) (hr :
    s.KeepsSlot rake) (hp : s.KeepsPlan plan) (he : e ∈ Machine.bundleFaults p b rake plan t) : s.Keeps e.1.after := by
  unfold Machine.bundleFaults at he
  simp only [List.mem_append] at he
  obtain (he | he) | he := he
  · split at he
    · obtain rfl := List.mem_singleton.mp he; exact h
    · cases he
  · split at he
    · cases he
    · split at he
      · obtain rfl := List.mem_singleton.mp he; exact hr
      · cases he
  · split at he
    · cases he
    · obtain he | he := List.mem_append.mp he
      · split at he
        · split at he
          · obtain rfl := List.mem_singleton.mp he; exact h
          · cases he
        · cases he
      · split at he
        · obtain rfl := List.mem_singleton.mp he; exact hp
        · cases he

theorem keepFaults {es : List (SlotFault × Nat)} {e : SlotFault × Nat} (h : ∀ x ∈ e :: es, s.Keeps x.1.after) :
    s.Keeps (es.foldl Machine.keepFault e).1.after := by
  induction es generalizing e with
  | nil => exact h e (List.mem_singleton.mpr rfl)
  | cons x es ih =>
    refine ih fun y hy => ?_
    obtain rfl | hy := List.mem_cons.mp hy
    · exact State.Keeps.keepFault (h _ List.mem_cons_self) (h _ (List.mem_cons_of_mem _ List.mem_cons_self))
    · exact h y (List.mem_cons_of_mem _ (List.mem_cons_of_mem _ hy))

theorem takePlan {p : Nat} {b : Bundle} {plan : MovePlan} (h : s.Keeps t) (hp : s.KeepsPlan plan) :
    s.Keeps (Machine.takePlan p b plan t) := by
  have hr := h.rakeSlotEffect (p := p) (r := (slotsOf b).2.2.1) (q0 := (t.pan p).seq)
  unfold Machine.takePlan
  dsimp only
  generalize Machine.rakeSlotEffect p (slotsOf b).2.2.1 (t.pan p).seq t = rake at hr
  have hb (e) (he : e ∈ Machine.bundleFaults p b rake plan t) : s.Keeps e.1.after := h.bundleFaults hr hp he
  split
  · exact (hp _ (State.Keeps.feedEffect hr).drainEffect).modSeq.bumpPan.afterDone
  · rename_i e1
    rw [e1] at hb
    exact (keepFaults hb).panFault
  · exact h

theorem takeEffect {p : Nat} {b : Bundle} (h : s.Keeps t) : s.Keeps (Machine.takeEffect p b t) := h.takePlan h.movePlan

theorem beginWait {p : Nat} {w : Wait} (h : s.Keeps t) : s.Keeps (Machine.beginWait p w t) := h.modSeq

theorem issueNow {p : Nat} {b : Bundle} (h : s.Keeps t) : s.Keeps (Machine.issueNow p b t) := by
  unfold Machine.issueNow
  dsimp only
  split
  · exact h.takeEffect
  · split
    · exact h
    · split
      · split
        · exact h
        · split
          · exact .ite h.takeEffect h.beginWait
          · exact .ite h.takeEffect h.beginWait
          · split
            · exact .ite h.touchRuns.beginWait (.ite h.takeEffect h.chainDisagree)
            · exact h.takeEffect
          · exact h.takeEffect
      · split
        · exact h.descReads
        · split
          · exact .ite h.descReads.modSeq.takeEffect h.descReads.modSeq.beginWait
          · exact .ite h.descReads.modSeq.takeEffect h.descReads.modSeq.beginWait
          · split
            · exact .ite h.descReads.modSeq.touchRuns.beginWait (.ite h.descReads.modSeq.takeEffect h.descReads.modSeq.chainDisagree)
            · exact h.descReads.modSeq.takeEffect
          · exact h.descReads.modSeq.takeEffect

theorem issueIf {p : Nat} {want : Bundle → Bool} (h : s.Keeps t) : s.Keeps (Machine.issueIf p want t) :=
  h.inCycle (fun _ h => (.ite h.issueNow h))

theorem resume {p : Nat} (h : s.Keeps t) : s.Keeps (Machine.resume p t) := by
  unfold Machine.resume
  exact h.modSeq.issueIf

theorem swaitResume {p : Nat} (h : s.Keeps t) : s.Keeps (Machine.swaitResume p t) := by
  unfold Machine.swaitResume
  dsimp only
  split
  · exact .ite h.resume h
  · exact h

theorem resumeFence {p : Nat} (h : s.Keeps t) : s.Keeps (Machine.resumeFence p t) := .ite h.modSeq.takeEffect h.modSeq

theorem fenceComplete {p : Nat} (h : s.Keeps t) : s.Keeps (Machine.fenceComplete p t) := by
  unfold Machine.fenceComplete
  dsimp only
  split
  · exact .ite h.resumeFence h
  · exact h

theorem chainRendezvous {r : Nat} (h : s.Keeps t) : s.Keeps (Machine.chainRendezvous r t) := by
  unfold Machine.chainRendezvous
  dsimp only
  split
  · exact h
  · refine .ite h ?_
    split
    · exact h.chainFaults
    · have h1 {l : List (Nat × Nat × TileCtx)} {f : Nat × Nat × TileCtx → Machine.Pan → Machine.Pan} :
          s.Keeps (Machine.foldState l (fun t e => t.modPan e.1 (f e)) t) := h.foldState fun _ _ h => h.modPan
      refine .ite h1.chainFaults (h1.foldState fun t e h => ?_)
      exact .ite (h.modSeq.takePlan fun _ h => h.same rfl) h

end Sys2Proof.Machine.State.Keeps
end

section
/-! SUPPORT. What bring-up keeps (`State.Keeps`), function by function. -/

namespace Sys2Proof.Machine.State.Keeps
open Sys2Proof Sys2Proof.Machine
variable {s t u : State}

theorem setBoot {b : BootState} (h : s.Keeps t) : s.Keeps (Machine.setBoot b t) := h.modBoot

theorem bootStep {f : State → State} (h : s.Keeps t) (hf : ∀ t, s.Keeps t → s.Keeps (f t)) : s.Keeps (Machine.bootStep f t) :=
  .ite (hf t h) (hf t h).signalVector.ibi

theorem selfTests {ok : Bool} (h : s.Keeps t) : s.Keeps (Machine.selfTests ok t) := .ite h h.modSec.setBoot

theorem powerLost (h : s.Keeps t) : s.Keeps (Machine.powerLost t) := h.same rfl

theorem refuseFirmware (h : s.Keeps t) : s.Keeps (Machine.refuseFirmware t) := h.modSec.setBoot

theorem firmwareSelect (h : s.Keeps t) : s.Keeps (Machine.firmwareSelect t) := by
  unfold Machine.firmwareSelect
  split
  · exact h
  · split
    · exact h.modSec.modBoot
    · exact h.modBoot.refuseFirmware

theorem firmwareBodyCheck (h : s.Keeps t) : s.Keeps (Machine.firmwareBodyCheck t) := by
  unfold Machine.firmwareBodyCheck
  split
  · exact h
  · split
    · exact h
    · split
      · exact h
      · dsimp only
        split
        · exact h.modSec.modHif.modBoot
        · split
          · exact h.modSec.modSec
          · exact h.modSec.refuseFirmware

theorem configRequest (h : s.Keeps t) : s.Keeps (Machine.configRequest t) := .ite h.modHif h.modHif

theorem factoryMapCheck {record : List Byte} (h : s.Keeps t) : s.Keeps (Machine.factoryMapCheck record t) := .ite h h.modBoot

theorem assayListCheck {torn : List Nat} (h : s.Keeps t) : s.Keeps (Machine.assayListCheck torn t) := .ite h (h.same (by rfl))

theorem assayComplete {found : AssayFound} (h : s.Keeps t) : s.Keeps (Machine.assayComplete found t) :=
  .ite h (h.same (by rfl))

theorem applyRepairs {topo : Nat → Topo} {routers : List Nat} (h : s.Keeps t) : s.Keeps (Machine.applyRepairs topo routers t) :=
  h.same rfl

theorem gateDomains (h : s.Keeps t) : s.Keeps (Machine.gateDomains t) := h.modPower

theorem assayListUpdate (h : s.Keeps t) : s.Keeps (Machine.assayListUpdate t) := .ite h h.modBoot

theorem repairsApplied (h : s.Keeps t) : s.Keeps (Machine.repairsApplied t) := .ite h h.modBoot.applyRepairs.gateDomains

theorem cellarAssayPass {ch : Nat} (h : s.Keeps t) : s.Keeps (Machine.cellarAssayPass ch t) := .ite h.modChan.modMem.modBoot h

theorem cellarFillDone (h : s.Keeps t) : s.Keeps (Machine.cellarFillDone t) := .ite h ((h.cellarMem (m := []) fun _ => rfl).same rfl)

theorem endFills (h : s.Keeps t) : s.Keeps (Machine.endFills t) := .ite (h.modBoot.foldState (fun _ _ h => h.modPort)) h

theorem brineFillDone (h : s.Keeps t) : s.Keeps (Machine.brineFillDone t) :=
  .ite h (((h.brineMem (m := []) fun _ => rfl).same (by rfl)).endFills)

theorem portTrained {n good dev port : Nat} (h : s.Keeps t) : s.Keeps (Machine.portTrained n good dev port t) :=
  .ite h h.modPort.modBoot

theorem peerTimeout {n : Nat} (h : s.Keeps t) : s.Keeps (Machine.peerTimeout n t) := .ite h.modPort.modBoot h

theorem startTide {hostPtm parentTide : Option Nat} (h : s.Keeps t) : s.Keeps (Machine.startTide hostPtm parentTide t) := by
  unfold Machine.startTide
  dsimp only
  split
  · split
    · exact h.tideReselect.modClock
    · exact h.tideReselect
  · split
    · exact h.tideReselect.modClock.modClock
    · exact h.tideReselect.modClock

theorem topologyAgreement {found : Discovery} {hostPtm parentTide : Option Nat} (h : s.Keeps t) :
    s.Keeps (Machine.topologyAgreement found hostPtm parentTide t) :=
  .ite h ((State.Keeps.ite h.modBoot h).same (by rfl)).startTide.modBoot.modHif.setBoot.takeHeldBells

end Sys2Proof.Machine.State.Keeps
end

section
/-! SUPPORT. What the host commands keeps (`State.Keeps`), function by function. -/

namespace Sys2Proof.Machine.State.Keeps
open Sys2Proof Sys2Proof.Machine
variable {s t u : State}

theorem journalled {c : Cmd} {op : Nat} (h : s.Keeps t) : s.Keeps (Machine.journalled c op t) := .ite h h.modHif

theorem badField {c : Cmd} {op off : Nat} (h : s.Keeps t) : s.Keeps (Machine.badField c op off t) := h.finish

theorem command {c : Cmd} {op : Nat} {f : State → State} (h : s.Keeps t) (hf : ∀ t, s.Keeps t → s.Keeps (f t)) :
    s.Keeps (Machine.command c op f t) := by
  unfold Machine.command
  exact .ite h (.ite h (.ite h.journalled.finishWith
    (.ite h.journalled.badField (.ite h.journalled.badField (hf _ h.journalled)))))

theorem jobCommand {c : Cmd} {op : Nat} {allowed : Job → Bool} {f : Job → State → State} (h : s.Keeps t)
    (hf : ∀ x t, s.Keeps t → s.Keeps (f x t)) : s.Keeps (Machine.jobCommand c op allowed f t) := by
  unfold Machine.jobCommand
  split
  · exact .ite (hf _ t h) h.finishWith
  · exact h.finishWith

theorem toHost {c : Cmd} {op off : Nat} {buf : HostBuf} {bs : List Byte} (h : s.Keeps t) : s.Keeps (Machine.toHost c op off buf bs t) :=
  .ite h.badField (.ite h.finish (.ite h.finish (h.hostMem fun m => wf_writeBytes m _ _).finish))

theorem stageWith {alloc : Nat → Nat → State → Option (CellarLot × State)} {job quota : Nat} {ts : List (Nat × Tensor)}
    {ls : List CellarLot} (ha : ∀ job bytes l t u, s.Keeps t → alloc job bytes t = some (l, u) → s.Keeps u) (h : s.Keeps t)
    (e : Machine.stageWith alloc job quota ts t = some (ls, u)) : s.Keeps u := by
  induction ts generalizing t u ls with
  | nil => cases e; exact h
  | cons x ts ih =>
    unfold Machine.stageWith at e
    split at e
    · cases e
    · rename_i e1
      split at e
      · cases e
      · split at e
        · cases e
        · rename_i e2
          cases e
          exact ih (ha _ _ _ _ _ h e1).cellarWrite e2

theorem stagePayloads {job quota : Nat} {ts : List (Nat × Tensor)} {ls : List CellarLot} (h : s.Keeps t)
    (e : Machine.stagePayloads job quota ts t = some (ls, u)) : s.Keeps u := by
  rw [stagePayloads_eq] at e
  have ha : ∀ job bytes l t u, s.Keeps t → Machine.allocCellar job bytes t = some (l, u) → s.Keeps u :=
    fun _ _ _ _ _ h e => h.allocCellar e
  exact State.Keeps.stageWith ha h e

theorem imageLoad {c : Cmd} {buf : HostBuf} {im : Image} (h : s.Keeps t) : s.Keeps (Machine.imageLoad c buf im t) := by
  refine .ite h.badField (h.jobCommand fun x t h => .ite h.finish ?_)
  split
  · exact h.finishWith
  · split
    · exact h.finishWith
    · rename_i e
      exact (h.stagePayloads e).setJob.finish

theorem jobCreate {c : Cmd} {n id brine cellar lead : Nat} (h : s.Keeps t) : s.Keeps (Machine.jobCreate c n id brine cellar lead t) := by
  unfold Machine.jobCreate
  split
  · exact h.badField
  · split
    · exact h.badField
    · split
      · exact h.finishWith
      · exact .ite h.finishWith (.ite h.finishWith h.setJob.finish)

theorem loadFirst {x : Job} (h : s.Keeps t) : s.Keeps (Machine.loadFirst x t) :=
  (h.foldState (fun _ _ h => by
    split
    · exact h.startShare
    · exact h))

theorem writeTables {j : Nat} {x : Job} {gs : List Group} {ks : List Collective} (h : s.Keeps t) :
    s.Keeps (Machine.writeTables j x gs ks t) :=
  h.same (by rfl)

theorem placeImage {c : Cmd} {seed : Nat} {rpt : HostBuf} {im : Image} {x0 : Job} (h : s.Keeps t) :
    s.Keeps (Machine.placeImage c seed rpt im x0 t) := by
  unfold Machine.placeImage
  dsimp only
  split
  · exact h.finishWith
  · split
    · exact h.finishWith
    · rename_i e7
      exact .ite h.finishWith (.ite h.finishWith (.ite h.finish (.ite h.finish (h.placeTensors
        e7).writePayloads.writeReqs.writeTables.setJob.loadFirst.writeReport.finish)))

theorem place {c : Cmd} {seed : Nat} {rpt : HostBuf} (h : s.Keeps t) : s.Keeps (Machine.place c seed rpt t) :=
  (State.Keeps.ite h.badField (h.jobCommand (fun _ _ h => by
    split
    · exact h.placeImage
    · exact h)))

theorem beginOrder {c : Cmd} {op step : Nat} {left : Option Nat} {x : Job} (h : s.Keeps t) :
    s.Keeps (Machine.beginOrder c op step left x t) :=
  h.setJob.beginStep

theorem run {c : Cmd} {first count : Nat} (h : s.Keeps t) : s.Keeps (Machine.run c first count t) :=
  h.jobCommand (fun _ _ h => h.beginOrder)

theorem stepCommand {c : Cmd} {number : Nat} (h : s.Keeps t) : s.Keeps (Machine.stepCommand c number t) :=
  h.jobCommand (fun _ _ h => h.beginOrder)

theorem resumeCommand {c : Cmd} {number : Nat} (h : s.Keeps t) : s.Keeps (Machine.resumeCommand c number t) :=
  h.jobCommand (fun _ _ h => h.beginOrder)

theorem holdKill {c : Cmd} {graceful : Bool} {x : Job} (h : s.Keeps t) : s.Keeps (Machine.holdKill c graceful x t) := by
  unfold Machine.holdKill
  split
  · exact h.finishTag.modJob
  · exact h.modJob

theorem kill {c : Cmd} (h : s.Keeps t) : s.Keeps (Machine.kill c t) :=
  h.jobCommand (fun _ _ h => (.ite h.setJob.finishWith (.ite h.holdKill (.ite h.holdKill h.killNow))))

theorem dumpStore {p : Nat} {us : List (Nat × Nat)} (h : s.Keeps t) : s.Keeps (Machine.dumpStore p us t).2.2 := by
  induction us generalizing t with
  | nil => exact h
  | cons x us ih =>
    unfold Machine.dumpStore
    dsimp only
    split
    · exact h.recordReject
    · split
      · exact h.sluiceAccess.storeRead (n := x.2)
      · exact ih (h.sluiceAccess.storeRead (n := x.2))

theorem dumpPieces {ps : Pieces} (h : s.Keeps t) : s.Keeps (Machine.dumpPieces ps t).2.2 := by
  induction ps generalizing t with
  | nil => exact h
  | cons x ps ih =>
    unfold Machine.dumpPieces
    dsimp only
    split
    · exact h
    · split
      · exact h.brineReadPiece
      · exact ih h.brineReadPiece

theorem dumpArea {j : Nat} {x : Job} {area index off len : Nat} {bs : List Byte} {o : Option Nat} (h : s.Keeps t)
    (e : Machine.dumpArea j x area index off len t = .ok (bs, o, u)) : s.Keeps u := by
  unfold Machine.dumpArea at e
  split at e
  · split at e
    · cases e
    · split at e
      · cases e
      · split at e
        · exact h.dumpStore.of_eq2 (Except.ok.inj e)
        · cases e
  · split at e
    · split at e
      · cases e
      · split at e
        · cases e; exact h
        · split at e
          · exact h.dumpPieces.of_eq2 (Except.ok.inj e)
          · cases e
    · split at e
      · split at e
        · cases e
        · cases e; exact h
      · cases e

theorem releaseResidue {c : Cmd} (h : s.Keeps t) : s.Keeps (Machine.releaseResidue c t) := .ite h.modJob h

theorem dump {c : Cmd} {area index off : Nat} {buf : HostBuf} (h : s.Keeps t) : s.Keeps (Machine.dump c area index off buf t) := by
  refine h.jobCommand fun x t h => .ite h.finishWith (.ite h.finishWith ?_)
  split
  · exact h.badField
  · rename_i e
    have h1 := h.dumpArea e
    refine .ite h.badField (.ite h.finish ?_)
    split
    · exact (h1.hostMem fun m => wf_writeBytes m _ _).releaseResidue.finish
    · exact (h1.hostMem fun m => wf_writeBytes m _ _).releaseResidue.finish

theorem lotAlloc {c : Cmd} {kind mib : Nat} (h : s.Keeps t) : s.Keeps (Machine.lotAlloc c kind mib t) := by
  refine .ite h.badField (.ite h.badField (h.jobCommand fun x t h => .ite ?_ ?_))
  · split
    · exact h.finishWith
    · rename_i e
      exact .ite h.finishWith ((h.allocEven e).modMem.finish)
  · split
    · exact h.finishWith
    · rename_i e
      exact .ite h.finishWith (h.allocCellar e).finish

theorem freeBrineLot {c : Cmd} {l : Nat} (h : s.Keeps t) : s.Keeps (Machine.freeBrineLot c l t) := by
  unfold Machine.freeBrineLot
  split
  · exact h.badField
  · exact .ite h.badField (.ite h.finishWith h.zeroLot.freeLot.finishWith)

theorem freeCellarLot {c : Cmd} {x : Job} {base : Nat} (h : s.Keeps t) : s.Keeps (Machine.freeCellarLot c x base t) := by
  unfold Machine.freeCellarLot
  split
  · exact h.badField
  · exact .ite h.finishWith h.zeroCellar.modMem.finishWith

theorem lotFree {c : Cmd} {addr : Nat} (h : s.Keeps t) : s.Keeps (Machine.lotFree c addr t) :=
  h.jobCommand (fun _ _ h => (.ite h.badField (.ite h.freeBrineLot (.ite h.freeCellarLot h.badField))))

theorem powerPolicy {c : Cmd} {limit window grade : Nat} (h : s.Keeps t) : s.Keeps (Machine.powerPolicy c limit window grade t) :=
  .ite h.badField (.ite h.badField (.ite h.badField h.modPower.finishWith))

theorem budgetJoin {c : Cmd} {group total keeper : Nat} {buf : HostBuf} {ms : List BudgetMember} (h : s.Keeps t) :
    s.Keeps (Machine.budgetJoin c group total keeper buf ms t) :=
  .ite h.modPower.finishWith (.ite h.badField (.ite h.badField (.ite h.badField (.ite h.badField (.ite h.finish (.ite h.badField
    (.ite h.badField (.ite h.badField (.ite h.finishWith (State.Keeps.ite h.modPower.sendLimits h.modPower).finishWith)))))))))

theorem energyQuery {c : Cmd} (h : s.Keeps t) : s.Keeps (Machine.energyQuery c t) := h.jobCommand (fun _ _ h => h.finish)

theorem assayReport {c : Cmd} {buf : HostBuf} (h : s.Keeps t) : s.Keeps (Machine.assayReport c buf t) := h.toHost

theorem clearAliases (h : s.Keeps t) : s.Keeps (Machine.clearAliases t) := (h.same (by rfl)).same (by rfl)

theorem setAlias {was : State} {i d pos : Nat} (h : s.Keeps t) : s.Keeps (Machine.setAlias was i d pos t) := h.same rfl

theorem takeAlias {was : State} {i w : Nat} (h : s.Keeps t) : s.Keeps (Machine.takeAlias was i w t) :=
  .ite h.setAlias (h.same (by rfl))

theorem aliasSet {c : Cmd} {buf : HostBuf} {table : List Nat} (h : s.Keeps t) : s.Keeps (Machine.aliasSet c buf table t) :=
  .ite h.badField (.ite h.badField (.ite h.finish (.ite h.badField ((State.Keeps.ite h.clearAliases h).foldState (fun _ _ h =>
    h.takeAlias)).finishWith)))

theorem fwUpdate {c : Cmd} {buf : HostBuf} {im : FwImage} (h : s.Keeps t) : s.Keeps (Machine.fwUpdate c buf im t) := by
  have h1 {k : Nat} : s.Keeps (t.modSec fun q => if k = 0 then { q with slot0 := some im } else { q with slot1 := some im }) :=
    h.modSec fun q => by split <;> exact ⟨rfl, rfl⟩
  unfold Machine.fwUpdate
  dsimp only
  exact .ite h.badField (.ite h.badField (.ite h.finishWith (.ite h.finish (.ite h.finishWith h1.finish))))

theorem attest {c : Cmd} {nonce : Nat} {buf : HostBuf} (h : s.Keeps t) : s.Keeps (Machine.attest c nonce buf t) :=
  .ite h.badField (.ite h.finish (.ite h.finishWith h.modSec.toHost))

theorem transfer {c : Cmd} {src dst count ctrl vector : Nat} (h : s.Keeps t) : s.Keeps (Machine.transfer c src dst count ctrl vector t) :=
  .ite h.badField (.ite h.badField h.modHif.haulAfter)

theorem sendAtomic {w : AtomicWait} (h : s.Keeps t) : s.Keeps (Machine.sendAtomic w t) := h.addOut.sendFrom

theorem atomicCommand {c : Cmd} {addr aop low a b : Nat} (h : s.Keeps t) : s.Keeps (Machine.atomicCommand c addr aop low a b t) :=
  .ite h.badField (h.same (by rfl)).modHif.sendAtomic

theorem retryAtomic {w : AtomicWait} (h : s.Keeps t) : s.Keeps (Machine.retryAtomic w t) :=
  .ite h (.ite (.ite h.expire.atomicDone h.expire.atomicDone) h.expire.modHif.sendAtomic)

theorem queryTag {t' : Nat} (h : s.Keeps t) : s.Keeps (Machine.queryTag t' t) := by
  unfold Machine.queryTag
  split
  · exact h.postEntry
  · exact .ite h.modHif h.postEntry

theorem tagQuery {c : Cmd} {tags : List Nat} (h : s.Keeps t) : s.Keeps (Machine.tagQuery c tags t) :=
  .ite h.badField (h.foldState (fun _ _ h => h.queryTag)).finish

end Sys2Proof.Machine.State.Keeps
end

section
/-! SUPPORT. What gauges, faults and cores keep (`State.Keeps`), function by function. -/

namespace Sys2Proof.Machine.State.Keeps
open Sys2Proof Sys2Proof.Machine
variable {s t u : State}

theorem faultSignal {v : Nat} (h : s.Keeps t) : s.Keeps (Machine.faultSignal v t) := by
  unfold Machine.faultSignal
  split
  · exact h.modFaults
  · exact h.modFaults.signalVector

theorem vectorHoldoff {v : Nat} (h : s.Keeps t) : s.Keeps (Machine.vectorHoldoff v t) := by
  unfold Machine.vectorHoldoff
  split
  · exact h
  · exact .ite h (.ite h.modFaults.faultSignal h.modFaults)

theorem hakarRecord {r : FaultRec} (h : s.Keeps t) : s.Keeps (Machine.hakarRecord r t) := h.modFaults

theorem mirror {r : FaultRec} (h : s.Keeps t) : s.Keeps (Machine.mirror r t) := by
  unfold Machine.mirror
  dsimp only
  split
  · exact .ite (h.modFaults.foldState (fun _ _ h => h.faultSignal)).faultSignal (h.modFaults.foldState (fun _ _ h => h.faultSignal))
  · exact h.modFaults.foldState (fun _ _ h => h.faultSignal)

theorem logRecord {r : FaultRec} (h : s.Keeps t) : s.Keeps (Machine.logRecord r t) := by
  unfold Machine.logRecord
  split
  · exact .ite h.modFaults h.mirror
  · exact h.mirror

theorem fatalOrder {e : LogRec} (h : s.Keeps t) : s.Keeps (Machine.fatalOrder e t) := (h.modFaults.bootStep (fun _ h => h.setBoot)).ibi

theorem endAllJobs (h : s.Keeps t) : s.Keeps (Machine.endAllJobs t) :=
  (h.foldState (fun _ _ h => by
    dsimp only
    split
    · split
      · exact h.endBySelf.setJob.postEntry
      · exact h.endBySelf
    · exact h.endBySelf))

theorem afterFatal (h : s.Keeps t) : s.Keeps (Machine.afterFatal t) := by
  unfold Machine.afterFatal
  split
  · exact h.fatalOrder.endAllJobs
  · exact h

theorem mirrorRecord {r : FaultRec} (h : s.Keeps t) : s.Keeps (Machine.mirrorRecord r t) :=
  .ite h.mirror.afterFatal h.logRecord

theorem faultMirror (h : s.Keeps t) : s.Keeps (Machine.faultMirror t) := by
  unfold Machine.faultMirror
  split
  · exact h
  · exact h.modFaults.mirrorRecord

theorem deviceFatal {r : FaultRec} (h : s.Keeps t) : s.Keeps (Machine.deviceFatal r t) := .ite h h.modFaults.mirrorRecord

theorem faultRead {c : Cmd} {n : Nat} {buf : HostBuf} {max : Nat} (h : s.Keeps t) : s.Keeps (Machine.faultRead c n buf max t) := by
  have h1 {bs : List Byte} : s.Keeps { t with hostMem := writeBytes t.hostMem buf.addr bs } := h.hostMem fun m => wf_writeBytes m _ _
  refine .ite h.badField (.ite h.finish ?_)
  dsimp only
  split
  · exact h1.modFaults.finish
  · exact h1.draw.finish

theorem closeWindow {i k : Nat} (h : s.Keeps t) : s.Keeps (Machine.closeWindow i k t) := .ite h.modGauge.hakarRecord h.modGauge

theorem windowClose {i : Nat} (h : s.Keeps t) : s.Keeps (Machine.windowClose i t) := .ite h.closeWindow h

theorem countValue {i : Nat} {v : Int} {t' : Nat} (h : s.Keeps t) : s.Keeps (Machine.countValue i v t' t) :=
  .ite h (.ite h.modFaults h.modGauge)

theorem gaugeEvent {i : Nat} {v : Int} {t' : Nat} (h : s.Keeps t) : s.Keeps (Machine.gaugeEvent i v t' t) :=
  .ite h.countValue h

theorem levelSample {i : Nat} {v : Int} (h : s.Keeps t) : s.Keeps (Machine.levelSample i v t) := .ite h.countValue h

theorem endWindows {i : Nat} (h : s.Keeps t) : s.Keeps (Machine.endWindows i t) :=
  .ite h (.ite (h.foldState (fun _ _ h => h.closeWindow)) (h.foldState (fun _ _ h => h.closeWindow)).modGauge)

theorem gaugeConfig {c : Cmd} {i : Nat} {buf : HostBuf} {d : GaugeDesc} (h : s.Keeps t) : s.Keeps (Machine.gaugeConfig c i buf d t) :=
  .ite h.badField (.ite h.badField (.ite h.badField (.ite h.finish (.ite h.badField h.endWindows.modGauge.finishWith))))

theorem gaugeRead {c : Cmd} {i : Nat} {buf : HostBuf} (h : s.Keeps t) : s.Keeps (Machine.gaugeRead c i buf t) :=
  .ite h.badField (.ite h.badField (.ite h.finish h.toHost))

theorem rewriteEntries (h : s.Keeps t) : s.Keeps (Machine.rewriteEntries t) :=
  .ite (h.foldState (fun _ _ h => h.putEntry.ringSignal)) h

theorem postTakeover {e : Entry} (h : s.Keeps t) : s.Keeps (Machine.postTakeover e t) := .ite h.writeEntry h.modHif

theorem coreTakeover (h : s.Keeps t) : s.Keeps (Machine.coreTakeover t) := by
  unfold Machine.coreTakeover
  split
  · exact h
  · split
    · exact h.modHif.rewriteEntries.postTakeover.hakarRecord
    · exact .ite h.modHif h.modHif.fatalOrder.faultSignal

theorem internalCheck {p unit : Nat} (h : s.Keeps t) : s.Keeps (Machine.internalCheck p unit t) := .ite h h.panFault

end Sys2Proof.Machine.State.Keeps
end

section
/-! SUPPORT. What security keeps (`State.Keeps`), function by function. -/

namespace Sys2Proof.Machine.State.Keeps
open Sys2Proof Sys2Proof.Machine
variable {s t u : State}

theorem reply {a : Answer} (h : s.Keeps t) : s.Keeps (Machine.reply a t) := h.modSec

theorem service {f : State → State} (h : s.Keeps t) (hf : ∀ t, s.Keeps t → s.Keeps (f t)) : s.Keeps (Machine.service f t) :=
  .ite (hf t h) h

theorem dbgChallenge {nonce : Nat} (h : s.Keeps t) : s.Keeps (Machine.dbgChallenge nonce t) := h.modSec.reply

theorem dbgToken {x : DebugToken} (h : s.Keeps t) : s.Keeps (Machine.dbgToken x t) := by
  unfold Machine.dbgToken
  dsimp only
  split
  · exact h.modSec.reply.modSec.modHif
  · exact h.modSec.reply

theorem nonceExpiry (h : s.Keeps t) : s.Keeps (Machine.nonceExpiry t) := .ite h.modSec h

theorem debugAccess {p addr : Nat} {write : Option Nat} (h : s.Keeps t) : s.Keeps (Machine.debugAccess p addr write t) :=
  .ite h.reply (.ite h.reply h.enqueue)

theorem signedReply {f : Nat → Nat → Answer} (h : s.Keeps t) : s.Keeps (Machine.signedReply f t) := by
  unfold Machine.signedReply
  split
  · exact h.reply
  · dsimp only
    exact h.draw.modSec.reply

theorem challenge {nonce : Nat} (h : s.Keeps t) : s.Keeps (Machine.challenge nonce t) := h.signedReply

theorem getMeasurements {index : Nat} (h : s.Keeps t) : s.Keeps (Machine.getMeasurements index t) := h.signedReply

end Sys2Proof.Machine.State.Keeps
end

section
/-! SUPPORT. What every command and every step keeps, and the settlements of O2, O4 and O5. -/

namespace Sys2Proof.Machine
open Sys2Proof

/-- The commands that leave more than `State.Keeps` allows: the resets, and what writes the OTP or opens debug. -/
def Instr.changesKept : Instr → Bool
  | .pwrgdRelease .. | .resetNRelease .. | .perstNAssert .. | .pcieHotReset .. | .arbCommit | .debugZeroiseDone => true
  | _ => false

theorem State.Keeps.next {s t u : State} (e : Host.Outcome.next (φ := Fault) (ρ := Refusal) u = .next t) (h : s.Keeps u) :
    s.Keeps t := by
  cases e
  exact h

/-- Every other command leaves the queue, the OTP and the debug scope, and keeps the memories canonical. -/
theorem exec_keeps {i : Instr} {s t : State} (hi : Instr.changesKept i = false) (e : exec i s = .next t) : s.Keeps t := by
  have h := State.Keeps.refl s
  cases i with
  | pwrgdRelease | resetNRelease | perstNAssert | pcieHotReset | arbCommit | debugZeroiseDone => cases hi
  | pwrgdFall => exact .next e (.ite h.powerLost h)
  | firmwareSelect => exact .next e (.ite (h.bootStep fun _ h => h.firmwareSelect) h)
  | firmwareBodyCheck => exact .next e (.ite (h.bootStep fun _ h => h.firmwareBodyCheck) h)
  | factoryMapCheck => exact .next e (.ite h.factoryMapCheck h)
  | assayListCheck => exact .next e (.ite (h.bootStep fun _ h => h.assayListCheck) h)
  | assayComplete => exact .next e (.ite (h.bootStep fun _ h => h.assayComplete) h)
  | cellarAssayPass => exact .next e (.ite (h.bootStep fun _ h => h.cellarAssayPass) h)
  | cellarFillDone => exact .next e (.ite h.cellarFillDone h)
  | brineFillDone => exact .next e (.ite (h.bootStep fun _ h => h.brineFillDone) h)
  | portTrained => exact .next e (.ite h.portTrained h)
  | peerTimeout => exact .next e (.ite h.peerTimeout h)
  | topologyAgreement => exact .next e (.ite (h.bootStep fun _ h => h.topologyAgreement) h)
  | configRequestRetry => exact .next e (.ite h.configRequest h)
  | idleReserveFail => exact .next e (.ite h.idleReserveFail h)
  | go => exact .next e (.ite h.go h)
  | stop => exact .next e (.ite h.stop h)
  | faultClear => exact .next e (.ite h.faultClear h)
  | semClear => exact .next e (.ite h.semClear h)
  | semNotify => exact .next e (.ite h.semAdd h)
  | fnop | wfeed | hload | tend | dnop | dout | drld | dwait | rnop | rld | rst | radds | rsubs | rmin | rmax | rmsh | rshrv | rbc |
      rqset | rredq | rfold | rdiv | rexp2 | rsig | rpack | rbnd | rxmax | rssq | rnvar | rrsq | rnpack | mnop | lset | loop | jmp | spin
      | halt | agld | tile | notice | swait | ssig | notify | fence | wopen | wclose | hstart | done | reservedOpcode =>
    exact .next e (.ite h.issueIf h)
  | swaitResume => exact .next e (.ite (.ite h.swaitResume h) h)
  | waitTimeout => exact .next e (.ite h.waitTimeout h)
  | fenceComplete => exact .next e (.ite (.ite h.fenceComplete h) h)
  | chainRendezvous => exact .next e (.ite (.ite h.chainRendezvous h) h)
  | chainTimeout => exact .next e (.ite h.chainTimeout h)
  | dwaitRelease => exact .next e (.ite (.ite h.issueIf h) h)
  | westFeedBegin => exact .next e (.ite (.ite (h.inCycle fun _ h => h.westFeedBegin) h) h)
  | northLoadBegin => exact .next e (.ite (.ite (h.inCycle fun _ h => h.northLoadBegin) h) h)
  | heldColumnWrite => exact .next e (.ite (.ite h.heldColumnWrite h) h)
  | westSlotIssue => exact .next e (.ite (.ite h.westSlotIssue h) h)
  | burstHoldEnd => exact .next e (.ite (.ite h.burstHoldEnd h) h)
  | entryUpdate => exact .next e (.ite (.ite (.ite (h.inCycle fun _ h => h.entryUpdate) h) h) h)
  | drainEntry => exact .next e (.ite (.ite (h.inCycle fun _ h => h.drainEntry) h) h)
  | drldGrain => exact .next e (.ite (.ite (h.inCycle fun _ h => h.drldGrain) h) h)
  | doutComplete => exact .next e (.ite (.ite h.doutComplete h) h)
  | feedLost => exact .next e (.ite h.feedLost h)
  | narrowAccess => exact .next e (.ite h.narrowServe h)
  | starvation => exact .next e (.ite h.starve h)
  | correctionWriteback | poisonRewrite => exact .next e (.ite h.serveKind h)
  | ovfLogClear => exact .next e (.ite h.modPan h)
  | bankSleep => exact .next e (.ite h.bankSleep h)
  | bankFillDone => exact .next e (.ite h.bankFillDone h)
  | patrolScrub => exact .next e (.ite h.patrolScrub h)
  | winClose => exact .next e (.ite h.winClose h)
  | debugAccess => exact .next e (.ite h.debugAccess h)
  | sleep => exact .next e (.ite h.sliceSleep h)
  | sliceDrained => exact .next e (.ite h.sliceDrained h)
  | sliceSleepBound => exact .next e (.ite h.sliceSleepBound h)
  | wake => exact .next e (.ite h.sliceWake h)
  | sliceFillDone => exact .next e (.ite h.sliceFillDone h)
  | sliceFail => exact .next e (.ite h.sliceFail h)
  | standInSlice => exact .next e (.ite h.standInSlice h)
  | refresh => exact .next e (.ite h.refreshRow h)
  | refreshIntervalChange => exact .next e (.ite h.refreshInterval h)
  | sliceScrub => exact .next e (.ite h.sliceScrub h)
  | cellarScrub => exact .next e (.ite h.cellarScrub h)
  | cellarChannelFail => exact .next e (.ite h.channelFail h)
  | mr4Read | wck2dqTracking | perBankRefresh => exact .next e (.ite (.ite h.modChan h) h)
  | rdData => exact .next e (.ite (h.atTarget fun _ h => h.rdDataBack) h)
  | wrAck | reduceAck => exact .next e (.ite (h.atTarget fun _ h => h.writeAcked) h)
  | haulError => exact .next e (.ite (h.atTarget fun _ h => h.haulErrorBack) h)
  | packetForward => exact .next e (.ite h.packetForward h)
  | routerFail => exact .next e (.ite h.routerFail h)
  | rowDeadSet => exact .next e (.ite h.rowDeadSet h)
  | rd => exact .next e (.ite (.ite (h.atTarget fun _ h => h.rdTarget) h) h)
  | wrAckCombine => exact .next e (.ite h.wrAckCombine h)
  | atomicData => exact .next e (.ite (h.atTarget fun _ h => h.atomicAnswer) h)
  | reduce => exact .next e (.ite (.ite (h.atTarget fun _ h => h.reduceTarget) h) h)
  | commit => exact .next e (.ite (.ite (h.atTarget fun _ h => h.commitTarget) h) h)
  | commitBounce => exact .next e (.ite (.ite (h.atTarget fun _ h => h.queueBounce) h) h)
  | commitResend => exact .next e (.ite h.commitResend h)
  | arrive => exact .next e (.ite h.barrierArrive h)
  | barrier => exact .next e (.ite (h.atTarget fun _ h => h.barrierTarget) h)
  | headerUnitReceive => exact .next e (.ite h.headerReceive h)
  | payloadUnitReceive => exact .next e (.ite h.payloadReceive h)
  | linkIdle => exact .next e (.ite h.linkIdle h)
  | linkNak => exact .next e (.ite h.linkNak h)
  | linkLane => exact .next e (.ite h.linkLane h)
  | laneJudge => exact .next e (.ite h.laneJudge h)
  | packetTransmit => exact .next e (.ite h.packetTransmit h)
  | stepDispatch => exact .next e (.ite h.dispatchStep h)
  | sharesDone => exact .next e (.ite h.sharesDone h)
  | stepCommit => exact .next e (.ite h.stepCommit h)
  | sharesDoneResend => exact .next e (.ite h.sharesDoneResend h)
  | shareReplay => exact .next e (.ite h.shareReplay h)
  | replayAck => exact .next e (.ite h.replayAck h)
  | shareReplayResend => exact .next e (.ite h.shareReplayResend h)
  | faultRecordReceive => exact .next e (.ite h.faultRecordReceive h)
  | replayQuiesced => exact .next e (.ite h.replayQuiesced h)
  | replayResume => exact .next e (.ite h.replayResume h)
  | memberFailure => exact .next e (.ite h.memberFailure h)
  | zeroisation => exact .next e (.ite h.zeroisation h)
  | zeroisationDone => exact .next e (.ite h.zeroisationDone h)
  | gradeRequest => exact .next e (.ite h.gradeRequest h)
  | gradeChange => exact .next e (.ite h.gradeChange h)
  | vcoreRise => exact .next e (.ite h.vcoreRise h)
  | vcoreFall => exact .next e (.ite h.vcoreFall h)
  | tideResync => exact .next e (.ite h.modClock h)
  | tideExchange => exact .next e (.ite h.tideExchange h)
  | tideStampMessage => exact .next e (.ite h.tideStampMessage h)
  | ptmMeasure => exact .next e (.ite h.ptmMeasure h)
  | tideHoldover => exact .next e (.ite h.tideHoldover h)
  | tideParentReselect => exact .next e (.ite h.tideReselect h)
  | powerEvaluation => exact .next e (.ite h.powerEvaluation h)
  | fastCurrentLoop => exact .next e (.ite h.fastLoop h)
  | loadNoticeArrival => exact .next e (.ite h.loadNotice h)
  | peakEnd => exact .next e (.ite h.peakEnd h)
  | thermalSample => exact .next e (.ite h.thermalSample h)
  | restDeadline => exact .next e (.ite h.restDeadline h)
  | regionWake => exact .next e (.ite h.regionWake h)
  | wakeAdmit => exact .next e (.ite h.wakeAdmit h)
  | wakeAdmitTimeout => exact .next e (.ite h.wakeAdmitTimeout h)
  | wakeRampDone => exact .next e (.ite h.wakeRampDone h)
  | wakeRegulated => exact .next e (.ite h.wakeRegulated h)
  | phaseFail => exact .next e (.ite h.phaseFail h)
  | budgetReport => exact .next e (.ite h.budgetReport h)
  | budgetReassign => exact .next e (.ite h.budgetReassign h)
  | budgetLimitReceive => exact .next e (.ite h.budgetLimit h)
  | energyCharge => exact .next e (.ite h.energyCharge h)
  | doorbell => exact .next e (.ite h.doorbell h)
  | imageLoad => exact .next e (.ite (h.command fun _ h => h.imageLoad) h)
  | jobCreate => exact .next e (.ite (h.command fun _ h => h.jobCreate) h)
  | place => exact .next e (.ite (h.command fun _ h => h.place) h)
  | run => exact .next e (.ite (h.command fun _ h => h.run) h)
  | step => exact .next e (.ite (h.command fun _ h => h.stepCommand) h)
  | kill => exact .next e (.ite (h.command fun _ h => h.kill) h)
  | dump => exact .next e (.ite (h.command fun _ h => h.dump) h)
  | lotAlloc => exact .next e (.ite (h.command fun _ h => h.lotAlloc) h)
  | lotFree => exact .next e (.ite (h.command fun _ h => h.lotFree) h)
  | powerPolicy => exact .next e (.ite (h.command fun _ h => h.powerPolicy) h)
  | budgetJoin => exact .next e (.ite (h.command fun _ h => h.budgetJoin) h)
  | energyQuery => exact .next e (.ite (h.command fun _ h => h.energyQuery) h)
  | gaugeConfig => exact .next e (.ite (h.command fun _ h => h.gaugeConfig) h)
  | gaugeRead => exact .next e (.ite (h.command fun _ h => h.gaugeRead) h)
  | faultRead => exact .next e (.ite (h.command fun _ h => h.faultRead) h)
  | assayReport => exact .next e (.ite (h.command fun _ h => h.assayReport) h)
  | aliasSet => exact .next e (.ite (h.command fun _ h => h.aliasSet) h)
  | fwUpdate => exact .next e (.ite (h.command fun _ h => h.fwUpdate) h)
  | attest => exact .next e (.ite (h.command fun _ h => h.attest) h)
  | transfer => exact .next e (.ite (h.command fun _ h => h.transfer) h)
  | atomicCmd => exact .next e (.ite (h.command fun _ h => h.atomicCommand) h)
  | resume => exact .next e (.ite (h.command fun _ h => h.resumeCommand) h)
  | tagQuery => exact .next e (.ite (h.command fun _ h => h.tagQuery) h)
  | ringEnable => exact .next e (.ite h.ringCtl h)
  | ringHeadWrite => exact .next e (.ite h.ringHead h)
  | apertureWrite => exact .next e (.ite h.apertureWrite h)
  | bar2Write => exact .next e (.ite h.bar2Write h)
  | bar2Read => exact .next e (.ite h.bar2Read h)
  | coreTakeover => exact .next e (.ite h.coreTakeover h)
  | gaugeEvent => exact .next e (.ite h.gaugeEvent h)
  | levelSample => exact .next e (.ite h.levelSample h)
  | windowClose => exact .next e (.ite h.windowClose h)
  | faultMirror => exact .next e (.ite h.faultMirror h)
  | deviceFatal => exact .next e (.ite h.deviceFatal h)
  | diffOffset | diffData => exact .next e (.ite h.modBoot h)
  | dbgChallenge => exact .next e (.ite (h.service fun _ h => h.dbgChallenge) h)
  | dbgToken => exact .next e (.ite (h.service fun _ h => h.dbgToken) h)
  | nonceExpiry => exact .next e (.ite h.nonceExpiry h)
  | getVersion | getCapabilities | negotiateAlgorithms | spdmUnsupportedRequest => exact .next e (.ite (h.service fun _ h => h.reply) h)
  | challenge => exact .next e (.ite (h.service fun _ h => h.challenge) h)
  | getMeasurements => exact .next e (.ite (h.service fun _ h => h.getMeasurements) h)
  | entropyTestFail => exact .next e (.ite h.modSec h)
  | registerWrite => exact .next e (.ite h.registerWrite h)
  | rcRead => exact .next e (.ite h.rcRead h)
  | internalCheckFail => exact .next e (.ite h.internalCheck h)
  | regionClockFail => exact .next e (.ite h.regionClockFail h)
  | vectorHoldoffExpiry => exact .next e (.ite h.vectorHoldoff h)
  | vectorUnmask => exact .next e (.ite h.vectorUnmask h)
  | rfm => exact .next e (.ite (.ite h.bumpChan h) h)
  | quiesceTimeLimit => exact .next e (.ite h.quiesceTimeLimit h)
  | pllLockLoss => exact .next e (.ite (h.modFaults.powerLost) h)
  | assayListUpdate => exact .next e (.ite ((h.bootStep fun _ h => h.assayListUpdate).bootStep fun _ h => h.repairsApplied) h)
  | ceTableClear u =>
    cases u with
    | pan => exact .next e (.ite h.modStore h)
    | slice => exact .next e (.ite h.modSlice h)
    | channel => exact .next e (.ite h.modChan h)
  | bankDrained => exact .next e (.ite (h.bankDrained.restDrained) h)
  | bankSleepBound => exact .next e (.ite (h.bankSleepBound.restDrained) h)
  | bankWake => exact .next e (.ite (h.foldl fun _ _ h => h.wakeBank) h)
  | storeFillDone => exact .next e (.ite (h.bootStep fun _ h => .ite h.storeFillDone.wakeFilled.endFills h) h)
  | start => exact .next e (.ite (h.haulStart.haulAfter) h)
  | pause => exact .next e (.ite (.ite h h.modHaul.haulWrites.haulSettle.haulAfter) h)
  | hostReadCompletion =>
    refine .next e (.ite ?_ h)
    dsimp only
    split
    · exact .ite (State.Keeps.ite h.flushDone h.dropOut.flushFailed).haulAfter
        (.ite h.dropOut.haulAfter (.ite (State.Keeps.ite h.dropOut.haulReadBack h.dropOut.haulFailed).haulAfter h))
    · exact h
  | haulFlushComplete => exact .next e (.ite (.ite h h.flushDone.haulAfter) h)
  | haulTimeout =>
    refine .next e (.ite ?_ h)
    dsimp only
    split
    · split
      · exact .ite h.expireOut.haulFailed.haulAfter h
      · exact .ite h.expireOut.flushFailed.haulAfter h
      · exact h
    · exact h
  | wr a =>
    refine .next e (.ite ?_ h)
    dsimp only
    split
    · exact h.performWrite
    · refine .ite (h.atTarget fun _ h => ?_) h
      split
      · exact h.wrLater
      · exact h.wrTarget
  | mcWr => exact .next e (.ite (.ite h (h.atTarget fun _ h => h.mcWrite)) h)
  | busWr => exact .next e (.ite (.ite h (h.atTarget fun _ h => h.busWrite)) h)
  | urgWr => exact .next e (.ite (.ite (h.atTarget fun _ h => .ite h.controlWrite h) h) h)
  | atomic => exact .next e (.ite (.ite (h.atTarget fun _ h => h.atomicUnit.respond) h) h)
  | linkReplayTimer =>
    refine .next e (.ite ?_ h)
    beta_reduce
    split
    · exact .ite h.resend h
    · exact h
  | creditReturn => exact .next e (.ite (.ite h h.sendControl) h)
  | minvInterval => exact .next e (.ite h.modRegion h)
  | intCoalesceExpiry =>
    refine .next e (.ite ?_ h)
    beta_reduce
    split
    · exact .ite h.modHif.signalVector h
    · exact h
  | heartbeat => exact .next e (.ite (.ite h.modHif h) h)
  | atomicRetry => exact .next e (.ite (h.foldState fun _ _ h => h.retryAtomic) h)
  | bar2ReadTimeout =>
    refine .next e (.ite ?_ h)
    beta_reduce
    split
    · exact .ite h.bar2Abort h
    · exact h

/-! ### Resets, the ARB commit and the end of a debug zeroisation -/

/-- What a reset does: the OTP and the queue stay, debug is locked. -/
structure State.Resets (s t : State) : Prop where
  pending : t.pending = s.pending
  otp : t.sec.otp = s.sec.otp
  locked : t.sec.scope = 0
  canonical : s.memoriesCanonical → t.memoriesCanonical

theorem State.Resets.keeps {s t u : State} (h : s.Resets t) (k : t.Keeps u) : s.Resets u :=
  ⟨k.pending.trans h.pending, k.otp.trans h.otp, k.scope.trans h.locked, fun hs => k.canonical (h.canonical hs)⟩

theorem State.Keeps.resets {s t u : State} (k : s.Keeps t) (h : t.Resets u) : s.Resets u :=
  ⟨h.pending.trans k.pending, h.otp.trans k.otp, h.locked, fun hs => h.canonical (k.canonical hs)⟩

theorem resets_bringUp (warm vaux : Bool) (s : State) : s.Resets (bringUp warm vaux s) :=
  ⟨rfl, rfl, rfl, fun ⟨_, _, _, hhost, _⟩ => ⟨rfl, rfl, rfl, hhost, rfl⟩⟩

theorem keeps_or_resets_warmReset (ok : Bool) (s : State) : s.Keeps (warmReset ok s) ∨ s.Resets (warmReset ok s) := by
  unfold warmReset
  split
  · exact .inl (.refl s)
  · exact .inr ((resets_bringUp true true s).keeps (State.Keeps.refl _).selfTests)

theorem keeps_or_resets_pinReset (low : Nat) (ok : Bool) (s : State) : s.Keeps (pinReset low ok s) ∨ s.Resets (pinReset low ok s) := by
  unfold pinReset
  split
  · exact .inl (.refl s)
  · split
    · exact keeps_or_resets_warmReset ok s
    · split
      · have hdraw : s.Keeps { s with draws := s.draws + 1 } := (State.Keeps.refl s).same rfl
        exact (keeps_or_resets_warmReset ok _).imp hdraw.trans hdraw.resets
      · exact .inl ((State.Keeps.refl s).same rfl)

theorem keeps_or_resets_bootStep {f : State → State} {s : State} (h : s.Keeps (f s) ∨ s.Resets (f s)) :
    s.Keeps (bootStep f s) ∨ s.Resets (bootStep f s) := by
  have hsig : (f s).Keeps (bootStep f s) := .ite (.refl _) (State.Keeps.refl _).signalVector.ibi
  exact h.imp (·.trans hsig) (·.keeps hsig)

/-! ### Every command -/

/-- What any step may do to the OTP, the debug scope and the memories. -/
structure State.Allows (s t : State) : Prop where
  pending : t.pending = s.pending
  digests : t.sec.vkd0 = s.sec.vkd0 ∧ t.sec.vkd1 = s.sec.vkd1
  arb : s.sec.arb ≤ t.sec.arb
  revoke : ∀ k, bit s.sec.revoke k = true → bit t.sec.revoke k = true
  scope : t.sec.scope = s.sec.scope ∨ t.sec.scope = 0 ∨
    (s.sec.unlocking = some t.sec.scope ∧ t.storeMem = [] ∧ t.brineMem = [] ∧ t.cellarMem = [] ∧ t.hif.journal = [] ∧ t.faults.log = [])
  canonical : s.memoriesCanonical → t.memoriesCanonical

theorem State.Allows.of_otp {s t : State} (hp : t.pending = s.pending) (ho : t.sec.otp = s.sec.otp)
    (hs : t.sec.scope = s.sec.scope ∨ t.sec.scope = 0) (hc : s.memoriesCanonical → t.memoriesCanonical) : s.Allows t := by
  simp only [Security.otp, Prod.mk.injEq] at ho
  obtain ⟨h0, h1, hr, ha⟩ := ho
  exact ⟨hp, ⟨h0, h1⟩, ha.ge, fun k => by rw [hr]; exact id, hs.imp_right .inl, hc⟩

theorem State.Keeps.allows {s t : State} (h : s.Keeps t) : s.Allows t := .of_otp h.pending h.otp (.inl h.scope) h.canonical

theorem State.Resets.allows {s t : State} (h : s.Resets t) : s.Allows t := .of_otp h.pending h.otp (.inr h.locked) h.canonical

/-- Setting a clear bit clears none: the sum carries nowhere. -/
theorem bit_add_two_pow {n i : Nat} (hi : bit n i = false) {k : Nat} (hk : bit n k = true) : bit (n + 2 ^ i) k = true := by
  have hne : k ≠ i := fun h => by simp [h, hi] at hk
  unfold bit at *
  set q := n / 2 ^ (i + 1)
  set r := n % 2 ^ (i + 1)
  have hn : 2 ^ (i + 1) * q + r = n := Nat.div_add_mod n _
  have hr : r < 2 ^ i := by
    have hlt : r < 2 ^ (i + 1) := Nat.mod_lt _ (by positivity)
    have hclear : r.testBit i = false := by rw [Nat.testBit_mod_two_pow, hi, Bool.and_false]
    by_contra hge
    have := Nat.testBit_two_pow_add_eq (r - 2 ^ i) i
    rw [Nat.add_sub_cancel' (Nat.not_lt.mp hge), hclear, Nat.testBit_lt_two_pow (by omega)] at this
    cases this
  rw [← hn, Nat.testBit_two_pow_mul_add _ (by omega)] at hk
  have hsum : n + 2 ^ i = 2 ^ (i + 1) * q + (2 ^ i + r) := by omega
  rw [hsum, Nat.testBit_two_pow_mul_add _ (by omega)]
  split at hk
  · rw [if_pos ‹_›, Nat.testBit_two_pow_add_gt (by omega), hk]
  · rw [if_neg ‹_›, hk]

theorem arbCommit_allows (s : State) : s.Allows (arbCommit s) := by
  unfold arbCommit
  split
  · exact (State.Keeps.refl s).allows
  · split
    · exact (State.Keeps.refl s).modBoot.allows
    · rename_i im _
      refine ⟨rfl, ⟨rfl, rfl⟩, ?arb, ?revoke, .inl rfl, id⟩
      case arb =>
        show s.sec.arb ≤ if im.arbCommit then max s.sec.arb im.svn else s.sec.arb
        split <;> omega
      case revoke =>
        intro k hk
        show bit (if im.revokeOther && !bit s.sec.revoke (1 - im.keySlot) then s.sec.revoke + 2 ^ (1 - im.keySlot) else s.sec.revoke) k =
          true
        split
        · rename_i h
          simp only [Bool.and_eq_true, Bool.not_eq_true'] at h
          exact bit_add_two_pow h.2 hk
        · exact hk

theorem debugZeroiseDone_allows (s : State) : s.Allows (debugZeroiseDone s) := by
  unfold debugZeroiseDone
  split
  · exact (State.Keeps.refl s).allows
  · rename_i sc h
    exact ⟨rfl, ⟨rfl, rfl⟩, Nat.le_refl _, fun _ => id, .inr (.inr ⟨h, rfl, rfl, rfl, rfl, rfl⟩),
      fun ⟨_, _, _, hhost, hslot⟩ => ⟨rfl, rfl, rfl, hhost, hslot⟩⟩

theorem act_allows {s t : State} {ok : Bool} {f : State → State} (e : act ok f s = .next t) (h : s.Allows (f s)) : s.Allows t := by
  cases e
  split
  · exact h
  · exact (State.Keeps.refl s).allows

theorem exec_allows {i : Instr} {s t : State} (e : exec i s = .next t) : s.Allows t := by
  by_cases hi : Instr.changesKept i = false
  · exact (exec_keeps hi e).allows
  cases i with
  | pwrgdRelease lands held ok =>
    rw [exec_pwrgdRelease, pwrgdRelease_eq_selfTests] at e
    cases e
    exact ((resets_bringUp false lands.vauxKept s).keeps (State.Keeps.refl _).modBoot.selfTests.signalVector.ibi).allows
  | resetNRelease low ok =>
    refine act_allows e ((keeps_or_resets_bootStep ?_).elim (·.allows) (·.allows))
    split
    · exact .inl (State.Keeps.refl s).modBoot.selfTests
    · exact keeps_or_resets_pinReset low ok s
  | perstNAssert low ok =>
    exact act_allows e ((keeps_or_resets_bootStep (keeps_or_resets_pinReset low ok s)).elim (·.allows) (·.allows))
  | pcieHotReset ok =>
    exact act_allows e ((keeps_or_resets_bootStep (keeps_or_resets_warmReset ok s)).elim (·.allows) (·.allows))
  | arbCommit => exact act_allows e (arbCommit_allows s)
  | debugZeroiseDone => exact act_allows e (debugZeroiseDone_allows s)
  | _ => exact absurd rfl hi

/-! ### Every step -/

theorem exec_completes (i : Instr) (s : State) : ∃ t, exec i s = .next t := by
  by_cases hi : ∃ lands held ok, i = .pwrgdRelease lands held ok
  · obtain ⟨lands, held, ok, rfl⟩ := hi
    exact ⟨_, rfl⟩
  · obtain ⟨ok, f, h⟩ := exec_eq_act i fun lands held ok e => hi ⟨lands, held, ok, e⟩
    exact ⟨_, by rw [h]; rfl⟩

theorem exec_ill_of_act {i : Instr} {ok : Bool} {f : State → State} (e : exec i = act ok f) (h : ok = false) (s : State) :
    exec i s = .next s := by
  rw [e, act_ill _ _ h]

/-- A command reaches its meaning only where it is well formed. -/
theorem exec_ill {i : Instr} (h : i.wf = false) (s : State) : exec i s = .next s := by
  cases i with
  | pwrgdRelease => cases h
  | ceTableClear u => cases u <;> exact exec_ill_of_act rfl h s
  | entryUpdate p col =>
    by_cases hp : p < 1620
    · have hcol : ¬col < 64 := by simpa [Instr.wf, hp] using h
      change Host.Outcome.next _ = _
      simp only [if_neg hcol, ite_self]
    · exact exec_ill_of_act rfl (decide_eq_false hp) s
  | _ => exact exec_ill_of_act rfl h s

theorem step_allows {s t : State} (e : step s = .next t) : t.pending = s.pending.tail ∧ { s with pending := s.pending.tail }.Allows t :=
    by
  unfold step at e
  split at e
  · rename_i c rest h
    have ha := exec_allows e
    rw [h]
    exact ⟨ha.pending, ha⟩
  · rename_i h
    cases e
    have hk := (State.Keeps.refl s).tick
    rw [h]
    refine ⟨hk.pending.trans h, ?_⟩
    have e : ({ s with pending := [].tail } : State) = s := by rw [List.tail_nil, ← h]
    rw [e]
    exact hk.allows

/-- Settles O4: every command and the idle cycle leave the memories canonical, by `step_allows`. -/
theorem memoriesStayCanonical : Obligations.MemoriesStayCanonical := fun _ _ hs e => (step_allows e).2.canonical hs

/-- Settles O5: what a step may do to the OTP and the debug scope is `State.Allows`. -/
theorem otpGrowsAndDebugZeroises : Obligations.OtpGrowsAndDebugZeroises := by
  intro s t e
  obtain ⟨-, h⟩ := step_allows e
  exact ⟨h.digests.1, h.digests.2, h.arb, h.revoke, h.scope⟩

/-- Settles O2: no command stops the machine, and an ill-formed one never reaches its meaning. -/
theorem wellFormedCommandsComplete : Obligations.WellFormedCommandsComplete := by
  refine ⟨fun s i => ?_, fun s i hi => ?_, fun s => ?_⟩
  · obtain ⟨t, ht⟩ := exec_completes i s
    exact ⟨t, ht, (exec_allows ht).pending⟩
  · exact exec_ill hi s
  · have h : ∃ t, step s = .next t := by
      unfold step
      split
      · exact exec_completes _ _
      · exact ⟨_, rfl⟩
    obtain ⟨t, ht⟩ := h
    exact ⟨t, ht, (step_allows ht).1⟩

end Sys2Proof.Machine
end

section
/-! SUPPORT. What a command of a powered device does, stated on the outcome itself. -/

namespace Sys2Proof.Machine
open Sys2Proof

/-- The next state of a command whose meaning has been unfolded to `u`. -/
theorem eq_next {ok : Bool} {s t u v : State} (hok : ok = true) (hp : s.powered = true) (h : u = t) :
    (Host.Outcome.next (if ok && s.powered then u else v) : Host.Outcome State Fault Refusal) = .next t := by
  rw [hok, hp, ← h]
  rfl

/-- A property of the next state of a command whose meaning has been unfolded to `u`. -/
theorem ex_next {ok : Bool} {s u v : State} {P : State → Prop} (hok : ok = true) (hp : s.powered = true) (h : P u) :
    ∃ t, (Host.Outcome.next (if ok && s.powered then u else v) : Host.Outcome State Fault Refusal) = .next t ∧ P t :=
  ⟨u, eq_next hok hp rfl, h⟩

/-- What taking a command into the journal leaves: all but the host interface. -/
theorem journalled_eq (c : Cmd) (op : Nat) (s : State) : ∃ h, journalled c op s = { s with hif := h } := ⟨_, journalled_rest c op s⟩

/-- A command that Hakar performs, once its work on the journalled state is known. -/
theorem performs_next {s t : State} {c : Cmd} {op : Nat} {ok : Bool} {f : State → State} (h : s.performs c op) (hok : ok = true)
    (e : f (journalled c op s) = t) : act ok (command c op f) s = .next t := by
  rw [performs_act h hok, e]

/-! ### Only one unit changed -/

theorem onlyPan_modPan (s : State) (p : Nat) (f : Pan → Pan) : s.onlyPan (s.modPan p f) p (f (s.pan p)) :=
  ⟨rfl, pan_modPan_same s p f, fun _ h => pan_modPan_other s h f⟩
theorem onlySlice_modSlice (s : State) (i : Nat) (f : Slice → Slice) : s.onlySlice (s.modSlice i f) i (f (s.slice i)) :=
  ⟨rfl, slice_modSlice_same s i f, fun _ h => slice_modSlice_other s h f⟩
theorem onlyChan_modChan (s : State) (i : Nat) (f : Chan → Chan) : s.onlyChan (s.modChan i f) i (f (s.chan i)) :=
  ⟨rfl, chan_modChan_same s i f, fun _ h => chan_modChan_other s h f⟩
theorem onlyRegion_modRegion (s : State) (r : Nat) (f : Region → Region) : s.onlyRegion (s.modRegion r f) r (f (s.region r)) :=
  ⟨rfl, region_modRegion_same s r f, fun _ h => region_modRegion_other s h f⟩
theorem onlyField_modField (s : State) (i : Nat) (f : FieldPwr → FieldPwr) : s.onlyField (s.modField i f) i (f (s.fieldPwr i)) :=
  ⟨rfl, fieldPwr_modField_same s i f, fun _ h => fieldPwr_modField_other s h f⟩
theorem onlyPort_modPort (s : State) (n : Nat) (f : Port → Port) : s.onlyPort (s.modPort n f) n (f (s.port n)) :=
  ⟨rfl, port_modPort_same s n f, fun _ h => port_modPort_other s h f⟩
theorem onlyGauge_modGauge (s : State) (i : Nat) (f : Gauge → Gauge) : s.onlyGauge (s.modGauge i f) i (f (s.gauge i)) :=
  ⟨rfl, gauge_modGauge_same s i f, fun _ h => gauge_modGauge_other s h f⟩

/-- A lookup in a table whose values have all been changed alike. -/
theorem look_map_snd {α β : Type} (d : α) (f : α → β) (m : Sparse α) (a : Nat) :
    look (f d) (m.map fun e => (e.1, f e.2)) a = f (look d m a) := by
  induction m with
  | nil => rfl
  | cons e m ih =>
    simp only [List.map_cons, look, ih]
    split <;> rfl

end Sys2Proof.Machine
end

section
/-! SUPPORT. Steps, reset, SPDM and debug unlock: the settlements of O1, O6, O59 and O60. -/

namespace Sys2Proof.Machine
open Sys2Proof

/-- Settles O1, by the definition of a step on a queue that is not empty. -/
theorem stepRunsFrontCommand : Obligations.StepRunsFrontCommand := by
  intro s c rest h
  simp only [step, h]

/-- Settles O6: each part at reset is its default. -/
theorem resetLeaves : Obligations.ResetLeaves := by
  refine ⟨⟨rfl, rfl, rfl, rfl, rfl⟩, rfl, rfl, rfl, rfl, rfl, fun p => ⟨rfl, rfl, rfl, rfl, rfl, rfl, fun _ => rfl, fun _ => rfl, fun _ => ⟨rfl, rfl⟩⟩,
    fun _ => ⟨rfl, rfl, rfl⟩, rfl, rfl, rfl, rfl, rfl, rfl, rfl, rfl, rfl, rfl, rfl⟩

/-! ### SPDM -/

theorem service_on {f : State → State} {s : State} (h : s.sec.service = true) : service f s = f s := by simp [service, h]
theorem service_off {f : State → State} {s : State} (h : s.sec.service = false) : service f s = s := by simp [service, h]

theorem signedReply_failed {f : Nat → Nat → Answer} {s : State} (h : s.sec.entropyFailed = true) :
    signedReply f s = reply .unspecified s := by simp [signedReply, h]

/-- A signed answer uses the next free value as its nonce and the next signature. -/
theorem signedReply_good {f : Nat → Nat → Answer} {s : State} (h : s.sec.entropyFailed = false) :
    signedReply f s = { s with
      draws := s.draws + 1
      sec := { s.sec with
        signed := s.sec.signed + 1
        answers := s.sec.answers ++ [f (Config.freeValue s.draws % 2 ^ 256) (Config.signature s.sec.signed)] } } := by
  unfold signedReply
  rw [if_neg (by simp [h])]
  rfl

/-- Settles O60: every request answers through `service`, the signed ones through `signedReply`. -/
theorem spdmAnswers : Obligations.SpdmAnswers := by
  intro s hp hs said signs sig rnd
  have plain (a : Answer) : service (reply a) s = { s with sec := { s.sec with answers := s.sec.answers ++ [a] } } := service_on hs
  have entropy : exec .entropyTestFail s = .next (s.modSec fun c => { c with entropyFailed := true }) := eq_next rfl hp rfl
  refine ⟨eq_act rfl hp (plain _), eq_act rfl hp (plain _), eq_act rfl hp (plain _), fun code hc => eq_act (decide_eq_true hc) hp (plain _),
    fun n hn he => eq_act (decide_eq_true hn) hp ?challenge, fun n hn he => eq_act (decide_eq_true hn) hp ?failed,
    fun k h1 h5 he => eq_act (decide_eq_true (by omega)) hp ?block, fun he => eq_act rfl hp ?all, ?otp, ?fuses, ?aState, entropy⟩
  case challenge =>
    rw [service_on hs, challenge, signedReply_good he, State.measurements, List.map_map]
    rfl
  case failed => rw [service_on hs, challenge, signedReply_failed he]; rfl
  case block =>
    have block : (if k = 0xFF then s.measurements else s.measurements.filter fun (e : Nat × List Byte) => e.1 == k) = [(k, s.measurement k)] := by
      rw [if_neg (by omega), State.measurements]
      generalize s.measurement = m
      interval_cases k <;> rfl
    rw [service_on hs, getMeasurements, signedReply_good he, block]
  case all => rw [service_on hs, getMeasurements, signedReply_good he, if_pos rfl, State.measurements]
  case otp => simp [State.measurement]
  case fuses => simp [State.measurement]
  case aState => simp [State.measurement]

/-! ### Debug unlock -/

theorem liveNonce_eq_some {s : State} {n : Nat} :
    s.liveNonce = some n ↔ ∃ at_, s.sec.nonce = some (n, at_) ∧ s.now < at_ + 600000000000 := by
  unfold State.liveNonce
  split
  · rename_i m t h
    split <;> simp_all
  · rename_i h
    simp [h]

/-- The key of a token, in the terms of R484. -/
theorem tokenKeyOk_iff {s : State} {t : DebugToken} : s.tokenKeyOk t = true ↔
    t.sigOk = true ∧ t.header = 0xDB61 ∧ t.reservedZero = true ∧ t.scope < 8 ∧
      ∃ k im, s.sec.running = some k ∧ s.fwSlot k = some im ∧ im.keySlot = t.keySlot ∧ bit s.sec.revoke t.keySlot = false := by
  cases hr : s.sec.running with
  | none => simp [State.tokenKeyOk, hr]
  | some k =>
    cases hk : s.fwSlot k with
    | none => simp [State.tokenKeyOk, hr, hk]
    | some im => simp [State.tokenKeyOk, hr, hk, and_assoc]

/-- Settles O59: a token's status decides its outcome. -/
theorem debugUnlocks : Obligations.DebugUnlocks := by
  intro s hp
  refine ⟨fun n hn hs => eq_act (decide_eq_true hn) hp (service_on hs), fun n hn hs => eq_act (decide_eq_true hn) hp (service_off hs),
    ?token, ?done, ?idle, ?expiry⟩
  case token =>
    intro t h1 h2 h3 h4 h5 hs keyOk fits idle done
    have hok : (decide (t.header < 65536) && decide (t.keySlot < 256) && decide (t.scope < 256) && decide (t.serial < 2 ^ 64) &&
      decide (t.nonce < 2 ^ 256)) = true := by
      simp only [h1, h2, h3, h4, h5, decide_true, Bool.and_self]
    have status {st : Nat} (h : s.tokenStatus t = st) (h0 : st ≠ 0) : exec (.dbgToken t) s = .next (done st) := by
      refine eq_act hok hp ?_
      rw [service_on hs]
      simp only [dbgToken, h, if_neg h0]
      rfl
    have hkey : keyOk ↔ s.tokenKeyOk t = true := tokenKeyOk_iff.symm
    have hfits : fits ↔ ¬(t.serial ≠ s.boot.fuses.serial ∨ s.liveNonce ≠ some t.nonce) := by
      rw [not_or, not_not, not_not, liveNonce_eq_some]
    have hidle : idle ↔ ¬(!s.jobs.isEmpty || !s.hif.journal.isEmpty) = true := by
      simp only [idle, Bool.or_eq_true, Bool.not_eq_true', not_or, Bool.not_eq_false, List.isEmpty_iff]
    refine ⟨fun he => status ?failed (by decide), fun he hk => status ?key (by decide), fun he hk hf => status ?nonce (by decide),
      fun he hk hf hi => status ?busy (by decide), fun he hk hf hi => eq_act hok hp ?accepted⟩
    case failed => rw [State.tokenStatus, if_pos he]
    case key => rw [State.tokenStatus, if_neg (by simp [he]), if_pos (by simpa using mt hkey.mpr hk)]
    case nonce =>
      rw [State.tokenStatus, if_neg (by simp [he]), if_neg (by simpa using hkey.mp hk), if_pos (not_not.mp (mt hfits.mpr hf))]
    case busy =>
      rw [State.tokenStatus, if_neg (by simp [he]), if_neg (by simpa using hkey.mp hk), if_neg (hfits.mp hf),
        if_pos (not_not.mp (mt hidle.mpr hi))]
    case accepted =>
      have h0 : s.tokenStatus t = 0 := by
        rw [State.tokenStatus, if_neg (by simp [he]), if_neg (by simpa using hkey.mp hk), if_neg (hfits.mp hf), if_neg (hidle.mp hi)]
      rw [service_on hs]
      simp only [dbgToken, h0, if_true]
      rfl
  case done =>
    intro sc hu
    have h : debugZeroiseDone s = ((zeroiseMemories s).modSec fun c => { c with unlocking := none, scope := sc }).modHif
        fun h => { h with taking := true } := by
      rw [debugZeroiseDone, hu]
    refine ex_act rfl hp (h ▸ ⟨rfl, rfl, rfl, rfl, rfl, rfl, rfl, rfl, rfl, fun p => ?_⟩)
    have hpan :=
      look_map_snd ({} : Pan) (fun x : Pan => { x with store := { x.store with poison := [], errs := [] } }) s.pans p
    exact ⟨congrArg (·.store.poison) hpan, congrArg (·.seq) hpan⟩
  case idle =>
    intro hu
    refine eq_act rfl hp ?_
    rw [debugZeroiseDone, hu]
  case expiry =>
    intro n at_ hn
    refine eq_act rfl hp ?_
    simp only [nonceExpiry, State.liveNonce, hn]
    by_cases h : s.now < at_ + 600000000000
    · rw [if_pos h, if_neg (Nat.not_le.mpr h)]
      rfl
    · rw [if_neg h, if_pos (Nat.not_lt.mp h)]
      rfl

end Sys2Proof.Machine
end

section
/-! SUPPORT. The limits at join (R390): every round of 1 W shares keeps the bounds and pays off what is wanting. The settlement of O52. -/

namespace Sys2Proof.Machine
open Sys2Proof

theorem sumNat_eq_sum (l : List Nat) : sumNat l = l.sum := List.sum_eq_foldl.symm

/-- A member of a budget as the keeper holds it: device, bounds, limit. -/
abbrev Limit := Nat × Nat × Nat × Nat

/-- A limit lies within its bounds. -/
abbrev Limit.within (m : Limit) : Prop := m.2.1 ≤ m.2.2.2 ∧ m.2.2.2 ≤ m.2.2.1

/-- What no round changes: the device and its bounds. -/
abbrev Limit.key (m : Limit) : Nat × Nat × Nat := (m.1, m.2.1, m.2.2.1)

/-- How far a limit can rise, and how far it can fall. -/
abbrev Limit.above (m : Limit) : Nat := m.2.2.1 - m.2.2.2
abbrev Limit.below (m : Limit) : Nat := m.2.2.2 - m.2.1

/-- A round that pays with `gap`: what it pays of `k` it takes from the gaps, and where some of `k` stays wanting every gap has
shrunk. -/
structure PaysFrom (gap : Limit → Nat) (k : Nat) (ms : List Limit) (r : Nat × List Limit) : Prop where
  within : ∀ m ∈ r.2, m.within
  keys : r.2.map Limit.key = ms.map Limit.key
  left : r.1 ≤ k
  paid : k + (r.2.map gap).sum = r.1 + (ms.map gap).sum
  shrinks : r.1 = 0 ∨ ∀ d, (∀ m ∈ ms, gap m ≤ d + 1) → ∀ m ∈ r.2, gap m ≤ d

theorem PaysFrom.nil (gap : Limit → Nat) (k : Nat) : PaysFrom gap k [] (k, []) :=
  ⟨by simp, rfl, Nat.le_refl k, rfl, .inr (by simp)⟩

/-- A member pays 1 W into a round, or cannot. -/
theorem PaysFrom.cons {gap : Limit → Nat} {k k1 : Nat} {m m1 : Limit} {ms : List Limit} {r : Nat × List Limit}
    (h : PaysFrom gap k1 ms r) (hm : m1.within) (hkey : m1.key = m.key)
    (hpay : (k1 + 1 = k ∧ gap m1 + 1 = gap m) ∨ (k1 = k ∧ gap m1 = gap m ∧ (k = 0 ∨ gap m = 0))) :
    PaysFrom gap k (m :: ms) (r.1, m1 :: r.2) := by
  obtain ⟨hwithin, hkeys, hleft, hpaid, hshrinks⟩ := h
  refine ⟨List.forall_mem_cons.mpr ⟨hm, hwithin⟩, by simp [hkey, hkeys], by simp only; omega, ?paid, ?shrinks⟩
  case paid =>
    simp only [List.map_cons, List.sum_cons]
    omega
  case shrinks =>
    obtain h0 | hd := hshrinks
    · exact .inl h0
    · by_cases hr : r.1 = 0
      · exact .inl hr
      refine .inr fun d hms => List.forall_mem_cons.mpr ⟨?_, hd d (List.forall_mem_cons.mp hms).2⟩
      have hle := (List.forall_mem_cons.mp hms).1
      omega

theorem raiseOnce_pays {k : Nat} {ms : List Limit} (h : ∀ m ∈ ms, m.within) : PaysFrom Limit.above k ms (raiseOnce k ms) := by
  induction ms generalizing k with
  | nil => exact .nil _ k
  | cons m ms ih =>
    obtain ⟨d, lo, hi, l⟩ := m
    obtain ⟨⟨hlo, hhi⟩, hms⟩ := List.forall_mem_cons.mp h
    by_cases ht : 0 < k ∧ l < hi
    · simp only [raiseOnce, ht, decide_true, Bool.and_self, if_true]
      exact (ih hms).cons ⟨Nat.le_succ_of_le hlo, ht.2⟩ rfl (.inl ⟨by omega, by simp only [Limit.above]; omega⟩)
    · have ht' : (decide (0 < k) && decide (l < hi)) = false := by simpa using ht
      simp only [raiseOnce, ht', Bool.false_eq_true, if_false]
      exact (ih hms).cons ⟨hlo, hhi⟩ rfl (.inr ⟨rfl, rfl, by simp only [Limit.above]; omega⟩)

theorem lowerOnce_pays {k : Nat} {ms : List Limit} (h : ∀ m ∈ ms, m.within) : PaysFrom Limit.below k ms (lowerOnce k ms) := by
  induction ms generalizing k with
  | nil => exact .nil _ k
  | cons m ms ih =>
    obtain ⟨d, lo, hi, l⟩ := m
    obtain ⟨⟨hlo, hhi⟩, hms⟩ := List.forall_mem_cons.mp h
    simp only at hlo hhi
    by_cases ht : 0 < k ∧ lo < l
    · simp only [lowerOnce, ht, decide_true, Bool.and_self, if_true]
      exact (ih hms).cons ⟨by simp only; omega, by simp only; omega⟩ rfl (.inl ⟨by omega, by simp only [Limit.below]; omega⟩)
    · have ht' : (decide (0 < k) && decide (lo < l)) = false := by simpa using ht
      simp only [lowerOnce, ht', Bool.false_eq_true, if_false]
      exact (ih hms).cons ⟨hlo, hhi⟩ rfl (.inr ⟨rfl, rfl, by simp only [Limit.below]; omega⟩)

/-- Rounds that pay from gaps of at most as many units as there are rounds, and from enough of them, pay everything. -/
theorem rounds_pay {gap : Limit → Nat} {f : Nat → List Limit → Nat × List Limit}
    (hf : ∀ k (ms : List Limit), (∀ m ∈ ms, m.within) → PaysFrom gap k ms (f k ms))
    {n k : Nat} {ms : List Limit} (hms : ∀ m ∈ ms, m.within) (hgap : k = 0 ∨ ∀ m ∈ ms, gap m ≤ n) (hk : k ≤ (ms.map gap).sum) :
    (∀ m ∈ rounds f n k ms, Limit.within m) ∧ (rounds f n k ms).map Limit.key = ms.map Limit.key ∧
      k + ((rounds f n k ms).map gap).sum = (ms.map gap).sum := by
  induction n generalizing k ms with
  | zero =>
    have h0 : k = 0 := by
      obtain h | h := hgap
      · exact h
      · have hsum : (ms.map gap).sum = 0 := List.sum_eq_zero fun g hg => by
          obtain ⟨m, hm, rfl⟩ := List.mem_map.mp hg
          exact Nat.le_zero.mp (h m hm)
        omega
    exact ⟨hms, rfl, by simp only [rounds]; omega⟩
  | succ n ih =>
    unfold rounds
    split
    · exact ⟨hms, rfl, by omega⟩
    · obtain ⟨hwithin, hkeys, hleft, hpaid, hshrinks⟩ := hf k ms hms
      have hgap1 : (f k ms).1 = 0 ∨ ∀ m ∈ (f k ms).2, gap m ≤ n := hshrinks.imp_right fun h => h n (hgap.resolve_left ‹_›)
      obtain ⟨hw, hk1, hp⟩ := ih hwithin hgap1 (by omega)
      exact ⟨hw, hk1.trans hkeys, by simp only; omega⟩

/-- Limits within bounds are the lower bounds and the room below, or the upper bounds less the room above. -/
theorem sum_limits {ms : List Limit} (h : ∀ m ∈ ms, m.within) :
    (ms.map fun m => m.2.2.2).sum = (ms.map fun m => m.2.1).sum + (ms.map Limit.below).sum ∧
      (ms.map fun m => m.2.2.2).sum + (ms.map Limit.above).sum = (ms.map fun m => m.2.2.1).sum := by
  induction ms with
  | nil => exact ⟨rfl, rfl⟩
  | cons m ms ih =>
    obtain ⟨⟨hlo, hhi⟩, hms⟩ := List.forall_mem_cons.mp h
    obtain ⟨h1, h2⟩ := ih hms
    simp only [List.map_cons, List.sum_cons, Limit.below, Limit.above] at *
    omega

theorem insertMember_perm (m : BudgetMember) (ms : List BudgetMember) : (insertMember m ms).Perm (m :: ms) := by
  induction ms with
  | nil => exact .refl _
  | cons x xs ih =>
    unfold insertMember
    split
    · exact .refl _
    · exact (ih.cons x).trans (.swap m x xs)

theorem foldr_insertMember_perm (ms : List BudgetMember) : (ms.foldr insertMember []).Perm ms := by
  induction ms with
  | nil => exact .refl _
  | cons m ms ih => exact (insertMember_perm m _).trans (ih.cons m)

/-- Settles O52: the rounds of `joinLimits` pay off the difference between the first limits' sum and the total. -/
theorem joinLimitsSumToTheTotal : Obligations.JoinLimitsSumToTheTotal := by
  intro total ms hms hlower hupper lims
  rw [sumNat_eq_sum] at hlower hupper
  rw [sumNat_eq_sum]
  have hperm := foldr_insertMember_perm ms
  set sorted := ms.foldr insertMember []
  set first : List Limit := sorted.map fun m => (m.device, m.lower, m.upper, min m.upper (max m.lower (total / max 1 ms.length)))
  have hkeys : (first.map Limit.key).Perm (ms.map fun m => (m.device, m.lower, m.upper)) := by
    simpa only [first, List.map_map, Function.comp_def, Limit.key] using hperm.map fun m : BudgetMember => (m.device, m.lower, m.upper)
  have hwithin : ∀ m ∈ first, m.within ∧ m.2.2.1 ≤ m.2.1 + 3000 := by
    intro m hm
    obtain ⟨b, hb, rfl⟩ := List.mem_map.mp hm
    have hbound := hms b (hperm.mem_iff.mp hb)
    simp only [Limit.within]
    omega
  have hw : ∀ m ∈ first, m.within := fun m hm => (hwithin m hm).1
  have hlo : (first.map fun m => m.2.1).sum = (ms.map (·.lower)).sum := by
    simpa only [List.map_map, Function.comp_def, Limit.key] using (hkeys.map fun k : Nat × Nat × Nat => k.2.1).sum_eq
  have hhi : (first.map fun m => m.2.2.1).sum = (ms.map (·.upper)).sum := by
    simpa only [List.map_map, Function.comp_def, Limit.key] using (hkeys.map fun k : Nat × Nat × Nat => k.2.2).sum_eq
  obtain ⟨hbelow, habove⟩ := sum_limits hw
  have sums {out : List Limit} (ho : out.map Limit.key = first.map Limit.key) :
      (out.map fun m => m.2.1).sum = (first.map fun m => m.2.1).sum ∧ (out.map fun m => m.2.2.1).sum = (first.map fun m => m.2.2.1).sum := by
    have h1 := congrArg (fun l => (l.map fun k : Nat × Nat × Nat => k.2.1).sum) ho
    have h2 := congrArg (fun l => (l.map fun k : Nat × Nat × Nat => k.2.2).sum) ho
    simp only [List.map_map] at h1 h2
    exact ⟨h1, h2⟩
  have hgap : ∀ m ∈ first, m.above ≤ 3001 ∧ m.below ≤ 3001 := by
    intro m hm
    have := hwithin m hm
    simp only [Limit.within, Limit.above, Limit.below] at this ⊢
    omega
  show (lims.map fun m : Limit => m.2.2.2).sum = total ∧ (∀ m ∈ lims, Limit.within m) ∧ (lims.map Limit.key).Perm _
  have hl : lims = if (first.map fun m => m.2.2.2).sum < total then rounds raiseOnce 3001 (total - (first.map fun m => m.2.2.2).sum) first
      else rounds lowerOnce 3001 ((first.map fun m => m.2.2.2).sum - total) first := by
    simp only [lims, joinLimits, sumNat_eq_sum]
    rfl
  rw [hl]
  split
  · obtain ⟨h1, h2, h3⟩ := rounds_pay (gap := Limit.above) (n := 3001) (k := total - (first.map fun m => m.2.2.2).sum)
      (fun _ _ => raiseOnce_pays) hw (.inr fun m hm => (hgap m hm).1) (by omega)
    have := (sum_limits h1).2
    have := (sums h2).2
    exact ⟨by omega, h1, h2 ▸ hkeys⟩
  · obtain ⟨h1, h2, h3⟩ := rounds_pay (gap := Limit.below) (n := 3001) (k := (first.map fun m => m.2.2.2).sum - total)
      (fun _ _ => lowerOnce_pays) hw (.inr fun m hm => (hgap m hm).2) (by omega)
    have := (sum_limits h1).1
    have := (sums h2).1
    exact ⟨by omega, h1, h2 ▸ hkeys⟩

end Sys2Proof.Machine
end

section
/-! SUPPORT. Lots on request (R446), power policy, budgets, energy and the difference record (R386, R390, R394, R414): the settlements of
O50 and O51. -/

namespace Sys2Proof.Machine
open Sys2Proof

/-! ### Addresses made of their parts -/

theorem addrOffset_mkAddr {dev sp off : Nat} (h : off < 2 ^ 48) : addrOffset (mkAddr dev sp off) = off := by
  simp only [addrOffset, mkAddr, Nat.shiftLeft_eq]
  omega

theorem addrSpace_mkAddr {dev sp off : Nat} (hs : sp < 4) (h : off < 2 ^ 48) : addrSpace (mkAddr dev sp off) = sp := by
  simp only [addrSpace, bits, mkAddr, Nat.shiftLeft_eq, Nat.shiftRight_eq_div_pow]
  omega

theorem addrDevice_mkAddr {dev sp off : Nat} (hd : dev < 2 ^ 13) (hs : sp < 4) (h : off < 2 ^ 48) : addrDevice (mkAddr dev sp off) = dev := by
  simp only [addrDevice, bits, mkAddr, Nat.shiftLeft_eq, Nat.shiftRight_eq_div_pow]
  omega

theorem bit63_mkAddr {dev sp off : Nat} (hd : dev < 2 ^ 13) (hs : sp < 4) (h : off < 2 ^ 48) : bit (mkAddr dev sp off) 63 = false := by
  refine Nat.testBit_lt_two_pow ?_
  simp only [mkAddr, Nat.shiftLeft_eq]
  omega

theorem isOwn_mkAddr {s : State} {sp off : Nat} (hd : s.deviceId < 2 ^ 13) (hs : sp < 4) (h : off < 2 ^ 48) :
    s.isOwn (mkAddr s.deviceId sp off) = true := by
  simp [State.isOwn, addrDevice_mkAddr hd hs h]

/-! ### Lots -/

/-- Settles O50, case by case of LOT_ALLOC and LOT_FREE. -/
theorem lotsOnRequest : Obligations.LotsOnRequest := by
  intro s c x hj hx hmode u
  have hmay : x.mayAlloc = true := by simpa [Job.mayAlloc, or_assoc] using hmode
  have job (op : Nat) (f : Job → State → State) : jobCommand c op Job.mayAlloc f (u op) = f x (u op) :=
    jobCommand_some hj (by rw [journalled_job?]; exact hx) hmay
  have hdev (op : Nat) : (u op).deviceId = s.deviceId := by
    obtain ⟨h, e⟩ := journalled_eq c op s
    simp only [u, e]
    rfl
  have lotsOf (op : Nat) : (u op).memdev = s.memdev := by
    obtain ⟨h, e⟩ := journalled_eq c op s
    simp only [u, e]
  have ok {op : Nat} (hp : s.performs c op) : cmdOk c = true := hp.2.1
  have bounded {op k m : Nat} (hp : s.performs c op) (h : k < 2 ^ 32 ∧ m < 2 ^ 32) :
      (cmdOk c && decide (k < 2 ^ 32) && decide (m < 2 ^ 32)) = true := by
    simp only [ok hp, h, decide_true, Bool.and_self]
  refine ⟨fun mib l t hp h0 hm ha => performs_next hp (bounded hp (by omega)) ?brine,
    fun mib l t hp h0 hm ha => performs_next hp (bounded hp (by omega)) ?cellar,
    fun kind mib hp hk hm h2 h3 => performs_next hp (bounded hp (by omega)) ?kind,
    fun l e hp hl hd he hej => performs_next hp ?bound1 ?freeBrine,
    fun base l hp hb hd hl hx => performs_next hp ?bound2 ?freeCellar⟩
  case brine =>
    rw [lotAlloc, if_neg (by simp), if_neg (by omega), job, if_pos rfl, ha]
    simp only [← Nat.not_lt, ite_not, finishWith, lotAddr, hdev]
  case cellar =>
    rw [lotAlloc, if_neg (by simp), if_neg (by omega), job, if_neg (by simp), ha]
    simp only [← Nat.not_lt, ite_not, finishWith, hdev]
  case kind =>
    rw [lotAlloc, if_pos (by simp [h2, h3])]
    rfl
  case bound1 =>
    have : mkAddr s.deviceId 1 (l * 2 ^ 36) < 2 ^ 64 := by
      simp only [mkAddr, Nat.shiftLeft_eq]
      omega
    simp only [ok hp, this, decide_true, Bool.and_self]
  case bound2 =>
    have : mkAddr s.deviceId 2 base < 2 ^ 64 := by
      simp only [mkAddr, Nat.shiftLeft_eq]
      omega
    simp only [ok hp, this, decide_true, Bool.and_self]
  case freeBrine =>
    have hoff : l * 2 ^ 36 < 2 ^ 48 := by omega
    have hlot : (u 0x09).lot? l = some e := by rw [← he]; simp only [State.lot?, lotsOf]
    have hown : (u 0x09).isOwn (mkAddr s.deviceId 1 (l * 2 ^ 36)) = true := by
      rw [← isOwn_mkAddr (sp := 1) hd (by omega) hoff]
      simp only [State.isOwn, hdev]
    have hfar : bit (l * 2 ^ 36) 47 = false := Nat.testBit_lt_two_pow (by omega)
    rw [lotFree, job, addrOffset_mkAddr hoff, addrSpace_mkAddr (by omega) hoff, bit63_mkAddr hd (by omega) hoff, hown]
    dsimp only
    rw [hfar, if_neg (by simp), if_pos (by simp), Nat.mul_div_cancel _ (by positivity), freeBrineLot, hlot]
    by_cases hl : l ∈ s.memdev.allocated
    · simp only [hej, ne_eq, not_true, if_false, lotsOf, List.contains_iff_mem.mpr hl, Bool.not_true, Bool.false_eq_true, if_pos hl]
      rfl
    · have hc : s.memdev.allocated.contains l = false := by simpa using hl
      simp only [hej, ne_eq, not_true, if_false, lotsOf, hc, Bool.not_false, if_true, if_neg hl]
      rfl
  case freeCellar =>
    have hown : (u 0x09).isOwn (mkAddr s.deviceId 2 base) = true := by
      rw [← isOwn_mkAddr (sp := 2) hd (by omega) hb]
      simp only [State.isOwn, hdev]
    rw [lotFree, job, addrOffset_mkAddr hb, addrSpace_mkAddr (by omega) hb, bit63_mkAddr hd (by omega) hb, hown, if_neg (by simp),
      if_neg (by simp), if_pos rfl, freeCellarLot, lotsOf, hl]
    simp only [List.contains_iff_mem, hx, if_false]
    rfl

/-! ### Power policy, budgets, energy and the difference record -/

/-- A buffer of the host takes what fits. -/
theorem toHost_good {c : Cmd} {op off : Nat} {buf : HostBuf} {bs : List Byte} (s : State) (ha : buf.addr % 64 = 0) (hc : buf.cause = 0) :
    toHost c op off buf bs s = if buf.len < bs.length then finish c op Status.bufferShort bs.length [] s
      else finish c op 0 bs.length [] { s with hostMem := writeBytes s.hostMem buf.addr bs } := by
  simp [toHost, ha, hc]

theorem jobCommand_none {c : Cmd} {op : Nat} {allowed : Job → Bool} {f : Job → State → State} {s : State}
    (h : c.job = 255 ∨ s.job? c.job = none) : jobCommand c op allowed f s = finishWith c op Status.badState s := by
  have hnone : (if c.job < 16 then s.job? c.job else none) = none := by
    obtain h | h := h
    · exact if_neg (by omega)
    · rw [h, ite_self]
  rw [jobCommand, hnone]

/-- A join whose buffer and members are as R390 and R439 require comes to the question of membership. -/
theorem budgetJoin_good {c : Cmd} {group total keeper : Nat} {buf : HostBuf} {ms : List BudgetMember} {s : State} (hf : bit c.flags 0 = false)
    (hg : group < 65536) (hk : keeper < 8192) (h2 : 2 ≤ ms.length) (h3 : ms.length < 8192) (hl : buf.len = ms.length)
    (ha : buf.addr % 64 = 0) (hc : buf.cause = 0) (hm : s.membersOk ms = true) (hlo : sumNat (ms.map (·.lower)) ≤ total)
    (hhi : total ≤ sumNat (ms.map (·.upper))) (hkm : ∃ m ∈ ms, m.device = keeper) :
    budgetJoin c group total keeper buf ms s =
      if s.power.budget.joined && !(s.power.budget.group == group && s.power.budget.keeperId != keeper) then
        finishWith c 0x0B Status.budgetMember s
      else finishWith c 0x0B 0
        (let lims := joinLimits total ms
         let own := limitOf lims s.deviceId
         let s1 := s.modPower fun p => { p with budget :=
           { p.budget with
             joined := true, keeper := keeper == s.deviceId, keeperId := keeper, group := group, total := total
             members := if keeper == s.deviceId then lims else [], reports := [], lower := own.1, upper := own.2.1, slack := 0, idle := 0 } }
         if keeper == s.deviceId then sendLimits lims s1 else s1) := by
  have hlen : (decide (buf.len < 2) || decide (8191 < buf.len)) = false := by
    rw [decide_eq_false (by omega), decide_eq_false (by omega)]
    rfl
  have hbounds : (decide (total < sumNat (ms.map (·.lower))) || decide (sumNat (ms.map (·.upper)) < total)) = false := by
    simp only [Bool.or_eq_false_iff, decide_eq_false_iff_not]
    omega
  have hkeeper : (ms.any fun m => m.device == keeper) = true := by simpa using hkm
  rw [budgetJoin, if_neg (by simp [hf]), if_neg (by omega), if_neg (by omega), if_neg (by simp only [hlen, Bool.false_eq_true, not_false_iff]), if_neg (by omega), if_neg (by omega),
    if_neg (by simp [hm, hbounds]), if_neg (by simp [hkeeper]), if_neg (by simp [hm])]

/-- Settles O51, command by command. -/
theorem policyBudgetEnergyAndAssay : Obligations.PolicyBudgetEnergyAndAssay := by
  intro s c u
  have ok {op : Nat} (hp : s.performs c op) : cmdOk c = true := hp.2.1
  have bounds3 {op a b d : Nat} (hp : s.performs c op) (h : a < 2 ^ 32 ∧ b < 2 ^ 32 ∧ d < 2 ^ 32) :
      (cmdOk c && decide (a < 2 ^ 32) && decide (b < 2 ^ 32) && decide (d < 2 ^ 32)) = true := by
    simp only [ok hp, h, decide_true, Bool.and_self]
  refine ⟨fun limit window grade hp h1 h2 h3 h4 h5 => performs_next hp (bounds3 hp (by omega)) ?policy,
    fun limit window grade hp h hl hw hg => performs_next hp (bounds3 hp (by omega)) ?range,
    fun group total keeper buf ms hp hf hg hk ht h2 h3 hl ha hc hm hlo hhi hkm => ?join,
    fun group total keeper buf ms hp hf hg ht hk hl hb hj => performs_next hp ?bounds ?leave,
    fun x hp hj hx => performs_next hp (ok hp) ?energy, fun hp h => performs_next hp (ok hp) ?noJob, ?report⟩
  case policy =>
    obtain ⟨H, hu⟩ := journalled_eq c 0x0A s
    simp only [u, hu]
    rw [powerPolicy, if_neg (by omega), if_neg (by omega), if_neg (by omega)]
    rfl
  case range =>
    rw [powerPolicy, if_pos h]
    rfl
  case join =>
    have hok : (cmdOk c && decide (group < 2 ^ 32) && decide (total < 2 ^ 32) && decide (keeper < 2 ^ 32) && decide (buf.len < 2 ^ 32) &&
        (ms.length == buf.len || decide (buf.len < 2) || decide (8191 < buf.len))) = true := by
      rw [bounds3 hp (by omega), decide_eq_true (by omega : buf.len < 2 ^ 32), hl, beq_self_eq_true]
      rfl
    obtain ⟨H, hu⟩ := journalled_eq c 0x0B s
    have hgood := budgetJoin_good (c := c) (s := { s with hif := H }) hf hg hk h2 h3 hl ha hc hm hlo hhi hkm
    simp only [u, hu]
    refine ⟨fun hj h => performs_next hp hok ?_, fun h => performs_next hp hok ?_⟩
    · rw [hu, hgood, if_pos (by simpa [hj, -not_and, not_and_or] using h)]
      rfl
    · rw [hu, hgood, if_neg ?_]
      · simp only [beq_iff_eq]
        rfl
      · obtain h | ⟨h, h'⟩ := h
        · simp [h]
        · simp [h, h']
  case bounds =>
    simp only [ok hp, Bool.true_and, Bool.and_eq_true, Bool.or_eq_true, decide_eq_true_eq, beq_iff_eq]
    omega
  case leave =>
    obtain ⟨H, hu⟩ := journalled_eq c 0x0B s
    simp only [u, hu]
    rw [budgetJoin, if_pos hf]
    simp only [State.modPower, leaveBudget, hj, if_true]
    rfl
  case energy => rw [energyQuery, jobCommand_some hj (by rw [journalled_job?]; exact hx) rfl]
  case noJob => exact jobCommand_none (by rw [journalled_job?]; exact h)
  case report =>
    intro buf hp ha hc bs
    refine performs_next hp (ok hp) ?_
    obtain ⟨H, hu⟩ := journalled_eq c 0x10 s
    simp only [u, hu]
    exact toHost_good _ ha hc

end Sys2Proof.Machine
end

section
/-! SUPPORT. Aliases, firmware updates and attestation (R290, R479, R482), gauges (R458 to R465): the settlements of O53 and O57. -/

namespace Sys2Proof.Machine
open Sys2Proof

/-! ### Aliases, updates, attestation -/

theorem sha3_512_length_le (m : List Byte) : (sha3_512 m).length ≤ 64 := by
  have h : (List.map List.length (((sponge 72 0x06 m).take 8).map fun v => leBytes v 8)).sum = 8 * ((sponge 72 0x06 m).take 8).length := by
    simp [Function.comp_def, Nat.mul_comm]
  have := List.length_take_le 8 (sponge 72 0x06 m)
  rw [sha3_512, List.length_flatten, h]
  omega

theorem measurement_length_le (s : State) (i : Nat) : (s.measurement i).length ≤ 64 := by
  unfold State.measurement
  split
  · exact sha3_512_length_le _
  · split
    · exact sha3_512_length_le _
    · split
      · exact sha3_512_length_le _
      · rw [leBytes_length]

theorem attestation_length_le (s : State) (nonce : Nat) : (s.attestation nonce).length ≤ 448 := by
  have h := fun i => measurement_length_le s i
  have h1 := h 1; have h2 := h 2; have h3 := h 3; have h4 := h 4; have h5 := h 5
  simp only [State.attestation, List.length_append, leBytes_length, List.length_replicate, List.range_succ, List.range_zero, List.nil_append,
    List.map_append, List.map_cons, List.map_nil, List.flatten_append, List.flatten_cons, List.flatten_nil, List.length_nil,
    Nat.reduceAdd]
  omega

/-- Settles O53, command by command. -/
theorem aliasesUpdatesAndAttestation : Obligations.AliasesUpdatesAndAttestation := by
  intro s c buf ha hc u
  have ok {op : Nat} (hp : s.performs c op) : cmdOk c = true := hp.2.1
  refine ⟨fun table hp hl hw hok => performs_next hp ?bounds1 ?aliases, fun table w hp hl hw hm hok => performs_next hp ?bounds2 ?bad,
    fun im hp hl hb => ?update, fun nonce hp hn => ?attest⟩
  case bounds1 => simpa [ok hp] using hw
  case bounds2 => simpa [ok hp] using hw
  case aliases =>
    obtain ⟨H, hu⟩ := journalled_eq c 0x11 s
    have hok' : table.all (u 0x11).aliasOk = true := by rw [← hok, show u 0x11 = _ from hu]; rfl
    rw [aliasSet, if_neg (by omega), if_neg (by omega), if_neg (by simp [hc]), if_neg (by simpa using hok')]
    rfl
  case bad =>
    obtain ⟨H, hu⟩ := journalled_eq c 0x11 s
    have hbad : table.all (u 0x11).aliasOk = false := by
      have hw' : (u 0x11).aliasOk w = false := by rw [← hok, show u 0x11 = _ from hu]; rfl
      exact List.all_eq_false.mpr ⟨w, hm, by simp [hw']⟩
    rw [aliasSet, if_neg (by omega), if_neg (by omega), if_neg (by simp [hc]), if_pos (by simpa using hbad)]
    rfl
  case update =>
    intro good
    have hok : (cmdOk c && decide (buf.len < 2 ^ 64)) = true := by rw [ok hp, decide_eq_true (by omega)]; rfl
    obtain ⟨H, hu⟩ := journalled_eq c 0x12 s
    have hcond : good ↔ ¬((!s.sec.service || !s.eligible im || decide (im.bodyDigest ≠ im.headDigest)) = true) := by
      simp [good, and_assoc]
    have common : fwUpdate c buf im (u 0x12) = if !s.sec.service || !s.eligible im || im.bodyDigest ≠ im.headDigest then
        finishWith c 0x12 Status.auth (u 0x12)
      else
        let k := match s.sec.running with | some r => 1 - r | none => 0
        finish c 0x12 0 k [] ((u 0x12).modSec fun q => if k = 0 then { q with slot0 := some im } else { q with slot1 := some im }) := by
      rw [fwUpdate, if_neg (by omega), if_neg (by omega), if_neg (by simp [hb]), if_neg (by omega)]
      simp only [u, hu]
      rfl
    refine ⟨fun hg hr => performs_next hp hok ?_, fun hg hr => performs_next hp hok ?_, fun hg => performs_next hp hok ?_⟩
    · rw [common, if_neg (hcond.mp hg), hr]
      simp only [u, hu]
      rfl
    · rw [common, if_neg (hcond.mp hg), hr]
      simp only [u, hu]
      rfl
    · rw [common, if_pos (not_not.mp (mt hcond.mpr hg))]
      rfl
  case attest =>
    have hok : (cmdOk c && decide (nonce < 2 ^ 256)) = true := by rw [ok hp, decide_eq_true hn]; rfl
    obtain ⟨H, hu⟩ := journalled_eq c 0x13 s
    refine ⟨fun hl => performs_next hp hok ?_, fun hl he => performs_next hp hok ?_, fun hl he hs => ?_⟩
    · rw [attest, if_neg (by omega), if_pos hl]
    · rw [attest, if_neg (by omega), if_neg (by omega), if_pos (by simp [hu, he])]
      rfl
    · intro bs
      refine performs_next hp hok ?_
      have hlen : bs.length ≤ 50304 := by
        have := attestation_length_le s nonce
        rw [List.length_append, leBytes_length]
        omega
      have hsame : ({ s with hif := H } : State).attestation nonce = s.attestation nonce := rfl
      rw [attest, if_neg (by omega), if_neg (by omega), hu, if_neg (by simp [he, hs]), hsame, toHost_good _ ha hc,
        if_neg (Nat.not_lt.mpr (hlen.trans hl))]
      simp only [u, hu]
      rfl

/-! ### Gauges -/

/-- A value in a window that is open counts there. -/
theorem countValue_counted {i : Nat} {v : Int} {t : Nat} {s : State} (hb : (s.gauge i).began ≤ t) (hs : (s.gauge i).since ≤ t)
    (hw : s.now ≤ (t / (s.gauge i).desc.windowNs + 1) * (s.gauge i).desc.windowNs + 10000) :
    countValue i v t s = s.modGauge i fun g =>
      { g with opens := put (t / (s.gauge i).desc.windowNs) (addValue g.desc v t (g.window (t / (s.gauge i).desc.windowNs))) g.opens } := by
  rw [countValue, if_neg (by omega), if_neg (by simp only [Bool.or_eq_true, decide_eq_true_eq]; omega)]

theorem countValue_late {i : Nat} {v : Int} {t : Nat} {s : State} (hb : (s.gauge i).began ≤ t)
    (h : t < (s.gauge i).since ∨ (t / (s.gauge i).desc.windowNs + 1) * (s.gauge i).desc.windowNs + 10000 < s.now) :
    countValue i v t s = s.modFaults fun f => { f with late := satCount f.late 1 } := by
  rw [countValue, if_neg (by omega), if_pos (by simpa using h)]

theorem countValue_before {i : Nat} {v : Int} {t : Nat} {s : State} (h : t < (s.gauge i).began) : countValue i v t s = s := by
  rw [countValue, if_pos h]

theorem gaugeEvent_latency {s : State} {i : Nat} {v : Int} (t : Nat) (he : (s.gauge i).enabled = true)
    (h1 : 1 ≤ (s.gauge i).desc.source) (h5 : (s.gauge i).desc.source ≤ 5) :
    gaugeEvent i v t s = countValue i v t s :=
  if_pos (by simp [latencySource, he, h1, h5])

theorem gaugeEvent_off {s : State} {i : Nat} {v : Int} {t : Nat} (he : (s.gauge i).enabled = false) :
    gaugeEvent i v t s = s :=
  if_neg (by simp [he])

theorem levelSample_due {s : State} {i : Nat} {v : Int} (he : (s.gauge i).enabled = true)
    (hl : levelMin (s.gauge i).desc.source ≠ none) (hm : s.measurable (s.gauge i).desc = true)
    (ht : s.now % (s.gauge i).desc.sampleNs = 0) :
    levelSample i v s = countValue i (s.levelValue (s.gauge i).desc v) s.now s :=
  if_pos (by simp [he, hm, ht, Option.isSome_iff_ne_none, hl])

theorem levelSample_idle {s : State} {i : Nat} {v : Int} (ht : s.now % (s.gauge i).desc.sampleNs ≠ 0) :
    levelSample i v s = s :=
  if_neg (by simp [ht])

theorem windowClose_due {s : State} {i : Nat} (he : (s.gauge i).enabled = true)
    (h : ((s.gauge i).since / (s.gauge i).desc.windowNs + 1) * (s.gauge i).desc.windowNs + 10000 ≤ s.now) :
    windowClose i s = closeWindow i ((s.gauge i).since / (s.gauge i).desc.windowNs) s :=
  if_pos (by simp [he, h])

theorem windowClose_open {s : State} {i : Nat}
    (h : s.now < ((s.gauge i).since / (s.gauge i).desc.windowNs + 1) * (s.gauge i).desc.windowNs + 10000) :
    windowClose i s = s :=
  if_neg (by simp [h])

/-- Settles O57, command by command. -/
theorem gaugesMeasure : Obligations.GaugesMeasure := by
  intro s c i hi g u
  have ok {op : Nat} (hp : s.performs c op) : cmdOk c = true := hp.2.1
  have hok {op : Nat} (hp : s.performs c op) : (cmdOk c && decide (i < 2 ^ 32)) = true := by
    rw [ok hp, decide_eq_true (by omega)]
    rfl
  refine ⟨fun buf d hp ha hl hc hd => performs_next hp (hok hp) ?config, fun buf d hp ha hl hc hd => performs_next hp (hok hp) ?bad, ?read,
    fun v t hp hv hv' ht => ?event, fun v hp hv hv' he hm hmeas hb hs => ?level, fun hp he => ?close⟩
  case config =>
    obtain ⟨H, hu⟩ := journalled_eq c 0x0D s
    rw [gaugeConfig, if_neg (by omega), if_neg (by omega), if_neg (by omega), if_neg (by omega), if_neg (by simp [hd])]
    simp only [u, hu]
    rfl
  case bad =>
    rw [gaugeConfig, if_neg (by omega), if_neg (by omega), if_neg (by omega), if_neg (by omega), if_pos (by simp [hd])]
    rfl
  case read =>
    intro buf hp ha hc hl bs hbs
    refine performs_next hp (hok hp) ?_
    obtain ⟨H, hu⟩ := journalled_eq c 0x0E s
    have hread : gaugeRead c i buf (u 0x0E) = toHost c 0x0E 0x18 buf bs (u 0x0E) := by
      rw [gaugeRead, if_neg (by omega), if_neg (by omega), if_neg (by omega)]
      simp only [u, hu]
      rfl
    rw [hread, toHost_good _ ha hc, if_neg (Nat.not_lt.mpr hbs)]
    simp only [u, hu]
  case event =>
    have hok : (decide (i < 64) && decide (-(2 ^ 63) ≤ v) && decide (v < 2 ^ 63) && decide (t < 2 ^ 64)) = true := by
      simp only [hi, hv, hv', ht, decide_true, Bool.and_self]
    refine ⟨?_, fun he h1 h5 hb h => eq_next hok hp ?_, fun h => eq_next hok hp ?_⟩
    · intro he h1 h5 hb hs k hw
      refine ex_next hok hp ?_
      rw [gaugeEvent_latency t he h1 h5, countValue_counted hb hs hw]
      exact onlyGauge_modGauge s i _
    · rw [gaugeEvent_latency t he h1 h5, countValue_late hb h]
      rfl
    · rcases h with h | h
      · exact gaugeEvent_off h
      · rw [gaugeEvent, countValue_before h, ite_self]
  case level =>
    have hok : (decide (i < 64) && decide (-(2 ^ 63) ≤ v) && decide (v < 2 ^ 63)) = true := by
      simp only [hi, hv, hv', decide_true, Bool.and_self]
    intro k hw
    refine ⟨fun ht => ex_next hok hp ?_, fun ht => eq_next hok hp ?_⟩
    · rw [levelSample_due he hm hmeas ht, countValue_counted hb hs hw]
      exact onlyGauge_modGauge s i _
    · exact levelSample_idle ht
  case close =>
    have hok : decide (i < 64) = true := decide_eq_true hi
    intro k w x
    refine ⟨fun h => eq_next hok hp ?_, fun h hl hh => ex_next hok hp ?_, fun h hlh => ex_next hok hp ?_⟩
    · exact windowClose_open h
    · rw [windowClose_due he h, closeWindow, if_neg (by simp [w, k, g] at hl hh; simp [hl, hh])]
      exact onlyGauge_modGauge s i _
    · rw [windowClose_due he h, closeWindow, if_pos (by simp [w, k, g] at hlh; simpa using hlh)]
      obtain ⟨-, hsame, hother⟩ := onlyGauge_modGauge s i fun _ => x
      exact ⟨hsame, hother, rfl⟩

end Sys2Proof.Machine
end

section
/-! PROOF. The fault log, device-fatal records and the Hakar cores (R447, R449, R453, R454, R463, R467). -/

namespace Sys2Proof.Machine
open Sys2Proof

theorem modFaults_of_eq {s : State} {f : Faults → Faults} (h : f s.faults = s.faults) : s.modFaults f = s := by
  rw [State.modFaults, h]

/-- A record that no older one has to make room for. -/
theorem mirror_room {r : FaultRec} {s : State} (h : s.faults.log.length < 8192) :
    mirror r s = foldState (recordVectors r) (fun t v => faultSignal v t) { s with faults := { s.faults with
      log := ({ seq := s.faults.next, record := r } :: s.faults.log).take 8192, next := s.faults.next + 1
      classes := bump s.faults.classes (r.cls % 8) 1, lost := satCount s.faults.lost 0 } } := by
  simp only [mirror, if_neg (Nat.not_le.mpr h)]
  rfl

theorem logRecord_coalesced {r : FaultRec} {s : State} {e : LogRec} {es : List LogRec} (hl : s.faults.log = e :: es) (h : coalesces r e =
    true) :
    logRecord r s = s.modFaults (coalesce r) := by
  simp only [logRecord, hl, h, if_true]

theorem logRecord_new {r : FaultRec} {s : State} (h : s.faults.log = [] ∨ ∃ e es, s.faults.log = e :: es ∧ coalesces r e = false) :
    logRecord r s = mirror r s := by
  rcases h with h | ⟨e, es, h, hc⟩
  · simp only [logRecord, h]
  · simp [logRecord, h, hc]

theorem faultMirror_cons {s : State} {r : FaultRec} {rest : List FaultRec} (hc : s.hif.coreRuns = true) (hu : s.faults.unmirrored = r ::
    rest)
    (hcls : r.cls < 7) : faultMirror s = logRecord r (s.modFaults fun f => { f with unmirrored := rest }) := by
  simp only [faultMirror, hc, if_true, hu, mirrorRecord, if_neg (Nat.ne_of_lt hcls)]

theorem faultMirror_nil {s : State} (h : s.hif.coreRuns = false ∨ s.faults.unmirrored = []) : faultMirror s = s := by
  have : (if s.hif.coreRuns then s.faults.unmirrored else []) = [] := by
    rcases h with h | h <;> simp [h]
  simp only [faultMirror, this]

/-- Settles O58. -/
theorem faultLogAndCores : Obligations.FaultLogAndCores := by
  intro s hp
  refine ⟨fun r rest e es hc hu hcls hl hco => eq_next rfl hp ?coalesced, fun r rest hc hu hcls hl => eq_next rfl hp ?mirrored,
    fun h => eq_next rfl hp (faultMirror_nil h), fun r hcls ht hcd huc hui ha hd hj hc hu hr => eq_next ?_ hp ?fatal, ?read,
    fun hc => eq_next rfl hp (if_pos hc), fun hc => eq_next rfl hp (if_neg (by simp [hc])), fun hc h => eq_next rfl hp
      (if_pos (by simp [h])),
    fun n rest hc h hst hoff => eq_next rfl hp ?takeover, fun hc h hst hf => eq_next rfl hp ?last,
    fun v hv => eq_next (decide_eq_true hv) hp rfl, eq_next rfl hp rfl, rfl⟩
  case coalesced =>
    rw [faultMirror_cons hc hu hcls]
    have hl' : (s.modFaults fun f => { f with unmirrored := rest }).faults.log = e :: es := hl
    rw [logRecord_coalesced hl' hco]
    simp only [State.modFaults, coalesce, hl]
  case mirrored =>
    have hnew : s.faults.log = [] ∨ ∃ e es, s.faults.log = e :: es ∧ coalesces r e = false :=
      hl.imp id fun ⟨e, es, he, hco, _⟩ => ⟨e, es, he, hco⟩
    have hroom : s.faults.log.length < 8192 := by
      rcases hl with hl | ⟨-, -, -, -, hlen⟩
      · simp [hl]
      · exact hlen
    rw [faultMirror_cons hc hu hcls]
    exact (logRecord_new (s := s.modFaults fun f => { f with unmirrored := rest }) hnew).trans (mirror_room hroom)
  case fatal =>
    rw [deviceFatal, if_neg (by simp [hc])]
    have hfind : (s.faults.unmirrored ++ s.faults.reports).find? (sameFault r) = none := by simp [hu, hr]
    have hnu : ∀ x, x ∉ s.faults.unmirrored := fun x => hu.symm ▸ List.not_mem_nil
    have hnr : ∀ x, x ∉ s.faults.reports := fun x => hr.symm ▸ List.not_mem_nil
    have herase : ∀ x, (s.modFaults fun f => { f with unmirrored := f.unmirrored.erase x, reports := f.reports.erase x }) = s := fun x =>
      modFaults_of_eq (by rw [List.erase_of_not_mem (hnu x), List.erase_of_not_mem (hnr x)])
    simp only [hfind, Option.getD_none, herase, mirrorRecord]
    exact if_pos hcls
  case read => 
    intro c fromSeq buf max hpf hf hm ha hcau rs v
    have hok : (cmdOk c && decide (fromSeq < 2 ^ 64) && decide (max < 2 ^ 32)) = true := by
      simp only [hpf.2.1, hf, hm, decide_true, Bool.and_self]
    obtain ⟨H, hu⟩ := journalled_eq c 0x0F s
    have hv : faultRead c fromSeq buf max (journalled c 0x0F s) =
      match (rs.filter fun e => e.record.type != 0x1F).getLast? with
      | some e =>
        finish c 0x0F 0 rs.length (words64 (e.seq + 1)) { v with faults := { s.faults with readTo := Nat.max s.faults.readTo e.seq } }
      | none => finish c 0x0F 0 rs.length (words64 (Config.freeValue s.draws % 2 ^ 64)) { v with draws := s.draws + 1 } := by
      rw [faultRead, if_neg (by omega), if_neg (by omega)]
      simp only [v, hu]
      rfl
    cases hlast : (rs.filter fun e => e.record.type != 0x1F).getLast? with
    | some e => exact ⟨e.seq + 1, _, performs_next hpf hok (by rw [hv, hlast]), rfl, rfl⟩
    | none => exact ⟨_, _, performs_next hpf hok (by rw [hv, hlast]), rfl⟩
  case takeover =>
    simp only [coreTakeover, hst, rewriteEntries, postTakeover, HostIf.room, hc, hoff, State.modHif, Nat.not_lt.mpr h, decide_false,
      Bool.false_and,
      Bool.not_true, Bool.or_self, Bool.false_eq_true, if_false]
    rfl
  case last =>
    rw [coreTakeover, if_neg (by simp [hc, h])]
    split
    · next heq => simp [hst] at heq
    · exact if_pos (Option.isSome_iff_ne_none.mpr hf)
  simp only [hcls, ht, hcd, huc, hui, ha, hd, hj, decide_true, beq_self_eq_true, Bool.and_self]

end Sys2Proof.Machine
end

section
/-! PROOF. The frequency ladder (R360 to R363), and the power limit, budgets and energy (R373, R386 to R394). -/

namespace Sys2Proof.Machine
open Sys2Proof

/-! ### Grade changes -/

/-- Giving every region of the device the same change. -/
theorem look_updAll {α : Type} (d : α) (f : α → α) (m : Sparse α) (n r : Nat) :
    look d ((List.range n).foldl (fun m i => upd d i f m) m) r = if r < n then f (look d m r) else look d m r := by
  induction n with
  | zero => rfl
  | succ n ih =>
    rw [List.range_succ, List.foldl_append, List.foldl_cons, List.foldl_nil]
    rcases eq_or_ne r n with rfl | hne
    · rw [look_upd_same, ih, if_neg (lt_irrefl r), if_pos (Nat.lt_succ_self r)]
    · rw [look_upd_other d hne, ih]
      exact if_congr (by omega) rfl rfl

theorem gradeRequest_idle {g : Nat} {s : State} (h : s.clock.pending = none) :
    gradeRequest g s = if g = s.clock.grade then s else if s.clock.grade < g then slowWakes (s.modClock (schedule g s.now)) else
      s.modClock (schedule g s.now) := by
  simp only [gradeRequest, h]

theorem gradeRequest_busy {g p : Nat} {s : State} (h : s.clock.pending = some p) :
    gradeRequest g s = if p < g then slowWakes (s.modClock fun c => { c with held := if g = p then none else some g })
      else s.modClock fun c => { c with held := if g = p then none else some g } := by
  simp only [gradeRequest, h]

/-- Slowing the wakes changes the field supplies and their count alone. -/
theorem slowWakes_eq (s : State) : ∃ fs n, slowWakes s = { s with fields := fs, power := { s.power with slowWakes := n } } := ⟨_, _, rfl⟩

/-- Every region at one grade. -/
def gradeAll (g : Nat) (m : Sparse Region) : Sparse Region :=
  (List.range 108).foldl (fun m r => upd {} r (fun (q : Region) => { q with grade := g }) m) m

theorem look_gradeAll (g : Nat) (m : Sparse Region) {r : Nat} (hr : r < 108) : look {} (gradeAll g m) r = { look {} m r with grade := g
    } := by
  rw [gradeAll, look_updAll, if_pos hr]

/-- A change whose slot has come: the clock, with the held request scheduled from that slot, and the grade of every region. -/
theorem gradeChange_lands {s : State} {g : Nat} (hn : s.clock.pending = some g) (hs : s.clock.slot ≤ s.clock.tide) :
    gradeChange s =
      let c := s.clock
      let landed : Clock := { c with grade := g, pending := none, held := none, landed := some (c.slot, decide (c.grade < g))
                                     landings := (c.slot, c.grade) :: c.landings.filter fun e => decide (c.tide < e.1 + 2000000)
                                     changes := satCount c.changes 1 }
      { s with
        clock := match c.held with | some h => if h = g then landed else schedule h c.slot landed | none => landed
        regions := gradeAll g s.regions } := by
  simp only [gradeChange, hn]
  exact if_neg (Nat.not_lt.mpr hs)

theorem vcoreRise_due {s : State} {g : Nat} (hn : s.clock.pending = some g) (hv : s.clock.vcore < g) (hg : s.clock.grade < g)
    (hs : s.clock.slot ≤ s.clock.tide + 40000) : vcoreRise s = s.modClock fun c => { c with vcore := g } := by
  simp only [vcoreRise, hn, State.now, hv, hg, hs, decide_true, Bool.and_self, if_true]

theorem vcoreFall_due {s : State} {t : Nat} (hl : s.clock.landed = some (t, false)) (ht : t + 4096 ≤ s.clock.tide)
    (hv : s.clock.grade < s.clock.vcore) : vcoreFall s = s.modClock fun c => { c with vcore := c.grade } := by
  simp only [vcoreFall, hl, State.now, ht, hv, decide_true, Bool.and_self, if_true]

/-- Settles O39. -/
theorem gradeChangesLand : Obligations.GradeChangesLand := by
  intro s hp
  dsimp only
  refine ⟨fun g hg hn hlt => ex_next (decide_eq_true hg) hp ?_, fun g hg hn hlt => ex_next (decide_eq_true hg) hp ?_,
    fun g hg hn he => eq_next (decide_eq_true hg) hp ?_, fun g p hg hn => ex_next (decide_eq_true hg) hp ?_,
    fun g hn hs hh => ex_next rfl hp ?_, fun g h hn hs hh hlt => ex_next rfl hp ?_, fun g hn hs => eq_next rfl hp ?_,
    fun g hn hv hg hs => ex_next rfl hp ?_, fun t0 hl ht hv => ex_next rfl hp ?_⟩
  · rw [gradeRequest_idle hn, if_neg (Nat.ne_of_lt hlt), if_neg (Nat.not_lt.mpr hlt.le)]
    rfl
  · rw [gradeRequest_idle hn, if_neg (Nat.ne_of_gt hlt), if_pos hlt]
    exact ⟨rfl, rfl⟩
  · rw [gradeRequest_idle hn, if_pos he]
  · rw [gradeRequest_busy hn]
    split
    · exact ⟨rfl, fun h => by omega⟩
    · exact ⟨rfl, fun _ => ⟨rfl, rfl⟩⟩
  · rw [gradeChange_lands hn hs]
    have hall := fun r => look_gradeAll g s.regions (r := r)
    generalize gradeAll g s.regions = R at hall ⊢
    exact ⟨rfl, by simp only [hh], hall⟩
  · rw [gradeChange_lands hn hs]
    generalize gradeAll g s.regions = R
    simp only [hh, if_neg (Nat.ne_of_lt hlt)]
    exact ⟨rfl, rfl, rfl⟩
  · simp only [gradeChange, hn]
    exact if_pos hs
  · rw [vcoreRise_due hn hv hg hs]
    rfl
  · rw [vcoreFall_due hl ht hv]
    rfl

/-! ### The tide -/

theorem rateOf_bounds (v : Nat) : -200000 ≤ rateOf v ∧ rateOf v ≤ 200000 := by
  unfold rateOf clampInt
  constructor <;> split_ifs <;> omega

theorem portUp_iff (s : State) (n : Nat) : s.portUp n = true ↔ (s.port n).state = 2 ∨ (s.port n).state = 3 := by
  simp [State.portUp]

theorem portUp_eq_false (s : State) (n : Nat) : s.portUp n = false ↔ (s.port n).state ≠ 2 ∧ (s.port n).state ≠ 3 := by
  simp [State.portUp]

/-- A stamp message that is not for the port toward the parent, or has no stamps of its own end, changes nothing. -/
theorem tideStampMessage_ignored {s : State} {n : Nat} {mine peer : TideStamps}
    (h : s.clock.master = true ∨ s.clock.parentPort ≠ some n ∨ (s.clock.stamps.find? fun e => e.1 == n) = none ∨ s.portUp n = false) :
    tideStampMessage n mine peer s = s := by
  refine if_pos ?_
  rcases h with h | h | h | h <;> simp [h]

theorem tideReselect_master {s : State} {me : Nat × Nat × Nat} (h : s.fin.selfPos = some me)
    (hm : s.posNumber me.1 me.2.1 me.2.2 = s.masterPos) : tideReselect s = s.modClock fun c =>
      { c with master := true, locked := true, holdover := false, parent := 8191, parentPort := none, rate := if c.master then c.rate
        else 0 } := by
  simp only [tideReselect, h]
  exact if_pos hm

theorem tideReselect_child {s : State} {me : Nat × Nat × Nat} {r : Path} (h : s.fin.selfPos = some me)
    (hm : s.posNumber me.1 me.2.1 me.2.2 ≠ s.masterPos) (hr : s.route me (s.coordsOf s.masterPos) = some r) :
    tideReselect s =
      s.modClock (childOf (if r.detour then none else (s.deviceAt (s.neighbour me r.first)).map fun d => (d, firstPort r.first))) := by
  simp only [tideReselect, h, hr]
  exact if_neg hm

/-- Settles O40. -/
theorem tideKeepsTime : Obligations.TideKeepsTime := by
  intro s hp
  dsimp only
  refine ⟨ex_next rfl hp rfl, fun n st hn hup => ex_next (decide_eq_true hn) hp ?_, fun n mine peer hn hm hpp hup hst =>
      ex_next (decide_eq_true hn) hp ?_, fun n mine peer hn h => eq_next (decide_eq_true hn) hp (tideStampMessage_ignored ?_),
    fun h hh hm => ex_next (decide_eq_true hh) hp ?_, fun h hh hm => ex_next (decide_eq_true hh) hp ?_,
    fun hm hh hd => ex_next rfl hp ?_, fun me hme hpos => ex_next rfl hp ?_, fun me r d hme hpos hr hd hat => ex_next rfl hp ?_,
    fun me r hme hpos hr hd => ex_next rfl hp ?_⟩
  · rw [tideExchange, if_neg (by simp [(portUp_iff s n).mpr hup])]
    rfl
  · rw [tideStampMessage, if_neg (by simp [hm, hpp, (portUp_iff s n).mpr hup, hst])]
    exact ⟨rfl, (rateOf_bounds _).1, (rateOf_bounds _).2, rfl, rfl⟩
  · exact h.imp id (Or.imp id (Or.imp id (portUp_eq_false s n).mpr))
  · rw [ptmMeasure, if_neg (by simp [hm])]
    rfl
  · rw [ptmMeasure, if_pos hm]
    exact ⟨(rateOf_bounds _).1, (rateOf_bounds _).2, rfl⟩
  · have hup : s.parentUp = false := by
      cases hq : s.clock.parentPort with
      | none => simp [State.parentUp, hq]
      | some n => simp [State.parentUp, hq, (portUp_eq_false s n).mpr (hd n hq)]
    rw [tideHoldover, if_neg (by simp [hm, hh, hup])]
    rfl
  · rw [tideReselect_master hme hpos]
    rfl
  · rw [tideReselect_child hme hpos hr]
    simp only [hd, hat]
    rfl
  · rw [tideReselect_child hme hpos hr]
    simp only [hd]
    rfl

end Sys2Proof.Machine
end

section
/-! PROOF. The power limit, shared budgets and energy (R373, R386 to R394). -/

namespace Sys2Proof.Machine
open Sys2Proof

/-! ### One evaluation of the limit -/

/-- The rails' currents as a sample gives them. -/
def withRails (e : RailSample) (q : Power) : Power := { q with rails := [e.vsd, e.vlq, e.vhq, e.vaux].map (·.2) }

/-- The samples above the limit in a row, after one of power `p`. -/
def oversAfter (p : Nat) (q : Power) : Nat := if q.limit < p then q.overs + 1 else 0

/-- The window after a sample of power `p`. -/
def windowAfter (p : Nat) (q : Power) : List Nat := (p :: q.samples).take q.window

/-- What an evaluation of power `p` measures, with the cap level it sets. -/
def evaluated (p cap : Nat) (q : Power) : Power :=
  { q with
    samples := windowAfter p q, now := p, avg := if (windowAfter p q).length = 0 then 0 else sumNat (windowAfter p q) / (windowAfter p
      q).length
    overs := min 255 (oversAfter p q), cap := cap
    capEvents := satCount q.capEvents (if q.cap < cap then 1 else 0)
    excursions := satCount q.excursions (if oversAfter p q = 51 then 1 else 0) }

section
variable {p : Nat} {s : State} {cut above low : Bool} (hn : s.power.newLimit = none)
  (hcut : (decide (5 * s.power.limit < 4 * p) || decide (50 < oversAfter p s.power)) = cut)
  (habove : decide (s.power.limit * (windowAfter p s.power).length < sumNat (windowAfter p s.power)) = above)
  (hlow : (decide (100 * sumNat (windowAfter p s.power) < 97 * s.power.limit * (windowAfter p s.power).length) && oversAfter p s.power ==
    0) = low)
include hn hcut habove hlow

/-- An evaluation by the three judgements of R387: the sample cuts, the window stands above the limit, the window stands low. -/
theorem powerLaw_judged :
    powerLaw p s =
      let lower := !cut && above && decide (s.power.cap < 8) && decide (0 < s.clock.grade)
      let cap :=
        if cut then min (s.power.cap + 4) 60
        else if above then (if lower then s.power.cap else min (s.power.cap + 2) 60)
        else if low && decide (0 < s.power.cap) then s.power.cap - 1 else s.power.cap
      let s1 := s.modPower (evaluated p cap)
      let needMax := decide (s.power.gradeMax < s.clock.pending.getD s.clock.grade)
      let s2 := if needMax then gradeRequest s.power.gradeMax s1 else s1
      if lower then plainRequest needMax (s.clock.grade - 1) s2
      else if !cut && !above && low && s.power.cap == 0 && decide (s.clock.grade < s.power.gradeMax) then
        plainRequest needMax (s.clock.grade + 1) s2
      else s2 := by
  subst hcut habove hlow
  rw [powerLaw]
  split
  · next heq => simp [hn] at heq
  · rfl

variable (hp : s.clock.pending = none) (hh : s.clock.held = none) (hm : s.clock.grade ≤ s.power.gradeMax)
include hp hh hm

/-- An evaluation while no change of grade is pending. -/
theorem powerLaw_settled :
    powerLaw p s =
      if cut then s.modPower (evaluated p (min (s.power.cap + 4) 60))
      else if above then
        if s.power.cap < 8 ∧ 0 < s.clock.grade then gradeRequest (s.clock.grade - 1) (s.modPower (evaluated p s.power.cap))
        else s.modPower (evaluated p (min (s.power.cap + 2) 60))
      else if low then
        if 0 < s.power.cap then s.modPower (evaluated p (s.power.cap - 1))
        else if s.clock.grade < s.power.gradeMax then gradeRequest (s.clock.grade + 1) (s.modPower (evaluated p s.power.cap))
        else s.modPower (evaluated p s.power.cap)
      else s.modPower (evaluated p s.power.cap) := by
  have hmax : decide (s.power.gradeMax < s.clock.grade) = false := decide_eq_false (Nat.not_lt.mpr hm)
  have hreq (g cap : Nat) : plainRequest false g (s.modPower (evaluated p cap)) = gradeRequest g (s.modPower (evaluated p cap)) :=
    if_neg (by simp [hp, hh])
  rw [powerLaw_judged hn hcut habove hlow]
  simp only [hp, Option.getD_none, hmax]
  cases cut with
  | true => simp
  | false =>
    cases above with
    | true => by_cases hc : s.power.cap < 8 ∧ 0 < s.clock.grade <;> simp [hc, hreq]
    | false =>
      cases low with
      | false => simp
      | true => rcases Nat.eq_zero_or_pos s.power.cap with hc | hc <;> simp [hc, hreq, Nat.ne_of_gt]

end

/-- A low window at level 0 raises the grade: what the evaluation leaves of power and clock. -/
theorem powerLaw_raises {p : Nat} {s : State} (hn : s.power.newLimit = none) (hp : s.clock.pending = none) (hh : s.clock.held = none)
    (hm : s.clock.grade ≤ s.power.gradeMax) (hcut : (decide (5 * s.power.limit < 4 * p) || decide (50 < oversAfter p s.power)) = false)
    (habove : decide (s.power.limit * (windowAfter p s.power).length < sumNat (windowAfter p s.power)) = false)
    (hlow : (decide (100 * sumNat (windowAfter p s.power) < 97 * s.power.limit * (windowAfter p s.power).length) && oversAfter p
      s.power == 0) = true)
    (h0 : s.power.cap = 0) (hg : s.clock.grade < s.power.gradeMax) :
    ∃ fs n, powerLaw p s = { s with
      fields := fs, power := { evaluated p 0 s.power with slowWakes := n }, clock := schedule (s.clock.grade + 1) s.now s.clock } := by
  obtain ⟨fs, n, hslow⟩ := slowWakes_eq ((s.modPower (evaluated p 0)).modClock (schedule (s.clock.grade + 1) s.now))
  refine ⟨fs, n, ?_⟩
  rw [powerLaw_settled hn hcut habove hlow hp hh hm, if_neg (by simp), if_neg (by simp), if_pos rfl, if_neg (by omega), if_pos hg, h0,
    gradeRequest_idle (s := s.modPower _) hp]
  exact (if_neg (Nat.succ_ne_self _)).trans ((if_pos (Nat.lt_succ_self _)).trans hslow)

/-! ### Limits among members, and energy -/

/-- Members whose limits have not changed are sent nothing. -/
theorem budgetReassign_still {s : State} (hk : s.power.budget.keeper = true) (hr : reassign s.clock.tide s.power.budget =
    s.power.budget.members)
    (hl : ∀ m ∈ s.power.budget.members, limitOf s.power.budget.members m.1 = m.2) : budgetReassign s = s := by
  have hnone : (s.power.budget.members.filter fun m => limitOf s.power.budget.members m.1 != m.2) = [] := by
    rw [List.filter_eq_nil_iff]
    intro m hm
    simp [hl m hm]
  rw [budgetReassign, if_neg (by simp [hk])]
  simp only [State.now, hr, hnone]
  rfl

theorem find?_map_snd {α β : Type} (f : α → β) (m : Sparse α) (a : Nat) : find? (m.map fun e => (e.1, f e.2)) a = (find? m a).map f := by
  induction m with
  | nil => rfl
  | cons e m ih =>
    simp only [List.map_cons, find?, ih]
    split <;> rfl

theorem modJob_some {s : State} {j : Nat} {x : Job} (f : Job → Job) (h : s.job? j = some x) : s.modJob j f = s.setJob j (f x) := by
  simp only [State.modJob, h]

/-- Every job's account is dated when energy is charged. -/
theorem job?_energyCharge (rs : List (Nat × Nat)) (sh : List DomainEnergy) (dev : Nat) (s : State) (j : Nat) :
    (energyCharge rs sh dev s).job? j =
      ((foldState sh (fun t d => chargeDomain d t) (foldState rs (fun t e => chargeRegion e t) s)).job? j).map
        fun x => { x with chargedTo := s.now } := by
  simp only [energyCharge, chargeDevice, State.job?, modPower_jobs]
  exact find?_map_snd (fun x : Job => { x with chargedTo := s.now }) _ j

theorem energyOwner_some {s : State} {r l : Nat} (hp : (s.region r).pwr = .running ∨ (s.region r).pwr = .waking)
    (hf : (s.region r).fenced = false) (hl : s.logicalRegion r = some l) : s.energyOwner r = (s.jobsOfRegion l).head? := by
  have h : ((s.region r).pwr == .rested || (s.region r).pwr == .gated || (s.region r).fenced) = false := by
    rcases hp with hp | hp <;> simp [hp, hf]
  simp only [State.energyOwner, h, hl, Bool.false_eq_true, if_false]

theorem energyOwner_none {s : State} {r : Nat} (h : (s.region r).pwr = .rested ∨ (s.region r).pwr = .gated ∨ (s.region r).fenced = true) :
    s.energyOwner r = none :=
  if_pos (by rcases h with h | h | h <;> simp [h])

theorem chargeRegion_owned {s : State} {r uj j : Nat} {x : Job} (ho : s.energyOwner r = some j) (hx : s.job? j = some x) :
    chargeRegion (r, uj) s = s.setJob j { x with regionUj := x.regionUj + uj } := by
  simp only [chargeRegion, ho]
  exact modJob_some _ hx

theorem chargeRegion_unowned {s : State} {r uj : Nat} (ho : s.energyOwner r = none) : chargeRegion (r, uj) s = chargeDevice uj s := by
  simp only [chargeRegion, ho]

/-- A domain that carried units of two jobs. -/
theorem chargeDomain_pair {s : State} {i j uj u v : Nat} {x y : Job} (hne : i ≠ j) (hx : s.job? i = some x) (hy : s.job? j = some y) :
    chargeDomain { uj := uj, units := [(i, u), (j, v)] } s =
      chargeDevice (uj - (uj * u / (u + v) + uj * v / (u + v)))
        ((s.setJob i { x with sharedUj := x.sharedUj + uj * u / (u + v) }).setJob j { y with sharedUj := y.sharedUj + uj * v / (u + v)
          }) := by
  have hmine : ([(i, u), (j, v)] : List (Nat × Nat)).filter (fun e => (s.job? e.1).isSome) = [(i, u), (j, v)] := by
    simp [hx, hy]
  have hy' : ∀ z, (s.setJob i z).job? j = some y := fun z => by rw [job?_setJob_other _ (Ne.symm hne), hy]
  simp only [chargeDomain, hmine, foldState, List.foldl_cons, List.foldl_nil, List.map_cons, List.map_nil, sumNat, Nat.zero_add,
    modJob_some _ hx, modJob_some _ (hy' _)]

/-- Settles O41. -/
theorem powerLimitAndBudgets : Obligations.PowerLimitAndBudgets := by
  refine ⟨?evaluation, ?budgets⟩
  case evaluation =>
    intro s e w hw hlen hp hnew hpend hheld hmax q c win sum ovs cut above low next slot
    have hpow : devicePower e = w := by simp [devicePower, w, sumNat]
    clear_value w
    have hok : (decide (devicePower e < 65536) && e.fields.length == 12) = true := by
      simp only [hpow, hw, hlen, decide_true, beq_self_eq_true, Bool.and_self]
    have hev : powerEvaluation e s = powerLaw w (s.modPower (withRails e)) := by
      rw [powerEvaluation, hpow]
      rfl
    have law (a b d : Bool) (ha) (hb) (hd) :=
      hev.trans (powerLaw_settled (cut := a) (above := b) (low := d) hnew ha hb hd hpend hheld hmax)
    have hcut (h : cut) : (decide (5 * s.power.limit < 4 * w) || decide (50 < oversAfter w s.power)) = true :=
      (Bool.decide_or _ _).symm.trans (decide_eq_true h)
    have hncut (h : ¬ cut) : (decide (5 * s.power.limit < 4 * w) || decide (50 < oversAfter w s.power)) = false :=
      (Bool.decide_or _ _).symm.trans (decide_eq_false h)
    have hlow (h : low) : (decide (100 * sumNat win < 97 * s.power.limit * win.length) && oversAfter w s.power == 0) = true :=
      (Bool.decide_and _ _).symm.trans (decide_eq_true h)
    have hnlow (h : ¬ low) :
        (decide (100 * sumNat win < 97 * s.power.limit * win.length) && oversAfter w s.power == 0) = false :=
      (Bool.decide_and _ _).symm.trans (decide_eq_false h)
    refine ⟨fun hc => ex_next hok hp ?_, fun hc ha h8 => ex_next hok hp ?_, fun hc ha h8 hg => ex_next hok hp ?_, fun hc ha hl h0 =>
      ex_next hok hp ?_,
      fun hc ha hl h0 hg => ex_next hok hp ?_, fun hc ha hl => ?_⟩
    · exact (law true _ _ (hcut hc) rfl rfl).trans rfl
    · have h : ¬ (s.power.cap < 8 ∧ 0 < s.clock.grade) := fun h => by
        have h8 : 8 ≤ s.power.cap ∨ s.clock.grade = 0 := h8
        omega
      exact (law false true _ (hncut hc) (decide_eq_true ha) rfl).trans (if_neg h)
    · have h : s.clock.grade - 1 ≠ s.clock.grade ∧ ¬ s.clock.grade < s.clock.grade - 1 := by
        have hg : 0 < s.clock.grade := hg
        omega
      refine (law false true _ (hncut hc) (decide_eq_true ha) rfl).trans ((if_pos (⟨h8, hg⟩ : s.power.cap < 8 ∧ 0 < s.clock.grade)).trans
        ?_)
      exact (gradeRequest_idle (s := (s.modPower _).modPower _) hpend).trans ((if_neg h.1).trans (if_neg h.2))
    · exact (law false false true (hncut hc) (decide_eq_false ha) (hlow hl)).trans (if_pos h0)
    · obtain ⟨fs, n, hraise⟩ := powerLaw_raises (p := w) (s := s.modPower (withRails e))
        hnew hpend hheld hmax (hncut hc) (decide_eq_false ha) (hlow hl) h0 hg
      rw [hev.trans hraise]
      exact ⟨rfl, rfl, rfl⟩
    · rcases hl with hl | ⟨hl, hg⟩
      · exact ex_next hok hp ((law false false false (hncut hc) (decide_eq_false ha) (hnlow hl)).trans rfl)
      · by_cases hlw : low
        · exact ex_next hok hp ((law false false true (hncut hc) (decide_eq_false ha) (hlow hlw)).trans
            ((if_neg (Nat.not_lt.mpr hl.le)).trans (if_neg (Nat.not_lt.mpr hg.ge))))
        · exact ex_next hok hp ((law false false false (hncut hc) (decide_eq_false ha) (hnlow hlw)).trans rfl)
  case budgets =>
    intro s hp
    dsimp only
    have report {w n : Nat} (hw : w < 65536) (hn : 0 < n) : (decide (w < 65536) && decide (0 < n)) = true := by
      simp only [hw, hn, decide_true, Bool.and_self]
    have message {m : BudgetMsg} (hd : m.device < 8192) (hh : m.hi < 65536) (hl : m.lo < 65536) :
        (decide (m.device < 8192) && decide (m.hi < 65536) && decide (m.lo < 65536)) = true := by
      simp only [hd, hh, hl, decide_true, Bool.and_self]
    refine ⟨fun w n hw hn hj hk => ex_next (report hw hn) hp ?_, fun w n hw hn hj hk => ex_next (report hw hn) hp ?_,
      fun hk hr hl => eq_next rfl hp (budgetReassign_still hk hr hl), fun hk => eq_next rfl hp (if_neg (by simp [hk])),
      fun m hd hh hl hj hg hkind hdev => ex_next (message hd hh hl) hp ?_, fun m hd hh hl hj hg hkind hk => ex_next (message hd hh hl) hp
        ?_,
      fun dev hj => ex_next rfl hp ?_, fun r uj l j x hr hpw hf hl hh hj => ?_, fun r uj hr hj hpw => ?_, fun i j uj u v x y hi hj hne hu
        hx hy => ?_⟩
    · rw [budgetReport, if_neg (by simp [hj])]
      simp only [hk]
      rfl
    · rw [budgetReport, if_neg (by simp [hj])]
      simp only [hk]
      rfl
    · rw [budgetLimit, if_neg (by simp [hj, hg]), if_pos (by simp [hkind, hdev])]
      rfl
    · rw [budgetLimit, if_neg (by simp [hj, hg]), if_neg (by simp [hkind]), if_pos (by simp [hkind, hk])]
      rfl
    · have hnone (f : Nat × Job → Nat × Job) : s.jobs.map f = s.jobs := by rw [hj]; rfl
      simp only [energyCharge, foldState, List.foldl_nil, hnone]
      rfl
    · have hok : ([(r, uj)].all (fun e => decide (e.1 < 108)) && ([] : List DomainEnergy).all fun d => d.units.all fun e => decide
        (e.1 < 16)) = true := by
        simp [hr]
      refine ex_next hok hp ?_
      rw [job?_energyCharge]
      simp only [foldState, List.foldl_cons, List.foldl_nil, chargeRegion_owned ((energyOwner_some hpw hf hl).trans hh) hj,
        job?_setJob_same]
      rfl
    · have hok : ([(r, uj)].all (fun e => decide (e.1 < 108)) && ([] : List DomainEnergy).all fun d => d.units.all fun e => decide
        (e.1 < 16)) = true := by
        simp [hr]
      refine ex_next hok hp ?_
      simp only [energyCharge, foldState, List.foldl_cons, List.foldl_nil, chargeRegion_unowned (energyOwner_none hpw), chargeDevice,
        State.modPower]
      omega
    · have hok : (([] : List (Nat × Nat)).all (fun e => decide (e.1 < 108)) &&
          [({ uj := uj, units := [(i, u), (j, v)] } : DomainEnergy)].all fun d => d.units.all fun e => decide (e.1 < 16)) = true := by
        simp [hi, hj]
      refine ex_next hok hp ?_
      rw [job?_energyCharge, job?_energyCharge]
      simp only [foldState, List.foldl_cons, List.foldl_nil, chargeDomain_pair hne hx hy]
      have hdev (n : Nat) (q : State) (k : Nat) : (chargeDevice n q).job? k = q.job? k := rfl
      rw [hdev, hdev, job?_setJob_other _ hne, job?_setJob_same, job?_setJob_same]
      exact ⟨rfl, rfl⟩

end Sys2Proof.Machine
end

section
/-! PROOF. Power-on, power-off and resets (R397, R398, R471, R502 to R505), and firmware selection (R417, R475 to R478). -/

namespace Sys2Proof.Machine
open Sys2Proof

/-- A step of bring-up, by what it leaves. -/
theorem bootStep_of_eq {f : State → State} {s t : State} (h : f s = t) :
    bootStep f s = if bootStatus t.boot = bootStatus s.boot then t else ibi 0x01 (signalVector 1 t) := by
  rw [← h]
  rfl

theorem bootStep_same {f : State → State} {s : State} (h : f s = s) : bootStep f s = s := by
  rw [bootStep_of_eq h, if_pos rfl]

theorem selfTests_eq (ok : Bool) (t : State) : selfTests ok t =
    if ok then t else { t with sec := { t.sec with service := false }, boot := { t.boot with state := .refused } } := rfl

theorem pinReset_short {low : Nat} {ok : Bool} {s : State} (h : low ≤ 500) : pinReset low ok s = s := if_pos h

theorem pinReset_long {low : Nat} {ok : Bool} {s : State} (h : 1000 ≤ low) : pinReset low ok s = warmReset ok s := by
  rw [pinReset, if_neg (by omega), if_pos h]

theorem warmReset_begins {ok : Bool} {s : State} (h : s.boot.heldReset = false) : warmReset ok s = selfTests ok (bringUp true true s) :=
  if_neg (by simp [h])

/-- A port, taken down if it was in use. -/
def takenDown (q : Port) : Port := { q with state := if q.state = 0 then 0 else 4 }

/-- Power lost takes every port that was up down. -/
theorem port_powerLost (s : State) (n : Nat) : (powerLost s).port n = takenDown (s.port n) :=
  look_map_snd ({} : Port) takenDown s.fin.ports n

/-- A cold bring-up shows phase 1, which an unpowered BOOT_STATUS does not. -/
theorem pwrgdRelease_next {strap : Nat} {ok kept held : Bool} {s t : State} (h : pwrgdRelease strap held ok kept s = t)
    (ht : t.boot.phase = 1) :
    exec (.pwrgdRelease ⟨strap, kept⟩ held ok) s = .next (ibi 0x01 (signalVector 1 t)) := by
  have hne : bootStatus t.boot ≠ bootStatus ({} : Boot) := fun h => absurd (congrArg (fun x => x.2.1) h) (by simp [bootStatus, ht])
  have hs := bootStep_of_eq (f := fun _ => pwrgdRelease strap held ok kept s) (s := s.modBoot fun _ => {}) h
  exact congrArg Host.Outcome.next (hs.trans (if_neg hne))

/-- Settles O44. -/
theorem powerAndResets : Obligations.PowerAndResets := by
  intro s after shown
  refine ⟨?cold, ?_, fun hp => ex_next rfl hp ⟨rfl, rfl, rfl, rfl, rfl, rfl, fun n => congrArg Port.state (port_powerLost s n)⟩,
    fun hp => ex_next rfl hp ⟨rfl, rfl, rfl, rfl⟩,
    fun low ok hp hl hh => ⟨eq_next rfl hp (bootStep_same (pinReset_short hl)), eq_next rfl hp (bootStep_same ?short)⟩,
    fun low ok hp hl hh => ⟨eq_next rfl hp (bootStep_of_eq ?perst), eq_next rfl hp (bootStep_of_eq ?resetN), eq_next rfl hp
      (bootStep_of_eq ?hot)⟩,
    fun low ok hp hh => ⟨eq_next rfl hp (bootStep_of_eq (if_pos hh)), eq_next rfl hp (bootStep_same (if_pos hh))⟩⟩
  case cold =>
    intro strap ok kept hs b
    have hst : strap % 4 = strap := Nat.mod_eq_of_lt hs
    refine ⟨pwrgdRelease_next ?_ ?_, pwrgdRelease_next ?_ rfl⟩
    · simp only [pwrgdRelease, hst]
      rfl
    · cases ok <;> rfl
    · simp only [pwrgdRelease, hst]
      rfl
  case short => rw [if_neg (by simp [hh]), pinReset_short hl]
  case perst => exact (pinReset_long hl).trans (warmReset_begins hh)
  case resetN =>
    rw [if_neg (by simp [hh])]
    exact (pinReset_long hl).trans (warmReset_begins hh)
  case hot => exact warmReset_begins hh
  · intro warm kept b
    exact ⟨rfl, rfl, rfl, rfl, rfl, rfl, rfl, rfl, rfl, rfl, rfl, rfl, rfl, rfl, rfl, rfl, rfl, rfl, rfl, rfl, rfl, rfl, rfl⟩

/-! ### Firmware -/

theorem slotFits_eq_true {s : State} {k : Nat} (h : k ∉ s.sec.failed ∧ ∃ im, s.fwSlot k = some im ∧ s.eligible im = true) : s.slotFits
    k = true := by
  obtain ⟨hf, im, him, he⟩ := h
  simp [State.slotFits, hf, him, he]

theorem slotFits_eq_false {s : State} {k : Nat} (h : ¬ (k ∉ s.sec.failed ∧ ∃ im, s.fwSlot k = some im ∧ s.eligible im = true)) :
    s.slotFits k = false := by
  by_contra hc
  rw [Bool.not_eq_false] at hc
  simp only [State.slotFits, Bool.and_eq_true, Bool.not_eq_true'] at hc
  refine h ⟨by simpa using hc.1, ?_⟩
  cases him : s.fwSlot k with
  | none => simp [him] at hc
  | some im => exact ⟨im, rfl, by simpa [him] using hc.2⟩

/-- The slot that comes first, of two that fit. -/
theorem chooseSlot_both {s : State} {a b : FwImage} (h0 : s.slotFits 0 = true) (h1 : s.slotFits 1 = true) (ha : s.sec.slot0 = some a)
    (hb : s.sec.slot1 = some b) : s.chooseSlot = some (if a.svn < b.svn ∨ (a.svn = b.svn ∧ a.build < b.build) then 1 else 0) := by
  simp only [State.chooseSlot, h0, h1, ha, hb]
  split <;> rfl

theorem chooseSlot_first {s : State} (h0 : s.slotFits 0 = true) (h1 : s.slotFits 1 = false) : s.chooseSlot = some 0 := by
  simp only [State.chooseSlot, h0, h1]

theorem chooseSlot_second {s : State} (h0 : s.slotFits 0 = false) (h1 : s.slotFits 1 = true) : s.chooseSlot = some 1 := by
  simp only [State.chooseSlot, h0, h1]

theorem chooseSlot_none {s : State} (h0 : s.slotFits 0 = false) (h1 : s.slotFits 1 = false) : s.chooseSlot = none := by
  simp only [State.chooseSlot, h0, h1]

theorem mem_addOnce (j k : Nat) (l : List Nat) : j ∈ addOnce k l ↔ j = k ∨ j ∈ l := by
  unfold addOnce
  split
  · next h => exact ⟨.inr, fun h' => h'.elim (fun e => e ▸ List.contains_iff_mem.mp h) id⟩
  · rw [List.mem_append, List.mem_singleton, or_comm]

/-- Once a slot has failed, the other is chosen if it fits. -/
theorem slotFits_failed_other {s : State} {k j : Nat} (h : j ≠ k) :
    (s.modSec fun c => { c with failed := addOnce k c.failed }).slotFits j = s.slotFits j := by
  have hf : (addOnce k s.sec.failed).contains j = s.sec.failed.contains j := by
    rw [Bool.eq_iff_iff, List.contains_iff_mem, List.contains_iff_mem, mem_addOnce]
    simp [h]
  exact congrArg (fun b => !b && match s.fwSlot j with | some im => s.eligible im | none => false) hf

theorem slotFits_failed_same (s : State) (k : Nat) : (s.modSec fun c => { c with failed := addOnce k c.failed }).slotFits k = false := by
  have hf : (addOnce k s.sec.failed).contains k = true := by
    rw [List.contains_iff_mem, mem_addOnce]
    exact .inl rfl
  exact congrArg (fun b => !b && match s.fwSlot k with | some im => s.eligible im | none => false) hf

section
variable {s : State} (h : s.boot.state = .inProgress ∧ s.boot.heldReset = false ∧ s.boot.phase = 1)
include h

theorem firmwareSelect_some {k : Nat} (hk : s.chooseSlot = some k) :
    firmwareSelect s = (s.modSec fun c => { c with chosen := some k }).modBoot fun x => { x with phase := 2 } := by
  rw [firmwareSelect, if_neg (by simp [h.1, h.2.1, h.2.2])]
  simp only [hk]

theorem firmwareSelect_none (hk : s.chooseSlot = none) :
    firmwareSelect s = refuseFirmware (s.modBoot fun x => { x with phase := 2 }) := by
  rw [firmwareSelect, if_neg (by simp [h.1, h.2.1, h.2.2])]
  simp only [hk]

end

section
variable {s : State} {k : Nat} {im : FwImage} (hst : s.boot.state = .inProgress) (hph : s.boot.phase = 2) (hk : s.sec.chosen = some k)
  (him : s.fwSlot k = some im)
include hst hph hk him

theorem firmwareBodyCheck_good (hd : im.bodyDigest = im.headDigest) : firmwareBodyCheck s =
    ((s.modSec fun c => { c with running := some k }).modHif fun h => { h with coreRuns := true }).modBoot fun x => { x with phase := 3
      } := by
  rw [firmwareBodyCheck, if_neg (by simp [hst, hph])]
  simp only [hk, him, hd, if_true]

theorem firmwareBodyCheck_other {o : Nat} (hd : im.bodyDigest ≠ im.headDigest)
    (ho : (s.modSec fun c => { c with failed := addOnce k c.failed }).chooseSlot = some o) : firmwareBodyCheck s =
    (s.modSec fun c => { c with failed := addOnce k c.failed }).modSec fun c => { c with chosen := some o } := by
  rw [firmwareBodyCheck, if_neg (by simp [hst, hph])]
  simp only [hk, him, if_neg hd, ho]

theorem firmwareBodyCheck_none (hd : im.bodyDigest ≠ im.headDigest)
    (ho : (s.modSec fun c => { c with failed := addOnce k c.failed }).chooseSlot = none) : firmwareBodyCheck s =
    refuseFirmware (s.modSec fun c => { c with failed := addOnce k c.failed }) := by
  rw [firmwareBodyCheck, if_neg (by simp [hst, hph])]
  simp only [hk, him, if_neg hd, ho]

end

theorem arbCommit_due {s : State} {k : Nat} {im : FwImage} (hst : s.boot.state = .ready) (hc : s.boot.commitDue = true)
    (hk : s.sec.running = some k)
    (him : s.fwSlot k = some im) : arbCommit s =
      (s.modSec fun c =>
        { c with arb := if im.arbCommit then max c.arb im.svn else c.arb
                 revoke := if im.revokeOther && !bit c.revoke (1 - im.keySlot) then c.revoke + 2 ^ (1 - im.keySlot) else c.revoke
                   }).modBoot
        fun x => { x with commitDue := false } := by
  rw [arbCommit, if_neg (by simp [hst, hc])]
  simp only [hk, Option.bind_some, him]

/-- Settles O45. -/
theorem firmwareComesUp : Obligations.FirmwareComesUp := by
  intro s hp shown fits selecting selected
  refine ⟨fun a b h h0 h1 ha hb => eq_next rfl hp (bootStep_of_eq ?_), fun h h0 h1 => eq_next rfl hp (bootStep_of_eq ?_),
    fun h h0 h1 => eq_next rfl hp (bootStep_of_eq ?_), fun h h0 h1 => eq_next rfl hp (bootStep_of_eq ?_), ?body,
    fun h => eq_next rfl hp (if_pos (by rcases h with h | h <;> simp [h])), fun h1 h2 => eq_next rfl hp (if_neg (by simp [h1, h2])),
      ?space,
    fun k im hst hc hk him => eq_next rfl hp ?_, fun h => eq_next rfl hp (if_pos (by rcases h with h | h <;> simp [h]))⟩
  case body =>
    intro k im hst hph hk him
    refine ⟨fun hd => eq_next rfl hp (bootStep_of_eq (firmwareBodyCheck_good hst hph hk him hd)), fun hd hk2 hf => eq_next rfl hp ?_,
      fun hd hk2 hf => eq_next rfl hp (bootStep_of_eq ?_)⟩
    · have ho : (s.modSec fun c => { c with failed := addOnce k c.failed }).chooseSlot = some (1 - k) := by
        have hother := (slotFits_failed_other (by omega : 1 - k ≠ k)).trans (slotFits_eq_true hf)
        have hsame := slotFits_failed_same s k
        obtain rfl | rfl : k = 0 ∨ k = 1 := by omega
        · exact chooseSlot_second hsame hother
        · exact chooseSlot_first hother hsame
      exact (bootStep_of_eq (firmwareBodyCheck_other hst hph hk him hd ho)).trans (if_pos rfl)
    · have ho : (s.modSec fun c => { c with failed := addOnce k c.failed }).chooseSlot = none := by
        have hother := (slotFits_failed_other (by omega : 1 - k ≠ k)).trans (slotFits_eq_false hf)
        have hsame := slotFits_failed_same s k
        obtain rfl | rfl : k = 0 ∨ k = 1 := by omega
        · exact chooseSlot_none hsame hother
        · exact chooseSlot_none hother hsame
      rw [firmwareBodyCheck_none hst hph hk him hd ho]
      rfl
  case space =>
    intro d hd
    simp only [List.mem_cons, List.not_mem_nil, or_false] at hd
    rw [HostIf.configDwords]
    rcases hd with rfl | rfl | rfl <;> simp
  · rw [firmwareSelect_some h (chooseSlot_both (slotFits_eq_true h0) (slotFits_eq_true h1) ha hb)]
    rfl
  · rw [firmwareSelect_some h (chooseSlot_first (slotFits_eq_true h0) (slotFits_eq_false h1))]
    rfl
  · rw [firmwareSelect_some h (chooseSlot_second (slotFits_eq_false h0) (slotFits_eq_true h1))]
    rfl
  · rw [firmwareSelect_none h (chooseSlot_none (slotFits_eq_false h0) (slotFits_eq_false h1))]
    rfl
  · rw [arbCommit_due hst hc hk him]
    simp only [Bool.and_eq_true, Bool.not_eq_true']
    rfl

end Sys2Proof.Machine
end

section
/-! PROOF. Region wakes (R362, R382, R383). -/

namespace Sys2Proof.Machine
open Sys2Proof

/-- A store's fill begins with its windows closed. -/
theorem pan_beginStoreFill_same (p : Nat) (s : State) :
    ((beginStoreFill p s).pan p).store.fillBusy = true ∧ ((beginStoreFill p s).pan p).store.windows = [] := by
  rw [beginStoreFill, State.modStore, pan_modPan_same]
  exact ⟨rfl, rfl⟩

theorem pan_beginStoreFill_other {p k : Nat} (s : State) (h : k ≠ p) : (beginStoreFill p s).pan k = s.pan k := by
  rw [beginStoreFill, State.modStore, pan_modPan_other _ h]
  rfl

/-- The fills of many stores begin together. -/
theorem foldState_beginStoreFill (ps : List Nat) (s : State) :
    let t := foldState ps (fun t p => beginStoreFill p t) s
    t = { s with pans := t.pans, storeMem := t.storeMem } ∧
    (∀ p ∈ ps, (t.pan p).store.fillBusy = true ∧ (t.pan p).store.windows = []) ∧ ∀ k, k ∉ ps → t.pan k = s.pan k := by
  induction ps generalizing s with
  | nil => exact ⟨rfl, fun p hp => absurd hp List.not_mem_nil, fun k _ => rfl⟩
  | cons q ps ih =>
    obtain ⟨hrest, hin, hout⟩ := ih (beginStoreFill q s)
    refine ⟨hrest.trans rfl, fun p hp => ?_, fun k hk => ?_⟩
    · by_cases hps : p ∈ ps
      · exact hin p hps
      · obtain rfl : p = q := (List.mem_cons.mp hp).resolve_right hps
        exact hout p hps ▸ pan_beginStoreFill_same p s
    · rw [List.mem_cons, not_or] at hk
      exact (hout k hk.2).trans (pan_beginStoreFill_other s hk.1)

section
variable {s : State} {f r t0 : Nat} {slow : Bool}

theorem wakeAdmit_waiting (h : (s.fieldPwr f).wake = some (r, .waiting, slow, t0)) :
    wakeAdmit f s = if (s.fieldPwr f).current + 4000 ≤ 26300 && !s.risePending then beginRamp f r false s else s := by
  simp only [wakeAdmit, h]

theorem wakeAdmitTimeout_waiting (h : (s.fieldPwr f).wake = some (r, .waiting, slow, t0)) :
    wakeAdmitTimeout f s = if t0 + 50000 ≤ s.now then beginRamp f r true s else s := by
  simp only [wakeAdmitTimeout, h]

theorem wakeRampDone_ramp (h : (s.fieldPwr f).wake = some (r, .ramp, slow, t0)) :
    wakeRampDone f s = if s.rampPaused f then s else s.modField f fun x => { x with wake := some (r, .regulate, slow, s.now) } := by
  simp only [wakeRampDone, h]

theorem wakeRegulated_regulate (h : (s.fieldPwr f).wake = some (r, .regulate, slow, t0)) :
    wakeRegulated f s = if (s.region r).pwr != .waking then s else
      foldState (regionPans r) (fun t p => beginStoreFill p t)
        ((s.modField f fun x => { x with wake := some (r, .fill, slow, s.now) }).modRegion r fun q =>
          { q with pwr := .running, clk := .running, grade := s.clock.grade, level := 0, owedEdges := 0, ran := true, fresh := true }) :=
            by
  simp only [wakeRegulated, h]

end

/-- A field's queue of wakes after a region has asked at a tide count (R382). -/
def askWake (r now : Nat) (f : FieldPwr) : FieldPwr :=
  if f.queue.any (fun e => e.2 == r) || f.wake.any (fun w => w.1 == r) then f
  else
    let before := f.queue.filter fun e => decide (e.1 < now) || (e.1 == now && decide (e.2 < r))
    let after := f.queue.filter fun e => e.1 == now && decide (r < e.2)
    let g := { f with queue := before ++ [(now, r)] ++ after }
    match g.wake with
    | none => nextWake now g
    | some (o, .waiting, _, _) =>
      if f.wakeAsked = now ∧ r < o then nextWake now { g with queue := (now, r) :: (before ++ [(now, o)] ++ after) } else g
    | some _ => g

/-- A wake asked for by a region that is rested and cool. -/
theorem regionWake_cool {s : State} {r t0 : Nat} (hr : (s.region r).pwr = .rested) (hc : (s.region r).coolSince = some t0)
    (ht : t0 + 10000000 ≤ s.clock.tide) : regionWake r s = s.modField (r / 9) (askWake r s.now) := by
  rw [regionWake, if_neg (by simp [hr, hc, State.now, ht])]
  rfl

theorem askWake_free {f : FieldPwr} (r now : Nat) (hq : f.queue = []) (hw : f.wake = none) :
    askWake r now f = { f with wake := some (r, .waiting, false, now), wakeAsked := now, paused := 0 } := by
  obtain ⟨⟩ := f
  simp only at hq hw
  subst hq hw
  rfl

/-- A lower region that asks at the same tide count takes the turn of one that still waits. -/
theorem askWake_before {f : FieldPwr} {r o now t1 : Nat} {slow : Bool} (hq : f.queue = []) (hw : f.wake = some (o, .waiting, slow, t1))
    (ha : f.wakeAsked = now) (ho : r < o) :
    askWake r now f = { f with wake := some (r, .waiting, false, now), wakeAsked := now, paused := 0, queue := [(now, o)] } := by
  obtain ⟨⟩ := f
  simp only at hq hw ha
  subst hq hw ha
  simp [askWake, nextWake, ho, Nat.ne_of_gt ho]

/-- What a ramp's beginning leaves. -/
theorem beginRamp_leaves (f r : Nat) (slow : Bool) (s : State) :
    let t := beginRamp f r slow s
    t = { s with fields := t.fields, regions := t.regions, power := t.power } ∧
    t.fieldPwr f = { s.fieldPwr f with wake := some (r, .ramp, slow, s.clock.tide) } ∧ t.region r = { s.region r with pwr := .waking } ∧
    (∀ k, k ≠ f → t.fieldPwr k = s.fieldPwr k) ∧ (∀ k, k ≠ r → t.region k = s.region k) ∧
    t.power = if slow then { s.power with slowWakes := satCount s.power.slowWakes 1 } else s.power := by
  have hfield := fieldPwr_modField_same s f fun x => { x with wake := some (r, .ramp, slow, s.now) }
  have hregion := region_modRegion_same (s.modField f fun x => { x with wake := some (r, .ramp, slow, s.now) }) r fun q =>
    { q with pwr := .waking }
  have hother := fun k (h : k ≠ f) => fieldPwr_modField_other s h fun x => { x with wake := some (r, .ramp, slow, s.now) }
  have hrest := fun k (h : k ≠ r) => region_modRegion_other (s.modField f fun x => { x with wake := some (r, .ramp, slow, s.now) })
    h fun q => { q with pwr := .waking }
  cases slow <;> exact ⟨rfl, hfield, hregion, hother, hrest, rfl⟩

/-- Settles O43. -/
theorem wakesTakeTheirTurn : Obligations.WakesTakeTheirTurn := by
  intro s f r hf hr hp
  have hokr : decide (r < 108) = true := decide_eq_true hr
  have hokf : decide (f < 12) = true := decide_eq_true hf
  dsimp only
  refine ⟨fun t0 hpw hc ht hq hw => ex_next hokr hp ?_, fun t0 o slow t1 hpw hc ht hq hw ha ho => ex_next hokr hp ?_,
    fun slow t0 hw hcur hrise => ex_next hokf hp ?_, fun slow t0 hw h => eq_next hokf hp ?_, fun slow t0 hw ht => ex_next hokf hp ?_,
    fun slow t0 hw hps => eq_next hokf hp ?_, fun slow t0 hw hps => ex_next hokf hp ?_, fun slow t0 hw hq => eq_next hokf hp ?_,
    fun slow t0 hw hq => ex_next hokf hp ?_⟩
  · rw [regionWake_cool hpw hc ht, ← askWake_free r s.clock.tide hq hw]
    exact onlyField_modField s _ _
  · rw [regionWake_cool hpw hc ht, ← askWake_before hq hw ha ho]
    exact onlyField_modField s _ _
  · rw [wakeAdmit_waiting hw, if_pos (by simp only [hcur, hrise, decide_true, Bool.not_false, Bool.and_self])]
    obtain ⟨hrest, hfield, hregion, hfields, hregions, hpower⟩ := beginRamp_leaves f r false s
    exact ⟨hrest.trans (by rw [hpower]; rfl), hfield, hregion, hfields, hregions⟩
  · rw [wakeAdmit_waiting hw, if_neg]
    rcases h with h | h
    · simp only [decide_eq_false (Nat.not_le.mpr h), Bool.false_and, Bool.false_eq_true, not_false_eq_true]
    · simp [h]
  · rw [wakeAdmitTimeout_waiting hw, if_pos (show t0 + 50000 ≤ s.now from ht)]
    obtain ⟨hrest, hfield, hregion, -, -, hpower⟩ := beginRamp_leaves f r true s
    exact ⟨hrest, hfield, hregion, hpower⟩
  · rw [wakeRampDone_ramp hw, if_pos hps]
  · rw [wakeRampDone_ramp hw, if_neg (by simp [hps])]
    exact onlyField_modField s f _
  · rw [wakeRegulated_regulate hw, if_pos (by simp [hq])]
  · rw [wakeRegulated_regulate hw, if_neg (by simp [hq])]
    obtain ⟨hrest, hin, hout⟩ := foldState_beginStoreFill (regionPans r) ((s.modField f fun x => { x with wake := some (r, .fill, slow,
      s.now) }).modRegion r
      fun q => { q with pwr := .running, clk := .running, grade := s.clock.grade, level := 0, owedEdges := 0, ran := true, fresh := true
        })
    refine ⟨hrest.trans rfl, ?_, ?_, hin, hout⟩
    · exact (congrArg (fun t => t.fieldPwr f) hrest).trans
        (fieldPwr_modField_same s f fun x => { x with wake := some (r, .fill, slow, s.now) })
    · exact (congrArg (fun t => t.region r) hrest).trans (region_modRegion_same _ r fun q =>
        { q with pwr := .running, clk := .running, grade := s.clock.grade, level := 0, owedEdges := 0, ran := true, fresh := true })

end Sys2Proof.Machine
end

section
/-! PROOF. The completion ring, the aperture, BAR2 and the vectors (R424 to R429, R434, R436, R437, R466). -/

namespace Sys2Proof.Machine
open Sys2Proof

/-! ### The ring and the aperture -/

theorem ringCtl_on {n : Nat} {s : State} (h6 : 6 ≤ n) (h16 : n ≤ 16) (h : s.hif.ringOn = false) :
    ringCtl true n s = flushHeld s.hif.heldEntries.length
      { s with hif := { s.hif with ringLog := n, ringOn := true, tail := 0, head := 0, written := [] } } := by
  have hlog : (s.modHif fun h => if h.ringOn || decide (n < 6) || decide (16 < n) then h else { h with ringLog := n }) =
      { s with hif := { s.hif with ringLog := n } } := by
    rw [State.modHif, if_neg (by simp [h]; omega)]
  rw [ringCtl, hlog, if_pos (by simp [h])]
  rfl

theorem ringCtl_already {n : Nat} {s : State} (h : s.hif.ringOn = true) : ringCtl true n s = s := by
  have hlog : (s.modHif fun h => if h.ringOn || decide (n < 6) || decide (16 < n) then h else { h with ringLog := n }) = s := by
    rw [State.modHif, if_pos (by simp [h])]
  have hon : (s.modHif fun h => { h with ringOn := true }) = s := by
    simp only [State.modHif, ← h]
  rw [ringCtl, hlog, if_neg (by simp [h])]
  exact hon

theorem setHi_eq (v x : Nat) : setHi v x = v % 2 ^ 32 + x % 2 ^ 32 * 2 ^ 32 := by
  rw [setHi, Nat.shiftLeft_eq, Nat.add_comm]

theorem setLo_eq (v x : Nat) : setLo v x = v / 2 ^ 32 * 2 ^ 32 + x % 2 ^ 32 := by
  rw [setLo, Nat.shiftLeft_eq, Nat.shiftRight_eq_div_pow]

/-! ### BAR2 -/

/-- A read of at most 512 bytes goes out whole. -/
theorem readParts_one (f a : Nat) {n : Nat} (h1 : 1 ≤ n) (h : n ≤ 512) : readParts (f + 2) a n = [(a, n)] := by
  rw [readParts, if_neg (by omega)]
  simp only [Nat.min_eq_left h, Nat.sub_self]
  rw [readParts, if_pos rfl]

theorem freeTag_modHif (s : State) (f : HostIf → HostIf) (src : Nat) : (s.modHif f).freeTag src = s.freeTag src := by
  unfold State.freeTag
  rw [modHif_outs]

theorem find?_tag_none {rs : List Bar2Read} {tag : Nat} (h : ∀ r ∈ rs, r.tag ≠ tag) : (rs.find? fun r => r.tag == tag) = none :=
  List.find?_eq_none.mpr fun r hr => by simp [h r hr]

/-- A read that ends as it is entered leaves an abort and its record. -/
theorem bar2Abort_last {s : State} {r : Bar2Read} (h : ∀ o ∈ s.hif.bar2Reads, o.tag ≠ r.tag) :
    bar2Abort r.tag (s.modHif fun h => { h with bar2Reads := h.bar2Reads ++ [r] }) =
      hostAccessEvent 1 r.addr r.tag ((expire (fun o => o.who == Requester.bar2 r.tag && !o.write) s).modHif fun h =>
        { h with bar2Done := h.bar2Done ++ [(r.tag, none)] }) := by
  have hfind : ((s.hif.bar2Reads ++ [r]).find? fun o => o.tag == r.tag) = some r := by
    rw [List.find?_append, find?_tag_none h]
    simp
  have hfilter : ((s.hif.bar2Reads ++ [r]).filter fun x => x.tag != r.tag) = s.hif.bar2Reads := by
    rw [List.filter_append, List.filter_eq_self.mpr fun o ho => by simp [h o ho]]
    simp
  simp only [bar2Abort, State.modHif, hfind, expire, hfilter]

/-! ### Vectors -/

theorem signalVector_disabled {v : Nat} {s : State} (h : s.hif.msixEnable = false) : signalVector v s = s := by
  rw [signalVector, State.modHif, if_pos (by simp [h])]

theorem signalVector_open {v : Nat} {s : State} (he : s.hif.msixEnable = true) (hv : s.hif.vectorOpen v = true) :
    signalVector v s = { s with hif := { s.hif with messages := s.hif.messages ++ [v] } } := by
  rw [signalVector, State.modHif, if_neg (by simp [he]), if_pos hv]

theorem signalVector_masked {v : Nat} {s : State} (he : s.hif.msixEnable = true) (hv : s.hif.vectorOpen v = false) :
    signalVector v s = { s with hif := { s.hif with pendingBits := insertRising v s.hif.pendingBits } } := by
  rw [signalVector, State.modHif, if_neg (by simp [he]), if_neg (by simp [hv])]

/-- A vector that is not held back goes out, and is held back from now on. -/
theorem faultSignal_free {v : Nat} {s : State} (h : (s.faults.holdoff.find? fun e => e.1 == v && decide (s.now < e.2 + 100000)) = none) :
    faultSignal v s = signalVector v (s.modFaults fun f =>
      { f with holdoff := (f.holdoff.filter fun e => e.1 != v) ++ [(v, s.now)], owed := f.owed.filter fun w => w != v }) := by
  simp only [faultSignal, h]

theorem vectorHoldoff_held {v : Nat} {s : State} {e : Nat × Nat} (h : (s.faults.holdoff.find? fun e => e.1 == v) = some e) :
    vectorHoldoff v s = if s.now < e.2 + 100000 then s
      else if v ∈ s.faults.owed then faultSignal v (s.modFaults fun f => { f with holdoff := f.holdoff.filter fun e => e.1 != v })
      else s.modFaults fun f => { f with holdoff := f.holdoff.filter fun e => e.1 != v } := by
  simp only [vectorHoldoff, h, List.contains_iff_mem]

/-- Settles O55. -/
theorem hostInterface : Obligations.HostInterface := by
  refine ⟨fun s hp => ⟨?_, ?_, ?_, ?_, ?_, ?_, ?_, ?_, ?_, ?_⟩, fun s hp => ⟨?_, ?_, ?_, ?_, ?_, ?_, ?_, ?_⟩⟩
  · intro n h6 h16 hoff v
    have hok : (decide (6 ≤ n) && decide (n ≤ 16)) = true := by simp only [h6, h16, decide_true, Bool.and_self]
    exact eq_next hok hp (ringCtl_on h6 h16 hoff)
  · intro n h6 h16 hon
    have hok : (decide (6 ≤ n) && decide (n ≤ 16)) = true := by simp only [h6, h16, decide_true, Bool.and_self]
    exact eq_next hok hp (ringCtl_already hon)
  · intro v hv hh ht hlt
    exact eq_next (decide_eq_true hv) hp (if_neg (Nat.not_le.mpr hlt))
  · intro v hv hh ht ht' he
    have hle : (v + 2 ^ 32 - s.hif.head) % 2 ^ 32 ≤ (s.hif.tail + 2 ^ 32 - s.hif.head) % 2 ^ 32 := by omega
    refine eq_next (decide_eq_true hv) hp ?_
    rw [ringHead, if_pos hle]
    have hlen : s.hif.heldEntries.length = 0 := by rw [he]; rfl
    simp only [modHif_hif, hlen]
    rfl
  · intro v hv
    refine eq_next (decide_eq_true hv) hp ?_
    have hs : setHi s.hif.aperture (v % 2 ^ 31) = s.hif.aperture % 2 ^ 32 + (v % 2 ^ 31) * 2 ^ 32 := by rw [setHi_eq]; omega
    exact congrArg (fun a => { s with hif := { s.hif with aperture := a } }) hs
  · intro v hv
    refine eq_next (decide_eq_true hv) hp ?_
    have hs : setLo s.hif.aperture (v % 2 ^ 32 / 2 ^ 30 * 2 ^ 30) = s.hif.aperture / 2 ^ 32 * 2 ^ 32 + v / 2 ^ 30 * 2 ^ 30 := by
      rw [setLo_eq]
      omega
    exact congrArg (fun a => { s with hif := { s.hif with aperture := a } }) hs
  · intro o data ho hl a src
    have hok : (decide (o + data.length ≤ 2 ^ 36) && decide (data.length ≤ 512)) = true := by simp only [ho, hl, decide_true,
      Bool.and_self]
    refine eq_next hok hp ?_
    rw [bar2Write]
    refine if_congr ?_ rfl rfl
    simp [a]
  · intro o len tag ho h1 hl ht hb a src v
    have hok : (decide (o + len ≤ 2 ^ 36) && decide (1 ≤ len) && decide (len ≤ 4096) && decide (tag < 2 ^ 14)) = true := by
      simp only [ho, h1, (by omega : len ≤ 4096), ht, decide_true, Bool.and_self]
    refine eq_next hok hp ?_
    rw [bar2Read, if_neg (by simp [hb])]
    simp only [readParts_one _ _ h1 hl, foldState, List.foldl_cons, List.foldl_nil, Nat.sub_self, freeTag_modHif]
    rfl
  · intro o len tag ho h1 hl ht hb hfree
    have hok : (decide (o + len ≤ 2 ^ 36) && decide (1 ≤ len) && decide (len ≤ 4096) && decide (tag < 2 ^ 14)) = true := by
      simp only [ho, h1, hl, ht, decide_true, Bool.and_self]
    refine eq_next hok hp ?_
    rw [bar2Read, if_pos hb]
    exact (bar2Abort_last (r := { tag := tag, addr := (s.hif.aperture + o) % 2 ^ 64, len := len, since := s.now }) hfree).trans rfl
  · intro tag r hr
    refine eq_next rfl hp ?_
    simp only [hr]
  · intro t ht
    refine eq_next rfl hp ?_
    simp only [ht]
    rfl
  · intro hn
    refine eq_next rfl hp ?_
    simp only [hn]
  · intro v e hv he u
    refine eq_next (decide_eq_true hv) hp ?_
    rw [vectorHoldoff_held he]
    refine if_congr Iff.rfl rfl (if_congr Iff.rfl ?_ rfl)
    have hnone : ((s.faults.holdoff.filter fun e => e.1 != v).find? fun e => e.1 == v && decide (s.now < e.2 + 100000)) = none := by
      simp [List.find?_eq_none]
      grind
    have htwice : ((s.faults.holdoff.filter fun e => e.1 != v).filter fun e => e.1 != v) = s.faults.holdoff.filter fun e => e.1 != v := by
      simp
    refine (faultSignal_free hnone).trans ?_
    simp only [State.modFaults, htwice]
    rfl
  · intro v hv hn
    refine eq_next (decide_eq_true hv) hp ?_
    simp only [vectorHoldoff, hn]
  · intro v hv h
    refine eq_next (decide_eq_true hv) hp ?_
    have hcond : (s.hif.pendingBits.contains v && s.hif.msixEnable && !s.hif.functionMask) = true ↔
        v ∈ s.hif.pendingBits ∧ s.hif.msixEnable = true ∧ s.hif.functionMask = false := by
      simp [and_assoc]
    simp only [vectorUnmask, State.modHif, hcond, h]
  · exact fun v => signalVector_disabled
  · exact fun v he hu hm => signalVector_open he (by simp [HostIf.vectorOpen, hu, hm])
  · exact fun v he h => signalVector_masked he (by rcases h with h | h <;> simp [HostIf.vectorOpen, h])

end Sys2Proof.Machine
end

section
/-! PROOF. TRANSFER, ATOMIC, TAG_QUERY and the doorbell (R430 to R432, R442, R444, R448). -/

namespace Sys2Proof.Machine
open Sys2Proof

/-- Taking a command into the journal changes the journal alone. -/
theorem journalled_journal (c : Cmd) (op : Nat) (s : State) :
    ∃ j, journalled c op s = { s with hif := { s.hif with journal := j } } := by
  unfold journalled
  split
  · exact ⟨s.hif.journal, rfl⟩
  · exact ⟨_, rfl⟩

theorem foldState_nil {α : Type} (f : State → α → State) (s : State) : foldState [] f s = s := rfl

theorem foldState_one {α : Type} (f : State → α → State) (a : α) (s : State) : foldState [a] f s = f s a := rfl

/-! ### The resends of an atomic command -/

/-- The outstanding request of an atomic command, given up. -/
def atomicExpired (w : AtomicWait) (s : State) : State :=
  { s with outs := s.outs.map fun o => if o.who == Requester.atomic && o.off == w.aseq then { o with who := .expired } else o }

theorem retryAtomic_early {w : AtomicWait} {s : State} (h : s.now < w.sent + 1000000) : retryAtomic w s = s := if_pos h

theorem retryAtomic_again {w : AtomicWait} {s : State} (h : w.sent + 1000000 ≤ s.now) (h20 : s.now < w.first + 20000000) :
    retryAtomic w s = sendAtomic w ((atomicExpired w s).modHif fun h =>
      { h with atomics := h.atomics.map fun x => if x.tag = w.tag then { x with sent := s.now } else x }) :=
  (if_neg (Nat.not_lt.mpr h)).trans (if_neg (Nat.not_le.mpr h20))

theorem retryAtomic_busy {w : AtomicWait} {s : State} (h : w.sent + 1000000 ≤ s.now) (h20 : w.first + 20000000 ≤ s.now)
    (hr : w.refused = true) : retryAtomic w s = atomicDone w 0x16 0 [] (atomicExpired w s) :=
  (if_neg (Nat.not_lt.mpr h)).trans ((if_pos h20).trans (if_pos hr))

theorem atomicRetry_one {w : AtomicWait} {s : State} (h : s.hif.atomics = [w]) :
    foldState s.hif.atomics (fun t w => retryAtomic w t) s = retryAtomic w s := by
  rw [h, foldState_one]

/-! ### The doorbell -/

theorem serves_ready {s : State} (h : s.boot.state = .ready) (op : Nat) : s.serves op = true := by
  simp only [State.serves, h]

/-- The doorbell of a slot whose busy bit is clear and whose tag is new. -/
theorem takeSlot_new {s : State} {slot : Nat} {bs : List Byte} {w0 w1 tag op job dg : Nat} (hbs : readBytes s.slotMem (256 * slot) 256 =
    bs)
    (h0 : leNat ((bs.drop 0).take 4) = w0) (h1 : leNat ((bs.drop 4).take 4) = w1) (htag : leNat ((bs.drop 8).take 8) = tag)
    (hop : bits w0 31 24 = op) (hjob : bits w0 23 16 = job) (hdg : slotDigest bs = dg) (hb : slot ∉ s.hif.busy) (hr : s.boot.state =
      .ready)
    (hj : ∀ j ∈ s.hif.journal, j.tag ≠ tag) (hc : ∀ e ∈ s.hif.completed, e.1 ≠ tag) {v : State}
    (hv : v = { s with hif := { s.hif with journal := s.hif.journal ++ [{ tag := tag, digest := dg, opcode := op, job := job }] } }) :
    takeSlot slot s = if op = 0 ∨ 0x17 < op then finishTag tag (commandEntry tag op job 0x01 0 []) v
      else match badHeader w0 w1 tag with
        | some o => finishTag tag (commandEntry tag op job 0x02 o []) v
        | none => v := by
  subst hv
  have hbusy : (s.hif.busy.filter fun b => b != slot) = s.hif.busy :=
    List.filter_eq_self.mpr fun b hbm => bne_iff_ne.mpr fun e => hb (e ▸ hbm)
  have hfj : (s.hif.journal.find? fun j => j.tag == tag) = none := List.find?_eq_none.mpr fun j hm => by simp [hj j hm]
  have hfc : (s.hif.completed.find? fun e => e.1 == tag) = none := List.find?_eq_none.mpr fun e hm => by simp [hc e hm]
  have hs1 : (s.modHif fun h => { h with busy := h.busy.filter fun b => b != slot }) = s := by
    rw [State.modHif, hbusy]
  simp only [takeSlot, hs1, hbs, h0, h1, htag, hop, hjob, hfj, hfc, hdg, serves_ready hr, Bool.not_true, Bool.false_eq_true,
    if_false] <;> rfl

/-- Settles O54. -/
theorem transfersAtomicsAndTags : Obligations.TransfersAtomicsAndTags := by
  intro s c u
  refine ⟨?_, ?_, ?_, fun hp ha => eq_next rfl hp (by simp only [ha, foldState_nil]), ?_, ?_, ?_⟩
  · intro src dst count ctrl vector hp hs hd hc h0 h26 hv
    have hok : (cmdOk c && decide (src < 2 ^ 64) && decide (dst < 2 ^ 64) && decide (count < 2 ^ 32) && decide (ctrl < 2 ^ 32) &&
        decide (vector < 2 ^ 32)) = true := by
      simp only [hp.2.1, hs, hd, hc, decide_eq_true (show ctrl < 2 ^ 32 by omega), decide_eq_true (show vector < 2 ^ 32 by omega),
        decide_true, Bool.and_self]
    exact performs_next hp hok ((if_neg (by omega)).trans (if_neg (by omega)))
  · intro addr aop w64 a b hp haddr h1 h7 h3 ha hb n w
    have hok : (cmdOk c && decide (addr < 2 ^ 64) && decide (aop < 16) && decide ((if w64 then 2 ^ 27 else 0) < 2 ^ 28) && decide
      (a < 2 ^ 64) &&
        decide (b < 2 ^ 32)) = true := by
      have hlow : (if w64 then 2 ^ 27 else 0) < 2 ^ 28 := by cases w64 <;> decide
      simp only [hp.2.1, haddr, decide_eq_true (show aop < 16 by omega), hlow, ha, hb, decide_true, Bool.and_self]
    refine performs_next hp hok ?_
    have hw : bit (if w64 then 2 ^ 27 else 0) 27 = w64 := by cases w64 <;> decide
    have hrest : (if w64 then 2 ^ 27 else 0) % 2 ^ 27 = 0 := by cases w64 <;> decide
    obtain ⟨J, hu⟩ := journalled_journal c 0x15 s
    have hgood : ¬ (aop = 0 ∨ 7 < aop ∨ (aop = 3 ∧ w64 = true) ∨ 0 ≠ 0) := by
      rintro (h | h | h | h)
      · omega
      · omega
      · exact h3 h
      · exact h rfl
    rw [atomicCommand, if_neg (by rw [hw, hrest]; exact hgood)]
    simp only [u, hu, hw]
    rfl
  · intro addr aop low a b hp haddr haop hlow ha hb h
    have hok : (cmdOk c && decide (addr < 2 ^ 64) && decide (aop < 16) && decide (low < 2 ^ 28) && decide (a < 2 ^ 64) && decide
      (b < 2 ^ 32)) = true := by
      simp only [hp.2.1, haddr, haop, hlow, ha, hb, decide_true, Bool.and_self]
    exact performs_next hp hok (if_pos h)
  · intro w hp hw v
    have hall : exec .atomicRetry s = .next (retryAtomic w s) := eq_next rfl hp (atomicRetry_one hw)
    refine ⟨fun h => by rw [hall, retryAtomic_early h], fun h h20 => ?_, fun h h20 hr => by rw [hall, retryAtomic_busy h h20 hr]; rfl⟩
    have hmap : (s.hif.atomics.map fun x => if x.tag = w.tag then { x with sent := s.now } else x) = [{ w with sent := s.now }] := by
      rw [hw, List.map_singleton, if_pos rfl]
    rw [hall, retryAtomic_again h h20, ← hmap]
    rfl
  · intro tags hp hne hlen hall
    have hok : (cmdOk c && tags.all fun t => decide (t < 2 ^ 64)) = true := by
      rw [hp.2.1, Bool.true_and, List.all_eq_true]
      exact fun t ht => decide_eq_true (hall t ht)
    refine performs_next hp hok (if_neg ?_)
    simp [hne, hlen]
  · intro slot hp hs
    have hok := decide_eq_true hs
    refine ⟨fun hb => eq_next hok hp (if_pos (by simp [hb])), fun hb hst => eq_next hok hp ((if_neg (by simp [hb])).trans (if_pos hst)),
      ?_⟩
    intro hb hst ht hl hcore
    have htakes : s.takes = true := by simp [State.takes, ht, hl]
    have htaken : doorbell slot s = takeSlot slot s := by
      rw [doorbell, if_neg (by simp [hb]), if_neg (by simp [hst]), if_neg (by simp [htakes]), if_neg (by simp [hcore])]
    intro bs w tag hj hc op job v
    exact eq_next hok hp (htaken.trans (takeSlot_new rfl rfl rfl rfl rfl rfl rfl hb hst hj hc rfl))

end Sys2Proof.Machine
end

section
/-! PROOF. RUN, STEP, RESUME, KILL and DUMP (R342, R344, R345, R347, R431, R438, R445). -/

namespace Sys2Proof.Machine
open Sys2Proof

/-- A job may take an order to run. -/
theorem mayRun_iff (x : Job) : x.mayRun = true ↔ x.mode = .placed ∨ (x.mode = .running ∧ x.inFlight = false ∧ x.order = none) := by
  simp [Job.mayRun, and_assoc]

/-- A command whose turn has not come, or that its slot does not name, waits. -/
theorem command_waits {c : Cmd} {op : Nat} {f : State → State} {s : State} (h : s.inTurn c op = false ∨ s.rung c op = false) :
    command c op f s = s := by
  rw [command]
  refine ite_eq_left_iff.mpr fun _ => if_pos ?_
  rcases h with h | h <;> simp [h]

theorem holdKill_first {c : Cmd} {graceful : Bool} {x : Job} {s : State} (hx : s.job? c.job = some x) (hk : x.killed = none) :
    holdKill c graceful x s = s.setJob c.job { x with killed := some (c.tag, graceful) } := by
  simp only [holdKill, hk, modJob_some _ hx]

theorem killNow_job {j tag : Nat} {graceful : Bool} {x : Job} {s : State} (hx : s.job? j = some x) :
    killNow j tag graceful s = finishTag tag (commandEntry tag 0x06 j 0 (if x.inFlight then 1 else 0) [])
      (endJob j (if x.mode = .held then 0x09 else if graceful then 0x00 else 0x01) 0 tag s) := by
  simp only [killNow, hx]

/-- A replay that a KILL waits for. -/
theorem replayHolds_iff (x : Job) :
    (match x.replay with | some r => decide (r.phase ≤ 6) | none => false) = true ↔ ∃ r, x.replay = some r ∧ r.phase ≤ 6 := by
  cases x.replay <;> simp

section
variable {s : State} {c : Cmd} {x : Job} (hj : c.job < 16) (hx : s.job? c.job = some x)
include hj hx

theorem kill_job : kill c s =
    if x.mode = .ending then
      finishWith c 0x06 0 (s.setJob c.job { x with
        released := true, ending := if x.retain && !x.released then x.ending.map fun e => (e.1, e.2.1, c.tag) else x.ending
        endingOp := if x.retain && !x.released then 0x06 else x.endingOp })
    else if bit c.flags 0 && x.inFlight then holdKill c true x s
    else if match x.replay with | some r => decide (r.phase ≤ 6) | none => false then holdKill c false x s
    else killNow c.job c.tag (bit c.flags 0) s :=
  jobCommand_some hj hx rfl

theorem dump_tally {off : Nat} {buf : HostBuf} (hr : x.retain = true) (hm : x.mode = .ending) (hrel : x.released = false)
    (hl : off + buf.len ≤ 2048) (ha : buf.addr % 64 = 0) (hc : buf.cause = 0) :
    dump c 2 0 off buf s = finish c 0x07 0 (((tallyRing c.job x).drop off).take buf.len).length []
      (releaseResidue c { s with hostMem := writeBytes s.hostMem buf.addr (((tallyRing c.job x).drop off).take buf.len) }) := by
  have harea : dumpArea c.job x 2 0 off buf.len s = .ok (((tallyRing c.job x).drop off).take buf.len, none, s) := by
    rw [dumpArea, if_neg (by omega), if_neg (by omega), if_pos rfl, if_neg (by omega)]
  rw [dump, jobCommand_some hj hx rfl, if_neg (by simp [hr]), if_neg (by simp [hm, hrel])]
  simp only [harea]
  rw [if_neg (by omega), if_neg (by omega)]

end

/-- Settles O49. -/
theorem ordersAndEndsOfJobs : Obligations.OrdersAndEndsOfJobs := by
  intro s c x hj hx u idle order
  have hxu (op : Nat) : (u op).job? c.job = some x := by rw [journalled_job?, hx]
  have one {op n : Nat} (hp : s.performs c op) (hn : n < 2 ^ 32) : (cmdOk c && decide (n < 2 ^ 32)) = true := by
    simp only [hp.2.1, hn, decide_true, Bool.and_self]
  refine ⟨fun first count hp hf hc hi => performs_next hp ?_ (jobCommand_some hj (hxu _) ((mayRun_iff x).mpr hi)),
    fun n hp hn hi => performs_next hp (one hp hn) (jobCommand_some hj (hxu _) ((mayRun_iff x).mpr hi)),
    fun n hp hn hm => performs_next hp (one hp hn) (jobCommand_some hj (hxu _) (by simp [hm])),
    fun n hp hn hi => performs_next hp (one hp hn) (jobCommand_bad hj (hxu _) (Bool.not_eq_true _ ▸ mt (mayRun_iff x).mp hi)),
    fun n hp hn hm => performs_next hp (one hp hn) (jobCommand_bad hj (hxu _) (by simp [hm])), ?now, ?graceful, ?replaying,
    fun n hn h => ?waits, ?residue, ?dumped, ?kept⟩
  · simp only [hp.2.1, hf, hc, decide_true, Bool.and_self]
  case now =>
    intro hp hm hr hg reason
    refine performs_next hp hp.2.1 ((kill_job hj (hxu _)).trans ?_)
    rw [if_neg hm, if_neg (by rcases hg with hg | hg <;> simp [hg]), if_neg (by simp [hr]), killNow_job (hxu _)]
    rfl
  case graceful =>
    intro hp hm hg hf hk
    refine performs_next hp hp.2.1 ((kill_job hj (hxu _)).trans ?_)
    rw [if_neg hm, if_pos (by simp [hg, hf]), holdKill_first (hxu _) hk]
  case replaying =>
    intro r hp hm hg hr hph hk
    refine performs_next hp hp.2.1 ((kill_job hj (hxu _)).trans ?_)
    rw [if_neg hm, if_neg (by rcases hg with hg | hg <;> simp [hg]), if_pos ((replayHolds_iff x).mpr ⟨r, hr, hph⟩), holdKill_first
      (hxu _) hk]
  case waits =>
    exact congrArg Host.Outcome.next (ite_eq_right_iff.mpr fun _ => command_waits h)
  case residue =>
    intro hp hm hr hrel
    refine performs_next hp hp.2.1 ((kill_job hj (hxu _)).trans ?_)
    rw [if_pos hm, hr, hrel]
    rfl
  case dumped =>
    intro off buf hp hr hm hrel hl ha ha' hc bs
    have hok : (cmdOk c && decide (2 < 2 ^ 32) && decide (0 < 2 ^ 32) && decide (off < 2 ^ 64) && decide (buf.len < 2 ^ 32) &&
        decide (buf.addr < 2 ^ 64)) = true := by
      rw [hp.2.1, decide_eq_true (show off < 2 ^ 64 by omega), decide_eq_true (show buf.len < 2 ^ 32 by omega), decide_eq_true ha']
      rfl
    refine performs_next hp hok ((dump_tally hj (hxu _) hr hm hrel hl ha hc).trans ?_)
    obtain ⟨H, hu⟩ := journalled_eq c 0x07 s
    simp only [u, hu]
    rfl
  case kept =>
    intro area index off buf hp harea hi ho hl ha hr
    have hok : (cmdOk c && decide (area < 2 ^ 32) && decide (index < 2 ^ 32) && decide (off < 2 ^ 64) && decide (buf.len < 2 ^ 32) &&
      decide (buf.addr < 2 ^ 64)) = true := by
      simp only [hp.2.1, harea, hi, ho, hl, ha, decide_true, Bool.and_self]
    refine performs_next hp hok ((jobCommand_some hj (hxu _) rfl).trans ?_)
    rw [if_pos (by simp [hr])]
    rfl

end Sys2Proof.Machine
end

section
/-! PROOF. IMAGE_LOAD, JOB_CREATE and PLACE (R317, R320 to R323, R443). -/

namespace Sys2Proof.Machine
open Sys2Proof

/-! ### IMAGE_LOAD -/

section
variable {c : Cmd} {buf : HostBuf} {im : Image} {x : Job} {s : State} (ha : buf.addr % 4096 = 0) (hb : buf.cause = 0) (hj : c.job < 16)
  (hx : s.job? c.job = some x) (hm : x.mode = .created) (hi : x.image = none)
include ha hb hj hx hm hi

theorem imageLoad_good {ls : List CellarLot} {t : State} (hf : imageFault im = none)
    (hs : stagePayloads c.job (x.cellarMib * 2 ^ 20) (staged im) s = some (ls, t)) :
    imageLoad c buf im s = finish c 0x01 0 0 (digestWords im.digest) (t.setJob c.job { x with image := some im, cellar := ls }) := by
  rw [imageLoad, if_neg (by omega), jobCommand_some hj hx (by simp [hm, hi]), if_neg (by omega)]
  simp only [hf, hs]

theorem imageLoad_bad {st : Nat} (hf : imageFault im = some st) : imageLoad c buf im s = finish c 0x01 st 0 [] s := by
  rw [imageLoad, if_neg (by omega), jobCommand_some hj hx (by simp [hm, hi]), if_neg (by omega)]
  simp only [hf]
  rfl

end

/-! ### JOB_CREATE -/

/-- The lowest free slot, or the one named where it is free. -/
theorem createSlot_eq {s : State} {k j : Nat}
    (h : if k = 255 then j < 16 ∧ s.job? j = none ∧ ∀ i, i < j → s.job? i ≠ none else j = k ∧ s.job? j = none) : s.createSlot k = some
      j := by
  unfold State.createSlot
  split at h
  · next hk =>
    obtain ⟨hj, hfree, hlow⟩ := h
    rw [if_pos hk, List.find?_range_eq_some]
    exact ⟨by simp [hfree], List.mem_range.mpr hj, fun i hi => by simp [Option.ne_none_iff_isSome.mp (hlow i hi)]⟩
  · next hk =>
    obtain ⟨rfl, hfree⟩ := h
    rw [if_neg hk, if_pos (by simp [hfree])]

theorem jobCreate_good {c : Cmd} {n id brine cellar lead j : Nat} {s : State} (h1 : 1 ≤ n) (h96 : n ≤ 96) (hl : lead < 8192)
    (hj : s.createSlot c.job = some j) (hn : n ≤ s.freeRegions.length) (hb : sumNat (s.jobs.map fun e => e.2.brineMib) + brine ≤ 32 *
      s.memdev.n)
    (hc : (sumNat (s.jobs.map fun e => e.2.cellarMib) + cellar) * 2 ^ 20 ≤ s.cellarUsable) :
    let m := maskOf (s.freeRegions.take n)
    jobCreate c n id brine cellar lead s =
      finish { c with job := j } 0x02 0 j [m % 2 ^ 32, (m >>> 32) % 2 ^ 32, (m >>> 64) % 2 ^ 32]
        (s.setJob j
          { mode := .created, regions := s.freeRegions.take n, jobId := id, brineMib := brine, cellarMib := cellar, lead := lead
            retain := bit c.flags 0, created := s.now, chargedTo := s.now, jrt := List.replicate n 1 }) := by
  rw [jobCreate, if_neg (by omega), if_neg (by omega)]
  simp only [hj]
  have hlen : ¬ (s.freeRegions.take n).length < n := by
    rw [List.length_take]
    omega
  rw [if_neg hlen, if_neg (by simp only [decide_eq_false (Nat.not_lt.mpr hb), decide_eq_false (Nat.not_lt.mpr hc)]; decide)]

/-! ### PLACE -/

theorem placeImage_good {c : Cmd} {seed : Nat} {rpt : HostBuf} {im : Image} {x0 x : Job} {s t : State} {ps : List Placed}
    (hx : x0.freshPlacement s seed rpt = x) (hr : (x.jrt.any fun v => v == 1) = true)
    (hp : placeTensors c.job x ((staged im).zip x.cellar |>.map fun e => (e.1.1, e.2.base / 2 ^ 21)) im.tensors.zipIdx s = some (ps, t))
    (hb : t.brineUsed c.job ≤ x.brineMib * 2 ^ 20) {gs : List Group} (hgs : ((im.groups.map fun g => t.groupsFor c.job x g).flatten).map
      (·.1) = gs)
    (hg : gs.length ≤ (t.freeGroups x).length) (hs : t.slotsFree im.collectives = true) {y : Job}
    (hy : { x with mode := .placed, placed := ps, groups := (t.freeGroups x).take gs.length, slots := im.collectives.map (·.rid) } = y)
      {v : State}
    (hv : (writeTables c.job y gs im.collectives (writeReqs im ps (writePayloads im ps t))).setJob c.job y = v)
    (hl : (v.reportBytes c.job y).length ≤ rpt.len) (hc : rpt.cause = 0) :
    placeImage c seed rpt im x0 s = finish c 0x03 0 (v.reportEntries y).length [] (writeReport c.job (loadFirst y v)) := by
  unfold placeImage
  simp only [hx, hr, hp, hgs, hy, hv, Bool.not_true, Bool.false_eq_true, if_false]
  rw [if_neg (Nat.not_lt.mpr hb), if_neg (by simp [hg, hs]), if_neg (Nat.not_lt.mpr hl), if_neg (by omega)]

/-- Settles O48. -/
theorem jobsAreCreatedAndPlaced : Obligations.JobsAreCreatedAndPlaced := by
  intro s c
  refine ⟨fun buf im x hp him ha hb hj hx hm hi => ⟨fun ls t hf hs => ?_, fun st hf => ?_⟩, ?created, ?placed, ?absent⟩
  · exact performs_next hp (by rw [hp.2.1, him]; rfl) (imageLoad_good ha hb hj (by rw [journalled_job?, hx]) hm hi hf hs)
  · exact performs_next hp (by rw [hp.2.1, him]; rfl) (imageLoad_bad ha hb hj (by rw [journalled_job?, hx]) hm hi hf)
  case created =>
    intro n id brine cellar lead j hp h1 h96 hid hb hc hl hslot hn hbr hce m
    have hok : (cmdOk c && decide (n < 2 ^ 32) && decide (id < 2 ^ 32) && decide (brine < 2 ^ 32) && decide (cellar < 2 ^ 32) && decide
      (lead < 2 ^ 32)) = true := by
      simp only [hp.2.1, decide_eq_true (show n < 2 ^ 32 by omega), decide_eq_true (show lead < 2 ^ 32 by omega), hid, hb, hc,
        decide_true, Bool.and_self]
    refine performs_next hp hok ?_
    obtain ⟨H, hu⟩ := journalled_eq c 0x02 s
    rw [hu]
    exact jobCreate_good h1 h96 hl (createSlot_eq hslot) hn hbr hce
  case placed =>
    intro seed rpt im x0 ps t hp hseed ha hc hj hx hm him x hr ht hb gs hg hs y v hl
    refine performs_next hp (by rw [hp.2.1, decide_eq_true hseed]; rfl) ?_
    rw [place, if_neg (by omega), jobCommand_some hj (by rw [journalled_job?, hx]) (by simp [hm, him])]
    simp only [him]
    exact placeImage_good rfl hr ht hb rfl hg hs rfl rfl hl hc
  case absent =>
    intro seed rpt hp hseed ha hj hx
    refine performs_next hp (by rw [hp.2.1, decide_eq_true hseed]; rfl) ?_
    rw [place, if_neg (by omega), jobCommand_none (.inr (by rw [journalled_job?, hx]))]
    rfl

end Sys2Proof.Machine
end

section
/-! PROOF. Port training and topology agreement (R411 to R415, R418, R441). -/

namespace Sys2Proof.Machine
open Sys2Proof

/-- What a step of bring-up shows outside BOOT_STATUS: vector 1 and the I3C notice. -/
theorem bootStep_leaves (f : State → State) (s : State) : ∃ m p i, bootStep f s =
    { f s with hif := { (f s).hif with messages := m, pendingBits := p }, faults := { (f s).faults with ibi := i } } := by
  rw [bootStep_of_eq (t := f s) rfl]
  split
  · exact ⟨_, _, _, rfl⟩
  · rw [signalVector, State.modHif]
    split
    · exact ⟨_, _, _, rfl⟩
    · split
      · exact ⟨_, _, _, rfl⟩
      · exact ⟨_, _, _, rfl⟩

/-! ### Training -/

theorem retrain_kept {bad : List UnitRef} {n : Nat} {p : Port} (h : 15 ∉ p.laneMap) : retrain bad n p = p :=
  if_neg (by simp [h])

/-- Noting a peer that is not the implied one. -/
theorem bit_noted (v : Nat) : bit (if bit v 8 then v else v + 2 ^ 8) 8 = true := by
  split
  · next h => exact h
  · next h =>
    rw [Bool.not_eq_true, bit] at h
    rw [bit, Nat.add_comm, Nat.testBit_two_pow_add_eq, h]
    rfl

theorem portTrained_fresh {n good dev port : Nat} {s : State} (hg : 8 ≤ good) (hst : (s.port n).state = 1 ∨ (s.port n).state = 4)
    (hl : 15 ∉ (s.port n).laneMap) : portTrained n good dev port s =
      (s.modPort n fun _ => trained dev port (s.peerOk n dev port) (s.port n)).modBoot fun x =>
        { x with found := if s.peerOk n dev port || bit x.found 8 then x.found else x.found + 2 ^ 8 } := by
  simp only [portTrained, retrain_kept hl]
  refine if_neg ?_
  rcases hst with h | h <;> simp [h, hg, hl]

theorem portTrained_few {n good dev port : Nat} {s : State} (hg : good < 8) : portTrained n good dev port s = s :=
  if_pos (by simp [hg])

/-! ### Agreement -/

/-- Taking the tide changes the clock alone. -/
theorem startTide_clock (a b : Option Nat) (s : State) : ∃ c, startTide a b s = { s with clock := c } := by
  have hre : ∃ c, tideReselect s = { s with clock := c } := by
    unfold tideReselect
    dsimp only
    split
    · exact ⟨_, rfl⟩
    · split
      · exact ⟨_, rfl⟩
      · split <;> exact ⟨_, rfl⟩
  obtain ⟨c, hc⟩ := hre
  simp only [startTide, hc]
  split
  · cases a <;> exact ⟨_, rfl⟩
  · cases b <;> exact ⟨_, rfl⟩

theorem takeHeldBells_none {s : State} (h : s.hif.heldBells = []) : takeHeldBells s = s.modHif fun h => { h with heldBells := [] } := by
  rw [takeHeldBells, h, foldState_nil]

/-- The groups of differences that agreement looks for, by the cause bit of each. -/
def agreementDiff (found : Discovery) (s : State) : List (Nat × List DiffEntry) :=
  [(3, s.diffFields), (4, s.diffRouters ++ s.diffProbe found), (5, s.diffDomains), (6, s.diffLanes), (7, s.diffCellar found.densities),
   (8, s.diffPeers)]

/-- The cause bits of an agreement. -/
def agreementCause (found : Discovery) (s : State) : Nat :=
  sumNat ((agreementDiff found s).map fun g => flag (!g.2.isEmpty || (g.1 == 4 && found.pans.any fun l => (s.panPos l).isSome)) g.1) +
    (s.boot.found % 8 + flag (bit s.boot.found 9) 9)

/-- The device can be READY: no cause of R413 stands, and the cellar is filled. -/
def agrees (found : Discovery) (s : State) : Bool :=
  agreementCause found s % 512 == 0 &&
    (!s.memdev.cellarFill && !(s.chans.any fun (e : Nat × Chan) => e.2.mode == .training || e.2.mode == .filling))

/-- BOOT's part of an agreement. -/
def agreedBoot (found : Discovery) (s : State) (now : Nat) : Boot :=
  let b := s.boot
  let x := if agreementCause found s ≠ 0 ∨ !agrees found s then
      { b with cause := agreementCause found s, diff := { cause := agreementCause found s, epoch := b.epoch, entries :=
        ((agreementDiff found s).map (·.2)).flatten } }
    else b
  { x with phase := 10, readyTide := now, commitDue := agrees found s, state := if agrees found s then .ready else .notReady }

/-- What an agreement with no doorbell held leaves. -/
theorem topologyAgreement_ends {s : State} (found : Discovery) (host parent : Option Nat) (hst : s.boot.state = .inProgress)
    (hph : s.boot.phase = 9) (hb : s.hif.heldBells = []) :
    ∃ c now, topologyAgreement found host parent s = { s with
      clock := c, memdev := { s.memdev with cellarFill := false }
      svc := { s.svc with ident := if s.svc.homeId = 8191 then none else some s.svc.homeId, aliases := [] }
      hif := { s.hif with taking := true, heldBells := [] }, boot := agreedBoot found s now } := by
  choose C hC using startTide_clock host parent
  have hif (p : Prop) [Decidable p] (g : Boot → Boot) : (if p then s.modBoot g else s) = s.modBoot fun b => if p then g b else b := by
    split <;> rfl
  rw [topologyAgreement, if_neg (by simp [hst, hph])]
  change ∃ c now, (let s1 := if agreementCause found s ≠ 0 ∨ !agrees found s then s.modBoot fun x =>
      { x with cause := agreementCause found s, diff := { cause := agreementCause found s, epoch := x.epoch, entries :=
        ((agreementDiff found s).map (·.2)).flatten } }
      else s
    let s2 := { s1 with
      memdev := { s1.memdev with cellarFill := false }
      svc := { s1.svc with ident := if s1.svc.homeId = 8191 then none else some s1.svc.homeId, aliases := [] } }
    let s3 := startTide host parent s2
    takeHeldBells (setBoot (if agrees found s then .ready else .notReady) ((s3.modBoot fun x =>
      { x with phase := 10, readyTide := s3.now, commitDue := agrees found s }).modHif fun h => { h with taking := true }))) = _
  unfold agreedBoot
  generalize agreementCause found s = cause
  generalize agrees found s = ok
  generalize ((agreementDiff found s).map (·.2)).flatten = entries
  dsimp only
  rw [hif, hC, takeHeldBells_none (by exact hb)]
  exact ⟨_, _, rfl⟩

/-- Settles O47. -/
theorem portsAndTopologyAgreement : Obligations.PortsAndTopologyAgreement := by
  intro s hp
  refine ⟨fun n good dev port hn hpt hdev hg hst hl => ?_, fun n good dev port hn hpt hdev hg => eq_next ?_ hp (portTrained_few hg),
    fun n t0 hn hst ht => ⟨fun hle => ex_next (decide_eq_true hn) hp ?_, fun hlt => eq_next (decide_eq_true hn) hp ?_⟩,
    fun n hn hst => eq_next (decide_eq_true hn) hp (if_neg (by simp [hst])), ?agreement,
    fun found host parent hst => eq_next rfl hp (bootStep_same (if_pos (by simp [hst])))⟩
  · have hok : (decide (n < 16) && decide (port < 16) && decide (dev < 8192)) = true := by simp only [hn, hpt, hdev, decide_true,
      Bool.and_self]
    refine ⟨fun hpeer => ex_next hok hp ?_, fun hpeer => ex_next hok hp ?_⟩
    · rw [portTrained_fresh hg hst hl, hpeer]
      exact onlyPort_modPort s n fun _ => trained dev port true (s.port n)
    · rw [portTrained_fresh hg hst hl, hpeer]
      refine ⟨?_, ?_, bit_noted _, fun k hk => port_modPort_other s hk _⟩
      · exact congrArg Port.state (port_modPort_same s n _)
      · exact congrArg Port.peer (port_modPort_same s n _)
  · simp only [hn, hpt, hdev, decide_true, Bool.and_self]
  · rw [peerTimeout, if_pos (by simp [hst, ht, hle, State.now])]
    exact ⟨congrArg Port.state (port_modPort_same s n _), bit_noted _, fun k hk => port_modPort_other s hk _⟩
  · rw [peerTimeout, if_neg]
    simp only [ht, Bool.and_eq_true, decide_eq_true_eq]
    exact fun h => absurd h.2 (Nat.not_le.mpr hlt)
  case agreement =>
    intro found host parent hst hph hbells diff noPan cause
    obtain ⟨m, p, i, hshown⟩ := bootStep_leaves (topologyAgreement found host parent) s
    obtain ⟨c, now, hends⟩ := topologyAgreement_ends found host parent hst hph hbells
    refine ex_next rfl hp ?_
    rw [hshown, hends]
    refine ⟨rfl, rfl, rfl, fun hfill hch => ?_⟩
    have hfilled : (!s.memdev.cellarFill && !(s.chans.any fun (e : Nat × Chan) => e.2.mode == .training || e.2.mode == .filling)) =
      true := by
      simp only [hfill, Bool.not_false, Bool.true_and, Bool.not_eq_true', List.any_eq_false]
      intro e he
      simp [hch e he]
    have hagrees : agrees found s = (agreementCause found s % 512 == 0) := by rw [agrees, hfilled, Bool.and_true]
    refine ⟨fun h0 => ?_, fun hne => ?_⟩
    · have h0 : agreementCause found s = 0 := h0
      have hyes : agrees found s = true := by rw [hagrees, h0]; rfl
      simp only [agreedBoot, h0, hyes]
      exact ⟨rfl, rfl⟩
    · have hne : agreementCause found s % 512 ≠ 0 := hne
      have hno : agrees found s = false := by rw [hagrees]; exact beq_false_of_ne hne
      have hboot : agreedBoot found s now = { s.boot with
          cause := agreementCause found s
          diff := { cause := agreementCause found s, epoch := s.boot.epoch, entries := ((agreementDiff found s).map (·.2)).flatten }
          phase := 10, readyTide := now, commitDue := false, state := .notReady } := by
        unfold agreedBoot
        dsimp only
        rw [if_pos (Or.inr (by rw [hno]; rfl)), hno]
        rfl
      rw [hboot]
      exact ⟨rfl, rfl⟩

end Sys2Proof.Machine
end

section
/-! SUPPORT. Work that stays within the pans: their state, their requests on the way, and their stores. -/

namespace Sys2Proof.Machine
open Sys2Proof

/-- Only pans, requests on the way and stores differ. -/
def State.panWork (s t : State) : Prop := t = { s with pans := t.pans, outs := t.outs, storeMem := t.storeMem }

namespace State.panWork
variable {s t u : State}

theorem refl (s : State) : s.panWork s := rfl

theorem trans (h : s.panWork t) (h' : t.panWork u) : s.panWork u := by
  unfold State.panWork at h h' ⊢
  rw [h', h]

theorem modPan (p : Nat) (f : Pan → Pan) : s.panWork (s.modPan p f) := rfl

theorem dropFeeder (p : Nat) : s.panWork (Machine.dropFeeder p s) := rfl

theorem stop (p : Nat) : s.panWork (Machine.stop p s) := by
  unfold Machine.stop
  dsimp only
  split
  · exact (modPan p _).trans (dropFeeder p)
  · exact refl s

theorem idleChannels (p : Nat) : s.panWork (Machine.idleChannels p s) := rfl

theorem gateStore (p : Nat) : s.panWork (Machine.gateStore p s) := rfl

theorem foldState {α : Type} {f : State → α → State} (hf : ∀ (t : State) a, t.panWork (f t a)) (l : List α) (s : State) : s.panWork
    (Machine.foldState l f s) := by
  induction l generalizing s with
  | nil => exact refl s
  | cons a l ih => exact (hf s a).trans (ih (f s a))

theorem region (h : s.panWork t) (r : Nat) : t.region r = s.region r := by rw [h]; rfl
theorem topoOf (h : s.panWork t) (f : Nat) : t.topoOf f = s.topoOf f := by rw [h]; rfl
theorem fieldPwr (h : s.panWork t) (f : Nat) : t.fieldPwr f = s.fieldPwr f := by rw [h]; rfl

end State.panWork

/-- A record of the assay list changes BOOT alone. -/
theorem appendRun_boot (r : Nat) (s : State) : ∃ b, appendRun r s = { s with boot := b } := by
  unfold appendRun
  split
  · exact ⟨_, rfl⟩
  · exact ⟨s.boot, rfl⟩

/-- What a fence makes of its region. -/
def cutOff (q : Region) : Region := { q with fenced := true, pwr := .gated, clk := .gated, restSince := none, restGate := false }

/-- What a fence makes of its field's topology. -/
def rowCutOff (py : Nat) (t : Topo) : Topo :=
  { t with
    phys := setAt t.phys py 3
    rtt := t.rtt.map fun e => if e.row = py && (e.state == 0 || e.state == 2) then { e with state := 1 } else e
    resState := if t.resState = 1 && t.resRow == py then 3 else t.resState }

/-- A fence, by what it changes: the region's pans, the region, its field and BOOT's list. -/
theorem fenceRegion_eq (r : Nat) (s : State) : ∃ u b, s.panWork u ∧
    fenceRegion r s = { ((u.modRegion r cutOff).modField (r / 9) (dropWake r s.now)).modTopo (r / 9) (rowCutOff (r % 9)) with boot := b } := by
  have hpans : s.panWork (foldState (regionPans r) (fun t p => gateStore p (idleChannels p (stop p t))) s) :=
    .foldState (fun t p => ((State.panWork.stop p).trans (.idleChannels p)).trans (.gateStore p)) (regionPans r) s
  unfold fenceRegion
  generalize foldState (regionPans r) (fun t p => gateStore p (idleChannels p (stop p t))) s = u at hpans ⊢
  obtain ⟨b, hb⟩ := appendRun_boot r ((((u.modRegion r cutOff).modField (r / 9) (dropWake r s.now)).modTopo (r / 9)
    (rowCutOff (r % 9))).modBoot
    fun b => { b with fences := min 65535 (b.fences + 1) })
  exact ⟨u, b, hpans, hb⟩

/-- A region that is fenced is gated, and no other region changes. -/
theorem fenceRegion_regions (r : Nat) (s : State) :
    ((fenceRegion r s).region r).fenced = true ∧ ((fenceRegion r s).region r).pwr = .gated ∧ ((fenceRegion r s).region r).clk = .gated ∧
    ∀ k, k ≠ r → (fenceRegion r s).region k = s.region k := by
  obtain ⟨u, b, hpans, hf⟩ := fenceRegion_eq r s
  have hsame := region_modRegion_same u r cutOff
  rw [hf]
  exact ⟨congrArg Region.fenced hsame, congrArg Region.pwr hsame, congrArg Region.clk hsame,
    fun k hk => (region_modRegion_other u hk cutOff).trans (hpans.region k)⟩

theorem topoOf_report (f : FaultRec) (s : State) (i : Nat) : (report f s).topoOf i = s.topoOf i := rfl
theorem region_report (f : FaultRec) (s : State) (r : Nat) : (report f s).region r = s.region r := rfl
theorem region_modTopo (i : Nat) (f : Topo → Topo) (s : State) (r : Nat) : (s.modTopo i f).region r = s.region r := rfl

end Sys2Proof.Machine
end

section
/-! PROOF. The assay, its list, repairs and fills (R24, R196, R401, R403 to R410). -/

namespace Sys2Proof.Machine
open Sys2Proof

/-! ### The tag chain of the assay list -/

/-- A record's tag is taken over everything but the tag. -/
theorem listTag_of_body {r q : AssayRecord} (prev : Nat) (h : assayBody r = assayBody q) : listTag prev r = listTag prev q := by
  rw [listTag, listTag, h]

theorem listTag_tagged (prev x : Nat) (r : AssayRecord) : listTag prev { r with tag := x } = listTag prev r :=
  listTag_of_body prev rfl

/-- A chained list verifies whole. -/
theorem tagChain_chainRecords (prev : Nat) (rs : List AssayRecord) :
    tagChain listTag prev (chainRecords listTag prev rs) = (chainRecords listTag prev rs, false) := by
  induction rs generalizing prev with
  | nil => rfl
  | cons r rs ih =>
    simp only [chainRecords, tagChain, listTag_tagged, if_true, ih]

theorem map_assayBody_chainRecords (prev : Nat) (rs : List AssayRecord) :
    (chainRecords listTag prev rs).map assayBody = rs.map assayBody := by
  induction rs generalizing prev with
  | nil => rfl
  | cons r rs ih => exact congrArg₂ List.cons rfl (ih _)

theorem length_chainRecords (tag : Nat → AssayRecord → Nat) (prev : Nat) (rs : List AssayRecord) :
    (chainRecords tag prev rs).length = rs.length := by
  induction rs generalizing prev with
  | nil => rfl
  | cons r rs ih => exact congrArg (· + 1) (ih _)

theorem listRoom_eq : listRoom = 16384 := by decide

/-! ### Tables written whole -/

theorem look_append {α : Type} (d : α) (m n : Sparse α) (k : Nat) : look d (m ++ n) k = look (look d n k) m k := by
  induction m with
  | nil => rfl
  | cons e m ih =>
    rw [List.cons_append, look, look, ih]

/-- A table that gives every number below `n` its value. -/
theorem look_mapRange {α : Type} (d : α) (g : Nat → α) (n k : Nat) :
    look d ((List.range n).map fun i => (i, g i)) k = if k < n then g k else d := by
  induction n generalizing d with
  | zero => rfl
  | succ n ih =>
    rw [List.range_succ, List.map_append, look_append, ih, List.map_singleton, look, look]
    rcases Nat.lt_trichotomy k n with h | rfl | h
    · rw [if_pos h, if_pos (Nat.lt_succ_of_lt h)]
    · rw [if_neg (lt_irrefl k), if_pos rfl, if_pos (Nat.lt_succ_self k)]
    · rw [if_neg (by omega), if_neg (by omega), if_neg (by omega)]

theorem mem_map_snd {α β : Type} {f : Nat × α → β} {m : Sparse α} {k : Nat} {c : β} (h : (k, c) ∈ m.map fun e => (e.1, f e)) :
    ∃ d, (k, d) ∈ m ∧ c = f (k, d) := by
  obtain ⟨e, he, heq⟩ := List.mem_map.mp h
  obtain ⟨rfl, rfl⟩ := Prod.mk.inj heq
  exact ⟨e.2, he, rfl⟩

/-! ### What a step of bring-up keeps of its row's work -/

section
variable (f : State → State) (s : State)

theorem bootStep_boot : (bootStep f s).boot = (f s).boot := by obtain ⟨m, p, i, h⟩ := bootStep_leaves f s; rw [h]
theorem bootStep_memdev : (bootStep f s).memdev = (f s).memdev := by obtain ⟨m, p, i, h⟩ := bootStep_leaves f s; rw [h]
theorem bootStep_fin : (bootStep f s).fin = (f s).fin := by obtain ⟨m, p, i, h⟩ := bootStep_leaves f s; rw [h]
theorem bootStep_slices : (bootStep f s).slices = (f s).slices := by obtain ⟨m, p, i, h⟩ := bootStep_leaves f s; rw [h]
theorem bootStep_chans : (bootStep f s).chans = (f s).chans := by obtain ⟨m, p, i, h⟩ := bootStep_leaves f s; rw [h]
theorem bootStep_topo : (bootStep f s).topo = (f s).topo := by obtain ⟨m, p, i, h⟩ := bootStep_leaves f s; rw [h]
theorem bootStep_brineMem : (bootStep f s).brineMem = (f s).brineMem := by obtain ⟨m, p, i, h⟩ := bootStep_leaves f s; rw [h]
theorem slice_bootStep (i : Nat) : (bootStep f s).slice i = (f s).slice i := congrArg (look ({} : Slice) · i) (bootStep_slices f s)
theorem chan_bootStep (i : Nat) : (bootStep f s).chan i = (f s).chan i := congrArg (look ({} : Chan) · i) (bootStep_chans f s)
theorem topoOf_bootStep (i : Nat) : (bootStep f s).topoOf i = (f s).topoOf i := congrArg (look ({} : Topo) · i) (bootStep_topo f s)
theorem port_bootStep (n : Nat) : (bootStep f s).port n = (f s).port n := congrArg (fun x : Finron => look ({} : Port) x.ports n)
    (bootStep_fin f s)

end

/-! ### The rows -/

theorem assayListCheck_due {torn : List Nat} {s : State} (h : s.boot.state = .inProgress ∧ s.boot.phase = 3) :
    assayListCheck torn s =
      let l := tearRecords torn s.boot.list
      let c := tagChain listTag 0 l
      let b := s.boot.bcr
      { s with
        boot := { s.boot with list := l, verified := c.1, listUsed := l.length, phase := 4, found := s.boot.found + flag c.2 2 }
        memdev := { s.memdev with sites := b.sites, rate := b.rate, capacity := b.capacity }
        chans := (List.range 96).map fun ch =>
          (ch, ({ mode := if bit b.sites (ch / 4) then .training else .unpopulated, rate := b.rate } : Chan)) } :=
  if_neg (by simp [h.1, h.2])

theorem assayComplete_due {found : AssayFound} {s : State} (h : (s.boot.state = .inProgress ∧ s.boot.phase = 4) ∨ (s.boot.state =
    .inProgress ∧ s.boot.phase = 5)) :
    ∃ quick fresh, assayComplete found s = { s with
      boot := { s.boot with
        quick := quick, assayed := true, phase := 6, bad := unitsOnce (fuseMarks s.boot.fuses ++ defects s.boot.verified ++ found.bad)
        badOsc := found.oscillators, badChain := found.chains, repairs := found.repairs, fresh := fresh }
      chans := s.chans.map fun (e : Nat × Chan) => (e.1, if listed found.bad 9 e.1 then { e.2 with mode := .failed } else e.2) } :=
  ⟨_, _, if_neg (by rcases h with h | h <;> simp [h.1, h.2])⟩

theorem factoryMapCheck_due {record : List Byte} {s : State} (h : s.boot.state = .inProgress ∧ s.boot.phase = 3) :
    factoryMapCheck record s = s.modBoot fun x =>
      let flash := if record.isEmpty then x.bcrFlash else record
      let b := parseBcr flash
      { x with bcrFlash := flash, bcr := if b.good then b else { good := false, sites := 0 }
               found := flag (x.fuses.stepping != 0xA1 || !fuseDigestOk x.fuses) 0 + flag (!b.good) 1 } :=
  if_neg (by simp [h.1, h.2])

/-- The epoch that an update numbers. -/
def nextEpoch (x : Boot) : Nat :=
  match (x.verified.filter fun r => r.type == 1).getLast? with | some r => r.epoch + 1 | none => 1

/-- The records an update appends: the fresh defects, and its epoch's. -/
def updateRecords (s : State) : List AssayRecord :=
  (s.boot.fresh.map fun u =>
    { type := 2, cls := u.cls, detail := if u.cls = UnitCls.seam then u.detail else 0, index := u.index, epoch := nextEpoch s.boot, tide := s.now }) ++
  [{ type := 1, full := !s.boot.quick, epoch := nextEpoch s.boot, tide := s.now, trans := transDigest (foundTopo s.boot) }]

theorem length_updateRecords (s : State) : (updateRecords s).length = s.boot.fresh.length + 1 := by simp [updateRecords]

/-- The list's update: its records where they fit, and the epoch's number. -/
theorem assayListUpdate_due {s : State} (h : s.boot.state = .inProgress ∧ s.boot.phase = 6) :
    ∃ first renumbered found, assayListUpdate s = { s with boot :=
      { if 16384 < s.boot.list.length + s.boot.fresh.length + 1 then s.boot else appendRecords (updateRecords s) s.boot with
        epoch := nextEpoch s.boot, first := first, phase := 7, renumbered := renumbered, found := found } } := by
  have hfull : (listRoom - s.boot.list.length < s.boot.fresh.length + 1) = (16384 < s.boot.list.length + s.boot.fresh.length + 1) := by
    rw [listRoom_eq, eq_iff_iff]
    omega
  rw [assayListUpdate, if_neg (by simp [h.1, h.2])]
  simp only [hfull, decide_eq_true_eq]
  exact ⟨_, _, _, rfl⟩

/-- What the update of the list leaves of it and of the assay's marks. -/
theorem updated_list {s : State} {b : Boot}
    (hb : (if 16384 < s.boot.list.length + s.boot.fresh.length + 1 then s.boot else appendRecords (updateRecords s) s.boot) = b) :
    b.state = s.boot.state ∧ b.bad = s.boot.bad ∧ b.badOsc = s.boot.badOsc ∧ b.badChain = s.boot.badChain ∧
    (s.boot.list.length + s.boot.fresh.length + 1 ≤ 16384 →
      b.list.length = s.boot.list.length + s.boot.fresh.length + 1 ∧ s.boot.list <+: b.list ∧ b.listUsed = b.list.length) ∧
    (16384 < s.boot.list.length + s.boot.fresh.length + 1 → b.list = s.boot.list) := by
  subst hb
  split
  · next h => exact ⟨rfl, rfl, rfl, rfl, fun h' => absurd h (Nat.not_lt.mpr h'), fun _ => rfl⟩
  · next h =>
    refine ⟨rfl, rfl, rfl, rfl, fun _ => ⟨?_, List.prefix_append _ _, ?_⟩, fun h' => absurd h' h⟩
    · simp only [appendRecords, List.length_append, length_chainRecords, length_updateRecords]
      omega
    · simp only [appendRecords, List.length_append]

theorem repairsApplied_due {s : State} (h : s.boot.state = .inProgress ∧ s.boot.phase = 7) :
    repairsApplied s = gateDomains (applyRepairs (foundTopo s.boot) (badRouters s.boot.bad) (s.modBoot fun x => { x with phase := 8 })) :=
  if_neg (by simp [h.1, h.2])

section
variable (topo : Nat → Topo) (routers : List Nat) (s : State)

theorem memdev_applyRepairs :
    (gateDomains (applyRepairs topo routers s)).memdev.n = ((List.range 1620).filter fun i => !badSlice s.boot.bad routers i).length := by
  simp only [gateDomains, State.modPower, applyRepairs, assayMem]

theorem slice_applyRepairs {i : Nat} (h : i < 1620) :
    ((gateDomains (applyRepairs topo routers s)).slice i).mode = if badSlice s.boot.bad routers i then .bad else .filling := by
  simp only [gateDomains, State.modPower, applyRepairs, State.slice, look_mapRange, if_pos h]

theorem topoOf_applyRepairs {f : Nat} (h : f < 12) : (gateDomains (applyRepairs topo routers s)).topoOf f = topo f := by
  simp only [gateDomains, State.modPower, applyRepairs, State.topoOf, look_mapRange, if_pos h]

end

/-- Ports that begin to train together. -/
theorem foldState_train (l : List Nat) (s : State) :
    let t := foldState l (fun t n => t.modPort n fun p => { p with state := 1, trainFrom := some t.now }) s
    t.boot = s.boot ∧ ∀ n, t.port n = if n ∈ l then { s.port n with state := 1, trainFrom := some s.clock.tide } else s.port n := by
  induction l generalizing s with
  | nil => exact ⟨rfl, fun n => rfl⟩
  | cons k l ih =>
    obtain ⟨hboot, hports⟩ := ih (s.modPort k fun p => { p with state := 1, trainFrom := some s.now })
    refine ⟨hboot, fun n => (hports n).trans ?_⟩
    rcases eq_or_ne n k with rfl | hne
    · rw [port_modPort_same, if_pos List.mem_cons_self]
      split <;> rfl
    · rw [port_modPort_other _ hne]
      simp only [List.mem_cons, hne, false_or]
      rfl

/-- The brine filled with zeros. -/
def brineFilled (s : State) : State :=
  { s with
    memdev := { s.memdev with brineFill := false }, brineMem := []
    slices := s.slices.map fun (e : Nat × Slice) => (e.1, if e.2.mode = .filling then filledSlice s.now e.2 else e.2) }

theorem brineFillDone_due {s : State} (h : s.memdev.brineFill = true) : brineFillDone s = endFills (brineFilled s) :=
  if_neg (by simp [h])

/-- Settles O46. -/
theorem assayAndRepairs : Obligations.AssayAndRepairs := by
  intro s hp at_
  refine ⟨?bcr, fun rs => ⟨tagChain_chainRecords 0 rs, map_assayBody_chainRecords 0 rs⟩, ?list, ?complete, ?update, ?channel,
    fun ch hch h => ?idle, fun h => ?cellar, fun h hph => ?brine, fun h hat hw => ?ends, fun h hat hw => ?waits, fun f hf hr hrow =>
      ?reserve,
    fun f hf hr => eq_next (decide_eq_true hf) hp (if_pos hr)⟩
  case bcr =>
    intro record hat hlen flash b
    have hok : (record.length == 64 || record.isEmpty) = true := by
      rcases hlen with h | h <;> simp [h]
    refine eq_next hok hp ?_
    rw [factoryMapCheck_due hat]
    simp only [List.isEmpty_iff]
    rfl
  case list =>
    intro torn hat
    refine ex_next rfl hp ?_
    obtain ⟨m, p, i, hshown⟩ := bootStep_leaves (assayListCheck torn) s
    rw [hshown, assayListCheck_due hat]
    dsimp only
    refine ⟨rfl, rfl, rfl, rfl, rfl, fun ch hch => ?_⟩
    rw [State.chan, look_mapRange, if_pos hch]
  case complete =>
    intro found hat
    refine ex_next rfl hp ?_
    obtain ⟨m, p, i, hshown⟩ := bootStep_leaves (assayComplete found) s
    obtain ⟨quick, fresh, hdue⟩ := assayComplete_due (found := found) hat
    rw [hshown, hdue]
    dsimp only
    exact ⟨rfl, rfl, rfl, rfl, rfl, rfl, rfl, fun ch c hc => mem_map_snd hc⟩
  case update =>
    intro hat routers
    refine ex_next rfl hp ?_
    dsimp only
    obtain ⟨first, renumbered, found, hdue⟩ := assayListUpdate_due hat
    obtain ⟨m, p, i, hshown⟩ := bootStep_leaves assayListUpdate s
    rw [hdue] at hshown
    obtain ⟨b, hb⟩ : ∃ b, (if 16384 < s.boot.list.length + s.boot.fresh.length + 1 then s.boot else appendRecords (updateRecords s)
      s.boot) = b :=
      ⟨_, rfl⟩
    obtain ⟨hstate, hbad, hosc, hchain, hfits, hfull⟩ := updated_list hb
    rw [hb] at hshown
    generalize bootStep assayListUpdate s = u at hshown ⊢
    obtain ⟨m', p', i', hshown'⟩ := bootStep_leaves repairsApplied u
    have hu : u.boot.state = .inProgress ∧ u.boot.phase = 7 := by
      rw [hshown]
      exact ⟨hstate.trans hat.1, rfl⟩
    have hrep := repairsApplied_due hu
    subst hshown
    refine ⟨?_, ?_, ?_, ?_, ?_, fun k hk => ?_, fun f hf => ?_, ?_, ?_, ?_⟩
    · rw [bootStep_boot, hrep]; rfl
    · rw [bootStep_boot, hrep]; rfl
    · rw [bootStep_boot, hrep]; exact hfits
    · rw [bootStep_boot, hrep]; exact hfull
    · rw [bootStep_memdev, hrep, memdev_applyRepairs]
      simp only [modBoot_boot, hbad, routers]
    · rw [slice_bootStep, hrep, slice_applyRepairs _ _ _ hk]
      simp only [modBoot_boot, hbad, routers]
    · rw [topoOf_bootStep, hrep, topoOf_applyRepairs _ _ _ hf]
      simp only [foundTopo, hbad, hosc, hchain, routers]
    · rw [hshown', hrep]; rfl
    · rw [hshown', hrep]; rfl
    · rw [hshown', hrep]; rfl
  case channel =>
    intro ch hch hm hst
    have hdue : cellarAssayPass ch s = ((s.modChan ch fun c => { c with mode := .filling }).modMem fun m =>
      { m with cellarFill := true }).modBoot fun x =>
        { x with phase := if x.phase = 4 then 5 else x.phase } := if_pos (by simp [hm, hst])
    refine ex_next (decide_eq_true hch) hp ⟨?_, ?_, ?_, fun k hk => ?_⟩
    · rw [chan_bootStep, hdue]
      exact congrArg Chan.mode (chan_modChan_same s ch fun c => { c with mode := .filling })
    · rw [bootStep_memdev, hdue]
      rfl
    · rw [bootStep_boot, hdue]
      rfl
    · rw [chan_bootStep, hdue]
      exact chan_modChan_other s hk fun c => { c with mode := .filling }
  case idle =>
    refine eq_next (decide_eq_true hch) hp (bootStep_same (if_neg ?_))
    rcases h with h | h <;> simp [h]
  case cellar =>
    refine ex_next rfl hp ?_
    rw [cellarFillDone, if_neg (by simp [h])]
    refine ⟨rfl, rfl, fun ch c hc => ?_⟩
    obtain ⟨d, -, rfl⟩ := mem_map_snd hc
    by_cases hd : d.mode = .filling <;> simp [hd]
  case brine =>
    have hends : brineFillDone s = brineFilled s := by
      rw [brineFillDone_due h, endFills, if_neg (by simp [brineFilled, hph])]
    refine ex_next rfl hp ⟨?_, ?_, ?_, fun i x hx => ?_⟩
    · rw [bootStep_memdev, hends]
      rfl
    · rw [bootStep_brineMem, hends]
      rfl
    · rw [bootStep_fin, hends]
      rfl
    · rw [bootStep_slices, hends] at hx
      obtain ⟨d, -, rfl⟩ := mem_map_snd hx
      by_cases hd : d.mode = .filling <;> simp [hd, filledSlice]
  case ends =>
    have hdone : brineFillDone s = foldState ((List.range 16).filter fun n => s.expectedPort n && (s.port n).enable)
        (fun t n => t.modPort n fun p => { p with state := 1, trainFrom := some t.now }) ((brineFilled s).modBoot fun x =>
          { x with phase := 9 }) := by
      rw [brineFillDone_due h, endFills, if_pos]
      · rfl
      · have hall : (s.fields.all fun e => e.2.wake.isNone) = true := List.all_eq_true.mpr fun e he => by simp [hw e he]
        simp only [brineFilled, hat.1, hat.2, hall]
        decide
    obtain ⟨hboot, hports⟩ := foldState_train ((List.range 16).filter fun n => s.expectedPort n && (s.port n).enable)
      ((brineFilled s).modBoot fun x => { x with phase := 9 })
    refine ex_next rfl hp ⟨?_, fun n hn => ?_⟩
    · rw [bootStep_boot, hdone, hboot]
      rfl
    · rw [port_bootStep, hdone, hports]
      split
      · next hex =>
        rw [if_pos (by simp [hn, hex])]
        exact ⟨rfl, rfl⟩
      · next hex =>
        rw [if_neg (by simpa [hn] using hex)]
        rfl
  case waits =>
    have hends : brineFillDone s = brineFilled s := by
      obtain ⟨e, he, hwake⟩ := hw
      have hall : (s.fields.all fun e => e.2.wake.isNone) = false := by
        rw [List.all_eq_false]
        exact ⟨e, he, by simpa using hwake⟩
      rw [brineFillDone_due h, endFills, if_neg (by simp only [brineFilled, hall, Bool.and_false]; decide)]
    refine ex_next rfl hp ⟨?_, ?_⟩
    · rw [bootStep_boot, hends]
      rfl
    · rw [bootStep_fin, hends]
      rfl
  case reserve =>
    refine ex_next (decide_eq_true hf) hp ?_
    rw [idleReserveFail, if_neg (by simp [hr])]
    obtain ⟨hfenced, hgated, -, hothers⟩ := fenceRegion_regions (9 * f + (s.topoOf f).resRow) s
    have htopo := topoOf_modTopo_same (fenceRegion (9 * f + (s.topoOf f).resRow) s) f fun t => { t with resState := 3, resCarried := 0 }
    rw [topoOf_report, region_report, reserveGone, region_modTopo, htopo]
    exact ⟨rfl, rfl, hfenced, hgated, fun r hr => by rw [region_report, region_modTopo, hothers r hr]⟩

end Sys2Proof.Machine
end

section
/-! PROOF. A region's fault record carries the tide count of its field's replica (R366), where `Obligations.CurrentsAndHeat` asks for the
master's. -/

namespace Sys2Proof.Machine
open Sys2Proof

/-- A powered device at tide count 5 whose replica of field 0 reads one more. -/
def replicaAhead : State := { powered := true, clock := { tide := 5, replica := [(0, 1)] } }

/-- Region 0 loses its phase 0: what that leaves on `replicaAhead`. -/
theorem exec_phaseFail_replicaAhead : exec (.phaseFail 0 0) replicaAhead = .next (phaseFail 0 0 replicaAhead) :=
  eq_next rfl rfl rfl

/-- Its record is stamped by the replica. -/
theorem phaseFail_replicaAhead_tide : (phaseFail 0 0 replicaAhead).faults.reports.map (·.tide) = [6] := by decide

/-- Refutes O42: the record of a phase that fails in a region is stamped with the tide count of the replica of the region's field, not with
the master's, and the two differ on `replicaAhead`. -/
theorem not_currentsAndHeat : ¬ Obligations.CurrentsAndHeat := by
  intro h
  obtain ⟨-, -, -, -, -, -, -, -, -, -, -, -, -, -, hphase, -⟩ := h replicaAhead 0 0 (by decide) (by decide) rfl
  obtain ⟨t, ht, -, -, -, hfaults⟩ := hphase 0 (by decide) (by decide) (.inl (by decide))
  obtain rfl : phaseFail 0 0 replicaAhead = t := Host.Outcome.next.inj (exec_phaseFail_replicaAhead.symm.trans ht)
  have htides := congrArg (fun f => f.reports.map (·.tide)) hfaults
  rw [phaseFail_replicaAhead_tide] at htides
  exact absurd htides (by decide)

end Sys2Proof.Machine
end

section
/-! PROOF. The move, feed and drain slots of a bundle that neither waits nor reads a descriptor (R105, R108 to R112, R119 to R122, R126 to
R129), and the semaphores (R128, R129, R140). -/

namespace Sys2Proof.Machine
open Sys2Proof

/-! ### One bundle -/

section
variable {s : State} {p : Nat} {f : FeedOp} {d : DrainOp} {r : RakeOp} {m : MoveOp}

/-- The slots of a bundle that issues, and that its sequencer can issue it. -/
theorem issues_bundle (h : s.issues p f d r m) : slotsOf (s.bundleAt p) = (f, d, r, m) := by
  obtain ⟨-, -, -, hslots, -⟩ := h
  exact hslots

theorem issues_unreserved (h : s.issues p f d r m) : reservedSlot (s.bundleAt p) = none := by
  obtain ⟨-, -, -, -, hres, -⟩ := h
  exact hres

theorem issues_can (h : s.issues p f d r m) : s.canIssue p = true := by
  obtain ⟨-, -, hcan, -⟩ := h
  exact hcan

end

/-- The PC, the next issue and BUNDLE_COUNT change no other pan. -/
theorem onlyPan_issued {u v : State} {p : Nat} {y : Pan} (h : u.onlyPan v p y) (f : Seq → Seq) :
    u.onlyPan ((v.modSeq p f).bumpPan p PanCtr.bundle 1) p { y with seq := f y.seq, ctr := bump y.ctr PanCtr.bundle 1 } := by
  obtain ⟨hpans, rfl, hother⟩ := h
  refine ⟨fp_bumpPan (fp_modSeq hpans _ _) _ _ _, ?_, fun k hk => ?_⟩
  · simp only [pan_bumpPan_same, pan_modSeq_same]
  · simp only [pan_bumpPan_other _ hk, pan_modSeq_other _ hk, hother k hk]

/-- A bundle that raises nothing, by what its slots leave before the PC moves. -/
theorem issues_slots {s u v : State} {p : Nat} {f d r m} {want} {run : State → State} {y : Pan} (h : s.issues p f d r m) (hr0 : r.rop = 0)
    (hm : ∀ sem n, m ≠ .swait sem n) (hf : m ≠ .fence) (hd : moveRuns p m s = []) (hdone : ∀ share, m ≠ .done share)
    (hn : ∀ a, nextPc m (s.pan p).seq = some a → a < (s.pan p).seq.progLen) (hpl : movePlan p m s = .ok run)
    (hw : want (s.bundleAt p) = true) (hv : run (drainEffect p d (s.pan p).seq (feedEffect p f (s.pan p).seq s)) = v)
    (hu : u.onlyPan v p y) :
    ∃ t, issueAct p want s = .next t ∧ u.onlyPan t p { y with
      seq := { y.seq with pc := (nextPc m (s.pan p).seq).getD y.seq.pc, nextIssue := (s.pan p).seq.cycle + issueCost m }
      ctr := bump y.ctr PanCtr.bundle 1 } := by
  have hslots := issues_bundle h
  have hdone' : ∀ w, afterDone p m w = w := by
    intro w
    unfold afterDone
    split
    · next share => exact absurd rfl (hdone share)
    · rfl
  have hplan : movePlan p (slotsOf (s.bundleAt p)).2.2.2 s = .ok run := by rw [hslots]; exact hpl
  refine ⟨_, exec_issue s p f d r m h want hw, ?_⟩
  rw [issueNow_plain s p f d r m h hm hf hd, takeEffect, hplan, takePlan_plain s p _ f d r m s run hslots (issues_unreserved h) hn (rakeNop s p r
    hr0),
    hdone', hv]
  exact onlyPan_issued hu _

/-- The same of a bundle that changes its sequencer alone. -/
theorem issues_seq {s u v : State} {p : Nat} {f d r m} {want} {run : State → State} {a : Nat} {q : Seq} (h : s.issues p f d r m)
    (hr0 : r.rop = 0) (hm : ∀ sem n, m ≠ .swait sem n) (hf : m ≠ .fence) (hd : moveRuns p m s = []) (hdone : ∀ share, m ≠ .done share)
    (hn : nextPc m (s.pan p).seq = some a) (ha : a < (s.pan p).seq.progLen) (hpl : movePlan p m s = .ok run)
    (hw : want (s.bundleAt p) = true) (hv : run (drainEffect p d (s.pan p).seq (feedEffect p f (s.pan p).seq s)) = v)
    (hu : u.onlyPan v p { s.pan p with seq := q }) :
    ∃ t, issueAct p want s = .next t ∧ u.onlyPan t p ((s.pan p).issued a (issueCost m) q) := by
  have hlt : ∀ b, nextPc m (s.pan p).seq = some b → b < (s.pan p).seq.progLen := fun b hb => by
    rw [hn, Option.some.injEq] at hb
    exact hb ▸ ha
  have hissue := issues_slots h hr0 hm hf hd hdone hlt hpl hw hv hu
  rwa [hn] at hissue

/-- A bundle whose move slot alone raises a fault stops the pan from slot 3. -/
theorem issues_moveFault {s : State} {p : Nat} {f d r m} {want} {e : SlotFault} (h : s.issues p f d r m) (hr0 : r.rop = 0)
    (hm : ∀ sem n, m ≠ .swait sem n) (hf : m ≠ .fence) (hd : moveRuns p m s = []) (hw : want (s.bundleAt p) = true)
    (hfaults : bundleFaults p (s.bundleAt p) (.ok s) (movePlan p m s) s = [(e, 3)]) (hafter : e.after = s) :
    ∃ t, issueAct p want s = .next t ∧ t = panFault p e.code e.detail (some 3) s := by
  have hslots := issues_bundle h
  refine ⟨_, exec_issue s p f d r m h want hw, ?_⟩
  rw [issueNow_plain s p f d r m h hm hf hd]
  simp only [takeEffect, takePlan, hslots, rakeNop s p r hr0, hfaults, List.foldl_nil, hafter]

/-- The mode of a pan that issues. -/
theorem issues_running {s : State} {p : Nat} {f d r m} (h : s.issues p f d r m) : (s.pan p).seq.mode = .running := by
  have hc := issues_can h
  simp only [State.canIssue, Bool.and_eq_true, beq_iff_eq] at hc
  obtain ⟨⟨⟨hmode, -⟩, -⟩, -⟩ := hc
  exact hmode

/-- What the move slot raises: PC_RANGE, and what its operation raises. -/
theorem bundleFaults_move {s : State} {p : Nat} {f d r m} (h : s.issues p f d r m) :
    bundleFaults p (s.bundleAt p) (.ok s) (movePlan p m s) s =
      (match nextPc m (s.pan p).seq with
        | some a => if (s.pan p).seq.progLen ≤ a then [(({ code := PanCode.pcRange, detail := a, after := s } : SlotFault), 3)] else []
        | none => []) ++ (match movePlan p m s with | .error g => [(g, 3)] | .ok _ => []) := by
  simp only [bundleFaults, issues_bundle h, issues_unreserved h, (issues_ok h).2, if_false, List.nil_append]
  split <;> rfl

theorem onlyPan_modSeq (s : State) (p : Nat) (f : Seq → Seq) : s.onlyPan (s.modSeq p f) p { s.pan p with seq := f (s.pan p).seq } :=
  onlyPan_modPan s p fun x => { x with seq := f x.seq }

theorem onlyPan_refl (s : State) (p : Nat) : s.onlyPan s p { s.pan p with seq := (s.pan p).seq } := ⟨rfl, rfl, fun _ _ => rfl⟩

/-! ### The feed and drain slots -/

/-- WFEED with a tile context: the run takes its generators, product mode and chaining from it. -/
theorem feedEffect_wfeed_tile {q0 : Seq} {c : TileCtx} (htile : q0.tile = some c) (s : State) (p : Nat) (copy start last zero : Bool)
    (h w n : Nat) :
    feedEffect p (.wfeed copy start last zero h w n) q0 s = s.modSeq p fun q =>
      { q with feedq := q.feedq ++ [.run { id := q0.feedSeq, copy := copy, start := start, last := last, zero := zero, h := h, w := w
                                           n := n, wag := c.wag, mode := c.mode, nag := c.nag, chained := c.chained
                                           chainNo := q0.chainNext } q0.tileArmed (q0.cycle + 2)]
               feedSeq := q.feedSeq + 1, tileArmed := false, chainNext := if c.chained then q.chainNext + n else q.chainNext } := by
  simp only [feedEffect, htile]

/-- WFEED before any TILE takes free values (log 14). -/
theorem feedEffect_wfeed_free {q0 : Seq} (htile : q0.tile = none) (s : State) (p : Nat) (copy start last zero : Bool) (h w n : Nat) :
    feedEffect p (.wfeed copy start last zero h w n) q0 s = State.modSeq { s with draws := s.draws + 1 } p fun q =>
      { q with feedq := q.feedq ++ [.run { id := q0.feedSeq, copy := copy, start := start, last := last, zero := zero, h := h, w := w
                                           n := n, wag := Config.freeValue s.draws % 4, mode := 1 + Config.freeValue s.draws / 4 % 3
                                           nag := Config.freeValue s.draws / 12 % 4
                                           chainNo := q0.chainNext } q0.tileArmed (q0.cycle + 2)]
               feedSeq := q.feedSeq + 1, tileArmed := false } := by
  simp only [feedEffect, htile]
  rfl

/-- DOUT with a tile context: the assignment is to its generator. -/
theorem drainEffect_dout_tile {q0 : Seq} {c : TileCtx} (htile : q0.tile = some c) (s : State) (p : Nat) (sig : Bool) (sem n : Nat) :
    drainEffect p (.dout sig sem n) q0 s = s.modSeq p fun q => { q with drainq := q.drainq ++ [.dout n c.dag sig sem] } := by
  simp only [drainEffect, htile]

/-- DOUT before any TILE is to a free value's (log 14). -/
theorem drainEffect_dout_free {q0 : Seq} (htile : q0.tile = none) (s : State) (p : Nat) (sig : Bool) (sem n : Nat) :
    drainEffect p (.dout sig sem n) q0 s = State.modSeq { s with draws := s.draws + 1 } p fun q =>
      { q with drainq := q.drainq ++ [.dout n (Config.freeValue s.draws % 4) sig sem] } := by
  simp only [drainEffect, htile]
  rfl

/-- Settles O15: each feed operation enters its queue, and the bundle changes nothing else. -/
theorem feedSlotEntersItsQueue : Obligations.FeedSlotEntersItsQueue := by
  intro s p r hr0 hfol
  dsimp only
  refine ⟨fun h => ?_, fun copy start last zero hh w n c h htile => ?_, fun copy start last zero hh w n h htile => ?_,
    fun copy dp h => ?_, fun h => ?_⟩
  · exact issues_seq h hr0 nofun nofun rfl nofun rfl hfol rfl (by simp [feedIs, issues_bundle h]) rfl (onlyPan_refl s p)
  · exact issues_seq h hr0 nofun nofun rfl nofun rfl hfol rfl (by simp [feedIs, issues_bundle h])
      (feedEffect_wfeed_tile htile s p copy start last zero hh w n) (onlyPan_modSeq s p _)
  · obtain ⟨t, ht, hpans, hp, hother⟩ := issues_seq h hr0 nofun nofun rfl nofun rfl hfol rfl
      (want := feedIs fun f => match f with | .wfeed .. => true | _ => false) (by simp [feedIs, issues_bundle h])
      (feedEffect_wfeed_free htile s p copy start last zero hh w n) (onlyPan_modSeq { s with draws := s.draws + 1 } p _)
    exact ⟨t, ht, hpans, hother, hp⟩
  · exact issues_seq h hr0 nofun nofun rfl nofun rfl hfol rfl (by simp [feedIs, issues_bundle h]) rfl
      (onlyPan_modSeq s p fun q =>
        { q with northq := q.northq ++ [{ id := (s.pan p).seq.feedSeq, copy := copy, dp := dp, readyAt := (s.pan p).seq.cycle + 2 }]
                 feedSeq := q.feedSeq + 1 })
  · exact issues_seq h hr0 nofun nofun rfl nofun rfl hfol rfl (by simp [feedIs, issues_bundle h]) rfl
      (onlyPan_modSeq s p fun q => { q with feedq := q.feedq ++ [.tend ((s.pan p).seq.cycle + 2)] })

/-- Settles O16: each drain operation joins the assignments, and the bundle changes nothing else. -/
theorem drainSlotMakesAssignments : Obligations.DrainSlotMakesAssignments := by
  intro s p r hr0 hfol
  dsimp only
  refine ⟨fun h => ?_, fun sig sem n c h htile => ?_, fun sig sem n h htile => ?_, fun sag dag n desc h => ?_, fun h => ?_⟩
  · exact issues_seq h hr0 nofun nofun rfl nofun rfl hfol rfl (by simp [drainIs, issues_bundle h]) rfl (onlyPan_refl s p)
  · exact issues_seq h hr0 nofun nofun rfl nofun rfl hfol rfl (by simp [drainIs, issues_bundle h])
      (drainEffect_dout_tile htile s p sig sem n) (onlyPan_modSeq s p _)
  · obtain ⟨t, ht, hpans, hp, hother⟩ := issues_seq h hr0 nofun nofun rfl nofun rfl hfol rfl
      (want := drainIs fun d => match d with | .dout .. => true | _ => false) (by simp [drainIs, issues_bundle h])
      (drainEffect_dout_free htile s p sig sem n) (onlyPan_modSeq { s with draws := s.draws + 1 } p _)
    exact ⟨t, ht, hpans, hother, hp⟩
  · exact issues_seq h hr0 nofun nofun rfl nofun rfl hfol rfl (by simp [drainIs, issues_bundle h]) rfl
      (onlyPan_modSeq s p fun q => { q with drainq := q.drainq ++ [.drld n sag dag desc none] })
  · exact issues_seq h hr0 nofun nofun rfl nofun rfl hfol rfl (by simp [drainIs, issues_bundle h]) rfl (onlyPan_refl s p)

/-! ### Program flow -/

/-- A NOTICE reaches the region's regulators, of a chain pan 0's alone. -/
theorem giveNotice_eq (s : State) (p : Nat) :
    giveNotice p s = if (s.pan p).chainedNow = true ∧ s.logicalCol p ≠ 0 then s
      else s.modRegion (p / 15) fun g => { g with notices := g.notices + 1 } := by
  have hcond : ((chainCol s p).any (· != 0) = true) ↔ ((s.pan p).chainedNow = true ∧ s.logicalCol p ≠ 0) := by
    unfold chainCol
    split <;> simp_all
  simp only [giveNotice, hcond]
  rfl

/-- The same after a change of the pan's sequencer that leaves its chain. -/
theorem onlyPan_giveNotice (s : State) (p : Nat) (f : Seq → Seq) (hf : (s.modSeq p f |>.pan p).chainedNow = (s.pan p).chainedNow) :
    (if (s.pan p).chainedNow = true ∧ s.logicalCol p ≠ 0 then s
      else s.modRegion (p / 15) fun g => { g with notices := g.notices + 1 }).onlyPan (giveNotice p (s.modSeq p f)) p
      { s.pan p with seq := f (s.pan p).seq } := by
  have hcol : (s.modSeq p f).logicalCol p = s.logicalCol p := rfl
  rw [giveNotice_eq, hf, hcol]
  split
  · exact onlyPan_modSeq s p f
  · exact onlyPan_modSeq (s.modRegion (p / 15) _) p f

/-- Settles O12: each control operation of the move slot sends the PC where R127 says and changes its own register alone. -/
theorem programFlow : Obligations.ProgramFlow := by
  intro s p r hr0
  dsimp only
  refine ⟨fun h hfol => ?_, fun lc v h hfol => ?_, fun lc a h hto => ?_, fun a h ha => ?_, fun n h hfol => ?_, fun h => ?_,
    fun h hfol => ?_, fun a h ha => ?_⟩
  · exact issues_seq h hr0 nofun nofun rfl nofun rfl hfol rfl (by simp [moveIs, issues_bundle h]) rfl (onlyPan_refl s p)
  · exact issues_seq h hr0 nofun nofun rfl nofun rfl hfol rfl (by simp [moveIs, issues_bundle h]) rfl (onlyPan_modSeq s p _)
  · exact issues_seq h hr0 nofun nofun rfl nofun rfl hto rfl (by simp [moveIs, issues_bundle h]) rfl (onlyPan_modSeq s p _)
  · exact issues_seq h hr0 nofun nofun rfl nofun rfl ha rfl (by simp [moveIs, issues_bundle h]) rfl (onlyPan_refl s p)
  · exact issues_seq h hr0 nofun nofun rfl nofun rfl hfol rfl (by simp [moveIs, issues_bundle h]) rfl (onlyPan_refl s p)
  · exact issues_slots h hr0 nofun nofun rfl nofun nofun rfl (by simp [moveIs, issues_bundle h]) rfl (onlyPan_modSeq s p _)
  · exact issues_seq h hr0 nofun nofun rfl nofun rfl hfol rfl (by simp [moveIs, issues_bundle h]) rfl
      (onlyPan_giveNotice s p _ (by simp [Pan.chainedNow]))
  · have hfaults : bundleFaults p (s.bundleAt p) (.ok s) (movePlan p (.jmp a) s) s =
        [({ code := PanCode.pcRange, detail := a, after := s }, 3)] := by
      rw [bundleFaults_move h]
      simp [nextPc, movePlan, ha]
    obtain ⟨t, ht, rfl⟩ := issues_moveFault h hr0 nofun nofun rfl (want := moveIs fun m => match m with | .jmp .. => true | _ => false)
      (by simp [moveIs, issues_bundle h]) hfaults rfl
    have hfields := panFault_fields s p PanCode.pcRange a (some 3) (by simp [issues_running h])
    obtain ⟨hmode, hcode, hdetail, -, hslot, hpc, -, hpc', hctr⟩ := hfields
    exact ⟨_, ht, hmode, hcode, hdetail, hslot, hpc, hpc', hctr⟩

/-! ### Semaphores -/

/-- A bundle whose SWAIT finds what it asks for takes effect as it stands. -/
theorem issueNow_swait {s : State} {p : Nat} {f d r i n} (h : s.issues p f d r (.swait i n)) :
    issueNow p (s.bundleAt p) s =
      if n ≤ look 0 (s.pan p).seq.sems i then takeEffect p (s.bundleAt p) s else beginWait p (.swait i n) s := by
  obtain ⟨-, -, -, hslots, hres, hstall⟩ := h
  have hsome : (reservedSlot (s.bundleAt p)).isSome = false := by rw [hres]; rfl
  simp only [issueNow, hsome, hstall, hslots, moveRuns, Bool.false_eq_true, if_false, List.isEmpty_nil, if_true, Bool.not_true]

theorem look_foldl_put (l : List Nat) (m : Sparse Nat) (i : Nat) :
    look 0 (l.foldl (fun m i => put i 0 m) m) i = if i ∈ l then 0 else look 0 m i := by
  induction l generalizing m with
  | nil => rfl
  | cons a l ih =>
    rw [List.foldl_cons, ih]
    by_cases hi : i = a
    · simp [hi]
    · simp [hi, look_put_other]

/-- What fills a semaphore leaves 65,535 in it, and stops a sequencer that runs. -/
theorem semAdd_full {s : State} {p i n : Nat} (hn : 65535 < look 0 (s.pan p).seq.sems i + n) :
    semAdd p i n s =
      if (s.pan p).seq.mode = .running ∨ (s.pan p).seq.mode = .waiting then
        panFault p PanCode.semOverflow i none (s.modSeq p fun q => { q with sems := put i 65535 q.sems })
      else s.modSeq p fun q => { q with sems := put i 65535 q.sems } := by
  have hmin : min 65535 (look 0 (s.pan p).seq.sems i + n) = 65535 := by omega
  simp [semAdd, hmin, hn]

/-- Nothing but the mesh differs. -/
def State.meshOnly (s t : State) : Prop := t = { s with net := t.net }

theorem State.meshOnly.refl (s : State) : s.meshOnly s := rfl

theorem State.meshOnly.trans {s t u : State} (h : s.meshOnly t) (k : t.meshOnly u) : s.meshOnly u := by
  unfold State.meshOnly at *
  rw [k, h]

theorem State.meshOnly.bumpRouter (s : State) (x y c n : Nat) : s.meshOnly (s.bumpRouter x y c n) := rfl

theorem State.meshOnly.urgentGate (x y : Nat) (s : State) : s.meshOnly (Machine.urgentGate x y s) := by
  unfold Machine.urgentGate
  dsimp only
  split <;> rfl

theorem State.meshOnly.inject (gx gy dgx dgy : Nat) (k : Packet) (s : State) : s.meshOnly (Machine.inject gx gy dgx dgy k s) := by
  unfold Machine.inject
  dsimp only
  refine .trans (t := _) ?_ rfl
  split
  · refine .trans ?_ (.bumpRouter _ _ _ _ _)
    split
    · exact .urgentGate ..
    · exact .refl s
  · split
    · exact .urgentGate ..
    · exact .refl s

/-- What a unit sends goes into the mesh. -/
theorem State.meshOnly.sendFrom (gx gy : Nat) (k : Packet) (s : State) : s.meshOnly (Machine.sendFrom gx gy k s) := by
  unfold Machine.sendFrom
  dsimp only
  split
  · split
    · exact .refl s
    · exact .inject ..
  · exact .inject ..

theorem State.meshOnly.pan {s t : State} (h : s.meshOnly t) (p : Nat) : t.pan p = s.pan p := by rw [h]; rfl

/-- Settles O11: each operation takes or adds its number, or stops the pan with what the table names. -/
theorem semaphores : Obligations.Semaphores := by
  intro s p hp hpow
  dsimp only
  refine ⟨fun r i n hr0 h hfol hn => ?_, fun r i n hr0 h hn => ?_, fun r i n hr0 h hfol hn => ?_, fun r i n hr0 h hfol hn => ?_,
    fun i n hi hn => ?_, fun i n hi hn => ?_, fun mask => ?_, fun r i n hr0 h hfol => ?_⟩
  · have hslots := issues_bundle h
    have hseq : nextPc (.swait i n) (s.pan p).seq = some ((s.pan p).seq.pc + 1) := rfl
    refine ex_te h (by simp [moveIs, hslots]) ((issueNow_swait h).trans (if_pos hn)) ?_
    rw [takeEffect_plain s p _ _ r _ s _ _ hslots (issues_unreserved h) hseq hfol (rakeNop s p r hr0) rfl]
    exact onlyPan_issued (onlyPan_modSeq s p fun q => { q with sems := put i (look 0 q.sems i - n) q.sems }) _
  · refine ex_issue h (by simp [moveIs, issues_bundle h]) ?_
    rw [issueNow_swait h, if_neg (by omega)]
    exact onlyPan_modSeq s p fun q => { q with mode := .waiting, wait := .swait i n, waited := 0 }
  · have hplan : movePlan p (.ssig i n) s = .ok fun u => u.modSeq p fun q =>
        { q with sems := put i (look 0 (s.pan p).seq.sems i + n) q.sems } := if_neg (by omega)
    exact issues_seq h hr0 nofun nofun rfl nofun rfl hfol hplan (by simp [moveIs, issues_bundle h]) rfl
      (onlyPan_modSeq s p fun q => { q with sems := put i (look 0 (s.pan p).seq.sems i + n) q.sems })
  · have hplan : movePlan p (.ssig i n) s = moveFault PanCode.semOverflow i s := if_pos hn
    have hfaults : bundleFaults p (s.bundleAt p) (.ok s) (movePlan p (.ssig i n) s) s =
        [({ code := PanCode.semOverflow, detail := i, after := s }, 3)] := by
      rw [bundleFaults_move h, hplan]
      have hlt : ¬ (s.pan p).seq.progLen ≤ (s.pan p).seq.pc + 1 := by simpa using hfol
      simp [nextPc, moveFault, hlt]
    obtain ⟨t, ht, rfl⟩ := issues_moveFault h hr0 nofun nofun rfl (want := moveIs fun m => match m with | .ssig .. => true | _ => false)
      (by simp [moveIs, issues_bundle h]) hfaults rfl
    obtain ⟨hmode, hcode, hdetail, -, hslot, -, hsems, hpc, -⟩ :=
      panFault_fields s p PanCode.semOverflow i (some 3) (by simp [issues_running h])
    exact ⟨_, ht, hmode, hcode, hslot, hdetail, hsems, hpc⟩
  · refine ex_act (by simp [hp, hi]) hpow ?_
    have hmin : min 65535 (look 0 (s.pan p).seq.sems i + n % 65536) = look 0 (s.pan p).seq.sems i + n % 65536 := by omega
    simp only [semAdd, hmin]
    rw [if_neg (by simp; omega)]
    exact onlyPan_modSeq s p fun q => { q with sems := put i (look 0 (s.pan p).seq.sems i + n % 65536) q.sems }
  · refine ex_act (by simp [hp, hi]) hpow ?_
    rw [semAdd_full hn]
    have hput := onlyPan_modSeq s p fun q => { q with sems := put i 65535 q.sems }
    have hseq := congrArg Pan.seq hput.2.1
    refine ⟨?_, fun hm => ?_, fun hr hw => ?_⟩
    · split
      · next hm =>
        rw [(panFault_fields _ p _ _ _ (by rw [hseq]; rcases hm with hm | hm <;> simp [hm])).2.2.2.2.2.2.1, hseq]
        exact look_put_same ..
      · rw [hseq]
        exact look_put_same ..
    · rw [if_pos hm]
      obtain ⟨hmode, hcode, -, hasync, -⟩ := panFault_fields _ p PanCode.semOverflow i none (by rw [hseq]; rcases hm with hm | hm <;>
        simp [hm])
      exact ⟨hmode, hcode, hasync⟩
    · rw [if_neg (by simp [hr, hw])]
      exact onlyPan_modSeq s p _
  · have hpan : ((semClear p mask s).pan p).seq =
        { (s.pan p).seq with sems := (bitList 16 mask).foldl (fun m i => put i 0 m) (s.pan p).seq.sems } :=
      congrArg Pan.seq (onlyPan_modSeq s p fun q => { q with sems := (bitList 16 mask).foldl (fun m i => put i 0 m) q.sems }).2.1
    refine ex_act (by simp [hp]) hpow ⟨⟨rfl, ?_, fun k hk => pan_modSeq_other s hk _⟩, fun i => ?_⟩
    · exact (onlyPan_modSeq s p _).2.1.trans (by rw [hpan])
    · rw [hpan, look_foldl_put]
      simp [bitList]
  · exact issues_seq h hr0 nofun nofun rfl nofun rfl hfol rfl (by simp [moveIs, issues_bundle h]) rfl ⟨rfl, (State.meshOnly.sendFrom _ _ _
      s).pan p, fun _ _ => rfl⟩

end Sys2Proof.Machine
end

section
/-! PROOF. GO, STOP and FAULT_CLEAR (R100 to R102, R127, R140). -/

namespace Sys2Proof.Machine
open Sys2Proof

/-- The requests in flight once a pan's feeders await theirs no longer (R97). -/
def awaitedNoMore (p : Nat) (os : List Outst) : List Outst :=
  os.map fun o => match o.who with | .feeder k _ => if k = p then { o with who := .expired } else o | _ => o

/-- A pan stopped in its work: what it had under way is discarded. -/
def stopPan (x : Pan) : Pan := let y := discardWork x; { y with seq := { y.seq with mode := .stopped } }

/-- A pan at the start of its program. -/
def goPan (x : Pan) : Pan := let y := discardWork x; { y with seq := goSeq y.seq }

theorem dropFeeder_eq (p : Nat) (s : State) : dropFeeder p s = { s with outs := awaitedNoMore p s.outs } := by
  have hmap : ∀ o : Outst, (if Outst.ofFeeder p o then { o with who := .expired } else o) =
      match o.who with | .feeder k _ => if k = p then { o with who := .expired } else o | _ => o := by
    intro o
    cases ho : o.who <;> simp [Outst.ofFeeder, ho]
  simp only [dropFeeder, expire, hmap, awaitedNoMore]

/-- A pan set up anew, its feeders' reads dropped. -/
theorem dropFeeder_modPan (s : State) (p : Nat) (f : Pan → Pan) :
    let t := dropFeeder p (s.modPan p f)
    t = { s with pans := t.pans, outs := awaitedNoMore p s.outs } ∧ (∀ k, k ≠ p → t.pan k = s.pan k) ∧ t.pan p = f (s.pan p) := by
  rw [dropFeeder_eq]
  exact ⟨rfl, fun k hk => pan_modPan_other s hk f, pan_modPan_same s p f⟩

/-- GO from STOPPED or HALTED in a pan that can run. -/
theorem go_from_rest {s : State} {p : Nat} (hspare : s.isSpare p = false) (hdown : s.regionDown (p / 15) = false)
    (hmode : (s.pan p).seq.mode = .stopped ∨ (s.pan p).seq.mode = .halted) :
    go p s = if (s.pan p).store.fillBusy then s.modSeq p fun q => { q with heldGo := true } else goNow p s := by
  have hreg : s.regionDown (regionOf p) = false := hdown
  rcases hmode with hmode | hmode <;> simp [go, hspare, hreg, hmode]

/-- GO, by whether the entry lies in the program. -/
theorem goNow_eq (p : Nat) (s : State) :
    goNow p s = if (s.pan p).seq.progLen ≤ (s.pan p).seq.entry then
        panFaultOne p PanCode.pcRange (panClass PanCode.pcRange) (s.pan p).seq.entry none (s.pan p).seq.entry (dropFeeder p (s.modPan p goPan))
      else dropFeeder p (s.modPan p goPan) := by
  have hseq := congrArg Pan.seq (dropFeeder_modPan s p goPan).2.2
  have hlen : ((dropFeeder p (s.modPan p goPan)).pan p).seq.progLen = (s.pan p).seq.progLen :=
    hseq ▸ rfl
  have hentry : ((dropFeeder p (s.modPan p goPan)).pan p).seq.entry = (s.pan p).seq.entry :=
    hseq ▸ rfl
  rw [← hlen, ← hentry]
  rfl

/-- GO in any other pan is ignored. -/
theorem go_ignored {s : State} {p : Nat} (h : (s.pan p).seq.mode = .running ∨ (s.pan p).seq.mode = .waiting ∨
    (s.pan p).seq.mode = .faulted ∨ s.isSpare p = true ∨ s.regionDown (p / 15) = true) : go p s = s := by
  unfold go
  dsimp only
  rcases h with h | h | h | h | h
  · simp [h]
  · simp [h]
  · simp [h]
  · simp [h]
  · rw [if_pos]
    rw [show regionOf p = p / 15 from rfl, h, Bool.or_true]

/-- Settles O9: each clause is the command's own branch, and dropping the feeders' reads is the one thing outside the pan. -/
theorem sequencerControl : Obligations.SequencerControl := by
  intro s p hp hpow
  dsimp only
  have hok : decide (p < 1620) = true := decide_eq_true hp
  refine ⟨fun hspare hdown hmode hfill hentry => ?_, fun hspare hdown hmode hfill hentry => ?_, fun hspare hdown hmode hfill => ?_,
    fun h => ?_, fun hmode => ?_, fun hmode => ?_, ?_⟩
  · refine ex_act hok hpow ?_
    obtain ⟨hall, hother, hsame⟩ := dropFeeder_modPan s p goPan
    have hgo : go p s = dropFeeder p (s.modPan p goPan) := by
      rw [go_from_rest hspare hdown hmode, hfill, if_neg Bool.false_ne_true, goNow_eq, if_neg (Nat.not_le.mpr hentry)]
    rw [hgo]
    exact ⟨hall, hother, hsame⟩
  · refine ex_act hok hpow ?_
    obtain ⟨-, hother, hsame⟩ := dropFeeder_modPan s p goPan
    have hgo : go p s = panFaultOne p PanCode.pcRange (panClass PanCode.pcRange) (s.pan p).seq.entry none (s.pan p).seq.entry
        (dropFeeder p (s.modPan p goPan)) := by
      rw [go_from_rest hspare hdown hmode, hfill, if_neg Bool.false_ne_true, goNow_eq, if_pos hentry]
    have hrun : ((dropFeeder p (s.modPan p goPan)).pan p).seq.mode ≠ .faulted := by
      rw [hsame]
      exact nofun
    rw [hgo]
    refine ⟨?_, ?_, ?_, fun k hk => (panFaultOne_pan_other _ hk ..).trans (hother k hk)⟩ <;>
      rw [panFaultOne_pan_same _ _ _ _ _ _ _ hrun]
  · refine ex_act hok hpow ?_
    rw [go_from_rest hspare hdown hmode, hfill, if_pos rfl]
    exact onlyPan_modSeq s p _
  · exact eq_act hok hpow (go_ignored h)
  · refine ex_act hok hpow ?_
    have hstop : stop p s = dropFeeder p (s.modPan p stopPan) := by
      rcases hmode with hmode | hmode | hmode <;> simp [stop, hmode] <;> rfl
    rw [hstop]
    exact dropFeeder_modPan s p stopPan
  · refine eq_act hok hpow ?_
    rcases hmode with hmode | hmode <;> simp [stop, hmode]
  · refine ex_act hok hpow ⟨rfl, (onlyPan_modSeq s p _).2.1.trans ?_, fun k hk => pan_modSeq_other s hk _⟩
    split <;> rfl

end Sys2Proof.Machine
end

section
/-! PROOF. The taking of a pan fault (R103, R137), and the slots of a bundle together (R104). -/

namespace Sys2Proof.Machine
open Sys2Proof

/-! ### A pan fault -/

/-- What the taking of a pan fault leaves: the work discarded, the record kept, one report to Hakar. -/
def State.faultTaken (s : State) (p code cls detail slot : Nat) (async : Bool) (t : State) : Prop :=
  (∀ k, k ≠ p → t.pan k = s.pan k) ∧ t = { s with pans := t.pans, outs := awaitedNoMore p s.outs, faults := t.faults } ∧
  (t.pan p).seq.mode = .faulted ∧
  (t.pan p).seq.fault =
    { code := code, cls := cls, detail := detail, async := async, slot := slot, pc := (s.pan p).seq.pc, tide := s.panNow p } ∧
  (t.pan p).seq.feedq = [] ∧ (t.pan p).seq.northq = [] ∧ (t.pan p).seq.drainq = [] ∧ (t.pan p).seq.pend = [] ∧
  (t.pan p).lat = { wide := (s.pan p).lat.wide.filter fun e => decide (e.1 ≤ (s.pan p).seq.cycle), nextSeq := (s.pan p).lat.nextSeq } ∧
  (t.pan p).haul = (s.pan p).haul.map (fun e => (e.1, pauseHaul e.2)) ∧
  (t.pan p).seq.sems = (s.pan p).seq.sems ∧ (t.pan p).seq.pc = (s.pan p).seq.pc ∧ (t.pan p).ctr = (s.pan p).ctr ∧
  (t.pan p).store = { (s.pan p).store with narrow := (s.pan p).store.narrow.filter fun r => !r.use.ofWork } ∧
  t.faults = { s.faults with reports := s.faults.reports ++
    [{ type := 0x01, cls := recordClass cls, code := code, unitCls := 0x2, unitIdx := p
       addr := flag async 15 + field slot 2 13 + (s.pan p).seq.pc % 8192, detail := detail
       jobs := if s.isSpare p then 0 else s.jobMask (p / 15), tide := s.panNow p, epoch := s.boot.epoch }] }

/-- The rest of the state after one pan has taken a fault. -/
theorem panFaultOne_reports (s : State) (p code cls detail : Nat) (slot : Option Nat) (pc : Nat) (h : (s.pan p).seq.mode ≠ .faulted) :
    let t := panFaultOne p code cls detail slot pc s
    t = { s with pans := t.pans, outs := awaitedNoMore p s.outs, faults := t.faults } ∧
    t.faults = { s.faults with reports := s.faults.reports ++
      [{ panRecord p (s.faultReg p code cls detail slot pc) s with tide := s.panNow p, epoch := s.boot.epoch }] } := by
  have hdrop : ∀ u : State, expire (Outst.ofFeeder p) u = { u with outs := awaitedNoMore p u.outs } := dropFeeder_eq p
  simp only [panFaultOne, if_neg h, hdrop]
  exact ⟨rfl, rfl⟩

/-- A fault of an unchained pan that is not yet FAULTED. -/
theorem panFault_taken {s : State} {p code detail : Nat} {slot : Option Nat} (hmode : (s.pan p).seq.mode ≠ .faulted)
    (hchain : s.regionChained (p / 15) = false) (hdetail : detail < 65536) :
    s.faultTaken p code (panClass code) detail (slot.getD 0) slot.isNone (panFault p code detail slot s) := by
  have heq : panFault p code detail slot s = panFaultOne p code (panClass code) detail slot (s.pan p).seq.pc s :=
    panFault_unchained s p code detail slot hchain (chainedAtFault_of_mode hmode _)
  have hsame := panFaultOne_pan_same s p code (panClass code) detail slot (s.pan p).seq.pc hmode
  obtain ⟨hrest, hfaults⟩ := panFaultOne_reports s p code (panClass code) detail slot (s.pan p).seq.pc hmode
  have hmod : detail % 65536 = detail := Nat.mod_eq_of_lt hdetail
  rw [heq]
  refine ⟨fun k hk => panFaultOne_pan_other s hk _ _ _ _ _, hrest, ?_⟩
  have hreg : s.faultReg p code (panClass code) detail slot (s.pan p).seq.pc =
      { code := code, cls := panClass code, detail := detail, async := slot.isNone, slot := slot.getD 0, pc := (s.pan p).seq.pc
        tide := s.panNow p } := by rw [State.faultReg, hmod]
  rw [hsame, hfaults, hreg]
  exact ⟨rfl, rfl, rfl, rfl, rfl, rfl, rfl, rfl, rfl, rfl, rfl, rfl, rfl⟩

/-- A later fault of a FAULTED pan, or one that does not outrank the record, is not recorded. -/
theorem panFault_unrecorded {s : State} {p code detail : Nat} {slot : Option Nat} (hmode : (s.pan p).seq.mode = .faulted)
    (hkept : (s.pan p).faultsNow (s.panNow p) = false ∨ ((s.pan p).seq.fault.code ≠ PanCode.chainPeer ∧
      outranks (panClass code, code) ((s.pan p).seq.fault.cls, (s.pan p).seq.fault.code) = false)) :
    panFault p code detail slot s = s := by
  have hone : panFaultOne p code (panClass code) detail slot (s.pan p).seq.pc s = s := by
    rw [panFaultOne_faulted s p _ _ _ _ _ hmode]
    refine if_neg ?_
    rcases hkept with hkept | ⟨hpeer, hrank⟩
    · simp [hkept]
    · simp [hpeer, hrank]
  simp [panFault, hone, hmode]

/-- The faults of a bundle with a reserved slot, when no other slot raises one that R137 keeps. -/
theorem takeEffect_reserved {s : State} {p i : Nat} (hres : reservedSlot (s.bundleAt p) = some i)
    (hrake : (slotsOf (s.bundleAt p)).2.2.1.rop = 0 ∨ (slotsOf (s.bundleAt p)).2.2.1.isReserved = true)
    (hmove : (slotsOf (s.bundleAt p)).2.2.2 = .reserved ∨ ((slotsOf (s.bundleAt p)).2.2.2 = .nop ∧ s.follows p)) :
    takeEffect p (s.bundleAt p) s = panFault p PanCode.illegalOp i (some i) s := by
  have hrake' : (slotsOf (s.bundleAt p)).2.2.1.isReserved = true ∨
      rakeSlotEffect p (slotsOf (s.bundleAt p)).2.2.1 (s.pan p).seq s = .ok s := hrake.symm.imp_right (rakeNop s p _)
  have hfaults : bundleFaults p (s.bundleAt p) (rakeSlotEffect p (slotsOf (s.bundleAt p)).2.2.1 (s.pan p).seq s)
      (movePlan p (slotsOf (s.bundleAt p)).2.2.2 s) s = [({ code := PanCode.illegalOp, detail := i, after := s }, i)] := by
    simp only [bundleFaults, hres]
    rcases hmove with hmove | ⟨hmove, hfol⟩
    · rcases hrake' with hrake | hrake <;> simp [hrake, hmove]
    · have hlt : ¬ (s.pan p).seq.progLen ≤ (s.pan p).seq.pc + 1 := by simpa using hfol
      rcases hrake' with hrake | hrake <;> simp [hrake, hmove, nextPc, hlt, movePlan]
  simp only [takeEffect, takePlan, hfaults, List.foldl_nil]

/-- Settles O10: HW_CHECK and ILLEGAL_OP are taken as R137 says, and a FAULTED pan records no lesser or later fault. -/
theorem panFaultTaken : Obligations.PanFaultTaken := by
  intro s p hp hpow
  dsimp only
  refine ⟨fun unit hu hmode hdown hchain => ?_, fun i r hissue hres hchain hr hrake hmove => ?_, fun unit hu hmode hkept => ?_⟩
  · refine ex_act (by simp [hp, hu]) hpow ?_
    have hreg : s.regionDown (regionOf p) = false := hdown
    simp only [internalCheck, hreg, Bool.false_eq_true, if_false]
    exact panFault_taken (code := PanCode.hwCheck) (slot := none) hmode hchain (by omega)
  · have hmode : (s.pan p).seq.mode ≠ .faulted := by
      intro e
      simp [State.canIssue, e] at hissue
    refine ex_act (decide_eq_true hp) hpow ?_
    have hi : i < 65536 := by
      unfold reservedSlot at hres
      dsimp only at hres
      repeat' split at hres
      all_goals simp at hres
      all_goals omega
    have hnow : issueIf p (fun b => (reservedSlot b).isSome) s = panFault p PanCode.illegalOp i (some i) s := by
      rw [issueIf, inCycle_plain (faultsNow_of_mode hmode _)]
      simp only [hissue, hres, Option.isSome_some, Bool.and_self, if_true, issueNow]
      exact takeEffect_reserved hres (hr ▸ hrake) hmove
    rw [hnow]
    exact panFault_taken (code := PanCode.illegalOp) (slot := some i) hmode hchain hi
  · refine eq_act (by simp [hp, hu]) hpow ?_
    unfold internalCheck
    split
    · rfl
    · refine panFault_unrecorded hmode ?_
      rcases hkept with h | h | ⟨hcls, hle, hne⟩
      · exact .inl (by simp [Pan.faultsNow, h])
      · exact .inl (by simp [Pan.faultsNow, h])
      · refine .inr ⟨hne, ?_⟩
        have hclass : panClass PanCode.hwCheck = 1 := rfl
        simp only [outranks, hcls, hclass]
        simp
        exact hle

/-! ### The slots together -/

/-- Settles O14: a bundle that raises nothing takes its slots' effects one after the other, whichever slot's row issues it. -/
theorem slotsActTogether : Obligations.SlotsActTogether := by
  intro s p f d r m u run h hfol hn hm hf hd hdone hrake hmove
  dsimp only
  have hslots := issues_bundle h
  have hdone' : ∀ w, afterDone p m w = w := by
    intro w
    unfold afterDone
    split
    · next share => exact absurd rfl (hdone share)
    · rfl
  have htake := takeEffect_plain s p f d r m u run _ hslots (issues_unreserved h) hn hfol hrake hmove
  rw [hdone'] at htake
  have hrow : ∀ want : Bundle → Bool, want (s.bundleAt p) = true →
      issueAct p want s = .next (takeEffect p (s.bundleAt p) s) := fun want hw => by
    rw [exec_issue s p f d r m h want hw, issueNow_plain s p f d r m h hm hf hd]
  have hres := (issues_ok h).1
  refine ⟨takeEffect p (s.bundleAt p) s, fun e => hrow _ ?_, fun _ _ _ _ _ _ _ e => hrow _ ?_, fun _ _ e => hrow _ ?_,
    fun e => hrow _ ?_, fun e => hrow _ ?_, fun _ _ _ e => hrow _ ?_, fun e => hrow _ ?_, fun _ _ e => hrow _ ?_, fun e => hrow _ ?_,
    fun e => hrow _ ?_, ?_⟩
  iterate 4 simp [feedIs, hslots, e]
  iterate 2 simp [drainIs, hslots, e]
  iterate 2 simp [moveIs, hslots, e]
  iterate 2 simp [rakeIs, hslots, e, hres]
  obtain ⟨hpans, hsame, hother⟩ := onlyPan_issued (u := run (drainEffect p d (s.pan p).seq (feedEffect p f (s.pan p).seq u)))
    ⟨rfl, rfl, fun _ _ => rfl⟩ fun x => { x with pc := (s.pan p).seq.pc + 1, nextIssue := (s.pan p).seq.cycle + issueCost m }
  rw [htake]
  exact ⟨hpans, hother, hsame⟩

end Sys2Proof.Machine
end

section
/-! PROOF. The rake's operations on its registers (R123, R125). -/

namespace Sys2Proof.Machine
open Sys2Proof

/-! ### One register operation -/

/-- The row of a register operation that takes no free value. -/
theorem rake_row {s : State} {p : Nat} {r : RakeOp} (h : s.issues p .nop .nop r .nop) (hfol : s.follows p) {rop n : Nat} {q1 : Seq}
    {late : List (Nat × Nat)} (hr : r.rop = rop) (hk : rakeRegs r s.draws (s.pan p).seq = .ok (q1, n)) (hlate : rakePending r = late)
    (hplain : rop ≠ 0 ∧ rop ≠ 1 ∧ rop ≠ 2 ∧ rop ≠ 0x10 ∧ rop ≠ 0x16 ∧ rop ≠ 0x0D ∧ rop ≠ 0x12 ∧ rop ≠ 0x13)
    (hl : q1.nextLoad = (s.pan p).seq.nextLoad) :
    ∃ t, issueAct p (rakeIs rop) s = .next t ∧ s.onlyPan t p ((s.pan p).raked q1 late n) := by
  subst hr hlate
  exact rake_regs s p r h hfol q1 n hk (by omega) (by omega) (by omega) hl

/-- The row of one that takes a free value. -/
theorem rake_row_free {s : State} {p : Nat} {r : RakeOp} (h : s.issues p .nop .nop r .nop) (hfol : s.follows p) {rop n : Nat} {q1 : Seq}
    {late : List (Nat × Nat)} (hr : r.rop = rop) (hk : rakeRegs r s.draws (s.pan p).seq = .ok (q1, n)) (hlate : rakePending r = late)
    (hfree : rop = 0x0D ∨ rop = 0x12 ∨ rop = 0x13) (hl : q1.nextLoad = (s.pan p).seq.nextLoad) :
    ∃ t, issueAct p (rakeIs rop) s = .next t ∧ t = { s with pans := t.pans, draws := s.draws + 1 } ∧ (∀ k, k ≠ p → t.pan k = s.pan k) ∧
      t.pan p = (s.pan p).raked q1 late n := by
  subst hr hlate
  exact rake_regs_d s p r h hfol q1 n hk (by omega) hfree hl

/-! ### Lanes -/

theorem satLanes_zip (f : Int → Int → Int) (w : Bool) (a b : VReg) :
    satLanes w (zipLanes f w a b) = (List.zipWith (fun u v => satInt (laneBits w) (f u v)) (vLanes w a) (vLanes w b),
      overflows (laneBits w) (List.zipWith f (vLanes w a) (vLanes w b))) := by
  simp only [satLanes, zipLanes, List.map_zipWith]
  rfl

theorem satLanes_replicate (w : Bool) (n : Nat) (x : Int) :
    satLanes w (List.replicate n x) = (List.replicate n (satInt (laneBits w) x), overflows (laneBits w) (List.replicate n x)) := by
  simp only [satLanes, List.map_replicate]
  rfl

/-- A bundle of RNOP does what every issue does. -/
theorem raked_none (x : Pan) : x.raked x.seq [] 0 = x.issued (x.seq.pc + 1) 1 x.seq := by simp [Pan.raked, Pan.issued, bump]

/-- Settles O17: each operation's row gives the lanes, the tag and the count that its table entry names. -/
theorem rakeLaneOperations : Obligations.RakeLaneOperations := by
  intro s p r h hfol
  dsimp only
  refine ⟨fun hr => ?_, fun hr => ?_, fun hr => ?_, fun hr => ?_, fun hr => ?_, fun hr => ?_, fun hr => ?_, fun hr => ?_, fun hr => ?_,
    fun hr => ?_⟩
  · have hw : rakeIs 0 (s.bundleAt p) = true := by
      have hres := notRes s p r h
      simp only [rakeIs, issues_bundle h, hr, hres]
      rfl
    rw [raked_none]
    exact issues_seq h hr nofun nofun rfl nofun rfl hfol rfl hw rfl (onlyPan_refl s p)
  · exact rake_row h hfol hr (by simp only [rakeRegs, hr, satLanes_zip]) (by simp only [rakePending, hr]) (by decide) rfl
  · exact rake_row h hfol hr (by simp only [rakeRegs, hr, satLanes_zip]) (by simp only [rakePending, hr]) (by decide) rfl
  · exact rake_row h hfol hr (by simp only [rakeRegs, hr]; rfl) (by simp only [rakePending, hr]) (by decide) rfl
  · exact rake_row h hfol hr (by simp only [rakeRegs, hr]; rfl) (by simp only [rakePending, hr]) (by decide) rfl
  · exact rake_row h hfol hr (by simp only [rakeRegs, hr, satLanes_zip]) (by simp only [rakePending, hr]) (by decide) rfl
  · exact rake_row h hfol hr (by simp only [rakeRegs, hr]; rfl) (by simp only [rakePending, hr]) (by decide) rfl
  · exact rake_row h hfol hr (by simp only [rakeRegs, hr, satLanes_replicate]) (by simp only [rakePending, hr]) (by decide) rfl
  · exact rake_row h hfol hr (by simp only [rakeRegs, hr]) (by simp only [rakePending, hr]) (by decide) rfl
  · exact rake_row h hfol hr (by simp only [rakeRegs, hr]) (by simp only [rakePending, hr]) (by decide) rfl

/-! ### Reductions -/

/-- What RREDQ makes of group g: its register, and whether the sum saturated. -/
def redGroup (r : RakeOp) (q : Seq) (g : Nat) : Int × Bool :=
  let vs := ((groupLanes r.w g).filter fun i => laneValid r.w (getV q r.va).tag i).map fun i => (vLanes r.w (getV q r.va)).getD i 0
  if bit r.imm 0 then (vs.foldl max (getQ q g), false) else sat64 (getQ q g + sumInt vs)

/-- Whether the row has shown a valid lane once RREDQ has read its register. -/
def redAny (r : RakeOp) (q : Seq) : Bool :=
  q.rowAny || (List.range (vLanes r.w (getV q r.va)).length).any fun i => laneValid r.w (getV q r.va).tag i

/-- The sequencer as RREDQ leaves it. -/
def redSeq (r : RakeOp) (q : Seq) : Seq :=
  { q with q := put 3 (redGroup r q 3).1 (put 2 (redGroup r q 2).1 (put 1 (redGroup r q 1).1 (put 0 (redGroup r q 0).1 q.q)))
           rowLanes := q.rowLanes + (vLanes r.w (getV q r.va)).length, rowAny := redAny r q, rowNone := !redAny r q }

theorem getQ_redSeq (r : RakeOp) (q : Seq) {g : Nat} (hg : g < 4) : getQ (redSeq r q) g = (redGroup r q g).1 := by
  obtain rfl | rfl | rfl | rfl : g = 0 ∨ g = 1 ∨ g = 2 ∨ g = 3 := by omega
  all_goals simp [getQ, redSeq]

/-- The four groups' registers written in turn. -/
theorem foldl_setQ (f : Nat → Int × Bool) (q : Seq) :
    ((List.range 4).map f).zipIdx.foldl (fun q e => setQ e.2 e.1.1 q) q =
      { q with q := put 3 (f 3).1 (put 2 (f 2).1 (put 1 (f 1).1 (put 0 (f 0).1 q.q))) } := by
  have hpairs : ((List.range 4).map f).zipIdx = [(f 0, 0), (f 1, 1), (f 2, 2), (f 3, 3)] := rfl
  simp only [hpairs, List.foldl, setQ]

theorem rakeRegs_rredq {r : RakeOp} {q : Seq} (d : Nat) (hr : r.rop = 0x0B)
    (hrow : q.rowLanes + (vLanes r.w (getV q r.va)).length ≤ 65536) :
    rakeRegs r d q = .ok (redSeq r q, ((List.range 4).filter fun g => (redGroup r q g).2).length) := by
  have hlen : ∀ f : Nat → Int × Bool, (((List.range 4).map f).filter (·.2)).length = ((List.range 4).filter fun g => (f g).2).length := by
    intro f
    rw [List.filter_map, List.length_map]
    rfl
  simp only [rakeRegs, hr, if_neg (Nat.not_lt.mpr hrow), foldl_setQ, hlen, redSeq, redGroup, redAny]

theorem rakeRegs_rdiv {r : RakeOp} (d : Nat) (q : Seq) (hr : r.rop = 0x0D) :
    rakeRegs r d q = .ok (setQ 0 (if getQ q 0 ≤ 0 then 0 else if 2 ^ r.imm / getQ q 0 < 2 ^ 63 then 2 ^ r.imm / getQ q 0
      else signed 64 (Config.freeValue d)) q, 0) := by
  simp only [rakeRegs, hr]
  by_cases hq : getQ q 0 ≤ 0
  · simp only [if_pos hq]
    rfl
  · simp only [if_neg hq]

/-- Settles O18: each operation's row gives the registers and the count that its table entry names. -/
theorem rakeReductions : Obligations.RakeReductions := by
  intro s p r h hfol
  dsimp only
  refine ⟨fun hr => ?_, fun hr hrow => ?_, fun hr => ?_, fun hr => ?_, fun hr => ?_, fun hr => ?_, fun hr => ?_⟩
  · exact rake_row h hfol hr (by simp only [rakeRegs, hr]) (by simp only [rakePending, hr]) (by decide) rfl
  · obtain ⟨t, ht, hpans, hsame, hother⟩ := rake_row h hfol hr (rakeRegs_rredq s.draws hr hrow) (late := []) (by simp only [rakePending,
      hr])
      (by decide) rfl
    refine ⟨t, ht, hpans, hother, ?_⟩
    rw [hsame]
    refine ⟨rfl, rfl, rfl, rfl, fun g hg => ?_, ?_, ?_⟩
    · refine (getQ_redSeq r (s.pan p).seq hg).trans ?_
      unfold redGroup
      dsimp only
      split <;> rfl
    · unfold redGroup
      dsimp only [Pan.raked]
      cases bit r.imm 0
      · rfl
      · simp
    · simp [Pan.raked, redSeq]
  · refine rake_row h hfol hr ?_ (by simp only [rakePending, hr]) (by decide) rfl
    simp only [rakeRegs, hr, sat64]
    cases bit r.imm 0 <;> simp
  · exact rake_row_free h hfol hr (rakeRegs_rdiv _ _ hr) (by simp only [rakePending, hr]) (by decide) rfl
  · exact rake_row h hfol hr (by simp only [rakeRegs, hr]) (by simp only [rakePending, hr]) (by decide) rfl
  · have hpend : rakePending r = [(16, 66)] := by simp only [rakePending, hr]
    split
    · next hh => exact rake_row h hfol hr (by simp only [rakeRegs, hr, if_pos hh]) hpend (by decide) rfl
    · next hh =>
      refine rake_row h hfol hr ?_ hpend (by decide) rfl
      simp only [rakeRegs, hr, if_neg hh, alignSat, sat64, emxOf]
      simp
  · exact rake_row h hfol hr (by simp only [rakeRegs, hr]) (by simp only [rakePending, hr]) (by decide) rfl

end Sys2Proof.Machine
end

section
/-! PROOF. The rake's operations on grains, its loads and its stores (R59, R63, R123 to R125, R142, R146). -/

namespace Sys2Proof.Machine
open Sys2Proof

/-! ### What a store access leaves as it was -/

/-- Nothing but a pan's store and counters, the bytes of the stores and the reports differs. -/
def State.storeWork (s : State) (p : Nat) (t : State) : Prop :=
  t = { s with pans := t.pans, faults := t.faults, storeMem := t.storeMem } ∧ (∀ k, k ≠ p → t.pan k = s.pan k) ∧
  t.pan p = { s.pan p with store := (t.pan p).store, ctr := (t.pan p).ctr }

namespace State.storeWork
variable {s t : State} {p : Nat}

theorem refl (s : State) (p : Nat) : s.storeWork p s := ⟨rfl, fun _ _ => rfl, rfl⟩

theorem modPan {f : Pan → Pan} (h : s.storeWork p t) (hf : ∀ x, f x = { x with store := (f x).store, ctr := (f x).ctr }) :
    s.storeWork p (t.modPan p f) := by
  obtain ⟨hrest, hother, hsame⟩ := h
  refine ⟨?_, fun k hk => (pan_modPan_other t hk f).trans (hother k hk), ?_⟩
  · rw [hrest]
    rfl
  · rw [pan_modPan_same, hf, hsame]

theorem modStore (f : Store → Store) (h : s.storeWork p t) : s.storeWork p (t.modStore p f) := h.modPan fun _ => rfl

theorem bumpPan (c n : Nat) (h : s.storeWork p t) : s.storeWork p (t.bumpPan p c n) := by
  unfold State.bumpPan
  split
  · exact h
  · exact h.modPan fun _ => rfl

theorem faults {l : Faults} (h : s.storeWork p t) : s.storeWork p { t with faults := l } := by
  obtain ⟨hrest, hother, hsame⟩ := h
  exact ⟨by rw [hrest], hother, hsame⟩

theorem report {r : FaultRec} (h : s.storeWork p t) : s.storeWork p (Machine.report r t) := h.faults

theorem mem {m : Mem} (h : s.storeWork p t) : s.storeWork p { t with storeMem := m } := by
  obtain ⟨hrest, hother, hsame⟩ := h
  exact ⟨by rw [hrest], hother, hsame⟩

theorem foldl {α : Type} {f : State → α → State} (hf : ∀ u a, s.storeWork p u → s.storeWork p (f u a)) (l : List α)
    (h : s.storeWork p t) : s.storeWork p (l.foldl f t) := by
  induction l generalizing t with
  | nil => exact h
  | cons a l ih => exact ih (hf t a h)

theorem storeDecode (e : WordErr) (h : s.storeWork p t) : s.storeWork p (Machine.storeDecode p t e) := by
  unfold Machine.storeDecode
  dsimp only
  split
  · exact ((h.bumpPan _ _).modStore _).report
  · have hcounted := ((h.bumpPan PanCtr.ce 1).bumpPan PanCtr.ceLost
      (if (ceRecord 8 e.addr e.syndrome t.now (t.pan p).store.ce).2.1 then 1 else 0)).modStore fun st =>
      askWord (.fixup e.word) e (t.pan p).seq.cycle { st with ce := (ceRecord 8 e.addr e.syndrome t.now (t.pan p).store.ce).1 }
    split
    · exact hcounted
    · exact hcounted.report

theorem decodeUnit (a : Nat) (h : s.storeWork p t) : s.storeWork p (Machine.decodeUnit p a t) := h.foldl (fun _ e h => h.storeDecode e) _

theorem storeWrite (a : Nat) (bs : List Byte) (marked : Bool) (h : s.storeWork p t) : s.storeWork p (Machine.storeWrite p a bs marked
    t) := by
  unfold Machine.storeWrite
  dsimp only
  refine (modStore _ ?_).mem
  split
  · exact (h.decodeUnit a).bumpPan _ _
  · exact h

theorem localWrite (a : Nat) (bs : List Byte) (marked : Bool) (h : s.storeWork p t) : s.storeWork p (Machine.localWrite p a bs marked
    t) := by
  unfold Machine.localWrite
  generalize unitsOf a bs.length = l
  induction l generalizing t bs with
  | nil => exact h
  | cons u l ih =>
    rw [List.foldl_cons]
    dsimp only
    split
    · exact ih _ (h.storeWrite _ _ _)
    · exact ih _ (h.bumpPan _ _)

theorem occupyRuns (port : Nat) (runs : List (Nat × Nat)) (write : Bool) (h : s.storeWork p t) :
    s.storeWork p (Machine.occupyRuns p port runs write t) := by
  unfold Machine.occupyRuns
  refine modPan (foldl (fun _ _ h => h.modPan fun _ => rfl) _ h) fun x => ?_
  split <;> rfl

theorem ask (port a n : Nat) (data : Option (List Byte)) (use : NarrowUse) (h : s.storeWork p t) :
    s.storeWork p (Machine.ask p port a n data use t) := by
  refine h.foldl (fun u b h => ?_) _
  dsimp only
  split
  · exact h.modStore _
  · split
    · exact h.bumpPan _ _
    · exact h

theorem rakeWrite (a : Nat) (bs : List Byte) (h : s.storeWork p t) : s.storeWork p (Machine.rakeWrite p a bs t) := by
  unfold Machine.rakeWrite
  dsimp only
  split
  · exact (h.occupyRuns _ _ _).localWrite _ _ _
  · exact h.ask ..

theorem seq (h : s.storeWork p t) : (t.pan p).seq = (s.pan p).seq := h.2.2 ▸ rfl

end State.storeWork

/-- Nothing but a pan's store differs. -/
def State.onlyStore (s : State) (p : Nat) (t : State) : Prop := s.onlyPan t p { s.pan p with store := (t.pan p).store }

theorem pans_trans {s t u : State} (h : t = { s with pans := t.pans }) (k : u = { t with pans := u.pans }) :
    u = { s with pans := u.pans } := by rw [k, h]

theorem onlyStore_foldl {α : Type} {f : State → α → State} {p : Nat} (hf : ∀ t a, State.onlyStore t p (f t a)) (l : List α) (s : State) :
    s.onlyStore p (l.foldl f s) := by
  induction l generalizing s with
  | nil => exact ⟨rfl, rfl, fun _ _ => rfl⟩
  | cons a l ih =>
    obtain ⟨hpans, hsame, hother⟩ := hf s a
    obtain ⟨hpans', hsame', hother'⟩ := ih (f s a)
    exact ⟨pans_trans hpans hpans', hsame'.trans (by rw [hsame]; rfl), fun k hk => (hother' k hk).trans (hother k hk)⟩

/-- Requests that carry no data change their pan's store alone. -/
theorem onlyStore_ask (p port a n : Nat) (use : NarrowUse) (s : State) : s.onlyStore p (ask p port a n none use s) := by
  refine onlyStore_foldl (fun t u => ?_) _ s
  dsimp only
  split
  · exact ⟨rfl, (pan_modPan_same t p _).trans (by rw [pan_modStore_same]), fun k hk => pan_modPan_other t hk _⟩
  · exact ⟨rfl, rfl, fun _ _ => rfl⟩

/-! ### One operation -/

/-- The sequencer once an operation's late results wait, but for a load's that wait on their own. -/
def inTime (r : RakeOp) (late : Nat) (q0 q : Seq) : Seq := if q0.nextLoad < q.nextLoad then q else inFlight r late q0 q

/-- The row of a rake operation whose effect is known, with the cycles its results are late. -/
theorem rake_effect {s v w : State} {p rop late : Nat} {r : RakeOp} {y : Pan} (h : s.issues p .nop .nop r .nop) (hfol : s.follows p)
    (hr : r.rop = rop) (h0 : rop ≠ 0) (he : rakeEffect p r s = .ok v) (hl : (v.pan p).seq.nextLoad = (s.pan p).seq.nextLoad)
    (hlate : loadDelay p r v = late) (hv : w.onlyPan v p y) :
    ∃ t, issueAct p (rakeIs rop) s = .next t ∧ w.onlyPan t p { y with
      seq := { inFlight r late (s.pan p).seq y.seq with pc := (s.pan p).seq.pc + 1, nextIssue := (s.pan p).seq.cycle + 1 }
      ctr := bump y.ctr PanCtr.bundle 1 } := by
  subst hr
  have hy : y = v.pan p := hv.2.1.symm
  have hslot : rakeSlotEffect p r (s.pan p).seq s = .ok (v.modSeq p (inTime r late (s.pan p).seq)) := by
    rw [rakeSlotEffect, if_neg h0, he, ← hlate]
    rfl
  refine ⟨_, exec_rake s p r h hfol _ hslot (notRes s p r h), ?_⟩
  have hmod := onlyPan_modSeq v p (inTime r late (s.pan p).seq)
  rw [inTime, hl, if_neg (Nat.lt_irrefl _), ← hy] at hmod
  have hall : w.onlyPan _ p _ := ⟨pans_trans hv.1 hmod.1, hmod.2.1, fun k hk => (hmod.2.2 k hk).trans (hv.2.2 k hk)⟩
  exact onlyPan_issued hall _

/-- One whose results come in its cycle, over what the store accesses have left. -/
theorem rake_effect_now {s u : State} {p rop : Nat} {r : RakeOp} {f : Seq → Seq} (h : s.issues p .nop .nop r .nop) (hfol : s.follows p)
    (hr : r.rop = rop) (h0 : rop ≠ 0) (h1 : rop ≠ 1) (he : rakeEffect p r s = .ok (u.modSeq p f)) (hpend : rakePending r = [])
    (hf : ∀ q, (f q).nextLoad = q.nextLoad) (hu : (u.pan p).seq = (s.pan p).seq) :
    ∃ t, issueAct p (rakeIs rop) s = .next t ∧ u.onlyPan t p ((u.pan p).raked (f (u.pan p).seq) [] 0) := by
  have hl : ((u.modSeq p f).pan p).seq.nextLoad = (s.pan p).seq.nextLoad := by
    rw [pan_modSeq_same, ← hu]
    exact hf _
  obtain ⟨t, ht, ht'⟩ := rake_effect h hfol hr h0 he hl (if_neg (hr ▸ h1)) (onlyPan_modSeq u p f)
  refine ⟨t, ht, ?_⟩
  have hin : ∀ q, inFlight r 0 (s.pan p).seq q = q := fun q => by simp only [inFlight, hpend]
  rw [hin, ← hu] at ht'
  have hraked : (u.pan p).raked (f (u.pan p).seq) [] 0 = { u.pan p with
      seq := { f (u.pan p).seq with pc := (u.pan p).seq.pc + 1, nextIssue := (u.pan p).seq.cycle + 1 }
      ctr := bump (u.pan p).ctr PanCtr.bundle 1 } := by simp [Pan.raked, bump]
  rwa [hraked]

/-- One whose results are late, over what the store accesses have left. -/
theorem rake_effect_late {s u : State} {p rop n late : Nat} {r : RakeOp} {f : Seq → Seq} (h : s.issues p .nop .nop r .nop)
    (hfol : s.follows p) (hr : r.rop = rop) (h0 : rop ≠ 0) (he : rakeEffect p r s = .ok (u.modSeq p f))
    (hpend : rakePending r = [(r.vd, n)]) (hlate : loadDelay p r (u.modSeq p f) = late) (hf : ∀ q, (f q).nextLoad = q.nextLoad)
    (hu : (u.pan p).seq = (s.pan p).seq) :
    ∃ t, issueAct p (rakeIs rop) s = .next t ∧ u.onlyPan t p ((u.pan p).raked (f (s.pan p).seq) [(r.vd, n + late)] 0) := by
  have hl : ((u.modSeq p f).pan p).seq.nextLoad = (s.pan p).seq.nextLoad := by
    rw [pan_modSeq_same, ← hu]
    exact hf _
  obtain ⟨t, ht, ht'⟩ := rake_effect h hfol hr h0 he hl hlate (onlyPan_modSeq u p f)
  refine ⟨t, ht, ?_⟩
  rw [← hu] at ht' ⊢
  have hraked : (u.pan p).raked (f (u.pan p).seq) [(r.vd, n + late)] 0 = { u.pan p with
      seq := { inFlight r late (u.pan p).seq (f (u.pan p).seq) with pc := (u.pan p).seq.pc + 1, nextIssue := (u.pan p).seq.cycle + 1 }
      ctr := bump (u.pan p).ctr PanCtr.bundle 1 } := by simp [Pan.raked, bump, inFlight, hpend, Nat.add_assoc]
  rwa [hraked]

/-- The row of a load that waits for its banks: its requests are queued and its register stays. -/
theorem rake_effect_queued {s : State} {p rop ea xa n : Nat} {r : RakeOp} (h : s.issues p .nop .nop r .nop) (hfol : s.follows p)
    (hr : r.rop = rop) (h0 : rop ≠ 0) (he : rakeEffect p r s = .ok (queueLoad p r ea xa n s)) :
    ∃ t, issueAct p (rakeIs rop) s = .next t ∧ t = { s with pans := t.pans } ∧ (∀ k, k ≠ p → t.pan k = s.pan k) ∧
      (t.pan p).seq.v = (s.pan p).seq.v ∧ (t.pan p).seq.pc = (s.pan p).seq.pc + 1 ∧
      (t.pan p).seq.loads.map (·.vd) = (s.pan p).seq.loads.map (·.vd) ++ [r.vd] ∧ (t.pan p).ctr = bump (s.pan p).ctr PanCtr.bundle 1 := by
  subst hr
  have hslot : rakeSlotEffect p r (s.pan p).seq s =
      .ok ((queueLoad p r ea xa n s).modSeq p (inTime r (loadDelay p r (queueLoad p r ea xa n s)) (s.pan p).seq)) := by
    rw [rakeSlotEffect, if_neg h0, he]
    rfl
  obtain ⟨hpans, hsame, hother⟩ := onlyPan_modSeq s p fun q =>
    { stepAg (r.imm % 4) q with
      nextLoad := (s.pan p).seq.nextLoad + 1
      loads := q.loads ++ [{ id := (s.pan p).seq.nextLoad, vd := r.vd, w := r.w, imm := r.imm, ag := r.imm % 4, ea := ea, xa := xa }] }
  obtain ⟨hpans1, hsame1, hother1⟩ := onlyStore_ask p 0x8 ea 32 (.rakeLoad (s.pan p).seq.nextLoad) (s.modSeq p _)
  obtain ⟨hpans2, hsame2, hother2⟩ := onlyStore_ask p 0x8 xa n (.rakeLoad (s.pan p).seq.nextLoad)
    (ask p 0x8 ea 32 none (.rakeLoad (s.pan p).seq.nextLoad) (s.modSeq p _))
  have hall : s.onlyPan (queueLoad p r ea xa n s) p _ := ⟨pans_trans (pans_trans hpans hpans1) hpans2, hsame2.trans
    (by rw [hsame1, hsame]),
    fun k hk => (hother2 k hk).trans ((hother1 k hk).trans (hother k hk))⟩
  have hlate : ∀ q : Seq, (s.pan p).seq.nextLoad < q.nextLoad → inTime r (loadDelay p r (queueLoad p r ea xa n s)) (s.pan p).seq q = q :=
    fun q hq => if_pos hq
  refine ⟨_, exec_rake s p r h hfol _ hslot (notRes s p r h), ?_⟩
  obtain ⟨hp3, hs3, ho3⟩ := onlyPan_modSeq (queueLoad p r ea xa n s) p (inTime r (loadDelay p r (queueLoad p r ea xa n s)) (s.pan p).seq)
  rw [hall.2.1, hlate _ (Nat.lt_succ_self _)] at hs3
  have hall3 : s.onlyPan _ p _ := ⟨pans_trans hall.1 hp3, hs3, fun k hk => (ho3 k hk).trans (hall.2.2 k hk)⟩
  obtain ⟨hp4, hs4, ho4⟩ := onlyPan_issued hall3 fun x => { x with pc := (s.pan p).seq.pc + 1, nextIssue := (s.pan p).seq.cycle + 1 }
  refine ⟨hp4, ho4, ?_⟩
  rw [hs4]
  exact ⟨rfl, rfl, by simp, rfl⟩

/-- The aligned sum of squares of a grain, of no element when all are zero. -/
theorem alignSat_if (b : Bool) (y d : Int) :
    (if b then alignSat y d else (0, false)) = sat64 (if b then align y (clampInt (-192) 192 d) else 0) := by cases b <;> rfl

theorem foldl_same {α β γ : Type} {f : β → α → β} (g : β → γ) (hf : ∀ b a, g (f b a) = g b) (l : List α) (b : β) :
    g (l.foldl f b) = g b := by
  induction l generalizing b with
  | nil => rfl
  | cons a l ih => exact (ih (f b a)).trans (hf b a)

/-- The port's last cycle after some reads: the last of theirs, if they read any unit. -/
theorem served_occupyRuns (s : State) (p port : Nat) (runs : List (Nat × Nat)) (write : Bool) :
    ((occupyRuns p port runs write s).pan p).store.served = if (s.awakeUnits p runs).isEmpty then (s.pan p).store.served
      else put port ((s.pan p).seq.cycle + ((s.awakeUnits p runs).length - 1)) (s.pan p).store.served := by
  have hsame : ∀ (l : List ((Nat × Nat) × Nat)) (t : State),
      ((l.foldl (fun t e => t.modPan p (occupy e.2 (t.bankAt p e.1.1) (write && partWrite (t.pan p).store.swz e.1.1 e.1.2))) t).pan
        p).store.served = (t.pan p).store.served :=
    fun l t => foldl_same (fun t => (State.pan t p).store.served) (fun t e => by rw [pan_modPan_same]; rfl) l t
  have hseq : ∀ (l : List ((Nat × Nat) × Nat)) (t : State),
      ((l.foldl (fun t e => t.modPan p (occupy e.2 (t.bankAt p e.1.1) (write && partWrite (t.pan p).store.swz e.1.1 e.1.2))) t).pan
        p).seq = (t.pan p).seq :=
    fun l t => foldl_same (fun t => (State.pan t p).seq) (fun t e => by rw [pan_modPan_same]; rfl) l t
  unfold occupyRuns
  dsimp only
  rw [pan_modPan_same]
  split
  · exact hsame _ s
  · simp only [takePort, hsame, hseq]

theorem look_eq_find? {α : Type} (d : α) (m : Sparse α) (k : Nat) : look d m k = (find? m k).getD d := by
  induction m with
  | nil => rfl
  | cons e m ih =>
    simp only [look, find?, ih]
    split <;> rfl

/-- A port that is free has served its last unit before this cycle. -/
theorem served_of_free {s : State} {p port : Nat} (hclock : s.clocked (regionOf p) = true) (hfree : portTaken p port s = false) :
    look 0 (s.pan p).store.served port - ((s.pan p).seq.cycle + 1) = 0 := by
  simp only [portTaken, hclock, Bool.true_and] at hfree
  rw [look_eq_find?]
  split at hfree
  · next c hc =>
    simp only [decide_eq_false_iff_not] at hfree
    rw [hc, Option.getD_some]
    omega
  · next hc => rw [hc, Option.getD_none, Nat.zero_sub]

/-- How late a load's register is: by the units its port reads beyond two. -/
theorem loadDelay_occupied (s : State) (p : Nat) (r : RakeOp) (runs : List (Nat × Nat)) (f : Seq → Seq) (hr : r.rop = 0x01)
    (hf : ∀ q, (f q).cycle = q.cycle) (hclock : s.clocked (regionOf p) = true) (hfree : portTaken p 0x8 s = false) :
    loadDelay p r ((occupyRuns p 0x8 runs false s).modSeq p f) = (s.awakeUnits p runs).length - 2 := by
  have hseq := ((State.storeWork.refl s p).occupyRuns 0x8 runs false).seq
  rw [loadDelay, if_pos hr, pan_modSeq_same]
  dsimp only
  rw [served_occupyRuns, hf, hseq]
  split
  · next hnone => simp [served_of_free hclock hfree, List.isEmpty_iff.mp hnone]
  · rw [look_put_same]
    omega

/-- The grain that RPACK and RNPACK make of their values, with the pan's bounds. -/
def packed (q : Seq) (r : RakeOp) (vals : List Int) (scale : Int) : DrainOut :=
  drainGrain { fmt := if bit r.vd 2 then 2 else 1, emin := q.emin, emax := q.emax } scale 0 vals []

/-- The stores of that grain, and what it counts. -/
def packStores (p : Nat) (r : RakeOp) (vals : List Int) (scale : Int) (s : State) : State :=
  let q := (s.pan p).seq
  let g : Ag := look {} q.ags (r.vd % 4)
  let d := packed q r vals scale
  countDrain p d (rakeWrite p g.xcur.toNat [expByte (d.exponent.getD 0)]
    (rakeWrite p g.ecur.toNat (grainBytes (if bit r.vd 2 then 2 else 1) d.elems) s))

theorem rakePack_eq {s : State} {p : Nat} {r : RakeOp} (vals : List Int) (scale : Int)
    (hag : agCheck (s.pan p).seq (r.vd % 4) unitRake (if (if bit r.vd 2 then 2 else 1) = 2 then 16 else 32) 1 = none) :
    rakePack p r vals scale s = .ok ((packStores p r vals scale s).modSeq p (stepAg (r.vd % 4))) := by
  simp only [rakePack, hag]
  rfl

theorem seq_packStores (p : Nat) (r : RakeOp) (vals : List Int) (scale : Int) (s : State) :
    ((packStores p r vals scale s).pan p).seq = (s.pan p).seq :=
  State.storeWork.seq ((((((State.storeWork.refl s p).rakeWrite _ _).rakeWrite _ _).bumpPan _ _).bumpPan _ _).bumpPan _ _)

theorem rakeEffect_rpack {s : State} {p : Nat} {r : RakeOp} (hr : r.rop = 0x10) :
    rakeEffect p r s = rakePack p r ((getV (s.pan p).seq r.va).lanes ++ (getV (s.pan p).seq (r.va + 1)).lanes) r.simm s := by
  simp only [rakeEffect, hr]

theorem rakeEffect_rnpack {s : State} {p : Nat} {r : RakeOp} (hr : r.rop = 0x16) :
    rakeEffect p r s = rakePack p r
      (List.zipWith (fun x g => x * g * getQ (s.pan p).seq 0) (grainOf (getV (s.pan p).seq r.va))
        ((getV (s.pan p).seq r.vb).lanes ++ (getV (s.pan p).seq (r.vb + 1)).lanes))
      (expOfV (getV (s.pan p).seq r.va) s.draws + r.simm + getQ (s.pan p).seq 2 + 20 - emxOf (s.pan p).seq)
      { s with draws := s.draws + 1 } := by
  simp only [rakeEffect, hr]

/-- Settles O19: each operation's row does its table entry, its accesses first. -/
theorem rakeGrainOperations : Obligations.RakeGrainOperations := by
  intro s p r h hfol
  dsimp only
  refine ⟨fun hr => ?_, fun hr hrow => ?_, fun bs xs hr hag hfree hbs hxs => ?_, fun hr hag hbusy => ?_, fun hr hag hfree => ?_,
    fun fmt hr hfmt hag => ?_⟩
  · exact rake_row_free h hfol hr (by simp only [rakeRegs, hr]) (by simp only [rakePending, hr]) (by decide) (by split <;> rfl)
  · refine rake_row_free h hfol hr ?_ (by simp only [rakePending, hr]) (by decide) rfl
    simp only [rakeRegs, hr, if_neg (Nat.not_lt.mpr hrow), alignSat_if, sat64, emxOf, Bool.or_eq_true, decide_eq_true_eq]
  · have hnow := hfree
    simp only [State.narrowFree, Bool.and_eq_true, Bool.not_eq_true'] at hnow
    have hport : portTaken p 0x8 s = false := hnow.1.1
    have hclock : s.clocked (regionOf p) = true := by
      have hworks := issues_can h
      simp only [State.canIssue, State.panWorks, Bool.and_eq_true] at hworks
      exact hworks.1.1.2.1
    refine rake_effect_late h hfol hr (by decide) ?_ (by simp only [rakePending, hr]) (loadDelay_occupied s p r _
      (fun q => setV r.vd (loadedReg r.w r.imm bs xs) (stepAg (r.imm % 4) q)) hr (fun _ => rfl) hclock hport) (fun _ => rfl)
      ((State.storeWork.refl s p).occupyRuns _ _ _).seq
    simp only [rakeEffect, hr, rakeLoad, loadExpBytes, hag, hfree, hbs, hxs]
    rfl
  · refine rake_effect_queued (ea := (look {} (s.pan p).seq.ags (r.imm % 4) : Ag).ecur.toNat)
      (xa := (look {} (s.pan p).seq.ags (r.imm % 4) : Ag).xcur.toNat) (n := loadExpBytes r.w r.imm) h hfol hr (by decide) ?_
    simp only [rakeEffect, hr, rakeLoad, loadExpBytes, hag, hbusy]
    rfl
  · have hwrite : rakeEffect p r s = .ok ((localWrite p (look {} (s.pan p).seq.ags (r.imm % 4) : Ag).ecur.toNat
        (vBytes (getV (s.pan p).seq r.va)) false (occupyRuns p 0x8
          [((look {} (s.pan p).seq.ags (r.imm % 4) : Ag).ecur.toNat, (vBytes (getV (s.pan p).seq r.va)).length)] true s)).modSeq p
        (stepAg (r.imm % 4))) := by
      simp only [rakeEffect, hr, rakeStore, hag, rakeWrite, if_pos hfree]
    exact rake_effect_now h hfol hr (by decide) (by decide) hwrite (by simp only [rakePending, hr]) (fun _ => rfl)
      (((State.storeWork.refl s p).occupyRuns _ _ _).localWrite _ _ _).seq
  · subst hfmt
    rcases hr with hr | hr
    · have hop := (rakeEffect_rpack hr).trans (rakePack_eq _ _ hag)
      simp only [hr, if_true]
      exact rake_effect_now h hfol hr (by decide) (by decide) hop (by simp only [rakePending, hr]) (fun _ => rfl)
        (seq_packStores p r _ _ s)
    · have hop := (rakeEffect_rnpack hr).trans (rakePack_eq (s := { s with draws := s.draws + 1 }) _ _ hag)
      have hne : ¬ r.rop = 0x10 := by omega
      simp only [if_neg hne]
      exact rake_effect_now h hfol hr (by decide) (by decide) hop (by simp only [rakePending, hr]) (fun _ => rfl)
        (seq_packStores p r _ _ { s with draws := s.draws + 1 })

end Sys2Proof.Machine
end

section
/-! PROOF. Faults of a chain's pans together (R95, R96, R117, R139). -/

namespace Sys2Proof.Machine
open Sys2Proof

/-! ### The pans of a chain -/

theorem chainPans_fst (s : State) (r : Nat) : (s.chainPans r).map (·.1) = (regionPans r).filter fun p => !s.isSpare p := by
  simp only [State.chainPans, List.map_map]
  exact List.zipIdx_map_fst 0 _

theorem nodup_chainPans (s : State) (r : Nat) : ((s.chainPans r).map (·.1)).Nodup := by
  rw [chainPans_fst]
  refine List.Nodup.filter _ (List.Nodup.map (fun a b h => ?_) List.nodup_range)
  omega

/-- A pan at the rendezvous waits there with its tile. -/
theorem rendezvous_waits {s : State} {r : Nat} {e : Nat × Nat × TileCtx} (he : e ∈ s.rendezvous r) :
    (s.pan e.1).seq.mode = .waiting ∧ (s.pan e.1).seq.wait = .rendezvous e.2.2 := by
  simp only [State.rendezvous, List.mem_filterMap] at he
  obtain ⟨a, -, ha⟩ := he
  split at ha
  · next hmode hwait =>
    cases ha
    exact ⟨hmode, hwait⟩
  · cases ha

theorem filterMap_fst_sublist {α β : Type} {f : Nat × α → Option (Nat × β)} (hf : ∀ a b, f a = some b → b.1 = a.1) (l : List (Nat × α)) :
    ((l.filterMap f).map (·.1)).Sublist (l.map (·.1)) := by
  induction l with
  | nil => exact .slnil
  | cons a l ih =>
    rw [List.filterMap_cons, List.map_cons]
    split
    · exact ih.cons _
    · next b hb =>
      rw [List.map_cons, hf a b hb]
      exact ih.cons_cons _

theorem nodup_rendezvous (s : State) (r : Nat) : ((s.rendezvous r).map (·.1)).Nodup := by
  refine (nodup_chainPans s r).sublist (filterMap_fst_sublist (fun a b h => ?_) _)
  dsimp only at h
  split at h
  · cases h
    rfl
  · cases h

/-! ### Faults of several pans -/

/-- A pan as a fault of its own leaves it. -/
def Pan.stoppedBy (x y : Pan) (code detail : Nat) : Prop :=
  y.seq.mode = .faulted ∧ y.seq.fault.code = code ∧ y.seq.fault.detail = detail % 65536 ∧ y.seq.fault.async = true ∧ y.seq.pc = x.seq.pc

/-- Pans that fault one after the other. -/
theorem foldFaults_pan (ws : List (Nat × Nat × Nat)) (s : State) (hnodup : (ws.map (·.1)).Nodup) :
    let t := foldState ws (fun t e => panFaultOne e.1 e.2.1 (panClass e.2.1) e.2.2 none (t.pan e.1).seq.pc t) s
    (∀ e ∈ ws, (s.pan e.1).seq.mode ≠ .faulted → (s.pan e.1).stoppedBy (t.pan e.1) e.2.1 e.2.2) ∧
    ∀ k, k ∉ ws.map (·.1) → t.pan k = s.pan k := by
  induction ws generalizing s with
  | nil => exact ⟨fun e he => absurd he List.not_mem_nil, fun k _ => rfl⟩
  | cons w ws ih =>
    rw [List.map_cons, List.nodup_cons] at hnodup
    obtain ⟨hin, hout⟩ := ih (panFaultOne w.1 w.2.1 (panClass w.2.1) w.2.2 none (s.pan w.1).seq.pc s) hnodup.2
    refine ⟨fun e he hmode => ?_, fun k hk => ?_⟩
    · rcases List.mem_cons.mp he with rfl | he
      · have hsame := (hout e.1 hnodup.1).trans (panFaultOne_pan_same s e.1 e.2.1 (panClass e.2.1) e.2.2 none (s.pan e.1).seq.pc hmode)
        simp only [foldState, List.foldl_cons] at hsame ⊢
        rw [hsame]
        exact ⟨rfl, rfl, rfl, rfl, rfl⟩
      · have hne : e.1 ≠ w.1 := fun h => hnodup.1 (h ▸ List.mem_map_of_mem he)
        have hkeep := panFaultOne_pan_other s hne w.2.1 (panClass w.2.1) w.2.2 none (s.pan w.1).seq.pc
        have hdone := hin e he (by rw [hkeep]; exact hmode)
        rw [hkeep] at hdone
        exact hdone
    · rw [List.map_cons, List.mem_cons, not_or] at hk
      exact (hout k hk.2).trans (panFaultOne_pan_other s hk.1 _ _ _ _ _)

/-- The faults of a chain's pans, each with its own code and DETAIL. -/
theorem chainFaults_pan {ws : List (Nat × Nat × Nat)} {s : State} (r : Nat) (hnodup : (ws.map (·.1)).Nodup) {e : Nat × Nat × Nat}
    (he : e ∈ ws) (hmode : (s.pan e.1).seq.mode ≠ .faulted) :
    (s.pan e.1).stoppedBy ((chainFaults r ws s).pan e.1) e.2.1 e.2.2 := by
  have hstop := (foldFaults_pan ws s hnodup).1 e he hmode
  unfold chainFaults
  cases ws with
  | nil => exact absurd he List.not_mem_nil
  | cons w ws =>
    dsimp only
    split
    · rw [stopPeers_pan _ _ _ _ fun q hq => ?_]
      · exact hstop
      · simp only [List.mem_filter, Bool.and_eq_true, Bool.not_eq_true', List.any_eq_false, beq_iff_eq] at hq
        exact fun h => hq.2.2 e he h
    · exact hstop

end Sys2Proof.Machine
end

section
/-! PROOF. The move slot's loads: AGLD, TILE, WOPEN, WCLOSE, HSTART, FENCE and DONE (R115, R116, R130 to R133, R162, R163, R203). -/

namespace Sys2Proof.Machine
open Sys2Proof

/-! ### Descriptor reads -/

/-- Nothing but the busy banks and the ports of a pan's store differs. -/
def State.onlyTimes (s : State) (p : Nat) (t : State) : Prop :=
  s.onlyPan t p { s.pan p with store := { (s.pan p).store with busy := (t.pan p).store.busy, served := (t.pan p).store.served } }

theorem State.onlyTimes.refl (s : State) (p : Nat) : s.onlyTimes p s := ⟨rfl, rfl, fun _ _ => rfl⟩

theorem State.onlyTimes.modPan {s t : State} {p : Nat} {f : Pan → Pan} (h : s.onlyTimes p t)
    (hf : ∀ x, f x = { x with store := { x.store with busy := (f x).store.busy, served := (f x).store.served } }) :
    s.onlyTimes p (t.modPan p f) := by
  obtain ⟨hpans, hsame, hother⟩ := h
  refine ⟨fp_modPan hpans p f, ?_, fun k hk => (pan_modPan_other t hk f).trans (hother k hk)⟩
  rw [pan_modPan_same, hf, hsame]

theorem State.onlyTimes.foldl {α : Type} {f : State → α → State} {s : State} {p : Nat}
    (hf : ∀ t a, s.onlyTimes p t → s.onlyTimes p (f t a)) (l : List α) {t : State} (h : s.onlyTimes p t) : s.onlyTimes p (l.foldl f t) :=
      by
  induction l generalizing t with
  | nil => exact h
  | cons a l ih => exact ih (hf t a h)

/-- Granted accesses take their banks and their port, and nothing else. -/
theorem onlyTimes_occupyRuns (s : State) (p port : Nat) (runs : List (Nat × Nat)) (write : Bool) :
    s.onlyTimes p (occupyRuns p port runs write s) := by
  unfold occupyRuns
  refine .modPan (.foldl (fun t e h => h.modPan fun x => rfl) _ (.refl s p)) fun x => ?_
  split <;> rfl

/-- Descriptor reads that are granted. -/
theorem onlyTimes_descReads {s : State} {p : Nat} {use : NarrowUse} {served : Bool} {runs : List (Nat × Nat)}
    (h : (descReads p use served runs s).1 = true) : s.onlyTimes p (descReads p use served runs s).2 := by
  unfold descReads at h ⊢
  split
  · exact .refl s p
  · split
    · next hs hn => rw [if_neg hs, if_pos hn] at h; cases h
    · split
      · exact onlyTimes_occupyRuns ..
      · next hs hn hf => rw [if_neg hs, if_neg hn, if_neg hf] at h; cases h

theorem onlyPan_descTaken {s : State} {p : Nat} {runs : List (Nat × Nat)} (h : s.descGranted p runs) :
    s.onlyPan (s.descTaken p runs) p { s.pan p with
      seq := { (s.pan p).seq with descServed := false }
      store := { (s.pan p).store with
        busy := ((s.descTaken p runs).pan p).store.busy, served := ((s.descTaken p runs).pan p).store.served } } := by
  obtain ⟨hpans, hsame, hother⟩ := onlyTimes_descReads h
  refine ⟨fp_modSeq hpans p _, ?_, fun k hk => (pan_modSeq_other _ hk _).trans (hother k hk)⟩
  unfold State.descTaken
  rw [pan_modSeq_same]
  dsimp only
  rw [hsame]

theorem seq_descTaken {s : State} {p : Nat} {runs : List (Nat × Nat)} (h : s.descGranted p runs) :
    ((s.descTaken p runs).pan p).seq = { (s.pan p).seq with descServed := false } := by
  rw [(onlyPan_descTaken h).2.1]

/-! ### The issue of a bundle that reads a descriptor -/

/-- A bundle whose descriptor reads are granted, and which neither waits nor starts a tile, takes effect over what they leave. -/
theorem issueNow_desc {s : State} {p : Nat} {f d r m} {runs : List (Nat × Nat)} (h : s.issues p f d r m) (hruns : moveRuns p m s = runs)
    (hne : runs ≠ []) (hg : s.descGranted p runs) (hm : ∀ sem n, m ≠ .swait sem n) (hf : m ≠ .fence) (ht : ∀ c a, m ≠ .tile c a) :
    issueNow p (s.bundleAt p) s = takeEffect p (s.bundleAt p) (s.descTaken p runs) := by
  obtain ⟨-, -, -, hslots, hres, hstall⟩ := h
  have hsome : (reservedSlot (s.bundleAt p)).isSome = false := by rw [hres]; rfl
  have hemp : runs.isEmpty = false := by simpa using hne
  unfold issueNow
  have hgot : (descReads p .sequencer (s.pan p).seq.descServed runs s).1 = true := hg
  simp only [hsome, hstall, hslots, hruns, hemp, hgot, Bool.false_eq_true, if_false, Bool.not_true]
  rfl

/-- A TILE whose descriptor reads are granted: a chained one waits, an unchained one takes effect unless others wait for it. -/
theorem issueNow_tile {s : State} {p : Nat} {f d r copy a} {c : TileCtx} (h : s.issues p f d r (.tile copy a))
    (hg : s.descGranted p (moveRuns p (.tile copy a) s))
    (hread : readTile p a copy (s.descTaken p (moveRuns p (.tile copy a) s)) = .ok c) :
    issueNow p (s.bundleAt p) s =
      let u := s.descTaken p (moveRuns p (.tile copy a) s)
      if c.chained then beginWait p (.rendezvous c) (touchRuns p (moveRuns p (.tile copy a) s) u)
      else if (u.rendezvous (p / 15)).isEmpty then takeEffect p (s.bundleAt p) u else chainDisagree p u := by
  obtain ⟨-, -, -, hslots, hres, hstall⟩ := h
  have hsome : (reservedSlot (s.bundleAt p)).isSome = false := by rw [hres]; rfl
  have hemp : (moveRuns p (.tile copy a) s).isEmpty = false := rfl
  have hgot : (descReads p .sequencer (s.pan p).seq.descServed (moveRuns p (.tile copy a) s) s).1 = true := hg
  unfold State.descTaken at hread ⊢
  unfold issueNow
  simp only [hsome, hstall, hslots, hemp, hgot, Bool.false_eq_true, if_false, Bool.not_true, hread]
  rfl

/-- The effect of a bundle of one move operation over a state in which its descriptor has been read. -/
theorem takeEffect_move {s u v : State} {p : Nat} {r : RakeOp} {m} {run : State → State} {y : Pan}
    (h : s.issues p .nop .nop r m) (hr0 : r.rop = 0) (hfol : s.follows p) (hn : nextPc m (s.pan p).seq = some ((s.pan p).seq.pc + 1))
    (hn' : nextPc m (u.pan p).seq = some ((u.pan p).seq.pc + 1)) (hu : (u.pan p).seq = { (s.pan p).seq with descServed := false })
    (hdone : ∀ share, m ≠ .done share) (hplan : movePlan p m u = .ok run) (hv : v.onlyPan (run u) p y) :
    v.onlyPan (takeEffect p (s.bundleAt p) u) p { y with
      seq := { y.seq with pc := (s.pan p).seq.pc + 1, nextIssue := (s.pan p).seq.cycle + issueCost m }
      ctr := bump y.ctr PanCtr.bundle 1 } := by
  have hslots := issues_bundle h
  have hdone' : ∀ w, afterDone p m w = w := by
    intro w
    unfold afterDone
    split
    · next share => exact absurd rfl (hdone share)
    · rfl
  have hlt : ∀ b, nextPc m (u.pan p).seq = some b → b < (u.pan p).seq.progLen := fun b hb => by
    rw [hn', Option.some.injEq, hu] at hb
    rw [hu, ← hb]
    exact hfol
  have hplan' : movePlan p (slotsOf (s.bundleAt p)).2.2.2 u = .ok run := by rw [hslots]; exact hplan
  rw [takeEffect, hplan', takePlan_plain u p _ .nop .nop r m u run hslots (issues_unreserved h) hlt (rakeNop u p r hr0), hdone', hn', hu]
  exact onlyPan_issued hv _

/-- A descriptor read without a mark, whose use is known. -/
theorem withDesc_ok {p a n : Nat} {u : State} {d : List Byte} {use : List Byte → State → MovePlan} {g : State → State}
    (hread : localRead p a n u = (d, false, u)) (huse : use d u = .ok g) :
    withDesc p a n u use = .ok fun w => g (touchRuns p [(a, n)] w) := by
  simp only [withDesc, hread, huse]
  rfl

/-- A generator loaded. -/
def loadAg (p ag : Nat) (g : Ag) (s : State) : State := s.modSeq p fun q => { q with ags := put ag g q.ags }

/-- A window that opens at a cycle. -/
def openWindow (p cycle w : Nat) (v : Window) (s : State) : State :=
  s.modStore p fun st => { st with winPend := st.winPend ++ [(cycle, w, some v)] }

/-- A channel loaded from its descriptor and started. -/
def startTransfer (p ch : Nat) (d : List Byte) (s : State) : State :=
  haulStart (.pan p ch) (s.modHaul (.pan p ch) fun h =>
    { h with src := word d 0 8, dst := word d 8 8, count := word d 0x10 4, ctrl := word d 0x14 4 % 2 ^ 26 })

theorem issued_eq {x : Pan} {c : Nat} (hc : x.seq.cycle = c) (pc cost : Nat) (q : Seq) :
    x.issued pc cost q = { x with seq := { q with pc := pc, nextIssue := c + cost }, ctr := bump x.ctr PanCtr.bundle 1 } := by
  subst hc
  rfl

theorem touchRuns_read {p a n : Nat} {u : State} {d : List Byte} {b : Bool} (hread : localRead p a n u = (d, b, u)) :
    touchRuns p [(a, n)] u = u := by
  simp only [touchRuns, List.foldl_cons, List.foldl_nil, hread]

/-- The row of such a bundle. -/
theorem desc_row {s u v : State} {p : Nat} {r : RakeOp} {m} {want : Bundle → Bool} {runs : List (Nat × Nat)} {run : State → State}
    {y : Pan}
    (h : s.issues p .nop .nop r m) (hr0 : r.rop = 0) (hfol : s.follows p) (hruns : moveRuns p m s = runs) (hne : runs ≠ [])
    (hg : s.descGranted p runs) (hm : ∀ sem n, m ≠ .swait sem n) (hf : m ≠ .fence) (ht : ∀ c a, m ≠ .tile c a)
    (hdone : ∀ share, m ≠ .done share) (hn : ∀ q : Seq, nextPc m q = some (q.pc + 1))
    (hu : s.descTaken p runs = u) (hplan : movePlan p m u = .ok run) (hw : want (s.bundleAt p) = true) (hv : v.onlyPan (run u) p y) :
    ∃ t, issueAct p want s = .next t ∧ v.onlyPan t p { y with
      seq := { y.seq with pc := (s.pan p).seq.pc + 1, nextIssue := (s.pan p).seq.cycle + issueCost m }
      ctr := bump y.ctr PanCtr.bundle 1 } := by
  subst hu
  refine ex_issue h hw ?_
  rw [issueNow_desc h hruns hne hg hm hf ht]
  exact takeEffect_move h hr0 hfol (hn _) (hn _) (seq_descTaken hg) hdone hplan hv

/-- FENCE passes when no earlier write of the pan's channels is out. -/
theorem fenceClear_iff (s : State) (p n : Nat) : s.fenceClear p n = true ↔
    ∀ o ∈ s.outs, o.write = true → o.serial ≤ n → (∀ c, o.who ≠ .haul (.pan p c)) ∧ (o.who = .expired → o.src ≠ s.haulSrc (.pan p 0)) :=
      by
  simp only [State.fenceClear, Bool.not_eq_true', List.any_eq_false]
  refine forall₂_congr fun o _ => ?_
  simp only [Bool.and_eq_true, decide_eq_true_eq, not_and]
  refine ⟨fun h hw hs => ?_, fun h hws => ?_⟩
  · have hno := h ⟨hw, hs⟩
    refine ⟨fun c hc => ?_, fun hc => ?_⟩
    · simp [hc] at hno
    · simpa [hc] using hno
  · obtain ⟨hhaul, hexp⟩ := h hws.1 hws.2
    split
    · next q c hwho =>
      simp only [beq_iff_eq]
      rintro rfl
      exact hhaul c hwho
    · next hwho => simpa using hexp hwho
    · exact Bool.false_ne_true

theorem issueNow_fence {s : State} {p : Nat} {f d r} (h : s.issues p f d r .fence) :
    issueNow p (s.bundleAt p) s =
      if s.fenceClear p s.issuedOuts then takeEffect p (s.bundleAt p) s else beginWait p (.fence s.issuedOuts) s := by
  obtain ⟨-, -, -, hslots, hres, hstall⟩ := h
  have hsome : (reservedSlot (s.bundleAt p)).isSome = false := by rw [hres]; rfl
  simp only [issueNow, hsome, hstall, hslots, moveRuns, Bool.false_eq_true, if_false, List.isEmpty_nil, if_true, Bool.not_true]

theorem logicalCol_lt (s : State) (p : Nat) : s.logicalCol p < 15 := by
  unfold State.logicalCol colOf
  dsimp only
  split <;> omega

/-- An unchained TILE among chained ones stops every pan of the chain. -/
theorem chainDisagree_pan {s : State} (p : Nat) {e : Nat × Nat} (he : e ∈ s.chainPans (p / 15)) (hmode : (s.pan e.1).seq.mode ≠
    .faulted) :
    ((chainDisagree p s).pan e.1).seq.mode = .faulted ∧ ((chainDisagree p s).pan e.1).seq.fault.code = 0x14 ∧
    ((chainDisagree p s).pan e.1).seq.fault.detail = s.logicalCol p := by
  have hfst : ((s.chainPans (regionOf p)).map fun e => (e.1, PanCode.chainMismatch, s.logicalCol p)).map (·.1) =
      (s.chainPans (regionOf p)).map (·.1) := by rw [List.map_map]; rfl
  have hmem : (e.1, PanCode.chainMismatch, s.logicalCol p) ∈
      (s.chainPans (regionOf p)).map fun e => (e.1, PanCode.chainMismatch, s.logicalCol p) :=
    List.mem_map_of_mem (f := fun e : Nat × Nat => (e.1, PanCode.chainMismatch, s.logicalCol p)) he
  obtain ⟨hfaulted, hcode, hdetail, -, -⟩ := chainFaults_pan (regionOf p) (hfst ▸ nodup_chainPans s (regionOf p)) hmem hmode
  exact ⟨hfaulted, hcode, hdetail.trans (Nat.mod_eq_of_lt (Nat.lt_trans (logicalCol_lt s p) (by decide)))⟩

/-- Settles O13: each load's row reads its descriptor and uses it; FENCE waits for the writes before it, and DONE tells Hakar. -/
theorem descriptorLoads : Obligations.DescriptorLoads := by
  intro s p r hr0
  dsimp only
  refine ⟨fun runs hg => onlyPan_descTaken hg, fun ag a d g h hfol hg hread hag hbrine => ?_, fun copy a c h hg hread hruns htouch => ?_,
    fun w a d v h hfol hg hread hwin => ?_, fun w h hfol => ?_, fun ch a d h hfol hg hread hctrl => ?_, fun h hfol hclear => ?_,
    fun o ho c h hw hs hwho => ?_, fun share h hfol => ?_⟩
  · have hseq := seq_descTaken hg
    generalize hu : s.descTaken p [(a, 64)] = u at hread hseq ⊢
    have hcycle : (u.pan p).seq.cycle = (s.pan p).seq.cycle := by rw [hseq]
    have hags : (u.pan p).seq.ags = (s.pan p).seq.ags := by rw [hseq]
    have hrow : moveIs (fun m => match m with | .agld .. => true | _ => false) (s.bundleAt p) = true := by simp [moveIs, issues_bundle h]
    have hplan : movePlan p (.agld ag a) u = .ok fun w => loadAg p ag g (touchRuns p [(a, 64)] w) := by
      simp only [movePlan, planAgld]
      refine withDesc_ok (g := loadAg p ag g) hread ?_
      simp only [hag, hseq, hbrine]
      rfl
    have hv : u.onlyPan (loadAg p ag g (touchRuns p [(a, 64)] u)) p
        { u.pan p with seq := { (u.pan p).seq with ags := put ag g (s.pan p).seq.ags } } := by
      rw [touchRuns_read hread, ← hags]
      exact onlyPan_modSeq u p fun q => { q with ags := put ag g q.ags }
    rw [issued_eq hcycle]
    exact desc_row h hr0 hfol rfl (List.cons_ne_nil _ _) hg nofun nofun nofun nofun (fun _ => rfl) hu hplan hrow hv
  · have hseq := seq_descTaken hg
    obtain ⟨hpans, hsame, hother⟩ := onlyPan_descTaken hg
    have hissue := issueNow_tile h hg hread
    dsimp only at hissue
    refine ex_issue h (by simp [moveIs, issues_bundle h]) ?_
    rw [hissue, htouch]
    generalize hu : s.descTaken p (moveRuns p (.tile copy a) s) = u at hread hseq hruns htouch hpans hsame hother ⊢
    refine ⟨fun hch hren hfol => ?_, fun hch hren e he hmode => ?_, fun hch => ?_⟩
    · rw [hch, hren, if_neg Bool.false_ne_true, List.isEmpty_nil, if_pos rfl]
      have hcycle : (u.pan p).seq.cycle = (s.pan p).seq.cycle := by rw [hseq]
      have hlat : (u.pan p).lat = (s.pan p).lat := by rw [hsame]
      have hplan : movePlan p (.tile copy a) u = .ok fun w => installTile p c (touchRuns p (moveRuns p (.tile copy a) w) w) := by
        simp only [movePlan, hread]
      have hv : u.onlyPan (installTile p c (touchRuns p (moveRuns p (.tile copy a) u) u)) p { u.pan p with
          seq := { (u.pan p).seq with tile := some c, tileSeen := true, tileArmed := true }
          lat := { (s.pan p).lat with chained := false } } := by
        rw [hruns, htouch, ← hlat, ← hch]
        exact onlyPan_modPan u p _
      rw [issued_eq hcycle]
      exact takeEffect_move h hr0 hfol rfl rfl hseq nofun hplan hv
    · have hchain : e ∈ u.chainPans (p / 15) := by rw [hpans]; exact he
      have hcol : u.logicalCol p = s.logicalCol p := by rw [hpans]; rfl
      have hmode' : (u.pan e.1).seq.mode ≠ .faulted := by
        by_cases hp : e.1 = p
        · rw [hp] at hmode ⊢
          rw [hseq]
          exact hmode
        · rw [hother e.1 hp]
          exact hmode
      rw [hch, if_neg Bool.false_ne_true, if_neg (by simpa using hren), ← hcol]
      exact chainDisagree_pan p hchain hmode'
    · rw [hch, if_pos rfl]
      exact onlyPan_modSeq u p _
  · have hseq := seq_descTaken hg
    have hpend : ((s.descTaken p [(a, 64)]).pan p).store.winPend = (s.pan p).store.winPend := by rw [(onlyPan_descTaken hg).2.1]
    generalize hu : s.descTaken p [(a, 64)] = u at hread hseq hpend ⊢
    have hcycle : (u.pan p).seq.cycle = (s.pan p).seq.cycle := by rw [hseq]
    have hrow : moveIs (fun m => match m with | .wopen .. => true | _ => false) (s.bundleAt p) = true := by simp [moveIs, issues_bundle h]
    have hplan : movePlan p (.wopen w a) u =
        .ok fun t => openWindow p ((s.pan p).seq.cycle + 2) w v (touchRuns p [(a, 64)] t) := by
      simp only [movePlan]
      refine withDesc_ok (g := openWindow p ((s.pan p).seq.cycle + 2) w v) hread ?_
      simp only [hwin, hcycle]
      rfl
    have hv : u.onlyPan (openWindow p ((s.pan p).seq.cycle + 2) w v (touchRuns p [(a, 64)] u)) p { u.pan p with
        store := { (u.pan p).store with winPend := (s.pan p).store.winPend ++ [((s.pan p).seq.cycle + 2, w, some v)] } } := by
      rw [touchRuns_read hread, ← hpend]
      exact onlyPan_modPan u p _
    rw [issued_eq hcycle]
    exact desc_row h hr0 hfol rfl (List.cons_ne_nil _ _) hg nofun nofun nofun nofun (fun _ => rfl) hu hplan hrow hv
  · refine issues_slots h hr0 nofun nofun rfl nofun (fun b hb => ?_) rfl (by simp [moveIs, issues_bundle h]) rfl
      (onlyPan_modPan s p fun x => { x with
        store := { x.store with winPend := x.store.winPend ++ [((s.pan p).seq.cycle + 1, w, none)] } })
    exact Option.some.inj hb ▸ hfol
  · generalize hu : s.descTaken p [(a, 32)] = u at hread ⊢
    have hrow : moveIs (fun m => match m with | .hstart .. => true | _ => false) (s.bundleAt p) = true := by simp [moveIs, issues_bundle h]
    have hplan : movePlan p (.hstart ch a) u = .ok fun t => startTransfer p ch d (touchRuns p [(a, 32)] t) := by
      simp only [movePlan]
      refine withDesc_ok (g := startTransfer p ch d) hread ?_
      simp only [hctrl]
      rfl
    have hv : (startTransfer p ch d u).onlyPan (startTransfer p ch d (touchRuns p [(a, 32)] u)) p ((startTransfer p ch d u).pan p) := by
      rw [touchRuns_read hread]
      exact ⟨rfl, rfl, fun _ _ => rfl⟩
    exact desc_row h hr0 hfol rfl (List.cons_ne_nil _ _) hg nofun nofun nofun nofun (fun _ => rfl) hu hplan hrow hv
  · refine ex_issue h (by simp [moveIs, issues_bundle h]) ?_
    have hn : nextPc .fence (s.pan p).seq = some ((s.pan p).seq.pc + 1) := rfl
    rw [issueNow_fence h, if_pos ((fenceClear_iff s p _).mpr hclear),
      takeEffect_plain s p _ _ r _ s _ _ (issues_bundle h) (issues_unreserved h) hn hfol (rakeNop s p r hr0) rfl]
    exact onlyPan_issued (onlyPan_refl s p) _
  · refine ex_issue h (by simp [moveIs, issues_bundle h]) ?_
    rw [issueNow_fence h, if_neg fun hclear => ((fenceClear_iff s p _).mp hclear o ho hw hs).1 c hwho]
    exact onlyPan_modSeq s p _
  · have hn : nextPc (.done share) (s.pan p).seq = some ((s.pan p).seq.pc + 1) := rfl
    refine ⟨_, onlyPan_issued (onlyPan_modSeq s p fun q => { q with doneShare := some share }) fun q =>
      { q with pc := (s.pan p).seq.pc + 1, nextIssue := (s.pan p).seq.cycle + 1 }, ?_⟩
    exact issue_plain s p _ _ r _ h hr0 nofun nofun rfl _ _ hn hfol rfl _ (by simp [moveIs, issues_bundle h])

end Sys2Proof.Machine
end

section
/-! PROOF. The ends of the sequencer's waits (R101, R117, R122, R128 to R130). -/

namespace Sys2Proof.Machine
open Sys2Proof

/-! ### A wait that ends -/

/-- A sequencer that runs again after its wait. -/
def awake (q : Seq) : Seq := { q with mode := .running, wait := .none, waited := 0 }

/-- A bundle that issues, by whatever asks for it. -/
theorem issueIf_eq {s : State} {p : Nat} {f d r m} {want : Bundle → Bool} (h : s.issues p f d r m) (hw : want (s.bundleAt p) = true) :
    issueIf p want s = issueNow p (s.bundleAt p) s := by
  have hrow := exec_issue s p f d r m h want hw
  rw [issueAct, act_powered _ _ (decide_eq_true h.1) h.2.1] at hrow
  exact Host.Outcome.next.inj hrow

theorem panWorks_of_issues {s : State} {p : Nat} {f d r m} (h : s.issues p f d r m) : s.panWorks p = true := by
  have hc := issues_can h
  simp only [State.canIssue, Bool.and_eq_true] at hc
  obtain ⟨⟨⟨-, hworks⟩, -⟩, -⟩ := hc
  exact hworks

/-- A property of the next state of a pan that works. -/
theorem ex_panAct {s : State} {p : Nat} {f : State → State} {P : State → Prop} (hp : p < 1620) (hpow : s.powered = true)
    (hworks : s.panWorks p = true) (h : P (f s)) : ∃ t, panAct p f s = .next t ∧ P t :=
  ex_act (decide_eq_true hp) hpow (by rw [if_pos hworks]; exact h)

/-- A bundle of one move operation over a sequencer that runs again. -/
theorem takeEffect_awake {s : State} {p : Nat} {r : RakeOp} {m} {run : State → State} {q : Seq} (hr0 : r.rop = 0)
    (h : (s.modSeq p awake).issues p .nop .nop r m) (hfol : s.follows p) (hn : ∀ q : Seq, nextPc m q = some (q.pc + 1))
    (hdone : ∀ share, m ≠ .done share) (hplan : movePlan p m (s.modSeq p awake) = .ok run)
    (hv : (s.modSeq p awake).onlyPan (run (s.modSeq p awake)) p { s.pan p with seq := q }) :
    s.onlyPan (takeEffect p ((s.modSeq p awake).bundleAt p) (s.modSeq p awake)) p
      ((s.pan p).issued ((s.pan p).seq.pc + 1) (issueCost m) q) := by
  have hseq : ((s.modSeq p awake).pan p).seq = awake (s.pan p).seq := by rw [pan_modSeq_same]
  have hdone' : ∀ w, afterDone p m w = w := by
    intro w
    unfold afterDone
    split
    · next share => exact absurd rfl (hdone share)
    · rfl
  have h1 := onlyPan_modSeq s p awake
  have hall : s.onlyPan (run (s.modSeq p awake)) p _ := ⟨pans_trans h1.1 hv.1, hv.2.1, fun k hk => (hv.2.2 k hk).trans (h1.2.2 k hk)⟩
  rw [takeEffect_plain _ p _ _ r _ _ _ _ (issues_bundle h) (issues_unreserved h) (hn _) (hseq ▸ hfol) (rakeNop _ p r hr0) hplan, hdone', hseq]
  exact onlyPan_issued hall _

/-! ### The chain rendezvous -/

theorem clocked_of {s : State} {r : Nat} (hdown : s.regionDown r = false) (hclk : (s.region r).clk = .running) : s.clocked r = true := by
  simp [State.clocked, hdown, hclk]

/-- A fault that all the waiting pans take. -/
theorem chainFaults_rendezvous {s : State} {r : Nat} {e : Nat × Nat × TileCtx} (code detail : Nat) (he : e ∈ s.rendezvous r) :
    (s.pan e.1).stoppedBy ((chainFaults r ((s.rendezvous r).map fun w => (w.1, code, detail)) s).pan e.1) code detail := by
  have hfst : ((s.rendezvous r).map fun w => (w.1, code, detail)).map (·.1) = (s.rendezvous r).map (·.1) := by rw [List.map_map]; rfl
  have hmem : (e.1, code, detail) ∈ (s.rendezvous r).map fun w => (w.1, code, detail) :=
    List.mem_map_of_mem (f := fun w : Nat × Nat × TileCtx => (w.1, code, detail)) he
  exact chainFaults_pan r (hfst ▸ nodup_rendezvous s r) hmem (by rw [(rendezvous_waits he).1]; exact nofun)

/-- Fourteen pans that differ in mode or copy. -/
theorem chainRendezvous_differ {s : State} {r : Nat} {e0 : Nat × Nat × TileCtx} {rest : List (Nat × Nat × TileCtx)}
    (hren : s.rendezvous r = e0 :: rest) (hlen : rest.length = 13)
    (hdiff : ∃ e ∈ rest, e.2.2.mode ≠ e0.2.2.mode ∨ e.2.2.copy ≠ e0.2.2.copy) :
    ∃ detail, chainRendezvous r s = chainFaults r ((s.rendezvous r).map fun w => (w.1, PanCode.chainMismatch, detail)) s := by
  obtain ⟨e, he, hne⟩ := hdiff
  have hfind : ((e0 :: rest).find? fun e => e.2.2.mode != e0.2.2.mode || e.2.2.copy != e0.2.2.copy).isSome = true := by
    rw [List.find?_isSome]
    exact ⟨e, List.mem_cons_of_mem _ he, by simpa using hne⟩
  obtain ⟨w, hw⟩ := Option.isSome_iff_exists.mp hfind
  refine ⟨w.2.1, ?_⟩
  simp only [chainRendezvous, hren, List.length_cons, hlen, hw]
  rfl

/-- Changes of several units' pans in turn, each made from the pan as it stood at first. -/
theorem foldState_pans {α : Type} (key : α → Nat) {f : State → α → State} (F : α → Pan) (l : List α) (s : State)
    (hnodup : (l.map key).Nodup)
    (hstep : ∀ a ∈ l, ∀ t : State, t.pan (key a) = s.pan (key a) → t.onlyPan (f t a) (key a) (F a)) :
    let t := foldState l f s
    t = { s with pans := t.pans } ∧ (∀ k, (∀ a ∈ l, key a ≠ k) → t.pan k = s.pan k) ∧ ∀ a ∈ l, t.pan (key a) = F a := by
  induction l generalizing s with
  | nil => exact ⟨rfl, fun _ _ => rfl, fun a ha => absurd ha List.not_mem_nil⟩
  | cons a l ih =>
    rw [List.map_cons, List.nodup_cons] at hnodup
    obtain ⟨hpans, hsame, hother⟩ := hstep a List.mem_cons_self s rfl
    have hne : ∀ b ∈ l, key b ≠ key a := fun b hb h => hnodup.1 (h ▸ List.mem_map_of_mem hb)
    obtain ⟨hpans', hout, hin⟩ := ih (f s a) hnodup.2 fun b hb t ht =>
      hstep b (List.mem_cons_of_mem a hb) t (ht.trans (hother _ (hne b hb)))
    refine ⟨pans_trans hpans hpans', fun k hk => ?_, fun b hb => ?_⟩
    · exact (hout k fun b hb => hk b (List.mem_cons_of_mem a hb)).trans (hother k (hk a List.mem_cons_self).symm)
    · rcases List.mem_cons.mp hb with rfl | hb
      · exact (hout (key b) hne).trans hsame
      · exact hin b hb

/-- A pan of a chain once its tile is installed. -/
def Pan.tiled (y : Pan) (base : Nat) (c : TileCtx) : Pan :=
  { y with
    lat := { y.lat with chained := c.chained }
    seq := { y.seq with
      mode := .running, wait := .none, waited := 0, tile := some c, tileSeen := true, tileArmed := true, chainNext := base
      pc := y.seq.pc + 1, nextIssue := y.seq.cycle + 4 }
    ctr := bump y.ctr PanCtr.bundle 1 }

/-- A pan whose chained slots are numbered with the others'. -/
def Pan.numbered (x : Pan) (base : Nat) : Pan := { x with lat := { x.lat with chained := true }, seq := { x.seq with chainNext := base } }

/-- A held bundle of TILE alone takes effect with the tile that was compared. -/
theorem takePlan_tile {t : State} {k base : Nat} {y : Pan} {c : TileCtx} {r : RakeOp} {copy : Bool} {a : Nat} (ht : t.pan k = y.numbered
    base)
    (hslots : slotsOf (look 0 y.seq.program y.seq.pc) = (.nop, .nop, r, .tile copy a))
    (hres : reservedSlot (look 0 y.seq.program y.seq.pc) = none) (hr0 : r.rop = 0) (hfol : y.seq.pc + 1 < y.seq.progLen) :
    t.onlyPan (takePlan k (t.bundleAt k) (.ok (installTile k c)) (t.modSeq k awake)) k (y.tiled base c) := by
  have hbundle : t.bundleAt k = look 0 y.seq.program y.seq.pc := by rw [State.bundleAt, ht]; rfl
  have hseq : ((t.modSeq k awake).pan k).seq = awake (y.numbered base).seq := by rw [pan_modSeq_same, ht]
  have hlt : ∀ b, nextPc (.tile copy a) ((t.modSeq k awake).pan k).seq = some b → b < ((t.modSeq k awake).pan k).seq.progLen := by
    intro b hb
    rw [hseq] at hb ⊢
    exact Option.some.inj hb ▸ hfol
  rw [hbundle, takePlan_plain _ k _ _ _ r _ _ _ hslots hres hlt (rakeNop _ k r hr0), hseq]
  have h1 := onlyPan_modSeq t k awake
  have h2 := onlyPan_modPan (t.modSeq k awake) k fun x =>
    { x with seq := { x.seq with tile := some c, tileSeen := true, tileArmed := true }, lat := { x.lat with chained := c.chained } }
  rw [h1.2.1, ht] at h2
  have hall : t.onlyPan (installTile k c (t.modSeq k awake)) k _ :=
    ⟨pans_trans h1.1 h2.1, h2.2.1, fun k hk => (h2.2.2 k hk).trans (h1.2.2 k hk)⟩
  exact onlyPan_issued hall _

/-- Fourteen pans that agree, none with a brine generator: they are numbered alike, and each installs its tile. -/
theorem chainRendezvous_agree {s : State} {r mode : Nat} {copy : Bool} (hlen : (s.rendezvous r).length = 14)
    (hall : ∀ e ∈ s.rendezvous r, e.2.2.mode = mode ∧ e.2.2.copy = copy ∧ brineOf (s.pan e.1).seq e.2.2 = none) :
    let base := (s.rendezvous r).foldl (fun m e => max m (s.pan e.1).seq.chainNext) 0
    chainRendezvous r s = foldState (s.rendezvous r) (fun t e =>
      if (t.pan e.1).seq.mode == .waiting then takePlan e.1 (t.bundleAt e.1) (.ok (installTile e.1 e.2.2)) (t.modSeq e.1 awake) else t)
      (foldState (s.rendezvous r) (fun t e => t.modPan e.1 fun x => x.numbered base) s) := by
  have hbad : ((s.rendezvous r).filterMap fun e => (brineOf (s.pan e.1).seq e.2.2).map fun g => (e.1, PanCode.chainBrine, g)) = [] := by
    rw [List.filterMap_eq_nil_iff]
    intro e he
    rw [(hall e he).2.2, Option.map_none]
  unfold chainRendezvous
  cases hren : s.rendezvous r with
  | nil => rw [hren] at hlen; cases hlen
  | cons e0 rest =>
    rw [hren] at hbad hall hlen
    have hfind : (e0 :: rest).find? (fun e => e.2.2.mode != e0.2.2.mode || e.2.2.copy != e0.2.2.copy) = none := by
      rw [List.find?_eq_none]
      intro e he
      obtain ⟨hm, hc, -⟩ := hall e he
      obtain ⟨hm0, hc0, -⟩ := hall e0 List.mem_cons_self
      simp [hm, hc, hm0, hc0]
    dsimp only
    rw [if_neg (not_not_intro hlen), hfind]
    dsimp only
    rw [hbad]
    rfl

/-- Settles O20: each wait ends as its own branch says, the chain's by the faults or the tiles of its pans. -/
theorem sequencerWaitsEnd : Obligations.SequencerWaitsEnd := by
  intro s p r hp hpow hr0
  dsimp only
  refine ⟨fun i n hmode hwait hn h hfol => ?_, fun i n hmode hwait hlim hle => ?_, fun n hmode hwait hclear h hfol => ?_,
    fun hq hpipe h hfol => ?_, fun g hg hlen hlate => ?_, fun g e0 rest hg hdown hclk hren hlen hdiff => ?_,
    fun g mode copy hg hdown hclk hlen hall => ?_⟩
  · have hworks := panWorks_of_issues h
    refine ex_panAct hp hpow hworks ?_
    have hseq : ((s.modSeq p awake).pan p).seq = awake (s.pan p).seq := by rw [pan_modSeq_same]
    have hres : swaitResume p s = takeEffect p ((s.modSeq p awake).bundleAt p) (s.modSeq p awake) := by
      simp only [swaitResume, hmode, hwait, if_pos hn]
      refine (issueIf_eq (want := fun _ => true) h rfl).trans ((issueNow_swait h).trans (if_pos ?_))
      exact hseq ▸ hn
    rw [hres]
    refine takeEffect_awake hr0 h hfol (fun _ => rfl) nofun rfl ?_
    have hv := onlyPan_modSeq (s.modSeq p awake) p fun q => { q with sems := put i (look 0 q.sems i - n) q.sems }
    rw [(onlyPan_modSeq s p awake).2.1] at hv
    exact hv
  · refine ex_act (decide_eq_true hp) hpow ?_
    have hout : waitTimeout p s = panFault p PanCode.waitTimeout i (some 3) s := by
      simp [waitTimeout, hmode, hwait, hlim, hle]
    obtain ⟨hfaulted, hcode, hdetail, hasync, hslot, -, hsems, hpc, -⟩ :=
      panFault_fields s p PanCode.waitTimeout i (some 3) (by simp [hmode])
    rw [hout]
    exact ⟨hfaulted, hcode, hslot, hasync, hdetail, hsems, hpc⟩
  · have hworks := panWorks_of_issues h
    refine ex_panAct hp hpow hworks ?_
    have hres : fenceComplete p s = takeEffect p ((s.modSeq p awake).bundleAt p) (s.modSeq p awake) := by
      simp only [fenceComplete, hmode, hwait, (fenceClear_iff s p n).mpr hclear, if_true]
      exact if_pos (issues_can h)
    rw [hres]
    exact takeEffect_awake hr0 h hfol (fun _ => rfl) nofun rfl ⟨rfl, (onlyPan_modSeq s p awake).2.1, fun _ _ => rfl⟩
  · refine ex_act (decide_eq_true hp) hpow ?_
    have hrow : drainIs (fun d => d == .dwait) (s.bundleAt p) = true := by simp [drainIs, issues_bundle h]
    have hn : nextPc .nop (s.pan p).seq = some ((s.pan p).seq.pc + 1) := rfl
    rw [hq, hpipe, List.isEmpty_nil, List.isEmpty_nil, Bool.and_self, if_pos rfl, issueIf_eq h hrow, issueNow_plain s p _ _ r _ h
      nofun nofun rfl,
      takeEffect_plain s p _ _ r _ s _ _ (issues_bundle h) (issues_unreserved h) hn hfol (rakeNop s p r hr0) rfl]
    exact onlyPan_issued (onlyPan_refl s p) _
  · refine ex_act (decide_eq_true hg) hpow fun e he => ?_
    obtain ⟨w, hw, hwaited⟩ := hlate
    have hout : chainTimeout g s = chainFaults g ((s.rendezvous g).map fun w =>
        (w.1, PanCode.chainTimeout, maskOf ((s.rendezvous g).map fun w => w.2.1))) s := by
      refine if_pos ?_
      simp only [Bool.and_eq_true, decide_eq_true_eq, List.any_eq_true]
      exact ⟨hlen, w, hw, hwaited⟩
    obtain ⟨hfaulted, hcode, hdetail, hasync, -⟩ := chainFaults_rendezvous PanCode.chainTimeout
      (maskOf ((s.rendezvous g).map fun w => w.2.1)) he
    rw [hout]
    exact ⟨hfaulted, hcode, hasync, hdetail⟩
  · refine ex_act (decide_eq_true hg) hpow fun e he => ?_
    rw [if_pos (clocked_of hdown hclk)]
    obtain ⟨detail, hout⟩ := chainRendezvous_differ hren hlen hdiff
    obtain ⟨hfaulted, hcode, -, -, hpc⟩ := chainFaults_rendezvous PanCode.chainMismatch detail he
    rw [hout]
    exact ⟨hfaulted, hcode, hpc⟩
  · refine ex_act (decide_eq_true hg) hpow ?_
    rw [if_pos (clocked_of hdown hclk)]
    have hnodup := nodup_rendezvous s g
    rw [chainRendezvous_agree hlen fun e he => ⟨(hall e he).1, (hall e he).2.1, (hall e he).2.2.1⟩, List.foldl_map]
    generalize (s.rendezvous g).foldl (fun m e => max m (s.pan e.1).seq.chainNext) 0 = base
    obtain ⟨hpans1, hout1, hin1⟩ := foldState_pans (·.1) (f := fun t e => t.modPan e.1 fun x => x.numbered base)
      (fun e => (s.pan e.1).numbered base) (s.rendezvous g) s hnodup fun e he t ht => by
        have hmod := onlyPan_modPan t e.1 fun x => x.numbered base
        rwa [ht] at hmod
    generalize foldState (s.rendezvous g) (fun t e => t.modPan e.1 fun x => x.numbered base) s = s1 at hpans1 hout1 hin1 ⊢
    obtain ⟨hpans2, hout2, hin2⟩ := foldState_pans (·.1) (f := fun t e =>
      if (t.pan e.1).seq.mode == .waiting then takePlan e.1 (t.bundleAt e.1) (.ok (installTile e.1 e.2.2)) (t.modSeq e.1 awake) else t)
      (fun e => (s.pan e.1).tiled base e.2.2) (s.rendezvous g) s1 hnodup fun e he t ht => by
        obtain ⟨-, -, -, hfol, hres, r, a, hr0, hslots⟩ := hall e he
        have hwaits : ((t.pan e.1).seq.mode == .waiting) = true := by
          rw [ht, hin1 e he]
          exact beq_iff_eq.mpr (rendezvous_waits he).1
        rw [if_pos hwaits]
        exact takePlan_tile (ht.trans (hin1 e he)) hslots hres hr0 hfol
    exact ⟨pans_trans hpans1 hpans2, fun k hk => (hout2 k hk).trans (hout1 k hk), hin2⟩

end Sys2Proof.Machine
end

section
/-! PROOF. The upkeep of brine and cellar (R176, R191, R192, R195). -/

namespace Sys2Proof.Machine
open Sys2Proof

theorem onlySlice_bump (s : State) (i c n : Nat) : s.onlySlice (s.bumpSlice i c n) i { s.slice i with ctr := bump (s.slice i).ctr c n } := by
  unfold State.bumpSlice
  split
  · next h => exact ⟨rfl, by rw [h]; rfl, fun _ _ => rfl⟩
  · exact onlySlice_modSlice s i _

theorem onlyChan_bump (s : State) (i c n : Nat) : s.onlyChan (s.bumpChan i c n) i { s.chan i with ctr := bump (s.chan i).ctr c n } := by
  unfold State.bumpChan
  split
  · next h => exact ⟨rfl, by rw [h]; rfl, fun _ _ => rfl⟩
  · exact onlyChan_modChan s i _

theorem onlySlice_trans {s t u : State} {i : Nat} {x y : Slice} (h : s.onlySlice t i x) (k : t.onlySlice u i y) : s.onlySlice u i y := by
  obtain ⟨hall, -, hother⟩ := h
  obtain ⟨hall', hsame', hother'⟩ := k
  exact ⟨by rw [hall', hall], hsame', fun j hj => (hother' j hj).trans (hother j hj)⟩

theorem onlyChan_trans {s t u : State} {i : Nat} {x y : Chan} (h : s.onlyChan t i x) (k : t.onlyChan u i y) : s.onlyChan u i y := by
  obtain ⟨hall, -, hother⟩ := h
  obtain ⟨hall', hsame', hother'⟩ := k
  exact ⟨by rw [hall', hall], hsame', fun j hj => (hother' j hj).trans (hother j hj)⟩

/-- Reading a slice's unit in which no error stands decodes nothing. -/
theorem brineDecode_clean {s : State} {i : Nat} (b : Nat) (h : (s.slice i).errs = []) : s.onlySlice (brineDecode i b s) i (s.slice i) := by
  have hmod := onlySlice_modSlice s i fun x => { x with errs := x.errs.filter fun e => e.word / 2 != b / 64 }
  have hsame : ({ s.slice i with errs := (s.slice i).errs.filter fun e => e.word / 2 != b / 64 } : Slice) = s.slice i := by
    have hfilter : ((s.slice i).errs.filter fun e => e.word / 2 != b / 64) = (s.slice i).errs := by rw [h]; rfl
    rw [hfilter]
  rw [hsame] at hmod
  unfold brineDecode
  dsimp only
  rw [h]
  exact hmod

/-- The same of a channel's unit. -/
theorem cellarDecode_clean {s : State} {i : Nat} (a : Nat) (h : (s.chan i).errs = []) : s.onlyChan (cellarDecode i a s) i (s.chan i) := by
  have hmod := onlyChan_modChan s i fun x => { x with errs := x.errs.filter fun e => e.word / 8 != a / 64 }
  have hsame : ({ s.chan i with errs := (s.chan i).errs.filter fun e => e.word / 8 != a / 64 } : Chan) = s.chan i := by
    have hfilter : ((s.chan i).errs.filter fun e => e.word / 8 != a / 64) = (s.chan i).errs := by rw [h]; rfl
    rw [hfilter]
  rw [hsame] at hmod
  unfold cellarDecode
  dsimp only
  rw [h]
  exact hmod

theorem bump_if (m : Sparse Nat) (k n : Nat) (b : Prop) [Decidable b] : bump m k (if b then n else 0) = if b then bump m k n else m := by
  split <;> rfl

theorem bump_none (m : Sparse Nat) (k n : Nat) : (if n = 0 then m else bump m k n) = bump m k n := by
  unfold bump
  split <;> rfl

/-- A slice's scrub of a unit in which no error stands. -/
theorem sliceScrub_clean {s : State} {i : Nat} (hmode : (s.slice i).mode = .awake ∨ (s.slice i).mode = .draining)
    (hat : (s.slice i).scrubAt + 80000000 ≤ s.now) (herrs : (s.slice i).errs = []) :
    let x := s.slice i
    let y : Slice := { x with ctr := if brineMarked x (64 * x.scrubPos) then bump x.ctr slicePoison 1 else x.ctr }
    s.onlySlice (sliceScrub i [] s) i (if x.scrubPos = 524287 then { y with scrubPos := 0, scrubPass := satCount x.scrubPass 1, scrubAt := s.now }
      else { y with scrubPos := x.scrubPos + 1, scrubAt := s.now }) := by
  have h1 := brineDecode_clean (64 * (s.slice i).scrubPos) herrs
  have h2 := onlySlice_bump (brineDecode i (64 * (s.slice i).scrubPos) s) i slicePoison
    (if brineMarked ((brineDecode i (64 * (s.slice i).scrubPos) s).slice i) (64 * (s.slice i).scrubPos) then 1 else 0)
  rw [h1.2.1, bump_if] at h2
  have h3 := onlySlice_modSlice ((brineDecode i (64 * (s.slice i).scrubPos) s).bumpSlice i slicePoison
      (if brineMarked (s.slice i) (64 * (s.slice i).scrubPos) then 1 else 0)) i fun y =>
    if (s.slice i).scrubPos = 524287 then { y with scrubPos := 0, scrubPass := satCount y.scrubPass 1, scrubAt := s.now }
    else { y with scrubPos := (s.slice i).scrubPos + 1, scrubAt := s.now }
  rw [h2.2.1] at h3
  have hall := onlySlice_trans (onlySlice_trans h1 h2) h3
  dsimp only
  have hout : sliceScrub i [] s = ((brineDecode i (64 * (s.slice i).scrubPos) s).bumpSlice i slicePoison
      (if brineMarked ((brineDecode i (64 * (s.slice i).scrubPos) s).slice i) (64 * (s.slice i).scrubPos) then 1 else 0)).modSlice i _ :=
    if_pos (by rcases hmode with hmode | hmode <;> simp [hmode, hat])
  rw [hout, h1.2.1]
  exact hall

/-- A channel's scrub of a unit in which no error stands. -/
theorem cellarScrub_clean {s : State} {i : Nat} (hmode : (s.chan i).mode = .active) (hat : (s.chan i).scrubAt + 240000 ≤ s.now)
    (herrs : (s.chan i).errs = []) :
    let x := s.chan i
    let y : Chan := { x with ctr := if cellarMarked x (64 * x.scrubPos) then bump x.ctr chanPoison 1 else x.ctr }
    s.onlyChan (cellarScrub i [] s) i
      (if s.chanUnits ≤ x.scrubPos + 1 then { y with scrubPos := 0, scrubPass := satCount x.scrubPass 1, scrubAt := s.now }
      else { y with scrubPos := x.scrubPos + 1, scrubAt := s.now }) := by
  have h1 := cellarDecode_clean (64 * (s.chan i).scrubPos) herrs
  have h2 := onlyChan_bump (cellarDecode i (64 * (s.chan i).scrubPos) s) i chanPoison
    (if cellarMarked ((cellarDecode i (64 * (s.chan i).scrubPos) s).chan i) (64 * (s.chan i).scrubPos) then 1 else 0)
  rw [h1.2.1, bump_if] at h2
  have h3 := onlyChan_modChan ((cellarDecode i (64 * (s.chan i).scrubPos) s).bumpChan i chanPoison
      (if cellarMarked (s.chan i) (64 * (s.chan i).scrubPos) then 1 else 0)) i fun y =>
    if s.chanUnits ≤ (s.chan i).scrubPos + 1 then { y with scrubPos := 0, scrubPass := satCount y.scrubPass 1, scrubAt := s.now }
    else { y with scrubPos := (s.chan i).scrubPos + 1, scrubAt := s.now }
  rw [h2.2.1] at h3
  have hall := onlyChan_trans (onlyChan_trans h1 h2) h3
  dsimp only
  have hout : cellarScrub i [] s = ((cellarDecode i (64 * (s.chan i).scrubPos) s).bumpChan i chanPoison
      (if cellarMarked ((cellarDecode i (64 * (s.chan i).scrubPos) s).chan i) (64 * (s.chan i).scrubPos) then 1 else 0)).modChan i _ :=
    if_pos (by simp [foldState_nil, hmode, hat])
  rw [hout, h1.2.1]
  exact hall

/-- A row due in its interval, in a slice that refreshes: postponed while its bank is busy, up to eight times. -/
theorem refreshRow_due {s : State} {i bank row : Nat} (waited : Nat) (busy : Bool)
    (hmode : (s.slice i).mode = .awake ∨ (s.slice i).mode = .draining ∨ (s.slice i).mode = .filling) (hdue : s.refreshDue i bank row = true) :
    refreshRow i bank row waited busy s =
      if busy = true ∧ look 0 (s.slice i).postponed bank < 8 then
        s.modSlice i fun x => { x with postponed := upd 0 bank (· + 1) x.postponed }
      else (s.modSlice i fun x => { x with refreshed := put (2048 * bank + row) s.now x.refreshed
                                           postponed := put bank 0 x.postponed }).bumpSlice i sliceWait waited := by
  rcases hmode with hmode | hmode | hmode <;> simp [refreshRow, hmode, hdue]

/-- A slice that does not refresh, or a row that is not due. -/
theorem refreshRow_idle {s : State} {i bank row : Nat} (waited : Nat) (busy : Bool)
    (h : (s.slice i).mode = .asleep ∨ (s.slice i).mode = .failed ∨ (s.slice i).mode = .bad ∨ s.refreshDue i bank row = false) :
    refreshRow i bank row waited busy s = s := by
  refine if_neg ?_
  rcases h with h | h | h | h <;> simp [h]

/-- The region's temperature sets its brine's interval, and between the two bounds leaves it. -/
theorem onlyField_refreshInterval (s : State) (f : Nat) (t : Int) : s.onlyField (refreshInterval f t s) f
    { s.fieldPwr f with brineHot := if 85 * 16 < t then true else if t ≤ 80 * 16 then false else (s.fieldPwr f).brineHot } :=
  onlyField_modField s f fun x => { x with brineHot := if 85 * 16 < t then true else if t ≤ 80 * 16 then false else x.brineHot }

/-- A scrub before its time, or in a slice that holds nothing to scrub. -/
theorem sliceScrub_idle {s : State} {i : Nat} (h : (s.slice i).mode = .asleep ∨ (s.slice i).mode = .filling ∨ (s.slice i).mode = .failed ∨
    (s.slice i).mode = .bad ∨ s.now < (s.slice i).scrubAt + 80000000) : sliceScrub i [] s = s := by
  refine if_neg fun hcond => ?_
  obtain ⟨hmode, hat⟩ := Bool.and_eq_true_iff.mp hcond
  rcases h with h | h | h | h | h
  case inr.inr.inr.inr => exact absurd (of_decide_eq_true hat) (Nat.not_le.mpr h)
  all_goals simp [h] at hmode

/-- Settles O26: each event changes its slice, channel or field alone, as its own branch says. -/
theorem memoryUpkeep : Obligations.MemoryUpkeep := by
  intro s i c f hi hc hf hpow
  dsimp only
  have hrun : ∀ x : Chan, x.mode = .active ∨ x.mode = .filling → x.runs = true := by
    rintro x (h | h) <;> simp [Chan.runs, h]
  refine ⟨fun bank row waited busy hb hr hmode hdue hwait => ?_, fun bank row waited hb hr hmode hdue hpost => ?_,
    fun bank row waited busy hb hr hidle => ?_, fun temp ht => ?_, fun temp ht => ?_, fun temp hlo hhi => ?_, fun hmode hat herrs => ?_,
    fun hidle => ?_, fun hmode hat herrs => ?_, fun code hcode hmode hue => ?_, fun v hv hruns => ?_, fun hruns => ?_, fun hruns => ?_,
    fun bank hb hruns => ?_⟩
  · refine ex_act (by simp [hi, hb, hr]) hpow ?_
    rw [refreshRow_due waited busy hmode hdue, if_neg fun h => ?_]
    · have h1 := onlySlice_modSlice s i fun x =>
        { x with refreshed := put (2048 * bank + row) s.now x.refreshed, postponed := put bank 0 x.postponed }
      have h2 := onlySlice_trans h1 (onlySlice_bump _ i sliceWait waited)
      rw [h1.2.1] at h2
      rw [bump_none]
      exact h2
    · rcases hwait with hwait | hwait
      · exact Bool.false_ne_true (hwait.symm.trans h.1)
      · exact Nat.not_le.mpr h.2 hwait
  · refine ex_act (by simp [hi, hb, hr]) hpow ?_
    rw [refreshRow_due waited true hmode hdue, if_pos ⟨rfl, hpost⟩]
    exact onlySlice_modSlice s i _
  · exact eq_act (by simp [hi, hb, hr]) hpow (refreshRow_idle waited busy hidle)
  · refine ex_act (decide_eq_true hf) hpow ?_
    have hfield := onlyField_refreshInterval s f temp
    rwa [if_pos ht] at hfield
  · refine ex_act (decide_eq_true hf) hpow ?_
    have hfield := onlyField_refreshInterval s f temp
    rwa [if_neg (by omega), if_pos ht] at hfield
  · refine ex_act (decide_eq_true hf) hpow ?_
    have hfield := onlyField_refreshInterval s f temp
    rwa [if_neg (by omega), if_neg (by omega)] at hfield
  · refine ex_act (decide_eq_true hi) hpow ?_
    have hscrub := sliceScrub_clean hmode hat herrs
    dsimp only at hscrub
    by_cases hpos : (s.slice i).scrubPos = 524287
    · simp only [if_pos hpos] at hscrub ⊢
      exact hscrub
    · simp only [if_neg hpos] at hscrub ⊢
      exact hscrub
  · exact eq_act (decide_eq_true hi) hpow (sliceScrub_idle hidle)
  · refine ex_act (decide_eq_true hc) hpow ?_
    have hscrub := cellarScrub_clean hmode hat herrs
    dsimp only at hscrub
    by_cases hpos : s.chanUnits ≤ (s.chan c).scrubPos + 1
    · simp only [if_pos hpos] at hscrub ⊢
      exact hscrub
    · simp only [if_neg hpos] at hscrub ⊢
      exact hscrub
  · refine ex_act (by simp [hc, hcode]) hpow ?_
    rw [channelFail, if_neg ?_]
    · exact ⟨rfl, chan_modChan_same s c fun x => { x with mode := .failed }, fun k hk =>
        chan_modChan_other s hk fun x => { x with mode := .failed }, rfl⟩
    · by_cases h1 : code = 1
      · have hmany : ¬ ((s.chan c).ueTides.filter fun t => decide (s.now < t + 1000000000)).length ≤ 64 := Nat.not_le.mpr (hue h1)
        simp only [hmode, h1, decide_eq_false hmany]
        exact Bool.false_ne_true
      · simp [hmode, h1]
  · refine ex_act (by simp [hc, hv]) hpow ?_
    rw [if_pos (hrun _ hruns)]
    exact onlyChan_modChan s c _
  · refine ex_act (by simp [hc]) hpow ?_
    rw [if_pos (hrun _ hruns)]
    exact onlyChan_modChan s c _
  · refine ex_act (by simp [hc]) hpow ?_
    rw [if_pos (hrun _ hruns)]
    exact onlyChan_bump s c _ _
  · refine ex_act (by simp [hc, hb]) hpow ?_
    rw [if_pos (hrun _ hruns)]
    exact onlyChan_modChan s c _

end Sys2Proof.Machine
end

section
/-! PROOF. Brine slices: sleep, wake, fill and fail (R185 to R187). -/

namespace Sys2Proof.Machine
open Sys2Proof

/-- Only a slice and the bytes of the brine differ, and the slice's bytes are zeros. -/
def State.sliceZeroed (s : State) (i : Nat) (t : State) (y : Slice) : Prop :=
  t = { s with slices := t.slices, brineMem := t.brineMem } ∧ t.slice i = y ∧ (∀ k, k ≠ i → t.slice k = s.slice k) ∧
  ∀ a, readByte t.brineMem a = if i * 2 ^ 25 ≤ a ∧ a < (i + 1) * 2 ^ 25 then 0 else readByte s.brineMem a

theorem clearSlice_modSlice (s : State) (i : Nat) (f : Slice → Slice) :
    s.sliceZeroed i ((clearSlice i s).modSlice i f) (f { s.slice i with poison := [], errs := [] }) := by
  refine ⟨rfl, ?_, fun k hk => ?_, fun a => readByte_clearRange s.brineMem _ _ a⟩
  · rw [slice_modSlice_same]
    exact congrArg f (slice_modSlice_same _ i fun x => { x with poison := [], errs := [] })
  · rw [slice_modSlice_other _ hk]
    exact slice_modSlice_other _ hk fun x => { x with poison := [], errs := [] }

/-- What the failure of a slice leaves. -/
def State.sliceFails (s : State) (i code : Nat) (t : State) : Prop :=
  t = { s with slices := t.slices, brineMem := t.brineMem, memdev := t.memdev, faults := t.faults } ∧
  (∀ a, readByte t.brineMem a = if i * 2 ^ 25 ≤ a ∧ a < (i + 1) * 2 ^ 25 then 0 else readByte s.brineMem a) ∧
  t.slice i = { s.slice i with mode := .failed, queue := [], poison := [], errs := [] } ∧ (∀ k, k ≠ i → t.slice k = s.slice k) ∧
  t.memdev = { s.memdev with slicesFailed := min 65535 (s.memdev.slicesFailed + 1)
                             writing := s.memdev.writing.filter fun w => !((s.slice i).queue.map (·.id)).contains w.id } ∧
  t.faults = { s.faults with reports := s.faults.reports ++
    [{ type := 0x07, cls := 5, code := code, unitCls := 0x8, unitIdx := i, addr := 0xFFFF, jobs := maskOf (s.sliceJobs i)
       tide := s.fieldNow (i / 135), epoch := s.boot.epoch }] }

theorem failSlice_fails {s : State} {i : Nat} (code : Nat) (hfailed : (s.slice i).mode ≠ .failed) (hbad : (s.slice i).mode ≠ .bad) :
    s.sliceFails i code (failSlice i code s) := by
  unfold failSlice
  rw [if_neg (by simp [hfailed, hbad])]
  obtain ⟨-, hsame, hother, hbytes⟩ := clearSlice_modSlice (loseQueue i s) i fun x => { x with mode := .failed }
  have hq : (loseQueue i s).slice i = { s.slice i with queue := [] } := slice_modSlice_same s i fun x => { x with queue := [] }
  have hqo : ∀ k, k ≠ i → (loseQueue i s).slice k = s.slice k := fun k hk => slice_modSlice_other s hk fun x => { x with queue := [] }
  have hmem : (loseQueue i s).brineMem = s.brineMem := rfl
  rw [hq] at hsame
  rw [hmem] at hbytes
  generalize hu : (clearSlice i (loseQueue i s)).modSlice i (fun x => { x with mode := .failed }) = u at hsame hother hbytes ⊢
  have hrest : u = { s with slices := u.slices, brineMem := u.brineMem, memdev := (loseQueue i s).memdev } := by rw [← hu]; rfl
  refine ⟨?_, hbytes, hsame, fun k hk => (hother k hk).trans (hqo k hk), ?_, ?_⟩
  · rw [hrest]
    rfl
  · rw [hrest]
    rfl
  · rw [hrest]
    rfl

/-- Settles O25: each event's branch, and the one failure that its four causes share. -/
theorem slicesSleepFillAndFail : Obligations.SlicesSleepFillAndFail := by
  intro s i hi hpow
  dsimp only
  have hok : decide (i < 1620) = true := decide_eq_true hi
  refine ⟨fun hmode hused => ?_, fun h hidle => ?_, fun hmode hq => ?_, fun hmode hq hat => ?_, fun hmode => ?_, fun hmode => ?_,
    fun hfailed hbad => ?_, fun hfailed hbad hue => ?_, fun c rest u hmode horder hcand hmove heven hspread hawake => ?_, fun hmode => ?_⟩
  · refine ex_act hok hpow ?_
    rw [sliceSleep, if_pos (by simp [hused, hmode])]
    exact onlySlice_modSlice s i _
  · refine eq_act hok hpow (if_neg ?_)
    rcases hidle with h | h | h <;> simp [h]
  · refine ex_act hok hpow ?_
    rw [sliceDrained, if_pos (by simp [hmode, hq])]
    exact clearSlice_modSlice s i fun x => { x with mode := .asleep }
  · refine ex_act hok hpow ?_
    rw [sliceSleepBound, if_pos (by simp [hmode, hq]; exact hat)]
    exact failSlice_fails 2 (by simp [hmode]) (by simp [hmode])
  · refine ex_act hok hpow ?_
    rw [sliceWake, if_pos hmode]
    exact clearSlice_modSlice s i fun x => { x with mode := .filling }
  · refine ex_act hok hpow ?_
    rw [sliceFillDone, if_pos hmode]
    exact clearSlice_modSlice s i (filledSlice s.now)
  · refine ex_act (by simp [hi]) hpow ?_
    rw [sliceFail, if_neg (by simp)]
    exact failSlice_fails 0 hfailed hbad
  · refine ex_act (by simp [hi]) hpow ?_
    have hmany : ¬ ((s.slice i).ueTides.filter fun t => decide (s.now < t + 1000000000)).length ≤ 64 := Nat.not_le.mpr hue
    rw [sliceFail, if_neg (by simp only [decide_eq_false hmany, Bool.and_false]; exact Bool.false_ne_true)]
    exact failSlice_fails 1 hfailed hbad
  · refine ex_act hok hpow ?_
    have hinto : standInto i c s = some u := by
      have hwake : wakeFor c u = u := by simp [wakeFor, hawake]
      simp only [standInto, hcand, hmove, hspread, heven, moveSpread]
      simp [hwake]
    have hfound : (standInOrder i).findSome? (fun c => (standInto i c s).map fun t => (c, t)) = some (c, u) := by
      rw [horder, List.findSome?_cons, hinto]
      rfl
    unfold standInSlice
    rw [if_neg (by simp [hmode]), hfound]
    simp only [Bool.and_eq_true, decide_eq_true_eq, and_assoc]
    rfl
  · exact eq_act hok hpow (if_pos (by simpa using hmode))

end Sys2Proof.Machine
end

section
/-! PROOF. Bank sleep, wake and fill, and the clears of a unit's tables (R67, R154, R159, R163, R167, R168, R170, R193). -/

namespace Sys2Proof.Machine
open Sys2Proof

/-! ### A bank whose bytes are lost -/

/-- A bank's bytes are zeros, and all others as they were. -/
def State.bankZeroed (s : State) (p b : Nat) (t : State) : Prop :=
  ∀ a, readByte t.storeMem a = if p * 2 ^ 23 + b * 2 ^ 18 ≤ a ∧ a < p * 2 ^ 23 + (b + 1) * 2 ^ 18 then 0 else readByte s.storeMem a

/-- A store without the marks, the errors and the queued corrections of a bank. -/
def Store.lose (b : Nat) (st : Store) : Store :=
  { st with poison := st.poison.filter fun w => decide (w < b * 2 ^ 15) || decide ((b + 1) * 2 ^ 15 ≤ w)
            errs := st.errs.filter fun e => decide (e.word < b * 2 ^ 15) || decide ((b + 1) * 2 ^ 15 ≤ e.word)
            narrow := st.narrow.filter fun r => !((r.use.isFixup || r.use.isRewrite) && r.bank == b) }

/-- A bank lost and its pan's store then changed. -/
theorem loseBank_modStore (s : State) (p b : Nat) (f : Store → Store) :
    let t := (loseBank p b s).modStore p f
    s.bankZeroed p b t ∧ t = { s with pans := t.pans, storeMem := t.storeMem } ∧
    t.pan p = { s.pan p with store := f ((s.pan p).store.lose b) } ∧ ∀ k, k ≠ p → t.pan k = s.pan k := by
  refine ⟨fun a => ?_, rfl, ?_, fun k hk => ?_⟩
  · have hhi : p * 2 ^ 23 + b * 2 ^ 18 + 2 ^ 18 = p * 2 ^ 23 + (b + 1) * 2 ^ 18 := by ring
    have hbyte := readByte_clearRange s.storeMem (p * 2 ^ 23 + b * 2 ^ 18) (p * 2 ^ 23 + b * 2 ^ 18 + 2 ^ 18) a
    rw [hhi] at hbyte
    refine .trans ?_ hbyte
    rw [← hhi]
    rfl
  · have hlose : (loseBank p b s).pan p = { s.pan p with store := (s.pan p).store.lose b } :=
      pan_modPan_same _ p fun x => { x with store := x.store.lose b }
    exact (onlyPan_modPan (loseBank p b s) p fun x => { x with store := f x.store }).2.1.trans (by rw [hlose])
  · exact (pan_modPan_other _ hk fun x => { x with store := f x.store }).trans
      (pan_modPan_other { s with storeMem := _ } hk fun x => { x with store := x.store.lose b })

/-! ### What a pan fault leaves outside its pans -/

/-- Nothing but the pans, the requests and the reports differs. -/
def State.faultOnly (s t : State) : Prop := t = { s with pans := t.pans, outs := t.outs, faults := t.faults }

theorem State.faultOnly.refl (s : State) : s.faultOnly s := rfl

theorem State.faultOnly.trans {s t u : State} (h : s.faultOnly t) (k : t.faultOnly u) : s.faultOnly u := by
  unfold State.faultOnly at *
  rw [k, h]

theorem State.faultOnly.foldState {f : State → Nat → State} (hf : ∀ t a, State.faultOnly t (f t a)) (l : List Nat) (s : State) :
    s.faultOnly (Machine.foldState l f s) := by
  induction l generalizing s with
  | nil => exact .refl s
  | cons a l ih => exact (hf s a).trans (ih _)

theorem State.faultOnly.panFaultOne (s : State) (p code cls detail : Nat) (slot : Option Nat) (pc : Nat) :
    s.faultOnly (Machine.panFaultOne p code cls detail slot pc s) := panFaultOne_rest s p code cls detail slot pc

theorem State.faultOnly.stopPeer (cycle : Nat) (k : Nat × Nat × Nat) (s : State) (q : Nat) : s.faultOnly (Machine.stopPeer cycle k s
    q) := by
  unfold Machine.stopPeer
  dsimp only
  split
  · split
    · exact .refl s
    · split
      · exact .trans (t := replaceFault q _ s) (by rfl) (by rfl)
      · split
        · exact .trans (t := modPanReports q _ s) (by rfl) (by rfl)
        · rfl
  · split
    · rfl
    · exact .trans (.panFaultOne s q _ _ _ _ _) (by rfl)

theorem State.faultOnly.panFault (p code detail : Nat) (slot : Option Nat) (s : State) : s.faultOnly (Machine.panFault p code detail slot
    s) := by
  have hone := State.faultOnly.panFaultOne s p code (panClass code) detail slot (s.pan p).seq.pc
  unfold Machine.panFault
  dsimp only
  split
  · refine .trans (.trans hone ?_) (.foldState (fun t q => .stopPeer _ _ t q) _ _)
    split
    · rfl
    · rfl
  · exact hone

theorem State.faultOnly.boundFault (p : Nat) (s : State) : s.faultOnly (Machine.boundFault p s) := by
  unfold Machine.boundFault
  split
  · rfl
  · exact .panFault ..

/-- HW_CHECK of a bank's bound stops the pan, or reports one that has stopped. -/
theorem boundFault_pan (p : Nat) (s : State) :
    let t := boundFault p s
    (t.pan p).seq.mode = .faulted ∧ (t.pan p).store.heldWake = (s.pan p).store.heldWake ∧
    (t.pan p).store.banks = (s.pan p).store.banks ∧
    ((s.pan p).seq.mode ≠ .faulted →
      (t.pan p).seq.fault.code = 0x31 ∧ (t.pan p).seq.fault.detail = 8 ∧ (t.pan p).seq.fault.async = true) ∧
    ((s.pan p).seq.mode = .faulted → (t.pan p).seq = (s.pan p).seq ∧ t.faults.reports.length = s.faults.reports.length + 1) := by
  dsimp only
  unfold boundFault
  split
  · next hm => exact ⟨hm, rfl, rfl, fun h => absurd hm h, fun _ => ⟨rfl, by simp [report, State.modFaults]⟩⟩
  · next hm =>
    obtain ⟨k, hk⟩ := panFault_pan_same s p PanCode.hwCheck 8 none
    rw [panFaultOne_pan_same _ _ _ _ _ _ _ hm] at hk
    rw [hk]
    exact ⟨rfl, rfl, rfl, fun _ => ⟨rfl, rfl, rfl⟩, fun h => absurd h hm⟩

/-! ### The events -/

/-- A region not about to be gated for a rest stays as it is. -/
theorem restDrained_stays {s : State} {r : Nat} (h : (s.region r).restGate = false) : restDrained r s = s := by
  rw [restDrained, h]
  rfl

/-- A bank asleep, its wake held or not. -/
theorem bankAsleepNow_eq (p b : Nat) (s : State) :
    bankAsleepNow p b s = (loseBank p b s).modStore p fun st =>
      if st.heldWake.contains b then { st with banks := put b .filling st.banks, fillq := st.fillq ++ [b], heldWake := st.heldWake.erase b }
      else { st with banks := put b .asleep st.banks } := rfl

/-- A store whose bank has lost its bytes: it sleeps, or fills where a wake was held. -/
def Store.asleep (b : Nat) (st : Store) : Store :=
  if st.heldWake.contains b then
    { st.lose b with banks := put b .filling st.banks, fillq := st.fillq ++ [b], heldWake := st.heldWake.erase b }
  else { st.lose b with banks := put b .asleep st.banks }

theorem bankAsleepNow_leaves (s : State) (p b : Nat) :
    let t := bankAsleepNow p b s
    s.bankZeroed p b t ∧ t = { s with pans := t.pans, storeMem := t.storeMem } ∧
    t.pan p = { s.pan p with store := (s.pan p).store.asleep b } ∧ ∀ k, k ≠ p → t.pan k = s.pan k := by
  rw [bankAsleepNow_eq]
  exact loseBank_modStore s p b fun st =>
    if st.heldWake.contains b then { st with banks := put b .filling st.banks, fillq := st.fillq ++ [b], heldWake := st.heldWake.erase b }
    else { st with banks := put b .asleep st.banks }

/-- A bank's command names a pan and a bank. -/
theorem bank_ok {p b : Nat} (hp : p < 1620) (hb : b < 32) : (decide (p < 1620) && decide (b < 32)) = true := by
  rw [decide_eq_true hp, decide_eq_true hb]
  rfl

/-- The drained bank. -/
theorem bankDrained_eq {s : State} {p b : Nat} (hmode : s.bankMode p b = .draining) (hout : look 0 (s.pan p).store.outstanding b = 0) :
    bankDrained p b s = bankAsleepNow p b s := if_pos (by simp [hmode, hout])

/-- BANK_DRAINED of a bank without writes outstanding, in a region that stays. -/
theorem execBankDrained_eq {s : State} {p b : Nat} (hp : p < 1620) (hb : b < 32) (hpow : s.powered = true)
    (hgate : (s.region (p / 15)).restGate = false) (hmode : s.bankMode p b = .draining)
    (hout : look 0 (s.pan p).store.outstanding b = 0) : exec (.bankDrained p b) s = .next (bankAsleepNow p b s) := by
  have hstays : restDrained (regionOf p) (bankAsleepNow p b s) = bankAsleepNow p b s := restDrained_stays (by
    rw [(bankAsleepNow_leaves s p b).2.1]
    exact hgate)
  exact eq_next (bank_ok hp hb) hpow ((congrArg (restDrained (regionOf p)) (bankDrained_eq hmode hout)).trans hstays)

/-- The fill of a bank ends; a held sleep begins. -/
theorem bankFillDone_eq {s : State} {p b : Nat} {rest : List Nat} (hq : (s.pan p).store.fillq = b :: rest) :
    bankFillDone p s =
      let t := (loseBank p b s).modStore p fun st => { st with banks := put b .awake st.banks, fillq := rest }
      if (t.pan p).store.heldSleep.contains b then sleepBank p (t.modStore p fun st => { st with heldSleep := st.heldSleep.erase b }) b
      else t := by
  rw [bankFillDone, hq]

theorem bankFillDone_held {s : State} {p b : Nat} {rest : List Nat} (hq : (s.pan p).store.fillq = b :: rest)
    (hheld : (s.pan p).store.heldSleep.contains b = true) (hspare : s.isSpare p = false) (hdown : s.regionDown (p / 15) = false)
    (hfill : (s.pan p).store.fillBusy = false) :
    ∃ t, bankFillDone p s = t ∧ t.storeMem = (loseBank p b s).storeMem ∧ t.bankMode p b = .draining := by
  obtain ⟨-, hall, hsame, -⟩ := loseBank_modStore s p b fun st => { st with banks := put b .awake st.banks, fillq := rest }
  rw [bankFillDone_eq hq]
  dsimp only
  have hmem : ((loseBank p b s).modStore p fun st => { st with banks := put b .awake st.banks, fillq := rest }).storeMem =
    (loseBank p b s).storeMem := rfl
  generalize hu : ((loseBank p b s).modStore p fun st => { st with banks := put b .awake st.banks, fillq := rest }) = u at *
  rw [if_pos (by rw [hsame]; exact hheld)]
  have hv := onlyPan_modPan u p fun x => { x with store := { x.store with heldSleep := x.store.heldSleep.erase b } }
  rw [hsame] at hv
  generalize hvd : (u.modStore p fun st => { st with heldSleep := st.heldSleep.erase b }) = v
  rw [show u.modPan p _ = v from hvd] at hv
  obtain ⟨hvrest, hvp, -⟩ := hv
  have hmode {x : State} (hx : x = { s with pans := x.pans, storeMem := x.storeMem }) (hb : (x.pan p).store.fillBusy = false) :
      x.bankMode p b = look .awake (x.pan p).store.banks b := by
    have hs : x.isSpare p = false := by rw [hx]; exact hspare
    have hd : x.regionDown (regionOf p) = false := by rw [hx]; exact hdown
    simp only [State.bankMode, hs, hd, hb, Bool.false_and, Bool.or_self, Bool.false_eq_true, if_false]
  have hvs : v = { s with pans := v.pans, storeMem := v.storeMem } := by rw [hvrest, hall]
  have hawake : v.bankMode p b = .awake := by
    rw [hmode hvs (by rw [hvp]; exact hfill), hvp]
    exact look_put_same ..
  have hsleep : sleepBank p v b = v.modStore p (beginBankSleep b v.now) := by
    simp only [sleepBank, hawake]
  have hw := onlyPan_modPan v p fun x => { x with store := beginBankSleep b v.now x.store }
  refine ⟨_, rfl, ?_, ?_⟩
  · rw [hsleep, ← hmem]
    have hstore := congrArg State.storeMem hvrest
    exact hstore
  · rw [hsleep, hmode (by rw [show v.modStore p _ = v.modPan p _ from rfl, hw.1, hvs]) (by
      rw [show v.modStore p _ = v.modPan p _ from rfl, hw.2.1, hvp]; exact hfill)]
    rw [show v.modStore p _ = v.modPan p _ from rfl, hw.2.1]
    exact look_put_same ..

/-- No write of a dropped bank is left queued. -/
theorem dropWrites_narrow {b : Nat} {st : Store} {r : Narrow} (hr : r ∈ (dropWrites [b] st).narrow) : r.bank ≠ b := by
  simp only [dropWrites, List.mem_filter, Bool.not_eq_true', Bool.or_eq_false_iff] at hr
  simpa using hr.2.1

/-- A region that wakes otherwise than by filling its stores takes no notice of a fill's end. -/
theorem wakeFilled_other {s : State} {r : Nat} (h : ∀ slow t0, (s.fieldPwr (r / 9)).wake ≠ some (r, .fill, slow, t0)) :
    wakeFilled r s = s := by
  unfold wakeFilled
  split
  · next q slow t0 hw => exact if_neg (by
      simp only [Bool.and_eq_true, decide_eq_true_eq, not_and]
      rintro rfl
      exact absurd hw (h slow t0))
  · rfl

theorem endFills_other {s : State} (h : s.boot.phase ≠ 8) : endFills s = s := if_neg (by simp [h])

/-- STORE_FILL_DONE of a store that fills, in a region and a bring-up that do not wait for it. -/
theorem execStoreFillDone_plain {s t : State} {p : Nat} (hp : p < 1620) (hpow : s.powered = true) (hfill : (s.pan p).store.fillBusy =
    true)
    (hdone : storeFillDone p s = t) (hwake : ∀ slow t0, (s.fieldPwr (p / 15 / 9)).wake ≠ some (p / 15, .fill, slow, t0))
    (hphase : s.boot.phase ≠ 8) (hfields : t.fields = s.fields) (hboot : t.boot = s.boot) : exec (.storeFillDone p) s = .next t := by
  have hwaked : wakeFilled (regionOf p) t = t := wakeFilled_other fun slow t0 => by
    have hf : t.fieldPwr (regionOf p / 9) = s.fieldPwr (p / 15 / 9) := by unfold State.fieldPwr; rw [hfields]; rfl
    rw [hf]
    exact hwake slow t0
  refine eq_act (decide_eq_true hp) hpow ?_
  have hbody : (if (s.pan p).store.fillBusy then endFills (wakeFilled (regionOf p) (storeFillDone p s)) else s) = t := by
    rw [if_pos hfill, hdone, hwaked, endFills_other (by rw [hboot]; exact hphase)]
  unfold bootStep
  dsimp only
  rw [hbody, hboot]
  exact if_pos rfl

/-- The end of a whole store's fill, when no sleep was held. -/
theorem storeFillDone_eq {s : State} {p : Nat} (hfill : (s.pan p).store.fillBusy = true) (hheld : (s.pan p).store.heldSleep = []) :
    ∃ u, s.onlyPan u p { s.pan p with store := { (s.pan p).store with fillBusy := false, banks := [], scrubPos := 0 } } ∧
      storeFillDone p s = if (s.pan p).seq.heldGo then go p (u.modSeq p fun q => { q with heldGo := false }) else u := by
  have hcleared : ∀ l, l = (s.pan p).store.heldSleep →
      ({ (s.pan p).store with fillBusy := false, banks := [], scrubPos := 0, heldSleep := l } : Store) =
      { (s.pan p).store with fillBusy := false, banks := [], scrubPos := 0 } := by
    rintro _ rfl
    rfl
  have h1 := onlyPan_modPan s p fun x =>
    { x with store := { x.store with fillBusy := false, banks := [], scrubPos := 0, heldSleep := [] } }
  have h2 := onlyPan_modPan (s.modPan p fun x =>
    { x with store := { x.store with fillBusy := false, banks := [], scrubPos := 0, heldSleep := [] } }) p fun x => { x with
      store := if s.isSpare p then x.store else (s.pan p).store.heldSleep.foldl (fun t b => beginBankSleep b s.now t) x.store }
  rw [h1.2.1] at h2
  refine ⟨_, ⟨pans_trans h1.1 h2.1, h2.2.1.trans ?_, fun k hk => (h2.2.2 k hk).trans (h1.2.2 k hk)⟩, ?_⟩
  · rw [hheld, List.foldl_nil, ite_self, hcleared [] hheld.symm]
  · unfold storeFillDone
    simp only [hfill]
    rfl

/-- Settles O24: each bank's own step, and one table or log cleared. -/
theorem banksSleepAndTablesClear : Obligations.BanksSleepAndTablesClear := by
  refine ⟨fun s p hp hpow hgate => ?_, fun s p hp hpow => ?_⟩
  · dsimp only
    have hok : decide (p < 1620) = true := decide_eq_true hp
    refine ⟨fun mask hrun hwait => ?_, fun mask hmode => ?_, fun b hb => ?_, fun b hb => ?_, fun b hb => ?_, fun b hb hmode hout hheld =>
      ?_,
      fun b hb hmode hout hheld => ?_, fun b hb hmode hout hat hheld => ?_, fun mask => ?_, fun b hb hspare hdown => ?_, fun b hb hno =>
        ?_,
      fun b hb => ?_, fun b hb => ?_, fun b hb => ?_, fun b rest hq hheld => ?_, fun b rest hq hheld hspare hdown hfill => ?_,
      fun hplain hfill hgo => ?_, fun hplain hfill hgo hmode hentry hspare hdown => ?_, fun hfill => ?_⟩
    · refine eq_act hok hpow (if_neg ?_)
      simp [hrun, hwait]
    · refine eq_act hok hpow (if_pos ?_)
      rcases hmode with hmode | hmode <;> simp [hmode]
    · simp only [sleepBank, hb]
      exact onlyPan_modPan s p fun x => { x with store := beginBankSleep b s.now x.store }
    · simp only [sleepBank, hb]
      exact onlyPan_modPan s p fun x => { x with store := { x.store with heldSleep := addOnce b x.store.heldSleep } }
    · rcases hb with hb | hb <;> simp only [sleepBank, hb]
    · rw [execBankDrained_eq hp hb hpow hgate hmode hout]
      obtain ⟨hlost, hall, hsame, hother⟩ := bankAsleepNow_leaves s p b
      exact ⟨_, rfl, hlost, hall, hsame.trans (by rw [Store.asleep, hheld]; rfl), hother⟩
    · rw [execBankDrained_eq hp hb hpow hgate hmode hout]
      obtain ⟨hlost, hall, hsame, hother⟩ := bankAsleepNow_leaves s p b
      exact ⟨_, rfl, hlost, hall, hsame.trans (by rw [Store.asleep, hheld]; rfl), hother⟩
    · have hcond : (s.bankMode p b = .draining && decide (look 0 (s.pan p).store.outstanding b ≠ 0) &&
          decide (look 0 (s.pan p).store.drainSince b + 64000 ≤ s.now)) = true := by
        rw [hmode, decide_eq_true hout, decide_eq_true (show _ ≤ s.now from hat)]
        rfl
      have hbound : bankSleepBound p b s = bankAsleepNow p b ((boundFault p s).modStore p (dropWrites [b])) := if_pos hcond
      obtain ⟨hlost, hall, hsame, -⟩ := bankAsleepNow_leaves ((boundFault p s).modStore p (dropWrites [b])) p b
      obtain ⟨hfault, hwake, -, hnew, hold⟩ := boundFault_pan p s
      have honly := State.faultOnly.boundFault p s
      have hstays : restDrained (regionOf p) (bankSleepBound p b s) = bankSleepBound p b s := restDrained_stays (by
        rw [hbound, hall, honly]
        exact hgate)
      refine ⟨_, eq_next (bank_ok hp hb) hpow hstays, ?_⟩
      rw [hbound, hsame, pan_modStore_same]
      have hheld' : (dropWrites [b] ((boundFault p s).pan p).store).heldWake.contains b = false := by
        rw [← hheld, ← hwake]
        rfl
      have hfaults : (bankAsleepNow p b ((boundFault p s).modStore p (dropWrites [b]))).faults = (boundFault p s).faults := by
        rw [hall]
        rfl
      refine ⟨fun a => ?_, hfault, hnew, fun hm => ⟨(hold hm).1, hfaults ▸ (hold hm).2⟩, ?_, fun r hr => ?_⟩
      · rw [hlost a, show ((boundFault p s).modStore p (dropWrites [b])).storeMem = s.storeMem from honly ▸ rfl]
      · rw [Store.asleep, hheld']
        exact look_put_same ..
      · rw [Store.asleep, hheld'] at hr
        exact dropWrites_narrow (List.mem_of_mem_filter hr)
    · exact eq_next hok hpow rfl
    · have hreg : s.regionDown (regionOf p) = false := hdown
      simp only [wakeBank, hb, hspare, hreg]
      exact onlyPan_modPan s p fun x =>
        { x with store := { x.store with banks := put b .filling x.store.banks, fillq := addOnce b x.store.fillq } }
    · have hreg : (s.isSpare p || s.regionDown (regionOf p)) = true := by
        rcases hno with h | h
        · rw [h, Bool.true_or]
        · rw [show regionOf p = p / 15 from rfl, h, Bool.or_true]
      simp only [wakeBank, hb, hreg, if_true]
    · simp only [wakeBank, hb]
      exact onlyPan_modPan s p fun x => { x with store := { x.store with heldWake := addOnce b x.store.heldWake } }
    · simp only [wakeBank, hb]
      exact onlyPan_modPan s p fun x => { x with store := { x.store with heldSleep := x.store.heldSleep.erase b } }
    · simp only [wakeBank, hb]
    · obtain ⟨hlost, hall, hsame, hother⟩ := loseBank_modStore s p b fun st => { st with banks := put b .awake st.banks, fillq := rest }
      refine ⟨_, eq_act hok hpow ?_, hlost, hall, hsame, hother⟩
      have hno : ¬ ((s.pan p).store.lose b).heldSleep.contains b = true := fun hc => Bool.false_ne_true (hheld.symm.trans hc)
      rw [bankFillDone_eq hq]
      dsimp only
      rw [hsame]
      exact if_neg hno
    · obtain ⟨hlost, hall, hsame, -⟩ := loseBank_modStore s p b fun st => { st with banks := put b .awake st.banks, fillq := rest }
      obtain ⟨t, hfill, hmem, hmode⟩ := bankFillDone_held hq hheld hspare hdown hfill
      exact ⟨t, eq_act hok hpow hfill, fun a => (congrArg (readByte · a) hmem).trans (hlost a), hmode⟩
    · obtain ⟨hwake, hphase, hheld⟩ := hplain
      obtain ⟨u, hu, hdone⟩ := storeFillDone_eq hfill hheld
      rw [hgo, if_neg Bool.false_ne_true] at hdone
      exact ⟨u, execStoreFillDone_plain hp hpow hfill hdone hwake hphase (by rw [hu.1]) (by rw [hu.1]), hu⟩
    · obtain ⟨hwake, hphase, hheld⟩ := hplain
      obtain ⟨u, hu, hdone⟩ := storeFillDone_eq hfill hheld
      rw [hgo, if_pos rfl] at hdone
      obtain ⟨hu, hpan, -⟩ := hu
      have hv := onlyPan_modSeq u p fun q => { q with heldGo := false }
      rw [hpan] at hv
      generalize hvd : (u.modSeq p fun q => { q with heldGo := false }) = v at hv hdone
      obtain ⟨hv, hvp, -⟩ := hv
      have hrest : v = { s with pans := v.pans } := pans_trans hu hv
      have hgo' : go p v = dropFeeder p (v.modPan p goPan) := by
        have hspare' : v.isSpare p = false := by rw [hrest]; exact hspare
        have hdown' : v.regionDown (p / 15) = false := by rw [hrest]; exact hdown
        rw [go_from_rest hspare' hdown' (by rw [hvp]; exact hmode), goNow_eq, hvp, if_neg Bool.false_ne_true,
          if_neg (Nat.not_le.mpr hentry)]
      obtain ⟨hall, -, hsame⟩ := dropFeeder_modPan v p goPan
      rw [hvp] at hsame
      rw [hgo'] at hdone
      refine ⟨_, execStoreFillDone_plain hp hpow hfill hdone hwake hphase (by rw [hall, hrest]) (by rw [hall, hrest]), ?_⟩
      rw [hsame]
      exact ⟨rfl, rfl, rfl, rfl, rfl, rfl⟩
    · refine eq_act hok hpow ?_
      have hbody : (if (s.pan p).store.fillBusy then endFills (wakeFilled (regionOf p) (storeFillDone p s)) else s) = s :=
        if_neg (hfill ▸ Bool.false_ne_true)
      unfold bootStep
      dsimp only
      rw [hbody]
      exact if_pos rfl
  · dsimp only
    have hok : decide (p < 1620) = true := decide_eq_true hp
    refine ⟨ex_next hok hpow (onlyPan_modPan s p fun x => { x with store := { x.store with ce := [] } }),
      ex_next hok hpow (onlySlice_modSlice s p fun x => { x with ce := [] }),
      fun c hc => ex_next (decide_eq_true hc) hpow (onlyChan_modChan s c fun x => { x with ce := [] }),
      ex_next hok hpow (onlyPan_modPan s p fun x => { x with ovfLog := [] }), fun mask => ex_next hok hpow ?_⟩
    have hclose := onlyPan_modPan s p fun x =>
      { x with store := { x.store with windows := x.store.windows.filter fun w => !bit (mask % 65536) w.1 } }
    have hwin : ((winClose p mask s).pan p).store.windows = (s.pan p).store.windows.filter fun w => !bit (mask % 65536) w.1 := by
      rw [show winClose p mask s = s.modPan p _ from rfl, hclose.2.1]
    refine ⟨⟨hclose.1, hclose.2.1.trans (by rw [hwin]), hclose.2.2⟩, fun w => ?_⟩
    have hbit : bit (mask % 65536) w.1 = (decide (w.1 < 16) && mask.testBit w.1) := Nat.testBit_mod_two_pow mask 16 w.1
    rw [hwin, List.mem_filter, hbit]
    refine and_congr_right fun _ => ?_
    by_cases hw : w.1 < 16 <;> simp [hw]

end Sys2Proof.Machine
end

section
/-! PROOF. Registers written and read from outside (R8, R99, R171, R285, R287, R425, R468). -/

namespace Sys2Proof.Machine
open Sys2Proof

/-- A write that its agent may not make, to a register that is not open, is REFUSED. -/
theorem controlWrite_refused {s : State} {src off : Nat} {bs : List Byte} {l : List (Block × Nat)} {r : Block × Nat}
    (hspan : s.controlSpan src off bs.length = .ok l) (hr : r ∈ l) (hown : s.ownControl src = false) (hdebug : s.debugOpen src = false)
    (hopen : openReg r.1 r.2 = false) : controlWrite src off bs s = (0x0A, s) := by
  have hno : s.mayWrite src r = false := by simp [State.mayWrite, hown, hdebug, hopen]
  have hall : (!l.all (s.mayWrite src)) = true := by
    rw [Bool.not_eq_true', List.all_eq_false]
    exact ⟨r, hr, by rw [hno]; exact Bool.false_ne_true⟩
  rw [controlWrite, hspan]
  exact if_pos hall

/-- A register write by control space reaches the device's own control registers only. -/
theorem control_addressed {s : State} {a : Nat} (b : Bool) (hown : s.isOwn a = true) (hspace : addrSpace a = 3) (hbit : bit a 63 = b) :
    (s.isOwn a && addrSpace a == 3 && !bit a 63) = !b := by
  rw [hown, hspace, hbit]
  rfl

/-- What a write of the program store makes of the sequencer. -/
def progWritten (o v : Nat) (q : Seq) : Seq :=
  if q.busy then q
  else
    let old := (look (0 : Bundle) q.program (o / 16)).toNat
    let k := 8 * (o % 16)
    { q with program := put (o / 16) (BitVec.ofNat 128 (old - (bits old (k + 31) k) <<< k + (v % 2 ^ 32) <<< k)) q.program }

/-- Settles O56: each clause is the case of the register's block. -/
theorem registersReadAndWritten : Obligations.RegistersReadAndWritten := by
  intro s hpow
  refine ⟨fun o v b k hv hb => ⟨eq_act (decide_eq_true hv) hpow ?_, eq_act rfl hpow ?_⟩,
    fun o v hv hb => ⟨eq_act (decide_eq_true hv) hpow ?_, eq_act rfl hpow ?_⟩,
    fun src a v hv hown hspace hbit => ⟨eq_act (decide_eq_true hv) hpow ?_, eq_act rfl hpow ?_⟩,
    fun src a v hv hown hspace hbit => ⟨eq_act (decide_eq_true hv) hpow ?_, eq_act rfl hpow ?_⟩,
    fun src off bs l r hspan hr hown hdebug hopen => controlWrite_refused hspan hr hown hdebug hopen,
    fun hakar p v => rfl, fun hakar p v hstop => ?_, fun hakar p v hstop hgo => ?_, fun hakar p o v hbusy hp => ⟨_, rfl, ?_⟩,
    fun hakar p i v hbusy hp hi => ⟨_, rfl, ?_⟩, fun hakar v hon => ?_, fun hakar p v => rfl⟩
  · simp only [registerWrite, hb]
  · simp only [rcRead, hb]
  · simp only [registerWrite, hb]
  · simp only [rcRead, hb]
  · simp only [registerWrite, control_addressed true hown hspace hbit]
    rfl
  · simp only [rcRead, control_addressed true hown hspace hbit]
    rfl
  · simp only [registerWrite, control_addressed false hown hspace hbit]
    rfl
  · simp only [rcRead, control_addressed false hown hspace hbit]
    rfl
  · simp [writeReg, writeSeq, hstop]
  · simp [writeReg, writeSeq, hstop, hgo]
  · obtain ⟨hall, hsame, hother⟩ := onlyPan_modSeq s p (progWritten o v)
    exact ⟨hall, hsame.trans (by rw [progWritten, if_pos hbusy]), hother⟩
  · have hwrite : writeReg hakar (.store p) (0x10 + 4 * i) v s = s.modPan p fun x =>
        if x.seq.busy then x else { x with store := { x.store with swz := setAt x.store.swz ((0x10 + 4 * i - 0x10) / 4) (v % 2 ^ 12) } } :=
      if_pos ⟨by omega, by omega⟩
    obtain ⟨hall, hsame, hother⟩ := onlyPan_modPan s p fun x =>
      if x.seq.busy then x else { x with store := { x.store with swz := setAt x.store.swz i (v % 2 ^ 12) } }
    rw [hwrite, show (0x10 + 4 * i - 0x10) / 4 = i by omega]
    exact ⟨hall, hsame.trans (if_neg (hbusy ▸ Bool.false_ne_true)), hother⟩
  · simp [writeReg, hon]

end Sys2Proof.Machine
end

section
/-! PROOF. The stop that STARVATION makes discards the stopped unit's requests, and among them may be the write of port 0xD whose turn
the other writes of that port awaited (R146, R150): the store may then serve a request that was not first before the stop. -/

namespace Sys2Proof.Machine
open Sys2Proof

/-- A write of port 0xD to bank 0, which has waited longest but awaits its turn at the port. -/
def waitingWrite : Narrow := { port := 0xD, bank := 0, addr := 0, len := 1, write := some [1], use := .rakeWrite }

/-- A read of bank 0, whose turn it is. -/
def starvedRead : Narrow := { port := 3, bank := 0, addr := 8, len := 8, write := none, use := .reply 7, since := 1 }

/-- The write of port 0xD whose turn it is, of a unit that stops with its pan. -/
def discardedWrite : Narrow := { port := 0xD, bank := 1, addr := 64, len := 1, write := some [1], use := .rakeLoad 0 }

/-- Pan 3 with the three requests, 5,000 cycles on. -/
def starvedPan : State :=
  { pans := [(3, { seq := { mode := .running, cycle := 5000 }, store := { narrow := [discardedWrite, waitingWrite, starvedRead] } })] }

/-- The read is bank 0's next request. -/
theorem nextNarrow_starvedPan : nextNarrow 0 (starvedPan.pan 3).store.narrow = some starvedRead := by decide

theorem exec_starvation_starvedPan : exec (.starvation 3 0) starvedPan = .next (starve 3 0 starvedPan) := eq_next rfl rfl rfl

/-- The pan stopped, the store has served the write, and the read still waits. -/
theorem starve_starvedPan_narrow : ((starve 3 0 starvedPan).pan 3).store.narrow = [starvedRead] := by decide

/-- Refutes O23: after STARVATION's stop the store need not serve the request that starved. On `starvedPan` the stop discards the write of
port 0xD that was in its turn, so the older write behind it comes before the read. -/
theorem not_narrowAccessesServed : ¬ Obligations.NarrowAccessesServed := by
  intro h
  obtain ⟨-, -, -, hstarve, -⟩ := h starvedPan 3 (by decide) rfl
  obtain ⟨t, ht, -, -, -, -, -, hread, -⟩ := hstarve 0 starvedRead (by decide) nextNarrow_starvedPan (by decide) (by decide)
  obtain rfl : starve 3 0 starvedPan = t := Host.Outcome.next.inj (exec_starvation_starvedPan.symm.trans ht)
  have hnarrow := hread (by decide) rfl rfl ⟨7, rfl⟩
  rw [starve_starvedPan_narrow] at hnarrow
  exact absurd hnarrow (by decide)

end Sys2Proof.Machine
end

section
/-! PROOF. Packets at their targets; urgent writes, commits, bounces and resends (R287, R294, R299, R300). -/

namespace Sys2Proof.Machine
open Sys2Proof

/-! ### Arrival -/

/-- A packet's arrival takes it from the mesh and leaves the rest of the device as it is. -/
theorem arrive_net {s u : State} {k : Packet} (h : arrive k s = some u) : u = { s with net := u.net } := by
  unfold arrive at h
  split at h
  · cases h
    rfl
  · split at h
    · cases h
      rfl
    · cases h

/-- What a valid packet that has arrived does. -/
theorem atTarget_arrived {s u : State} {k : Packet} (f : State → State) (hvalid : packetValid k = true) (h : arrive k s = some u) :
    atTarget k f s = f u := by
  unfold atTarget
  rw [hvalid, h]
  rfl

/-- The command of a packet's operation is well formed when the packet carries as many bytes as it says. -/
theorem op_ok {k : Packet} {op : Nat} (hop : k.op = op) (hlen : k.data.length = k.bytes) :
    (k.op == op && k.data.length == k.bytes) = true := by
  rw [hop, hlen, beq_self_eq_true, beq_self_eq_true]
  rfl

/-- A packet of the device's own at its target. -/
theorem own_target {s : State} {k : Packet} (f : State → State) (h : s.isOwn k.addr = true) :
    (if s.isOwn k.addr then atTarget k f s else s) = atTarget k f s := if_pos h

/-! ### The queues of commit records -/

theorem queueCommit_room {s : State} (dev : Nat) (c : CommitRecord) (h : s.svc.commitIn.length < 64) :
    queueCommit dev c s = (true, { s with svc := { s.svc with commitIn := s.svc.commitIn ++ [(dev, c)] } }) := if_pos h

theorem queueCommit_full {s : State} (dev : Nat) (c : CommitRecord) (h : 64 ≤ s.svc.commitIn.length) :
    queueCommit dev c s = (false, s.bumpSvc 0x18 1) := if_neg (Nat.not_lt.mpr h)

/-- A COMMIT of 16 bytes to COMMIT_IN. -/
theorem commitTarget_record {u : State} {k : Packet} (hspace : addrSpace k.addr = 3) (hoff : addrOffset k.addr = 9 * 2 ^ 40 + 0x20)
    (hbytes : k.bytes = 16) :
    commitTarget k u =
      let r := queueCommit (srcDevice k.src) (commitOf k.data) u
      if r.1 then r.2
      else sendFrom controlRouter.1 controlRouter.2
        { op := 0x10, vc := 0, addr := mkAddr (srcDevice k.src) 3 (9 * 2 ^ 40 + 0x30), src := u.hakarSrc, bytes := 16, data := k.data } r.2 :=
  (if_neg (not_not_intro hspace)).trans (if_pos ⟨hoff, hbytes⟩)

/-- A COMMIT of 4 bytes writes the register it names. -/
theorem commitTarget_increment {u : State} {k : Packet} (hspace : addrSpace k.addr = 3) (hbytes : k.bytes = 4) :
    commitTarget k u = (controlWrite k.src (addrOffset k.addr) k.data u).2 :=
  (if_neg (not_not_intro hspace)).trans ((if_neg fun h => absurd (hbytes.symm.trans h.2) (by decide)).trans (if_pos hbytes))

/-- A commit's arrival at its own device. -/
theorem exec_commit {s u : State} {k : Packet} (hpow : s.powered = true) (hlen : k.data.length = k.bytes) (hvalid : packetValid k = true)
    (harrive : arrive k s = some u) (hop : k.op = 0x11) (hown : s.isOwn k.addr = true) : exec (.commit k) s = .next (commitTarget k u) :=
  eq_next (op_ok hop hlen) hpow ((own_target _ hown).trans (atTarget_arrived _ hvalid harrive))

/-- A bounced record's arrival, in its own command. -/
theorem exec_commitBounce {s u : State} {k : Packet} (hpow : s.powered = true) (hlen : k.data.length = k.bytes)
    (hvalid : packetValid k = true) (harrive : arrive k s = some u) (hop : k.op = 0x10)
    (hown : s.isOwn k.addr = true ∧ addrSpace k.addr = 3) (hoff : addrOffset k.addr = 9 * 2 ^ 40 + 0x30) (hbytes : k.bytes = 16) :
    exec (.commitBounce k) s = .next (queueBounce (srcDevice k.src) (commitOf k.data) u) := by
  have hcond : (s.isOwn k.addr && addrSpace k.addr == 3 && addrOffset k.addr == servicesOff 0x30 && k.bytes == 16) = true := by
    rw [hown.1, hown.2, hoff, hbytes]
    decide
  exact eq_next (op_ok hop hlen) hpow ((if_pos hcond).trans (atTarget_arrived _ hvalid harrive))

/-- Settles O34: each packet by its operation and its address. -/
theorem commitsAndUrgentWrites : Obligations.CommitsAndUrgentWrites := by
  intro s k u hpow hlen hvalid harrive
  dsimp only
  have hnet := arrive_net harrive
  have hsvc : u.svc = s.svc := by rw [hnet]
  refine ⟨fun hop hown => ?_, fun hop hown => ?_, fun hop hown hoff hbytes hroom => ?_, fun hop hown hoff hbytes hfull => ?_,
    fun hop hown hbytes => ?_, fun hop hown hoff hbytes hroom => ?_, fun hop hown hoff hbytes hfull => ?_,
    fun d c t0 rest hq hat => ?_, fun d c t0 rest hq hat => ?_⟩
  · exact eq_next (op_ok hop hlen) hpow ((own_target _ hown.1).trans ((atTarget_arrived _ hvalid harrive).trans (if_pos hown.2)))
  · exact eq_next (op_ok hop hlen) hpow (if_neg (hown ▸ Bool.false_ne_true))
  · refine ⟨_, exec_commit hpow hlen hvalid harrive hop hown.1, ?_⟩
    rw [commitTarget_record hown.2 hoff hbytes,
      queueCommit_room _ _ (hsvc.symm ▸ hroom), hsvc]
    rfl
  · rw [exec_commit hpow hlen hvalid harrive hop hown.1, commitTarget_record hown.2 hoff hbytes,
      queueCommit_full _ _ (hsvc.symm ▸ hfull), show u.hakarSrc = s.hakarSrc by rw [hnet]; rfl]
    simp only [Bool.false_eq_true, if_false]
  · rw [exec_commit hpow hlen hvalid harrive hop hown.1, commitTarget_increment hown.2 hbytes]
  · refine ⟨_, exec_commitBounce hpow hlen hvalid harrive hop hown hoff hbytes, ?_⟩
    refine (if_pos (hsvc.symm ▸ hroom)).trans ?_
    rw [hsvc, show u.now = s.clock.tide by rw [hnet]; rfl]
  · refine ⟨_, exec_commitBounce hpow hlen hvalid harrive hop hown hoff hbytes, ?_⟩
    refine (if_neg (Nat.not_lt.mpr (hsvc.symm ▸ hfull))).trans ?_
    rw [State.bumpSvc, hsvc]
  · refine eq_next rfl hpow ?_
    have hsend : commitResend s = sendRecord d c { s with svc := { s.svc with bounced := rest } } := by
      rw [commitResend, hq]
      exact if_pos hat
    exact hsend
  · refine eq_next rfl hpow ?_
    rw [commitResend, hq]
    exact if_neg (Nat.not_le.mpr hat)

end Sys2Proof.Machine
end

section
/-! PROOF. Contributions to a collective and barriers at their slots (R283, R309 to R314). -/

namespace Sys2Proof.Machine
open Sys2Proof

/-! ### Chunks -/

/-- Two changes of a slot that agree on what it holds are one. -/
theorem modSlot_congr {s : State} {g : Nat} {f h : Slot → Slot} (e : f (s.slot g) = h (s.slot g)) : s.modSlot g f = s.modSlot g h := by
  have hupd : upd {} g f s.svc.slots = upd {} g h s.svc.slots := congrArg (put g · s.svc.slots) e
  unfold State.modSlot
  rw [hupd]

theorem put_put {α : Type} (k : Nat) (v w : α) (m : Sparse α) : put k v (put k w m) = put k v m := by
  induction m with
  | nil => simp [put]
  | cons e m ih =>
    simp only [put]
    split
    · simp [put]
    · split
      · simp [put]
      · next hlt hne => simp [put, hlt, hne, ih]

/-- Two changes of a slot, one after the other. -/
theorem modSlot_modSlot (s : State) (g : Nat) (f h : Slot → Slot) : (s.modSlot g f).modSlot g h = s.modSlot g fun x => h (f x) := by
  have hupd : upd {} g h (upd {} g f s.svc.slots) = upd {} g (fun x => h (f x)) s.svc.slots := by
    simp only [upd, look_put_same, put_put]
  exact congrArg (fun m => { s with svc := { s.svc with slots := m } }) hupd

/-- An input not seen of its chunk, which does not complete it. -/
theorem takeChunk_partial {s : State} {g ci input : Nat} {m : Bool} {vals : List Int}
    (hnew : (look ({} : Chunk) (s.slot g).data ci).seen.contains input = false)
    (hpart : allSeen (s.slot g).expect (insertRising input (look ({} : Chunk) (s.slot g).data ci).seen) = false) :
    takeChunk g ci input vals m s = s.modSlot g fun y =>
      let c := look ({} : Chunk) y.data ci
      { y with data := put ci { acc := if c.seen.isEmpty then vals else combineChunk y.rop c.acc vals
                                seen := insertRising input c.seen, marked := c.marked || m } y.data
               status := if y.status = 0 then 1 else y.status } := by
  unfold takeChunk
  dsimp only
  rw [hnew, hpart]
  simp only [Bool.false_and, Bool.false_eq_true, if_false, Bool.not_false, if_true]
  exact modSlot_congr rfl

/-- An input alone does not complete a chunk that expects another. -/
theorem allSeen_one {l : List Nat} {i : Nat} (h : ∃ j ∈ l, j ≠ i) : allSeen l [i] = false := by
  obtain ⟨j, hj, hne⟩ := h
  refine List.all_eq_false.mpr ⟨j, hj, ?_⟩
  simpa using hne

/-! ### Reductions -/

/-- A contribution's arrival at its own device. -/
theorem exec_reduce {s u : State} {k : Packet} (hpow : s.powered = true) (hvalid : packetValid k = true) (harrive : arrive k s = some u)
    (hop : k.op = 0x06) (hown : s.isOwn k.addr = true) : exec (.reduce k) s = .next (reduceTarget k u) :=
  eq_next (beq_iff_eq.mpr hop) hpow ((own_target _ hown).trans (atTarget_arrived _ hvalid harrive))

theorem reduceTarget_taken {u : State} {k : Packet} {g input off : Nat} (hspace : addrSpace k.addr = 0)
    (hform : panForm (addrOffset k.addr) = .reduction g input off) (hok : reduceOk (u.slot g) input off k = true) :
    reduceTarget k u = respond controlRouter.1 controlRouter.2 k 0x26 0 [] []
      (foldState (reduceChunks input off k) (fun t c => takeChunk g c.1 input c.2.1 c.2.2 t) u) := by
  simp only [reduceTarget, hform, hspace, hok]
  rfl

theorem reduceTarget_refused {u : State} {k : Packet} {g input off : Nat} (hform : panForm (addrOffset k.addr) = .reduction g input off)
    (hok : reduceOk (u.slot g) input off k = false) :
    reduceTarget k u = respond controlRouter.1 controlRouter.2 k 0x26 0x0A [] [] u := by
  simp only [reduceTarget, hform, hok, Bool.not_false, Bool.or_true, if_true]

theorem reduceTarget_nowhere {u : State} {k : Packet} (hspace : addrSpace k.addr = 0) (hform : panForm (addrOffset k.addr) = .bad) :
    reduceTarget k u = respond controlRouter.1 controlRouter.2 k 0x26 0x02 [] [] u := by
  simp only [reduceTarget, hform, hspace]
  rfl

/-! ### Barriers -/

/-- An arrival not yet made, in a slot of barriers. -/
theorem barrierArrive_new {s : State} {g input : Nat} (dev : Option Nat) (hvalid : (s.slot g).valid = true) (hrop : (s.slot g).rop = 3)
    (hnew : (s.slot g).arrived.contains input = false) :
    barrierArrive g input dev s =
      let t := s.modSlot g fun x =>
        { x with arrived := insertRising input x.arrived, status := if x.status = 0 then 1 else x.status
                 children := match dev with | some d => x.children ++ [(input, d)] | none => x.children }
      if allSeen (s.slot g).expect (s.slot g).arrived || !allSeen (s.slot g).expect (insertRising input (s.slot g).arrived) then t
      else
        let v := t.modSlot g fun x => { x with status := 2 }
        if (s.slot g).root then releaseSlot g v else sendBarrier (s.slot g).parent false (s.slot g).parentInput g (s.slot g).gen v := by
  have hgo : ¬ (!(s.slot g).valid || (s.slot g).rop != 3) = true := by simp [hvalid, hrop]
  exact (if_neg hgo).trans (if_neg (hnew ▸ Bool.false_ne_true))

/-- A BARRIER at the slot of its generation. -/
theorem barrierTarget_now {u : State} {k : Packet} {w : Nat} (hw : leNat (k.data.take 4) = w)
    (hat : u.isOwn k.addr = true ∧ addrSpace k.addr = 3 ∧ addrOffset k.addr = 9 * 2 ^ 40 + 0x14 ∧ k.bytes = 4)
    (hvalid : (u.slot (bits w 21 16)).valid = true) (hrop : (u.slot (bits w 21 16)).rop = 3)
    (hgen : bits w 15 0 = (u.slot (bits w 21 16)).gen % 65536) :
    barrierTarget k u = if bit w 31 then (if (u.slot (bits w 21 16)).status ≠ 3 then releaseSlot (bits w 21 16) u else u)
      else barrierArrive (bits w 21 16) (bits w 30 24) (some (srcDevice k.src)) u := by
  obtain ⟨hown, hspace, hoff, hbytes⟩ := hat
  have hd : ((u.slot (bits w 21 16)).gen % 65536 + 65536 - (u.slot (bits w 21 16)).gen % 65536) % 65536 = 0 := by omega
  have hplace : (addrOffset k.addr != servicesOff 0x14) = false := by rw [hoff]; decide
  simp only [barrierTarget, hw, hgen, hd, hown, hspace, hplace, hbytes, hvalid, hrop, Bool.not_true, bne_self_eq_false,
    Bool.or_self, Bool.false_eq_true, if_false, decide_true, Bool.true_and, if_true, bne_iff_ne]

/-- Settles O33: each clause is the case of its chunk or of its slot. -/
theorem collectivesCombine : Obligations.CollectivesCombine := by
  intro s k u hpow hvalid harrive
  dsimp only
  have hnet := arrive_net harrive
  have hslot (g : Nat) : u.slot g = s.slot g := by rw [hnet]; rfl
  have hown : u.isOwn k.addr = s.isOwn k.addr := by rw [hnet]; rfl
  refine ⟨fun g input off hop hown hspace hform hok => ?_, fun g input off hop hown hform hok => ?_, fun hop hown hspace hform => ?_,
    fun g ci input vals m hseen hother => ?_, fun g ci input vals m hseen hnew hpart => ?_, fun g ci input vals m hold => if_pos hold,
    fun g input hg hi hvalid hrop hnew hpart => ?_, fun g input hg hi hvalid hrop hnew hbefore hall => ?_,
    fun hop hat hvalid' hrop hgen hbit => ?_, fun hop hat hvalid' hrop hgen hbit hstatus => ?_⟩
  · rw [exec_reduce hpow hvalid harrive hop hown, reduceTarget_taken hspace hform ((hslot g).symm ▸ hok)]
  · rw [exec_reduce hpow hvalid harrive hop hown, reduceTarget_refused hform ((hslot g).symm ▸ hok)]
  · rw [exec_reduce hpow hvalid harrive hop hown, reduceTarget_nowhere hspace hform]
  · rw [takeChunk_partial (by rw [hseen]; rfl) (by rw [hseen]; exact allSeen_one hother)]
    exact modSlot_congr (by dsimp only; rw [hseen]; rfl)
  · rw [takeChunk_partial hnew hpart]
    have hne : (look ({} : Chunk) (s.slot g).data ci).seen.isEmpty = false := by simpa using hseen
    exact modSlot_congr (by dsimp only; rw [hne]; rfl)
  · refine ex_next (by simp [hg, hi]) hpow ?_
    rw [barrierArrive_new none hvalid hrop hnew]
    simp only [hpart, Bool.not_false, Bool.or_true, if_true]
  · refine eq_next (by simp [hg, hi]) hpow ?_
    rw [barrierArrive_new none hvalid hrop hnew]
    have hv : (s.modSlot g fun x => { x with arrived := insertRising input x.arrived, status := if x.status = 0 then 1 else x.status }).modSlot g
        (fun x => { x with status := 2 }) = s.modSlot g fun y => { y with arrived := insertRising input y.arrived, status := 2 } :=
      modSlot_modSlot ..
    simp only [hbefore, hall, Bool.not_true, Bool.or_self, Bool.false_eq_true, if_false, hv]
  · have hat' : exec (.barrier k) s = .next (barrierTarget k u) :=
      eq_next (beq_iff_eq.mpr hop) hpow (atTarget_arrived _ hvalid harrive)
    rw [hat', barrierTarget_now rfl (hown.symm ▸ hat) ((hslot _).symm ▸ hvalid') ((hslot _).symm ▸ hrop) ((hslot _).symm ▸ hgen)]
    exact congrArg _ (if_neg fun hset => Bool.false_ne_true (hbit.symm.trans hset))
  · have hat' : exec (.barrier k) s = .next (barrierTarget k u) :=
      eq_next (beq_iff_eq.mpr hop) hpow (atTarget_arrived _ hvalid harrive)
    rw [hat', barrierTarget_now rfl (hown.symm ▸ hat) ((hslot _).symm ▸ hvalid') ((hslot _).symm ▸ hrop) ((hslot _).symm ▸ hgen)]
    exact congrArg _ ((if_pos hbit).trans (if_pos ((hslot _).symm ▸ hstatus)))

end Sys2Proof.Machine
end

section
/-! PROOF. Atomics at the cellar and their answers (R295 to R298). -/

namespace Sys2Proof.Machine
open Sys2Proof

/-! ### A cellar unit in which no error stands -/

/-- Nothing but the channels and the cellar's bytes differs. -/
def State.cellarWork (s t : State) : Prop := t = { s with chans := t.chans, cellarMem := t.cellarMem }

theorem State.cellarWork.trans {s t u : State} (h : s.cellarWork t) (k : t.cellarWork u) : s.cellarWork u := by
  unfold State.cellarWork at *
  rw [k, h]

theorem State.cellarWork.svc {s t : State} (h : s.cellarWork t) (x : Services) :
    { t with svc := x } = { s with chans := t.chans, cellarMem := t.cellarMem, svc := x } := by
  rw [h]

theorem State.cellarWork.bumpChan (s : State) (ch c n : Nat) : s.cellarWork (s.bumpChan ch c n) := by
  unfold State.bumpChan
  split <;> rfl

theorem State.cellarWork.touchCheck (ch v : Nat) (s : State) : s.cellarWork (Machine.touchCheck ch v s) :=
  .trans (t := s.modChan ch _) (by rfl) (.bumpChan ..)

/-- No error stands in the unit of a channel that holds an address. -/
def State.cellarClean (s : State) (ch cha : Nat) : Prop := ∀ e ∈ (s.chan ch).errs, e.word / 8 ≠ cha / 64

/-- Decoding such a unit changes nothing. -/
theorem cellarDecode_none {s : State} {ch cha : Nat} (h : s.cellarClean ch cha) :
    cellarDecode ch cha s = s.modChan ch fun c => c := by
  have hfound : ((s.chan ch).errs.filter fun e => e.word / 8 == cha / 64) = [] :=
    List.filter_eq_nil_iff.mpr fun e he => by simpa using h e he
  have hkept : ((s.chan ch).errs.filter fun e => e.word / 8 != cha / 64) = (s.chan ch).errs :=
    List.filter_eq_self.mpr fun e he => by simpa using h e he
  have hsame : s.modChan ch (fun c => { c with errs := c.errs.filter fun e => e.word / 8 != cha / 64 }) = s.modChan ch fun c => c := by
    have hput : ({ s.chan ch with errs := (s.chan ch).errs.filter fun e => e.word / 8 != cha / 64 } : Chan) = s.chan ch := by rw [hkept]
    exact congrArg (fun c => { s with chans := put ch c s.chans }) hput
  unfold cellarDecode
  rw [hfound, foldState_nil]
  exact hsame

theorem errs_bumpChan (s : State) (ch c n j : Nat) : ((s.bumpChan ch c n).chan j).errs = (s.chan j).errs := by
  obtain ⟨-, hsame, hother⟩ := onlyChan_bump s ch c n
  by_cases hj : j = ch
  · rw [hj, hsame]
  · rw [hother j hj]

theorem errs_touchCheck (ch v : Nat) (s : State) (j : Nat) : ((touchCheck ch v s).chan j).errs = (s.chan j).errs := by
  refine (errs_bumpChan ..).trans ?_
  by_cases hj : j = ch
  · rw [hj, chan_modChan_same]
  · rw [chan_modChan_other _ hj]

/-- Reading a clean unit that is not marked. -/
theorem cellarReadUnit_clean {s : State} {a ch cha : Nat} (n : Nat) (hplace : s.cellarPlace a = (ch, cha)) (hclean : s.cellarClean ch cha)
    (hmark : cellarMarked (s.chan ch) cha = false) :
    ∃ t, cellarReadUnit a n s = (readBytes s.cellarMem a n, false, t) ∧ s.cellarWork t ∧ t.cellarMem = s.cellarMem ∧
      t.cellarClean ch cha := by
  have hchan (j : Nat) : (s.modChan ch fun c => c).chan j = s.chan j := by
    by_cases hj : j = ch
    · rw [hj, chan_modChan_same]
    · rw [chan_modChan_other _ hj]
  have hread : cellarReadUnit a n s = (readBytes s.cellarMem a n, false,
      (touchCheck ch (cha / 64) (s.modChan ch fun c => c)).bumpChan ch chanPoison 0) := by
    simp only [cellarReadUnit, hplace, cellarDecode_none hclean, hchan, hmark]
    rfl
  have hwork : s.cellarWork ((touchCheck ch (cha / 64) (s.modChan ch fun c => c)).bumpChan ch chanPoison 0) :=
    .trans (.trans (t := s.modChan ch fun c => c) (by rfl) (.touchCheck ..)) (.bumpChan ..)
  refine ⟨_, hread, hwork, ?_, fun e he => hclean e ?_⟩
  · simp [touchCheck]
  · rwa [errs_bumpChan, errs_touchCheck, hchan] at he

/-- Writing within a clean unit. -/
theorem cellarWriteUnit_clean {s : State} {a ch cha : Nat} (bs : List Byte) (m : Bool) (hplace : s.cellarPlace a = (ch, cha))
    (hclean : s.cellarClean ch cha) :
    s.cellarWork (cellarWriteUnit a bs m s) ∧ (cellarWriteUnit a bs m s).cellarMem = writeBytes s.cellarMem a bs := by
  have hdecoded : s.cellarWork (if (wordsIn cha bs.length).any fun w => !w.2 then cellarDecode ch cha s else s) ∧
      (if (wordsIn cha bs.length).any fun w => !w.2 then cellarDecode ch cha s else s).cellarMem = s.cellarMem := by
    split
    · rw [cellarDecode_none hclean]
      exact ⟨rfl, rfl⟩
    · exact ⟨rfl, rfl⟩
  unfold cellarWriteUnit
  simp only [hplace]
  generalize (if (wordsIn cha bs.length).any fun w => !w.2 then cellarDecode ch cha s else s) = t at hdecoded ⊢
  obtain ⟨hwork, hmem⟩ := hdecoded
  refine ⟨.trans (.trans (hwork.trans (t := t) (u := { t with cellarMem := writeBytes t.cellarMem a bs }) (by rfl)) (.touchCheck ..))
    (.trans (t := State.modChan _ ch _) (by rfl) (.bumpChan ..)), ?_⟩
  rw [bumpChan_cellarMem, modChan_cellarMem, ← hmem]
  simp [touchCheck]

/-- A write within one unit of the cellar. -/
theorem cellarWrite_one {s : State} {a : Nat} {bs : List Byte} (marks : List Bool) (h0 : 0 < bs.length) (h : a % 64 + bs.length ≤ 64) :
    cellarWrite a bs marks s = cellarWriteUnit a bs (marks.getD 0 false) s := by
  have hparts : partsOf a 0 a bs marks = [(a, bs, marks.getD 0 false)] := by
    have hmin : min bs.length (64 - a % 64) = bs.length := by omega
    have hzero : a % 64 / 64 = 0 := by omega
    simp [partsOf, unitParts, hmin, Nat.ne_of_gt h0, hzero]
  rw [cellarWrite, hparts, foldState_one]

/-! ### The atomic unit -/

/-- The checks of R298 on an atomic's head. -/
def atomicBad (k : Packet) : Bool :=
  let h := leNat (k.data.take 4)
  let aop := bits h 31 28
  let w64 := bit h 27
  aop == 0 || decide (7 < aop) || (aop == 3 && w64) || decide (bits h 26 24 ≠ 0) || decide (k.bytes ≠ if w64 || aop == 3 then 12 else 8)
    ||
    decide (k.addr % 16 ≠ 0) || addrSpace k.addr == 3

/-- An atomic whose checks hold. -/
theorem atomicBad_sound {k : Packet} (h0 : bits (leNat (k.data.take 4)) 31 28 ≠ 0) (h7 : bits (leNat (k.data.take 4)) 31 28 ≤ 7)
    (hcas : bits (leNat (k.data.take 4)) 31 28 = 3 → (if bit (leNat (k.data.take 4)) 27 then 8 else 4) = 4)
    (hlow : bits (leNat (k.data.take 4)) 26 24 = 0)
    (hbytes : k.bytes = if (if bit (leNat (k.data.take 4)) 27 then 8 else 4) = 8 ∨ bits (leNat (k.data.take 4)) 31 28 = 3 then 12 else 8)
    (haddr : k.addr % 16 = 0) (hspace : addrSpace k.addr ≠ 3) : atomicBad k = false := by
  unfold atomicBad
  generalize leNat (k.data.take 4) = h at *
  cases hw : bit h 27 <;> simp_all

/-- The first atomic of a source, in an empty table of records. -/
theorem atomicUnit_first {k : Packet} {s t : State} {v : Nat} {m : Bool} (hbad : atomicBad k = false) (hrec : s.svc.records = []) :
    let h := leNat (k.data.take 4)
    let n := if bit h 27 then 8 else 4
    atomicPerform k (bits h 31 28) n (leNat ((k.data.drop 4).take n)) (leNat ((k.data.drop 8).take 4)) s = .done v m t →
    atomicUnit k s = (0, leBytes v n, m, { t with svc := { t.svc with
      records := [{ src := k.src, high := bits h 23 0, done := [(bits h 23 0, v, m)], used := s.now }] } }.bumpSvc svcAtomic 1) := by
  intro h n hdone
  have hgo : ¬ atomicBad k = true := hbad ▸ Bool.false_ne_true
  have htrim : trimRecord (bits h 23 0) [(bits h 23 0, v, m)] = [(bits h 23 0, v, m)] :=
    List.filter_eq_self.mpr fun e he => by
      rw [List.mem_singleton.mp he]
      simp
  refine (if_neg hgo).trans ?_
  dsimp only
  rw [hrec, List.find?_nil]
  simp only [Option.isNone_none, Bool.true_or, Bool.not_true, Bool.false_and, Bool.false_or, putRecord, List.filter_nil,
    List.length_nil, Nat.zero_lt_succ, if_true, Option.isNone_some, Bool.false_eq_true, if_false]
  rw [hdone]
  dsimp only
  rw [htrim]

/-- A record's highest number, or one behind it, is not ahead of it. -/
theorem notAhead {high seq : Nat} (h : 2 ^ 23 ≤ (seq + 2 ^ 24 - high) % 2 ^ 24 ∨ seq = high) :
    (decide (1 ≤ (seq + 2 ^ 24 - high) % 2 ^ 24) && decide ((seq + 2 ^ 24 - high) % 2 ^ 24 < 2 ^ 23)) = false := by
  rcases h with h | h
  · rw [decide_eq_false (Nat.not_lt.mpr h), Bool.and_false]
  · rw [h, Nat.add_sub_cancel_left, Nat.mod_self]
    rfl

/-- A source with a record keeps it. -/
theorem putRecord_known {l : List AtomicRec} {now : Nat} {r x : AtomicRec} (hr : (l.find? fun r => r.src == x.src) = some r)
    (hlen : l.length ≤ 256) : (putRecord now x l).isNone = false := by
  have hroom : (l.filter fun y => y.src != x.src).length < 256 := by
    refine Nat.lt_of_lt_of_le (List.length_filter_lt_length_iff_exists.mpr ⟨r, List.mem_of_find?_eq_some hr, ?_⟩) hlen
    simpa using List.find?_some hr
  rw [putRecord]
  simp only [hroom, if_true, Option.isNone_some]

/-- A number performed before is answered from its source's record. -/
theorem atomicUnit_known {k : Packet} {s : State} {r : AtomicRec} {e : Nat × Nat × Bool} {seq : Nat} (hbad : atomicBad k = false)
    (hseq : bits (leNat (k.data.take 4)) 23 0 = seq) (hr : (s.svc.records.find? fun r => r.src == k.src) = some r)
    (hlen : s.svc.records.length ≤ 256) (hback : (r.high + 2 ^ 24 - seq) % 2 ^ 24 < 64)
    (hdd : 2 ^ 23 ≤ (seq + 2 ^ 24 - r.high) % 2 ^ 24 ∨ seq = r.high) (he : (r.done.find? fun e => e.1 == seq) = some e) :
    atomicUnit k s = (0, leBytes e.2.1 (if bit (leNat (k.data.take 4)) 27 then 8 else 4), e.2.2, { s with svc := { s.svc with
      records := { r with used := s.now } :: s.svc.records.filter fun x => x.src != k.src } }.bumpSvc svcAtomicDup 1) := by
  have hgo : ¬ atomicBad k = true := hbad ▸ Bool.false_ne_true
  have hput := putRecord_known (now := s.now) (x := { src := k.src, high := seq }) hr hlen
  have hsrc : r.src = k.src := by simpa using List.find?_some hr
  refine (if_neg hgo).trans ?_
  simp only [hseq, hr, he, hput, notAhead hdd, decide_eq_false (Nat.not_le.mpr hback), hsrc, Option.isNone_some, Bool.or_self,
    Bool.and_false, Bool.false_eq_true, if_false]

/-- The operations of R295 that the statement writes out. -/
theorem atomicNew_eq {aop n old a b : Nat} (h : aop = 1 ∨ aop = 2 ∨ aop = 3) : atomicNew aop (8 * n) old a b =
    if aop = 1 then (old + a) % 2 ^ (8 * n) else if aop = 2 then a % 2 ^ (8 * n)
    else if old = a % 2 ^ (8 * n) then b % 2 ^ (8 * n) else old := by
  rcases h with rfl | rfl | rfl <;> rfl

/-- An atomic on a clean, unmarked word of the cellar. -/
theorem atomicPerform_cellar {k : Packet} {s : State} {aop n a b ch cha : Nat} (hspace : addrSpace k.addr = 2)
    (hfit : addrOffset k.addr + n ≤ s.cellarUsable) (hn : 0 < n) (hunit : addrOffset k.addr % 64 + n ≤ 64)
    (hplace : s.cellarPlace (addrOffset k.addr) = (ch, cha)) (hclean : s.cellarClean ch cha)
    (hmark : cellarMarked (s.chan ch) cha = false) :
    let old := readBytes s.cellarMem (addrOffset k.addr) n
    ∃ t, atomicPerform k aop n a b s = .done (leNat old) false t ∧ s.cellarWork t ∧
      t.cellarMem = writeBytes s.cellarMem (addrOffset k.addr) (leBytes (atomicNew aop (8 * n) (leNat old) a b) n) := by
  intro old
  obtain ⟨t, hread, hwork, hmem, hclean'⟩ := cellarReadUnit_clean n hplace hclean hmark
  have hplace' : t.cellarPlace (addrOffset k.addr) = (ch, cha) := by rw [← hplace, hwork]; rfl
  have hone : cellarRead [(addrOffset k.addr, n)] s = (old, [false], t) := by simp only [cellarRead, hread, List.append_nil, old]
  obtain ⟨hwork', hmem'⟩ := cellarWriteUnit_clean (leBytes (atomicNew aop (8 * n) (leNat old) a b) n) false hplace' hclean'
  have hwrite : cellarWrite (addrOffset k.addr) (leBytes (atomicNew aop (8 * n) (leNat old) a b) n) [false] t =
      cellarWriteUnit (addrOffset k.addr) (leBytes (atomicNew aop (8 * n) (leNat old) a b) n) false t :=
    cellarWrite_one [false] (by simpa using hn) (by simpa using hunit)
  refine ⟨_, ?_, hwork.trans hwork', hmem'.trans (by rw [hmem])⟩
  simp only [atomicPerform, hspace, hone, Nat.not_lt.mpr hfit, if_false, hwrite, List.any_cons, List.any_nil, id_eq, Bool.or_self,
    Bool.false_eq_true]

/-- The command of an atomic that has arrived at its own device. -/
theorem exec_atomic {s u v : State} {k : Packet} {c : Nat} {bs : List Byte} {m : Bool} (hpow : s.powered = true)
    (hlen : k.data.length = k.bytes) (hvalid : packetValid k = true) (harrive : arrive k s = some u) (hop : k.op = 0x03)
    (hown : s.isOwn k.addr = true) (h : atomicUnit k u = (c, bs, m, v)) :
    exec (.atomic k) s = .next (respond controlRouter.1 controlRouter.2 k 0x23 c bs (if bs.isEmpty then [] else [m]) v) := by
  refine eq_next (op_ok hop hlen) hpow ((own_target _ hown).trans ((atTarget_arrived _ hvalid harrive).trans ?_))
  rw [h]

/-- An atomic whose checks fail. -/
theorem atomicUnit_bad {k : Packet} {s : State} (h : atomicBad k = true) : atomicUnit k s = (0x0A, [], false, s) := if_pos h

/-- The answer of an atomic, at a command that waits for it. -/
theorem atomicAnswer_waits {k : Packet} {u : State} {o : Outst} {w : AtomicWait} (ho : u.out? k.src k.tag = some o) (hwho : o.who =
    .atomic)
    (hw : (u.hif.atomics.find? fun w => w.aseq == o.off) = some w) :
    atomicAnswer k u =
      if k.status = 0x0A then (dropOut k.src k.tag u).modHif fun h => { h with atomics := h.atomics.map fun x =>
        if x.tag = w.tag then { x with refused := true } else x }
      else if k.status ≠ 0 then atomicDone w Status.haul k.status [] (dropOut k.src k.tag u)
      else if k.marks.any id then atomicDone w Status.haul Cause.poisonToHost [] (dropOut k.src k.tag u)
      else atomicDone w Status.success 0 (words64 (leNat k.data)) (dropOut k.src k.tag u) := by
  have hlive : ¬ o.isExpired = true := by simp [Outst.isExpired, hwho]
  unfold atomicAnswer
  rw [ho]
  refine (if_neg hlive).trans ((if_neg (not_not_intro hwho)).trans ?_)
  have hfind : ((dropOut k.src k.tag u).hif.atomics.find? fun w => w.aseq == o.off) = some w := hw
  dsimp only
  rw [hfind]

/-- Settles O32: what the unit performs, and what its answer does at the command. -/
theorem atomicsPerformed : Obligations.AtomicsPerformed := by
  intro s k u hpow hlen hvalid harrive
  dsimp only
  have hnet := arrive_net harrive
  refine ⟨fun hop hown hsound haop hspace hfit hrec hmark hclean hwf => ?_,
    fun r e hop hown hsound hr hlen' hback hdd hhigh he => ?_, fun hop hown hbad => ?_, fun o w hop ho hwho hw hstatus hmarks => ?_,
    fun o w hop ho hwho hw hstatus => ?_⟩
  · obtain ⟨h0, h7, hcas, hlow, hbytes, haddr, hnot3⟩ := hsound
    have hplace : u.cellarPlace (addrOffset k.addr) = s.cellarPlace (addrOffset k.addr) := by rw [hnet]; rfl
    have hmem : u.cellarMem = s.cellarMem := by rw [hnet]
    have hchan (j : Nat) : u.chan j = s.chan j := by rw [hnet]; rfl
    have hn : 0 < (if bit (leNat (k.data.take 4)) 27 then 8 else 4) ∧ (if bit (leNat (k.data.take 4)) 27 then 8 else 4) ≤ 8 := by
      split <;> decide
    generalize hnn : (if bit (leNat (k.data.take 4)) 27 then 8 else 4) = n at *
    have hunit : addrOffset k.addr % 64 + n ≤ 64 := by
      unfold addrOffset
      omega
    obtain ⟨t, hdone, hwork, hwritten⟩ := atomicPerform_cellar (a := leNat ((k.data.drop 4).take n)) (b := leNat ((k.data.drop 8).take 4))
      (aop := bits (leNat (k.data.take 4)) 31 28) hspace (show _ ≤ u.cellarUsable by rw [hnet]; exact hfit) hn.1 hunit hplace
      (show u.cellarClean _ _ by unfold State.cellarClean; rw [hchan]; exact hclean) (by rw [hchan]; exact hmark)
    have hbad := atomicBad_sound h0 h7 (by rw [hnn]; exact hcas) hlow (by rw [hnn]; exact hbytes) haddr hnot3
    have hunitdone := atomicUnit_first hbad (show u.svc.records = [] by rw [hnet]; exact hrec) (by rw [hnn]; exact hdone)
    rw [hnn, hmem] at hunitdone
    have hsome : ∀ x, (leBytes x n).isEmpty = false := fun x => by
      rw [List.isEmpty_eq_false_iff, ← List.length_pos_iff, leBytes_length]
      exact hn.1
    generalize hv : State.bumpSvc { t with svc := _ } svcAtomic 1 = v at hunitdone
    have hexec := exec_atomic hpow hlen hvalid harrive hop hown hunitdone
    rw [hsome] at hexec
    have hvmem : v.cellarMem = writeBytes s.cellarMem (addrOffset k.addr) (leBytes (if bits (leNat (k.data.take 4)) 31 28 = 1 then
        (leNat (readBytes s.cellarMem (addrOffset k.addr) n) + leNat ((k.data.drop 4).take n)) % 2 ^ (8 * n)
        else if bits (leNat (k.data.take 4)) 31 28 = 2 then leNat ((k.data.drop 4).take n) % 2 ^ (8 * n)
        else if leNat (readBytes s.cellarMem (addrOffset k.addr) n) = leNat ((k.data.drop 4).take n) % 2 ^ (8 * n) then
          leNat ((k.data.drop 8).take 4) % 2 ^ (8 * n)
        else leNat (readBytes s.cellarMem (addrOffset k.addr) n)) n) := by
      rw [← atomicNew_eq haop, ← hmem, ← hwritten, ← hv]
      rfl
    refine ⟨v, _, hexec, rfl, fun i hi => ?_, fun j hj => ?_, ?_, ?_⟩
    · rw [hvmem, readByte_writeBytes_inside hwf _ _ i (by rw [leBytes_length]; exact hi), List.getD_eq_getElem _ _ (by
        rw [leBytes_length]; exact hi)]
    · rw [hvmem]
      exact readByte_writeBytes_outside hwf _ _ j (by rw [leBytes_length]; exact hj)
    · rw [← hv, show s.clock.tide = u.now by rw [hnet]; rfl]
      rfl
    · rw [← hv]
      unfold State.bumpSvc
      exact hwork.svc _
  · obtain ⟨h0, h7, hcas, hlow, hbytes, haddr, hnot3⟩ := hsound
    have hsvc : u.svc = s.svc := by rw [hnet]
    have hunit := atomicUnit_known (s := u) (atomicBad_sound h0 h7 hcas hlow hbytes haddr hnot3) rfl (hsvc ▸ hr) (hsvc ▸ hlen') hback hdd
      he
    have hexec := exec_atomic hpow hlen hvalid harrive hop hown hunit
    simp only [List.isEmpty_iff] at hexec
    exact ⟨_, _, hexec, rfl, by rfl⟩
  · have hbad : atomicBad k = true := by
      unfold atomicBad
      rcases hbad with h | h | h | h <;> simp [h]
    exact exec_atomic hpow hlen hvalid harrive hop hown (atomicUnit_bad hbad)
  · have houts : u.out? k.src k.tag = some o := by rw [hnet]; exact ho
    have hfind : (u.hif.atomics.find? fun w => w.aseq == o.off) = some w := by rw [hnet]; exact hw
    have hunmarked : k.marks.any id = false := List.any_eq_false.mpr fun m hm => by simp [hmarks m hm]
    refine eq_next (beq_iff_eq.mpr hop) hpow ((atTarget_arrived _ hvalid harrive).trans ?_)
    rw [atomicAnswer_waits houts hwho hfind, hstatus, hunmarked]
    rfl
  · have houts : u.out? k.src k.tag = some o := by rw [hnet]; exact ho
    have hfind : (u.hif.atomics.find? fun w => w.aseq == o.off) = some w := by rw [hnet]; exact hw
    refine eq_next (beq_iff_eq.mpr hop) hpow ((atTarget_arrived _ hvalid harrive).trans ?_)
    rw [atomicAnswer_waits houts hwho hfind, if_pos hstatus]

end Sys2Proof.Machine
end

section
/-! PROOF. Read data and acknowledgements at their requesters (R113, R211, R212, R214, R222, R309, R511). -/

namespace Sys2Proof.Machine
open Sys2Proof

/-- A valid packet that still is behind another of its stream waits. -/
theorem atTarget_waits {s : State} {k : Packet} (f : State → State) (hvalid : packetValid k = true) (h : arrive k s = none) :
    atTarget k f s = s := by
  unfold atTarget
  rw [hvalid, h]
  rfl

section
variable {u : State} {k : Packet} {o : Outst}

/-! ### Read data -/

theorem rdDataBack_haul {c : HaulId} (ho : u.out? k.src k.tag = some o) (hwho : o.who = .haul c) (hread : o.write = false)
    (hok : k.status = 0) : rdDataBack k u = haulAfter (haulReadBack c o k (dropOut k.src k.tag u)) := by
  simp only [rdDataBack, ho, hwho, hread, hok, ne_eq, not_true_eq_false, Bool.false_eq_true, if_false]

theorem rdDataBack_feeder {p : Nat} {north : Bool} (ho : u.out? k.src k.tag = some o) (hwho : o.who = .feeder p north) (hok : k.status =
    0) :
    rdDataBack k u = let t := feederData p north o.off k.data (k.marks.any id) (dropOut k.src k.tag u)
      if north then heldAhead p 64 t else feedAhead p 64 t := by
  simp only [rdDataBack, ho, hwho, hok, ne_eq, not_true_eq_false, if_false]

theorem rdDataBack_unknown (ho : u.out? k.src k.tag = none) : rdDataBack k u = u := by
  simp only [rdDataBack, ho]

theorem rdDataBack_expired (ho : u.out? k.src k.tag = some o) (hwho : o.who = .expired) :
    rdDataBack k u = releaseCommits (dropOut k.src k.tag u) := by
  simp only [rdDataBack, ho, hwho]

/-! ### Acknowledgements -/

theorem writeAcked_haul {c : HaulId} (ho : u.out? k.src k.tag = some o) (hwho : o.who = .haul c) (hwrite : o.write = true)
    (hok : k.status = 0) : writeAcked k u = haulAcked c (dropOut k.src k.tag u) := by
  simp only [writeAcked, ho, hwho, hwrite, hok, ne_eq, not_true_eq_false, Bool.not_true, Bool.false_eq_true, if_false]

theorem writeAcked_root {g : Nat} (ho : u.out? k.src k.tag = some o) (hwho : o.who = .rootWrite g) (hwrite : o.write = true)
    (hok : k.status = 0) : writeAcked k u = rootAck g (releaseCommits (dropOut k.src k.tag u)) := by
  simp only [writeAcked, ho, hwho, hwrite, hok, ne_eq, not_true_eq_false, Bool.not_true, Bool.false_eq_true, if_false]

end

/-- Settles O28: each response by its requester. -/
theorem responsesReachRequesters : Obligations.ResponsesReachRequesters := by
  intro s k o hpow hvalid
  refine ⟨fun u harrive => ?_, fun harrive => ?_, fun ch tag bs hch ho hwho hread hlen => ?_⟩
  · dsimp only
    have arrived (f : State → State) : atTarget k f s = f u := atTarget_arrived f hvalid harrive
    refine ⟨fun c hop ho hwho hread hok => ?_, fun p hop ho hwho hok => ?_, fun p hop ho hwho hok => ?_, fun hop ho => ?_,
      fun hop ho hwho => ?_, fun c hop ho hwho hwrite hok => ?_, fun c hop ho hwho hwrite hok => ?_, fun g hop ho hwho hwrite hok => ?_⟩
    · exact eq_next (beq_iff_eq.mpr hop) hpow ((arrived _).trans (rdDataBack_haul ho hwho hread hok))
    · exact eq_next (beq_iff_eq.mpr hop) hpow ((arrived _).trans (rdDataBack_feeder ho hwho hok))
    · exact eq_next (beq_iff_eq.mpr hop) hpow ((arrived _).trans (rdDataBack_feeder ho hwho hok))
    · exact eq_next (beq_iff_eq.mpr hop) hpow ((arrived _).trans (rdDataBack_unknown ho))
    · exact eq_next (beq_iff_eq.mpr hop) hpow ((arrived _).trans (rdDataBack_expired ho hwho))
    · exact eq_next (beq_iff_eq.mpr hop) hpow ((arrived _).trans (writeAcked_haul ho hwho hwrite hok))
    · exact eq_next (beq_iff_eq.mpr hop) hpow ((arrived _).trans (writeAcked_haul ho hwho hwrite hok))
    · exact eq_next (beq_iff_eq.mpr hop) hpow ((arrived _).trans (writeAcked_root ho hwho hwrite hok))
  · have waits (f : State → State) : atTarget k f s = s := atTarget_waits f hvalid harrive
    exact ⟨fun hop => eq_next (beq_iff_eq.mpr hop) hpow (waits _), fun hop => eq_next (beq_iff_eq.mpr hop) hpow (waits _),
      fun hop => eq_next (beq_iff_eq.mpr hop) hpow (waits _)⟩
  · refine eq_next (decide_eq_true hch) hpow ?_
    simp only [ho, hwho, hread, reduceCtorEq, decide_true, Bool.not_false, Bool.and_self, if_true, if_false]

end Sys2Proof.Machine
end

section
/-! PROOF. Reads and writes at their targets (R164 to R166, R174, R183, R190, R287, R292, R293). -/

namespace Sys2Proof.Machine
open Sys2Proof

section
variable {s u : State} {k : Packet}

/-! ### Reads -/

/-- No observation falls on a pan store or on control space. -/
theorem memFlips_none {space : Nat} (obs : List WordObs) (h1 : space ≠ 1) (h2 : space ≠ 2) : memFlips space obs u = u :=
  (if_neg h1).trans (if_neg h2)

/-- A read's arrival at its own device. -/
theorem exec_rd (obs : List WordObs) (hpow : s.powered = true) (hvalid : packetValid k = true) (harrive : arrive k s = some u)
    (hop : k.op = 0x01) (hown : s.isOwn k.addr = true) : exec (.rd k obs) s = .next (rdTarget k obs u) :=
  eq_next (beq_iff_eq.mpr hop) hpow ((own_target _ hown).trans (atTarget_arrived _ hvalid harrive))

theorem panStoreRead_admitted {p a : Nat} (h : ∀ m ∈ u.banksOf p a k.bytes, u.bankMode p m = .awake ∨ u.bankMode p m = .draining) :
    panStoreRead p a k u = enqueue p 0xD a k.bytes none [] (ackOf k 0x21 k.bytes) u := by
  refine if_neg ?_
  simp only [Bool.or_eq_true, List.contains_iff_mem, List.mem_map, not_or, not_exists, not_and]
  refine ⟨fun m hm hmode => ?_, fun m hm hmode => ?_⟩ <;> rcases h m hm with h | h <;> exact nomatch h.symm.trans hmode

theorem rdTarget_store (obs : List WordObs) {p b : Nat} (hspace : addrSpace k.addr = 0)
    (hplace : u.panByte (addrOffset k.addr) k.bytes = some (p, b)) : rdTarget k obs u = panStoreRead p b k u := by
  simp only [rdTarget, hspace, memFlips_none obs (show 0 ≠ 1 by decide) (show 0 ≠ 2 by decide), hplace]

theorem rdTarget_brine {obs : List WordObs} {v w : State} {ps : Pieces} {bs : List Byte} {ms : List Bool} (hspace : addrSpace k.addr = 1)
    (hv : memFlips (addrSpace k.addr) obs u = v) (hps : v.brinePieces k.src (addrOffset k.addr) k.bytes = .ok ps)
    (hread : brineRead ps v = (0, bs, ms, w)) :
    rdTarget k obs u = respond (v.destOf k.src k.addr).1 (v.destOf k.src k.addr).2 k 0x21 0 bs ms w := by
  rw [hspace] at hv
  simp only [rdTarget, hspace, hv, hps, hread, if_true]

theorem rdTarget_cellar {obs : List WordObs} {v w : State} {bs : List Byte} {ms : List Bool} (hspace : addrSpace k.addr = 2)
    (hv : memFlips (addrSpace k.addr) obs u = v) (hfit : addrOffset k.addr + max 1 k.bytes ≤ v.cellarUsable)
    (hread : cellarRead (unitParts (k.bytes / 64 + 2) (addrOffset k.addr) k.bytes) v = (bs, ms, w)) :
    rdTarget k obs u = respond (v.destOf k.src k.addr).1 (v.destOf k.src k.addr).2 k 0x21 0 bs ms w := by
  rw [hspace] at hv
  simp only [rdTarget, hspace, hv, Nat.not_lt.mpr hfit, if_false, hread]

theorem rdTarget_control (obs : List WordObs) {w : State} {bs : List Byte} (hspace : addrSpace k.addr = 3)
    (hplace : u.debugAt k.src (addrOffset k.addr) = none) (hread : controlRead k.src (addrOffset k.addr) k.bytes u = (0, bs, w)) :
    rdTarget k obs u = respond (u.destOf k.src k.addr).1 (u.destOf k.src k.addr).2 k 0x21 0 bs
      (List.replicate (unitsOf k.addr bs.length).length false) w := by
  simp only [rdTarget, hspace, memFlips_none obs (show 3 ≠ 1 by decide) (show 3 ≠ 2 by decide), hplace, hread, if_true]

/-! ### Writes -/

/-- A write that brine does not hold admitted, and no group awaits, arrives at its own device. -/
theorem exec_wr (later : Bool) (hpow : s.powered = true) (hsized : k.op = 0x02 ∧ k.data.length = k.bytes) (hvalid : packetValid k = true)
    (harrive : arrive k s = some u) (hown : s.isOwn k.addr = true) (hnew : s.writingOf k = none) (hgroup : s.groupHeld k = false) :
    exec (.wr ⟨k, later⟩) s = .next (if later then wrLater k u else wrTarget k u) := by
  refine eq_next (op_ok hsized.1 hsized.2) hpow ?_
  simp only [hnew, hown, hgroup, Bool.not_false, Bool.and_self, if_true]
  cases later <;> exact atTarget_arrived _ hvalid harrive

/-- Outside brine no write is admitted to be performed later. -/
theorem wrLater_other (h : addrSpace k.addr ≠ 1) : wrLater k u = wrTarget k u := by
  unfold wrLater
  split
  · next h1 _ => exact absurd h1 h
  · rfl

theorem wr_either (later : Bool) (h : addrSpace k.addr ≠ 1) : (if later then wrLater k u else wrTarget k u) = wrTarget k u := by
  rw [wrLater_other h, ite_self]

/-- No group awaits a write to brine, the cellar or control space. -/
theorem groupHeld_other (h : addrSpace k.addr ≠ 0) : s.groupHeld k = false := by
  simp [State.groupHeld, h]

/-- A byte of a pan store has the direct form. -/
theorem panByte_direct {off n p b : Nat} (h : u.panByte off n = some (p, b)) : ∃ l c, panForm off = .direct l c := by
  unfold State.panByte at h
  split at h
  · next l c hform => exact ⟨l, c, hform⟩
  · cases h

/-- No group awaits a write to a pan store. -/
theorem groupHeld_direct {p b : Nat} (h : u.panByte (addrOffset k.addr) k.bytes = some (p, b)) : s.groupHeld k = false := by
  obtain ⟨l, c, hform⟩ := panByte_direct h
  simp only [State.groupHeld, State.groupOf, hform, Bool.and_false]

theorem wrTarget_store {p b : Nat} (hspace : addrSpace k.addr = 0) (hplace : u.panByte (addrOffset k.addr) k.bytes = some (p, b)) :
    wrTarget k u = panStoreWrite p b k u := by
  obtain ⟨l, c, hform⟩ := panByte_direct hplace
  simp only [wrTarget, hspace, hform, hplace]

theorem wrTarget_brine {w : State} {ps : Pieces} {c : Nat} (hspace : addrSpace k.addr = 1)
    (hps : u.brinePieces k.src (addrOffset k.addr) k.bytes = .ok ps) (hwrite : brineWrite k.addr 0 k.data k.marks ps u = (c, w)) :
    wrTarget k u = respond (u.destOf k.src k.addr).1 (u.destOf k.src k.addr).2 k 0x22 c [] [] w := by
  simp only [wrTarget, hspace, hps, hwrite]

theorem wrLater_brine {ps : Pieces} (hspace : addrSpace k.addr = 1)
    (hps : u.brinePieces k.src (addrOffset k.addr) k.bytes = .ok ps) : wrLater k u = brineAdmitted k ps u := by
  simp only [wrLater, hspace, hps]

theorem wrTarget_cellar (hspace : addrSpace k.addr = 2) (hfit : addrOffset k.addr + max 1 k.bytes ≤ u.cellarUsable) :
    wrTarget k u = respond (u.destOf k.src k.addr).1 (u.destOf k.src k.addr).2 k 0x22 0 [] []
      (cellarWrite (addrOffset k.addr) k.data k.marks u) := by
  simp only [wrTarget, hspace, Nat.not_lt.mpr hfit, if_false]

theorem wrTarget_control (hspace : addrSpace k.addr = 3) (hplace : u.debugAt k.src (addrOffset k.addr) = none) :
    wrTarget k u = respond (u.destOf k.src k.addr).1 (u.destOf k.src k.addr).2 k 0x22 (controlWrite k.src (addrOffset k.addr) k.data u).1
      [] [] (controlWrite k.src (addrOffset k.addr) k.data u).2 := by
  simp only [wrTarget, hspace, hplace]

end

/-- Settles O30: each access by its space. -/
theorem requestsPerformed : Obligations.RequestsPerformed := by
  intro s k obs hpow
  dsimp only
  refine ⟨fun u harrive hvalid hown => ?_, fun w later hsized hwriting => ?_, fun hop hown hvalid => ?_, fun hop hown => ?_,
    fun later hsized hnew hown => ?_⟩
  · have hrd (hop : k.op = 0x01) := exec_rd obs hpow hvalid harrive hop hown
    have hwr (later : Bool) := fun hsized hnew hgroup => exec_wr later hpow hsized hvalid harrive hown hnew hgroup
    refine ⟨fun p b hop hspace hplace hmode => ?_, fun ps bs ms w hop hspace hps hread => ?_, fun bs ms w hop hspace hfit hread => ?_,
      fun bs w hop hspace hplace hread => ?_, fun p b later hsized hnew hspace hplace hadmit h0 => ?_,
      fun p b c later hsized hnew hspace hplace hadmit => ?_, fun ps c w hsized hnew hspace hps hwrite => ?_,
      fun ps hsized hnew hspace hps => ?_, fun later hsized hnew hspace hfit => ?_, fun later hsized hnew hspace hplace => ?_⟩
    · rw [hrd hop, rdTarget_store obs hspace hplace, panStoreRead_admitted hmode]
    · rw [hrd hop, rdTarget_brine hspace rfl hps hread]
    · rw [hrd hop, rdTarget_cellar hspace rfl hfit hread]
    · rw [hrd hop, rdTarget_control obs hspace hplace hread]
    · rw [hwr later hsized hnew (groupHeld_direct hplace), wr_either later (by rw [hspace]; decide), wrTarget_store hspace hplace,
        panStoreWrite,
        hadmit]
      exact congrArg _ (if_neg (Nat.ne_of_gt h0))
    · rw [hwr later hsized hnew (groupHeld_direct hplace), wr_either later (by rw [hspace]; decide), wrTarget_store hspace hplace,
        panStoreWrite,
        hadmit]
    · rw [hwr false hsized hnew (groupHeld_other (by rw [hspace]; decide)), if_neg Bool.false_ne_true, wrTarget_brine hspace hps hwrite]
    · rw [hwr true hsized hnew (groupHeld_other (by rw [hspace]; decide)), if_pos rfl, wrLater_brine hspace hps]
    · rw [hwr later hsized hnew (groupHeld_other (by rw [hspace]; decide)), wr_either later (by rw [hspace]; decide), wrTarget_cellar
        hspace hfit]
    · rw [hwr later hsized hnew (groupHeld_other (by rw [hspace]; decide)), wr_either later (by rw [hspace]; decide),
        wrTarget_control hspace hplace]
  · exact eq_next (op_ok hsized.1 hsized.2) hpow (by simp only [hwriting])
  · refine eq_next (beq_iff_eq.mpr hop) hpow ((own_target _ hown).trans ?_)
    unfold atTarget
    rw [hvalid]
    rfl
  · exact eq_next (beq_iff_eq.mpr hop) hpow (if_neg (hown ▸ Bool.false_ne_true))
  · refine eq_next (op_ok hsized.1 hsized.2) hpow ?_
    simp only [hnew, hown, Bool.false_and, Bool.false_eq_true, if_false]

end Sys2Proof.Machine
end

section
/-! PROOF. START of a channel that is not at rest leaves the channel itself alone, but lets every channel with an end in host memory go on
(R422), so that its state need not stay as it is. -/

namespace Sys2Proof.Machine
open Sys2Proof

/-- Channel 0 of the control complex runs from host memory and has a read to issue. -/
def hostReader : State := { cc := [(0, { mode := .running, ctrl := 2 ^ 24, dst := 2 ^ 49, count := 64 })] }

theorem exec_start_hostReader : exec (.start (.cc 0)) hostReader = .next (haulAfter (haulStart (.cc 0) hostReader)) := eq_next rfl rfl rfl

/-- START lets it issue the read. -/
theorem haulStart_hostReader_readPos : ((haulAfter (haulStart (.cc 0) hostReader)).haul (.cc 0)).readPos = 64 := by decide +kernel

/-- Refutes O27: START of the running channel of `hostReader` does not leave the device as it is. -/
theorem not_haulStartsAndStops : ¬ Obligations.HaulStartsAndStops := by
  intro h
  obtain ⟨-, -, -, hignored, -⟩ := h hostReader (.cc 0) rfl rfl rfl
  have hsame := Host.Outcome.next.inj (exec_start_hostReader.symm.trans (hignored (.inl rfl)))
  exact absurd (haulStart_hostReader_readPos.symm.trans (congrArg (fun t => (t.haul (.cc 0)).readPos) hsame)) (by decide)

end Sys2Proof.Machine
end

section
/-! PROOF. What a Finron port sends, replays and judges (R262 to R264, R266 to R269, R273, R277, R289, R311). -/

namespace Sys2Proof.Machine
open Sys2Proof

/-! ### Two changes of a port -/

theorem modPort_modPort (s : State) (n : Nat) (f g : Port → Port) : (s.modPort n f).modPort n g = s.modPort n fun x => g (f x) := by
  have hupd : upd {} n g (upd {} n f s.fin.ports) = upd {} n (fun x => g (f x)) s.fin.ports := by
    simp only [upd, look_put_same, put_put]
  exact congrArg (fun m => { s with fin := { s.fin with ports := m } }) hupd

/-! ### Packets handed to a port -/

/-- The header of a packet that leaves whole, on a route. -/
def plainHeader (s : State) (k : Packet) (q dirs : Nat) (det exp : Bool) : FinHeader :=
  let op := if k.op = 0x04 ∨ k.op = 0x05 then 0x02 else k.op
  let units := ((k.data.take (Packet.carried k)).length + 63) / 64
  { op := op, vc := (finChannel op).getD k.vc
    addr := if 0x20 ≤ k.op then mkAddr (Packet.finDest k) (addrSpace k.addr) (addrOffset k.addr) else k.addr
    src := k.src, tag := k.tag, bytes := k.bytes, cls := if !exp && s.crossesWrap (portRole q) then 1 else 0, detour := det, exp := exp
    xform := false, status := k.status, punits := units, pmark := plainMarks k units, dirs := dirs }

theorem sendOut_plain {s : State} {k : Packet} {q dirs : Nat} {det exp : Bool}
    (hroute : s.egress k.src (Packet.finDest k) = some (q, dirs, det, exp)) (hplain : s.requantises k = false) :
    sendOut k s = handOut q (plainHeader s k q dirs det exp) (k.data.take (Packet.carried k)) none
      (portTraffic q (s.trafficJobs k.src k.addr) s) := by
  simp only [sendOut, hroute, hplain, Bool.false_eq_true, if_false]
  rfl

/-- A write's data go on the bulk channel. -/
theorem plainHeader_bulk (s : State) (k : Packet) (q dirs : Nat) (det exp : Bool)
    (h : k.op = 0x02 ∨ k.op = 0x04 ∨ k.op = 0x05 ∨ k.op = 0x06) : (plainHeader s k q dirs det exp).vc = 3 := by
  rcases h with h | h | h | h <;> simp only [plainHeader, h] <;> rfl

theorem sendOut_nowhere {s : State} {k : Packet} (hroute : s.egress k.src (Packet.finDest k) = none) (hop : k.op = 0x02) (hvc : k.vc =
    1) :
    sendOut k s = respond k.sgx k.sgy k 0x22 0x02 [] [] s := by
  simp only [sendOut, hroute, hop, hvc]
  rfl

/-- A packet for another device that has come to its attachment router. -/
theorem exec_packetTransmit {s u : State} {k : Packet} (hpow : s.powered = true) (hother : Packet.finDest k ≠ s.deviceId)
    (hany : Packet.finDest k ≠ 8191) (hbulk : k ∉ s.net.bulk) (hvalid : packetValid k = true) (harrive : arrive k s = some u) :
    exec (.packetTransmit k) s = .next (sendOut k u) := by
  refine eq_next rfl hpow ((if_neg (by simp [hother, hany])).trans ((if_neg ?_).trans (atTarget_arrived _ hvalid harrive)))
  simpa using hbulk

/-- One of the collective unit's for the bulk channel. -/
theorem exec_packetTransmit_bulk {s : State} {k : Packet} (hpow : s.powered = true) (hother : Packet.finDest k ≠ s.deviceId)
    (hany : Packet.finDest k ≠ 8191) (hbulk : k ∈ s.net.bulk) :
    exec (.packetTransmit k) s = .next (sendOut k { s with net := { s.net with bulk := s.net.bulk.erase k } }) :=
  eq_next rfl hpow ((if_neg (by simp [hother, hany])).trans (if_pos (by simpa using hbulk)))

/-! ### Replay and credits -/

/-- A port whose replay buffer has gone out again at a time. -/
def Port.resent (now : Nat) (p : Port) : Port := { p with replay := p.replay.map fun e => (e.1, e.2.1, e.2.2.1, now) }

/-- A port with events counted. -/
def Port.counted (c k : Nat) (p : Port) : Port := { p with ctr := bump p.ctr c k }

/-- The device once a port has sent its replay buffer again. -/
def State.sentAgain (s : State) (n : Nat) : State :=
  { s with fin := { s.fin with sent := s.fin.sent ++ (s.port n).replay.map fun r => (n, freshHeader (s.port n) r.2.1, r.2.2.1) } }

/-- A resend of what is in the replay buffer: the units that go out, and the one port changed. -/
theorem resend_eq {s : State} {n : Nat} (timer : Bool) (h : (s.port n).replay ≠ []) :
    resend n timer s = (s.sentAgain n).modPort n fun p => ((p.resent s.now).counted 0x01C 1).counted 0x020 (if timer then 1 else 0) := by
  have hgo : resend n timer s =
      (((s.sentAgain n).modPort n (Port.resent s.now)).modPort n (Port.counted 0x01C 1)).modPort n
        (Port.counted 0x020 (if timer then 1 else 0)) := if_neg (by simpa using h)
  rw [hgo, modPort_modPort, modPort_modPort]

/-- A link-control header: it goes out with the freed slots of its channel, which are then reported. -/
theorem sendControl_eq (s : State) (n op vc addr : Nat) :
    sendControl n op vc addr s = ({ s with fin := { s.fin with control := s.fin.control ++
        [(n, sealHeader { op := op, addr := addr, ack := (s.port n).lastGood, crvc := vc, crcnt := look 0 (s.port n).freed vc })]
          } } : State).modPort
      n fun p => { p with unreported := put vc 0 p.unreported } := rfl

/-! ### Lanes -/

/-- A port whose logical lane i has moved to a spare lane, from a codeword. -/
def Port.swapped (i spare lane cw : Nat) (p : Port) : Port :=
  { p with laneMap := setAt p.laneMap i spare, mapFrom := cw, usable := giveUp p.usable [lane], spareUsed := p.spareUsed || true
           state := if true && p.state == 2 then 2 else 3 }

/-- The device once it has reported a lane's swap and sent the new map. -/
def State.swapTold (s : State) (n i spare lane cw : Nat) : State :=
  { s with
    draws := s.draws + 1
    fin := { s.fin with control := s.fin.control ++ [(n, sealHeader
      { op := 0x3F, addr := mapWord (setAt (s.port n).laneMap i spare) * 2 ^ 32 + cw, ack := (s.port n).lastGood, crvc := 0
        crcnt := look 0 (s.port n).freed 0 })] }
    faults := { s.faults with reports := s.faults.reports ++ [{
      type := 0x05, cls := 1, code := 1, unitCls := 0xA, unitIdx := n * 16 + lane
      detail := ((setAt (s.port n).laneMap i spare).filter fun l => decide (l < 9)).length, tide := s.clock.tide, epoch := s.boot.epoch
        }] } }

/-- A port that has reported the freed slots of a channel. -/
def Port.told (vc : Nat) (p : Port) : Port := { p with unreported := put vc 0 p.unreported }

theorem port_laneEvent (s : State) (n lane : Nat) : (laneEvent n lane false s).port n = (s.port n).counted 0x02C 1 :=
  port_modPort_same s n (Port.counted 0x02C 1)

/-- The swap's record, count and link-control header, as one change of the port. -/
theorem swap_told (s : State) (n i spare lane cw : Nat) :
    sendControl n 0x3F 0 (mapWord (setAt (s.port n).laneMap i spare) * 2 ^ 32 + cw)
      (laneEvent n lane false (({ s with draws := s.draws + 1 } : State).modPort n (Port.swapped i spare lane cw))) =
    (s.swapTold n i spare lane cw).modPort n fun p => ((p.swapped i spare lane cw).counted 0x02C 1).told 0 := by
  have hsplit : sendControl n 0x3F 0 (mapWord (setAt (s.port n).laneMap i spare) * 2 ^ 32 + cw)
      (laneEvent n lane false (({ s with draws := s.draws + 1 } : State).modPort n (Port.swapped i spare lane cw))) =
      (((s.swapTold n i spare lane cw).modPort n (Port.swapped i spare lane cw)).modPort n (Port.counted 0x02C 1)).modPort n
        (Port.told 0) := by
    have hport := port_modPort_same ({ s with draws := s.draws + 1 } : State) n (Port.swapped i spare lane cw)
    have hevent := port_laneEvent (({ s with draws := s.draws + 1 } : State).modPort n (Port.swapped i spare lane cw)) n lane
    rw [hport] at hevent
    have hack := congrArg Port.lastGood hevent
    have hfreed := congrArg (fun p : Port => look 0 p.freed 0) hevent
    have hlanes := congrArg activeLanes hport
    rw [sendControl_eq, hack, hfreed, laneEvent, hlanes]
    rfl
  rw [hsplit, modPort_modPort, modPort_modPort]

/-- A degraded or lost lane whose number moves to the spare. -/
theorem laneJudge_swap {s : State} {n lane i spare : Nat} {lost : Bool} (hup : s.portUp n = true)
    (hbad : lost = true ∨ laneDegraded (s.port n) lane s.now = true) (hi : ((s.port n).laneMap.findIdx? fun l => l == lane) = some i)
    (hspare : ((List.range 9).find? fun l => bit (s.port n).usable l && !(s.port n).laneMap.contains l && l != lane) = some spare)
    (hkeep : 4 ≤ ((setAt (s.port n).laneMap i spare).filter fun l => decide (l < 9)).length) :
    let cw := Config.freeValue s.draws % 2 ^ 32
    laneJudge n lane lost s = (s.swapTold n i spare lane cw).modPort n fun p => ((p.swapped i spare lane cw).counted 0x02C 1).told 0 := by
  intro cw
  have hgo : ¬ (!s.portUp n || !(lost || laneDegraded (s.port n) lane s.now)) = true := by
    rcases hbad with h | h <;> simp [hup, h]
  have hmap := congrArg activeLanes (port_modPort_same (s.swapTold n i spare lane cw) n fun p =>
    ((p.swapped i spare lane cw).counted 0x02C 1).told 0)
  refine (if_neg hgo).trans ?_
  rw [hi]
  dsimp only
  rw [hspare]
  have htold := swap_told s n i spare lane cw
  refine (if_neg ?_).trans htold
  have hlanes := congrArg (fun t => activeLanes (t.port n)) htold
  exact Nat.not_lt.mpr (hlanes.trans hmap ▸ hkeep)

/-- Settles O36. -/
theorem linkSends : Obligations.LinkSends := by
  intro s n hn hpow
  dsimp only
  refine ⟨fun k u hother hany hvalid hbulk harrive => ⟨fun q dirs det exp hroute hplain => ?_, fun hroute hop hvc => ?_⟩,
    fun k hother hany hbulk => exec_packetTransmit_bulk hpow hother hany hbulk, fun e rest hreplay hat => ?_, fun e rest hreplay hat =>
      ?_,
    fun vc hvc hsome => ?_, fun vc hvc hnone => ?_, fun lane lost i spare hlane hup hbad hi hspare hkeep => ?_, fun lane hlane hgood =>
      ?_⟩
  · refine ⟨plainHeader u k q dirs det exp, ?_, rfl, rfl, rfl, rfl, plainHeader_bulk u k q dirs det exp, rfl, rfl, rfl, rfl, rfl, rfl,
      fun hreq => if_neg (Nat.not_le.mpr hreq)⟩
    rw [exec_packetTransmit hpow hother hany hbulk hvalid harrive, sendOut_plain hroute hplain]
  · rw [exec_packetTransmit hpow hother hany hbulk hvalid harrive, sendOut_nowhere hroute hop hvc]
  · have hres : exec (.linkReplayTimer n) s = .next (resend n true s) := by
      refine eq_next (decide_eq_true hn) hpow ?_
      dsimp only
      rw [hreplay]
      exact if_pos hat
    have hport := onlyPort_modPort (s.sentAgain n) n fun p => ((p.resent s.now).counted 0x01C 1).counted 0x020 1
    refine ⟨_, hres, ?_⟩
    rw [resend_eq true (by rw [hreplay]; nofun), ← hreplay]
    exact ⟨rfl, rfl, hport.2.1, hport.2.2⟩
  · refine eq_next (decide_eq_true hn) hpow ?_
    dsimp only
    rw [hreplay]
    exact if_neg (Nat.not_le.mpr hat)
  · have hport := onlyPort_modPort ({ s with fin := { s.fin with control := s.fin.control ++
      [(n, sealHeader { op := 0x3D, addr := 0, ack := (s.port n).lastGood, crvc := vc, crcnt := look 0 (s.port n).freed vc })]
        } } : State) n
      fun p => { p with unreported := put vc 0 p.unreported }
    exact ⟨_, eq_next (by simp [hn, hvc]) hpow (if_neg hsome), rfl, rfl, hport.2.1, hport.2.2⟩
  · exact eq_next (by simp [hn, hvc]) hpow (if_pos hnone)
  · have hport := onlyPort_modPort (s.swapTold n i spare lane (Config.freeValue s.draws % 2 ^ 32)) n fun p =>
      ((p.swapped i spare lane (Config.freeValue s.draws % 2 ^ 32)).counted 0x02C 1).told 0
    have hstate : (if true && (s.port n).state == 2 then 2 else 3) = (s.port n).state := by
      rcases hup with h | h <;> rw [h] <;> rfl
    refine ⟨_, eq_next (by simp [hn, hlane]) hpow (laneJudge_swap (by simpa [State.portUp] using hup) hbad hi hspare hkeep), ?_, rfl,
      hport.2.2,
      rfl, rfl⟩
    have hswapped : (s.port n).swapped i spare lane (Config.freeValue s.draws % 2 ^ 32) = { s.port n with
        laneMap := setAt (s.port n).laneMap i spare, mapFrom := Config.freeValue s.draws % 2 ^ 32, spareUsed := true
        usable := giveUp (s.port n).usable [lane] } := by
      rw [Port.swapped, hstate, Bool.or_true]
    refine hport.2.1.trans ?_
    rw [show (s.swapTold n i spare lane (Config.freeValue s.draws % 2 ^ 32)).port n = s.port n from rfl, hswapped]
    rfl
  · refine eq_next (by simp [hn, hlane]) hpow (if_pos ?_)
    rw [show laneDegraded (s.port n) lane s.now = false from hgood]
    simp

end Sys2Proof.Machine
end

section
/-! PROOF. What a Finron port receives (R261, R262, R264 to R269, R276, R279). -/

namespace Sys2Proof.Machine
open Sys2Proof

/-! ### Headers, on a port that carries traffic -/

section
variable {s : State} {n : Nat} {h : FinHeader} {f : Fec}

theorem fecCounts_later (hfirst : f.first = false) : fecCounts n f s = s := if_pos (by rw [hfirst]; rfl)

/-- The device once a header's acknowledgement and credits have been taken. -/
def State.heard (s : State) (n : Nat) (h : FinHeader) : State := ackFrom n h.ack (creditFrom n h.crvc h.crcnt s)

theorem isControl_of_le (h0 : 0x3D ≤ h.op) : isControl h = true := decide_eq_true h0

theorem isControl_of_lt (h0 : h.op < 0x3D) : isControl h = false := decide_eq_false (Nat.not_le.mpr h0)

/-- A header whose codeword or CRC fails. -/
theorem headerReceive_failed (hup : s.portUp n = true) (hfirst : f.first = false) (hbad : f.uncorrectable = true ∨ h.crc ≠ headerCrc h) :
    headerReceive n h f s = nakFrom n ((if isControl h then s else expectUnits n h true s).bumpPort n portHdrFail 1) := by
  have hfail : (f.uncorrectable || h.crc != headerCrc h) = true := by
    rcases hbad with hb | hb <;> simp [hb]
  simp only [headerReceive, hup, fecCounts_later hfirst, hfail, Bool.not_true, Bool.false_eq_true, if_false, if_true]

/-- A header whose codeword and CRC hold. -/
theorem headerReceive_good (hup : s.portUp n = true) (hfirst : f.first = false) (hfec : f.uncorrectable = false)
    (hcrc : h.crc = headerCrc h) :
    headerReceive n h f s =
      if isControl h && headerBad h then linkDiscard n s
      else if h.op = 0x3E then resend n false (s.heard n h)
      else if h.op = 0x3F then linkLane n (h.addr / 2 ^ 32) (h.addr % 2 ^ 32) (flushPort n (s.heard n h))
      else if isControl h then flushPort n (s.heard n h)
      else if (h.seq + 4096 - (s.port n).rxSeq) % 4096 ≠ 0 then
        (if 2048 ≤ (h.seq + 4096 - (s.port n).rxSeq) % 4096 then expectUnits n h true (s.heard n h)
         else if (s.port n).nak then expectUnits n h true (s.heard n h) else nakFrom n (expectUnits n h true (s.heard n h)))
      else
        let t := flushPort n ((s.heard n h).modPort n fun p => { p with rxSeq := (p.rxSeq + 1) % 4096, nak := false })
        if headerBad h then freedHere n h.vc (slotsNeeded h) (expectUnits n h true (linkDiscard n t))
        else if h.punits = 0 then packetIn n h [] [] t
        else expectUnits n h false t := by
  have hpass : (f.uncorrectable || h.crc != headerCrc h) = false := by simp [hfec, hcrc]
  simp only [headerReceive, hup, fecCounts_later hfirst, hpass, Bool.not_true, Bool.false_eq_true, if_false, State.heard]

/-- A data header whose codeword and CRC hold. -/
theorem headerReceive_data (hup : s.portUp n = true) (hfirst : f.first = false) (hfec : f.uncorrectable = false)
    (hcrc : h.crc = headerCrc h) (hop : h.op < 0x3D) :
    headerReceive n h f s =
      if (h.seq + 4096 - (s.port n).rxSeq) % 4096 ≠ 0 then
        (if 2048 ≤ (h.seq + 4096 - (s.port n).rxSeq) % 4096 then expectUnits n h true (s.heard n h)
         else if (s.port n).nak then expectUnits n h true (s.heard n h) else nakFrom n (expectUnits n h true (s.heard n h)))
      else
        let t := flushPort n ((s.heard n h).modPort n fun p => { p with rxSeq := (p.rxSeq + 1) % 4096, nak := false })
        if headerBad h then freedHere n h.vc (slotsNeeded h) (expectUnits n h true (linkDiscard n t))
        else if h.punits = 0 then packetIn n h [] [] t
        else expectUnits n h false t := by
  rw [headerReceive_good hup hfirst hfec hcrc, isControl_of_lt hop, Bool.false_and, if_neg Bool.false_ne_true, if_neg (by omega),
    if_neg (by omega), if_neg Bool.false_ne_true]

/-- The command of a header unit. -/
theorem exec_header (hn : n < 16) (hpow : s.powered = true) (hlane : f.lane < 9) :
    exec (.headerUnitReceive n h f) s = .next (headerReceive n h f s) := eq_next (by simp [hn, hlane]) hpow rfl

/-! ### Payload units -/

theorem exec_payload {bs : List Byte} (hn : n < 16) (hpow : s.powered = true) (hlane : f.lane < 9) (hlen : bs.length = 64) :
    exec (.payloadUnitReceive n f bs) s = .next (payloadReceive n f bs s) := eq_next (by simp [hn, hlane, hlen]) hpow rfl

/-- The unit of a packet that the port keeps. -/
theorem payloadReceive_kept {ds bs : List Byte} {ms : List Bool} {rest : List (FinHeader × List Byte × List Bool × Bool)}
    (hup : s.portUp n = true) (hfirst : f.first = false) (harr : (s.port n).arriving = (h, ds, ms, false) :: rest) :
    payloadReceive n f bs s =
      let t := s.bumpPort n portMark (if f.uncorrectable then 1 else 0)
      let ms' := ms ++ [f.uncorrectable || bit h.pmark ms.length]
      if h.punits ≤ ms.length + 1 then packetIn n h (ds ++ bs) ms' (t.modPort n fun p => { p with arriving := rest })
      else t.modPort n fun p => { p with arriving := (h, ds ++ bs, ms', false) :: rest } := by
  simp only [payloadReceive, hup, fecCounts_later hfirst, harr, Bool.not_true, Bool.false_eq_true, if_false, List.length_append,
    List.length_cons, List.length_nil]

/-- The last unit of a packet that the port discards. -/
theorem payloadReceive_discarded {ds bs : List Byte} {ms : List Bool} {rest : List (FinHeader × List Byte × List Bool × Bool)}
    (hup : s.portUp n = true) (hfirst : f.first = false) (harr : (s.port n).arriving = (h, ds, ms, true) :: rest)
    (hlast : h.punits ≤ ms.length + 1) : payloadReceive n f bs s = s.modPort n fun p => { p with arriving := rest } := by
  simp only [payloadReceive, hup, fecCounts_later hfirst, harr, hlast, Bool.not_true, Bool.false_eq_true, if_false, if_true]

/-- No mark counted. -/
theorem bumpPort_zero (s : State) (n c : Nat) (g : Port → Port) : (s.bumpPort n c 0).modPort n g = s.modPort n g :=
  modPort_modPort s n (fun p => { p with ctr := bump p.ctr c 0 }) g

end

/-! ### Lane maps -/

/-- Lanes' swaps or drops, reported one by one. -/
theorem laneEvents_leave (n : Nat) (lane : Nat → Nat) (dropped : Nat → Bool) (l : List Nat) (s : State) :
    let t := foldState l (fun u i => laneEvent n (lane i) (dropped i) u) s
    t = { s with fin := { s.fin with ports := t.fin.ports }, faults := t.faults } ∧ t.port n = { s.port n with ctr := (t.port n).ctr } ∧
    (look 0 (s.port n).ctr 0x02C ≤ 0xFFFFFFFF →
      look 0 (t.port n).ctr 0x02C = min 0xFFFFFFFF (look 0 (s.port n).ctr 0x02C + l.length)) ∧
    t.faults.reports.length = s.faults.reports.length + l.length ∧ ∀ k, k ≠ n → t.port k = s.port k := by
  induction l generalizing s with
  | nil => exact ⟨rfl, rfl, fun hctr => by simp [foldState_nil, hctr], rfl, fun _ _ => rfl⟩
  | cons i l ih =>
    have hport := onlyPort_modPort s n (Port.counted portSwap 1)
    have hone : (laneEvent n (lane i) (dropped i) s).port n = (s.port n).counted portSwap 1 := hport.2.1
    have hcount : look 0 ((s.port n).counted portSwap 1).ctr 0x02C = min 0xFFFFFFFF (look 0 (s.port n).ctr 0x02C + 1) :=
      look_put_same ..
    obtain ⟨hall, hsame, hlook, hlen, hother⟩ := ih (laneEvent n (lane i) (dropped i) s)
    rw [hone] at hsame hlook
    rw [hcount] at hlook
    refine ⟨hall.trans rfl, hsame, fun _ => (hlook (Nat.min_le_left ..)).trans ?_, hlen.trans ?_, fun k hk => (hother k hk).trans
      (hport.2.2 k hk)⟩
    · rw [List.length_cons]
      omega
    · rw [show (laneEvent n (lane i) (dropped i) s).faults.reports.length = s.faults.reports.length + 1 by
        simp [laneEvent, report, State.modFaults, State.bumpPort, State.modPort], List.length_cons]
      omega

/-- The states of the ports are as they were. -/
def State.portStates (s t : State) : Prop := ∀ k, (t.port k).state = (s.port k).state

namespace State.portStates
variable {s t : State}

theorem refl (s : State) : s.portStates s := fun _ => rfl

theorem modPort {n : Nat} {f : Port → Port} (h : s.portStates t) (hf : ∀ p, (f p).state = p.state) : s.portStates (t.modPort n f) := by
  intro k
  by_cases hk : k = n
  · rw [hk, port_modPort_same, hf, h]
  · rw [port_modPort_other _ hk, h]

theorem freedHere (n vc k : Nat) (h : s.portStates t) : s.portStates (Machine.freedHere n vc k t) := h.modPort fun _ => rfl

theorem poolFree (o : Option (Nat × Nat)) (k : Nat) (h : s.portStates t) : s.portStates (Machine.poolFree o k t) := by
  cases o with
  | none => exact h
  | some e =>
    exact freedHere _ _ _ (show s.portStates (t.modPort e.1 fun p => { p with pool := upd 0 e.2 (· - k) p.pool }) from
      h.modPort fun _ => rfl)

theorem transmit (n : Nat) (e : FinHeader) (bs : List Byte) (h : s.portStates t) : s.portStates (Machine.transmit n e bs t) :=
  h.modPort (n := n) (f := fun p =>
    { p with txSeq := (p.txSeq + 1) % 4096, replay := p.replay ++ [(p.txSeq, _, _, t.now)]
             used := upd 0 (classKey e) (fun u => u + slotsNeeded e) p.used, unreported := put e.vc 0 p.unreported
             slotsSent := p.slotsSent + slotsNeeded e, grants := put e.vc (p.slotsSent + slotsNeeded e) p.grants }) fun _ => rfl

theorem flushSome (f n : Nat) (h : s.portStates t) : s.portStates (Machine.flushSome f n t) := by
  induction f generalizing t with
  | zero => exact h
  | succ f ih =>
    rw [Machine.flushSome]
    split
    · exact h
    · exact ih (poolFree _ _ (transmit _ _ _ (show s.portStates { t with fin := { t.fin with held := _ } } from h)))

theorem flushPort (n : Nat) (h : s.portStates t) : s.portStates (Machine.flushPort n t) := (h.flushSome _ n).modPort fun _ => rfl

theorem markSegment (r : Nat) (h : s.portStates t) : s.portStates (Machine.markSegment r t) := by
  unfold Machine.markSegment
  split
  · exact h
  · exact h

theorem foldState {α : Type} {f : State → α → State} (hf : ∀ u a, s.portStates u → s.portStates (f u a)) (l : List α)
    (h : s.portStates t) : s.portStates (Machine.foldState l f t) := by
  induction l generalizing t with
  | nil => exact h
  | cons a l ih => exact ih (hf t a h)

end State.portStates

/-- A port that has lost its packets and its link. -/
def Port.lost (p : Port) : Port :=
  { p with state := 4, replay := [], arriving := [], nak := false, used := [], unreported := [], pool := [], corr := [], uncorr := [] }

/-- A port that goes down is down. -/
theorem portDown_state {s : State} {n : Nat} (h : (s.port n).state ≠ 4) : ((portDown n s).port n).state = 4 := by
  have hdown : ((s.modPort n Port.lost).port n).state = 4 := congrArg Port.state (port_modPort_same s n Port.lost)
  have hstates : (s.modPort n Port.lost).portStates (portDown n s) := by
    unfold portDown
    rw [if_neg h]
    refine State.portStates.flushPort _ ?_
    have hfreed (l : List (Nat × FinHeader × List Byte × Option (Nat × Nat))) (t : State) (ht : (s.modPort n Port.lost).portStates t) :
        (s.modPort n Port.lost).portStates (foldState l (fun t e => poolFree e.2.2.2 (slotsNeeded e.2.1) t) t) :=
      .foldState (fun _ _ hu => .poolFree _ _ hu) l ht
    have hmarked (c : Bool) (t : State) (ht : (s.modPort n Port.lost).portStates t) :
        (s.modPort n Port.lost).portStates (if c then markSegment (portRole n) t else t) := by
      split
      · exact .markSegment _ ht
      · exact ht
    exact hmarked _ _ (hfreed _ _ fun _ => rfl)
  exact (hstates n).trans hdown

/-- A lane map in force, on a port that carries traffic. -/
def Port.mapped (lanes : List Nat) (cw : Nat) (p : Port) : Port :=
  { p with laneMap := lanes, mapFrom := cw, spareUsed := lanes.contains 8
           usable := giveUp p.usable (p.laneMap.filter fun l => !lanes.contains l), state := if lanes.all fun l => decide (l < 9) then 2
             else 3 }

theorem mapOk_iff (map : Nat) : mapOk map = true ↔ ∀ l ∈ mapOf map, l < 9 ∨ l = 15 := by
  simp [mapOk]

/-- LINK_LANE with a sound map: the map, then an event for each logical lane that moves or goes. -/
theorem linkLane_sound {s : State} {n map : Nat} (cw : Nat) (hup : s.portUp n = true) (hok : mapOk map = true) :
    linkLane n map cw s =
      let p := s.port n
      let moved := (List.range 8).filter fun i => p.laneMap.getD i 15 != (mapOf map).getD i 15
      let t := foldState moved (fun t i => laneEvent n (p.laneMap.getD i 15) ((mapOf map).getD i 15 == 15) t)
        (s.modPort n (Port.mapped (mapOf map) cw))
      if activeLanes (t.port n) < 4 then portDown n t else t := by
  have hport : s.modPort n (Port.mapped (mapOf map) cw) = s.modPort n fun p =>
      { p with laneMap := mapOf map, mapFrom := cw, spareUsed := (mapOf map).contains 8
               usable := giveUp p.usable ((s.port n).laneMap.filter fun l => !(mapOf map).contains l)
               state := if (mapOf map).all fun l => decide (l < 9) then 2 else 3 } :=
    congrArg (fun p => { s with fin := { s.fin with ports := put n p s.fin.ports } }) rfl
  rw [hport]
  exact (if_neg (by rw [hup]; exact Bool.false_ne_true)).trans (if_neg (by rw [hok]; exact Bool.false_ne_true))

/-- Settles O35. -/
theorem linkReceives : Obligations.LinkReceives := by
  intro s n hn hpow
  dsimp only
  refine ⟨fun h f hup hlane hfirst hbad => ?_, fun h f hup hlane hfirst hfec hcrc hop => ?_, fun h f hup hlane hfirst hfec hcrc => ?_,
    fun h ds ms rest bs f hup hlane hfirst hlen => ?_, fun ack crvc crcnt hup hack hvc hcnt => ?_, fun ack hup hack => ?_,
    fun map cw hup hmap hcw => ?_, fun ack crvc crcnt hdown hack hvc hcnt => ?_, fun h f hdown hlane => ?_⟩
  · rw [exec_header hn hpow hlane, headerReceive_failed ((portUp_iff s n).mpr hup) hfirst hbad]
    by_cases hop : h.op < 0x3D
    · rw [isControl_of_lt hop, if_pos hop]
      rfl
    · rw [isControl_of_le (Nat.not_lt.mp hop), if_neg hop]
      rfl
  · rw [exec_header hn hpow hlane, headerReceive_data ((portUp_iff s n).mpr hup) hfirst hfec hcrc hop]
    refine ⟨fun hseq hgood h0 => ?_, fun hseq hgood h0 => ?_, fun hseq hbad => ?_, fun hseq => ?_, fun hlow hhigh => ?_⟩
    · rw [if_neg (not_not_intro hseq)]
      dsimp only
      rw [hgood, if_neg Bool.false_ne_true, if_pos h0]
      rfl
    · rw [if_neg (not_not_intro hseq)]
      dsimp only
      rw [hgood, if_neg Bool.false_ne_true, if_neg h0, expectUnits, if_neg h0]
      rfl
    · rw [if_neg (not_not_intro hseq)]
      dsimp only
      rw [hbad, if_pos rfl]
      rfl
    · rw [if_pos (by omega), if_pos hseq]
      rfl
    · rw [if_pos (by omega), if_neg (by omega)]
      rfl
  · rw [exec_header hn hpow hlane, headerReceive_good ((portUp_iff s n).mpr hup) hfirst hfec hcrc]
    refine ⟨fun hop hbad => ?_, fun hop hgood => ?_, fun hop hgood => ?_, fun hop hgood => ?_⟩
    · rw [isControl_of_le hop, hbad]
      rfl
    · rw [isControl_of_le (by omega), hgood, if_neg (by decide), if_neg (by omega), if_neg (by omega)]
      rfl
    · rw [isControl_of_le (by omega), hgood, if_neg (by decide), if_pos hop]
      rfl
    · rw [isControl_of_le (by omega), hgood, if_neg (by decide), if_neg (by omega), if_pos hop]
      rfl
  · rw [exec_payload hn hpow hlane hlen]
    refine ⟨fun harr hfec hmore => ?_, fun harr hlast => ?_, fun harr hlast => ?_⟩
    · rw [payloadReceive_kept ((portUp_iff s n).mpr hup) hfirst harr]
      dsimp only
      rw [if_neg (Nat.not_le.mpr hmore), hfec, Bool.false_or, if_neg Bool.false_ne_true, bumpPort_zero]
      exact ⟨_, rfl, onlyPort_modPort s n fun p => { p with arriving := (h, ds ++ bs, ms ++ [bit h.pmark ms.length], false) :: rest }⟩
    · rw [payloadReceive_kept ((portUp_iff s n).mpr hup) hfirst harr]
      dsimp only
      rw [if_pos hlast]
      rfl
    · rw [payloadReceive_discarded ((portUp_iff s n).mpr hup) hfirst harr hlast]
      exact ⟨_, rfl, onlyPort_modPort s n fun p => { p with arriving := rest }⟩
  · exact eq_next (by simp [hn, hack, hvc, hcnt]) hpow (if_pos ((portUp_iff s n).mpr hup))
  · exact eq_next (by simp [hn, hack]) hpow (if_pos ((portUp_iff s n).mpr hup))
  · have hup' := (portUp_iff s n).mpr hup
    have hok : (decide (n < 16) && decide (map < 2 ^ 32) && decide (cw < 2 ^ 32)) = true := by
      rw [decide_eq_true hn, decide_eq_true hmap, decide_eq_true hcw]
      rfl
    have hexec : exec (.linkLane n map cw) s = .next (linkLane n map cw s) := eq_next hok hpow rfl
    have hport := onlyPort_modPort s n (Port.mapped (mapOf map) cw)
    rw [hexec]
    generalize hu : s.modPort n (Port.mapped (mapOf map) cw) = u at hport
    obtain ⟨huall, husame, huother⟩ := hport
    have hactive {t : State} (ht : t.port n = { u.port n with ctr := (t.port n).ctr }) :
        activeLanes (t.port n) = ((mapOf map).filter fun l => decide (l < 9)).length := by
      rw [ht, husame]
      rfl
    have hevents := laneEvents_leave n (fun i => (s.port n).laneMap.getD i 15)
      (fun i => (mapOf map).getD i 15 == 15) ((List.range 8).filter fun i => (s.port n).laneMap.getD i 15 != (mapOf map).getD i 15) u
    have hlink (hsound : ∀ l ∈ mapOf map, l < 9 ∨ l = 15) := linkLane_sound cw hup' ((mapOk_iff map).mpr hsound)
    rw [hu] at hlink
    dsimp only at hevents hlink
    generalize foldState _ _ u = t at hevents hlink
    obtain ⟨hall, hsame, hlook, hlen, hother⟩ := hevents
    refine ⟨fun hsound hkeep hctr => ?_, fun hsound hfew => ?_, fun hbad => ?_⟩
    · rw [hlink hsound, if_neg (by rw [hactive hsame]; exact Nat.not_lt.mpr hkeep)]
      rw [husame] at hlook
      refine ⟨t, rfl, ?_, hlook hctr, ?_, fun k hk => (hother k hk).trans (huother k hk), ?_⟩
      · rw [hsame, husame, Port.mapped]
        have hstate : (if (mapOf map).all fun l => decide (l < 9) then 2 else 3) = if ∀ l ∈ mapOf map, l < 9 then 2 else 3 :=
          if_congr (by simp) rfl rfl
        rw [hstate]
      · rw [hlen, huall]
      · rw [hall, huall]
    · rw [hlink hsound, if_pos (by rw [hactive hsame]; exact hfew)]
      refine ⟨_, rfl, portDown_state ?_⟩
      rw [hsame, husame, Port.mapped]
      dsimp only
      split <;> decide
    · exact congrArg _ ((if_neg (by rw [hup']; exact Bool.false_ne_true)).trans (if_pos (by
        rw [Bool.not_eq_true', Bool.eq_false_iff]
        exact fun h => hbad ((mapOk_iff map).mp h))))
  · have hno : ¬ s.portUp n = true := fun h => hdown ((portUp_iff s n).mp h)
    exact ⟨eq_next (by simp [hn, hack, hvc, hcnt]) hpow (if_neg hno), eq_next (by simp [hn, hack]) hpow (if_neg hno)⟩
  · rw [exec_header hn hpow hlane]
    exact congrArg _ (if_pos (by rw [Bool.not_eq_true', Bool.eq_false_iff]; exact fun h => hdown ((portUp_iff s n).mp h)))

end Sys2Proof.Machine
end

section
/-! PROOF. Multicast and bus writes and their combined acknowledgement (R243 to R248, R287). -/

namespace Sys2Proof.Machine
open Sys2Proof

/-! ### A group write at its injecting router -/

theorem arrive_groups {s u : State} {k : Packet} (h : arrive k s = some u) : u.net.groups = s.net.groups := by
  unfold arrive at h
  split at h
  · cases h
    rfl
  · split at h
    · cases h
      rfl
    · cases h

/-- A packet's arrival leaves the group table. -/
theorem groupOf_arrived {s u : State} {k : Packet} (h : arrive k s = some u) (a : Nat) : u.groupOf a = s.groupOf a := by
  unfold State.groupOf
  rw [arrive_groups h]

section
variable {s u : State} {k : Packet}

theorem groupCause_control (h : addrSpace k.addr = 3) : s.groupCause k = some 0x0A := if_pos h

theorem groupCause_nowhere (h : addrSpace k.addr = 0) (hg : s.groupOf k.addr = none) : s.groupCause k = some 0x02 := by
  simp [State.groupCause, h, hg]

theorem groupCause_none {e : Group × Nat} (h : addrSpace k.addr = 0) (hg : s.groupOf k.addr = some e) : s.groupCause k = none := by
  simp [State.groupCause, h, hg]

/-- A group write refused at its router waits for nothing. -/
theorem mcHeld_refused {c : Nat} (h : s.groupCause k = some c) : s.mcHeld k = false := by
  simp [State.mcHeld, h]

theorem busHeld_refused {c : Nat} (h : s.groupCause k = some c) : s.busHeld k = false := by
  simp [State.busHeld, h]

theorem mcWrite_refused {c : Nat} (checks : List ReplicaCheck) (h : u.groupCause k = some c) :
    mcWrite k checks u = respond k.sgx k.sgy k 0x22 c [] [] u := by
  simp only [mcWrite, h]

theorem busWrite_refused {c : Nat} (h : u.groupCause k = some c) : busWrite k u = respond k.sgx k.sgy k 0x22 c [] [] u := by
  simp only [busWrite, h]

/-- MC_WR and BUS_WR, once they have arrived. -/
theorem exec_mcWr (checks : List ReplicaCheck) (hpow : s.powered = true) (hlen : k.data.length = k.bytes) (hvalid : packetValid k = true)
    (harrive : arrive k s = some u) (hop : k.op = 0x04) (hfree : s.mcHeld k = false) :
    exec (.mcWr ⟨k, checks⟩) s = .next (mcWrite k checks u) :=
  eq_next (op_ok hop hlen) hpow ((if_neg (hfree ▸ Bool.false_ne_true)).trans (atTarget_arrived _ hvalid harrive))

theorem exec_busWr (hpow : s.powered = true) (hlen : k.data.length = k.bytes) (hvalid : packetValid k = true)
    (harrive : arrive k s = some u) (hop : k.op = 0x05) (hfree : s.busHeld k = false) : exec (.busWr k) s = .next (busWrite k u) :=
  eq_next (op_ok hop hlen) hpow ((if_neg (hfree ▸ Bool.false_ne_true)).trans (atTarget_arrived _ hvalid harrive))

end

/-! ### The first rejecting member -/

/-- The earlier of the best cause so far and another, in order of gy and then gx. -/
def earlierCause (b : Option (Nat × Nat × Nat)) (c : Nat × Nat × Nat) : Option (Nat × Nat × Nat) :=
  match b with
  | some x => if c.1 * 60 + c.2.1 < x.1 * 60 + x.2.1 then some c else b
  | none => some c

/-- The earliest of a cause and a list of causes is one of them, and none comes before it. -/
theorem foldl_earlierCause (l : List (Nat × Nat × Nat)) (x : Nat × Nat × Nat) :
    ∃ e ∈ x :: l, l.foldl earlierCause (some x) = some e ∧ ∀ d ∈ x :: l, e.1 * 60 + e.2.1 ≤ d.1 * 60 + d.2.1 := by
  induction l generalizing x with
  | nil => exact ⟨x, by simp, rfl, by simp⟩
  | cons c l ih =>
    rw [List.foldl_cons]
    by_cases hlt : c.1 * 60 + c.2.1 < x.1 * 60 + x.2.1
    · obtain ⟨e, he, hfold, hmin⟩ := ih c
      refine ⟨e, List.mem_cons_of_mem _ he, by rw [earlierCause, if_pos hlt]; exact hfold, fun d hd => ?_⟩
      rcases List.mem_cons.mp hd with rfl | hd
      · exact (hmin c List.mem_cons_self).trans (Nat.le_of_lt hlt)
      · exact hmin d hd
    · obtain ⟨e, he, hfold, hmin⟩ := ih x
      have hsub : ∀ d ∈ x :: l, d ∈ x :: c :: l := fun d hd => (List.mem_cons.mp hd).elim (fun h => h ▸ List.mem_cons_self)
        fun h => List.mem_cons_of_mem _ (List.mem_cons_of_mem _ h)
      refine ⟨e, hsub e he, by rw [earlierCause, if_neg hlt]; exact hfold, fun d hd => ?_⟩
      rcases List.mem_cons.mp hd with rfl | hd
      · exact hmin d List.mem_cons_self
      · rcases List.mem_cons.mp hd with rfl | hd
        · exact (hmin x List.mem_cons_self).trans (Nat.not_lt.mp hlt)
        · exact hmin d (List.mem_cons_of_mem _ hd)

/-! ### The combining -/

/-- The responses that go up a tree are counted at its routers. -/
theorem combineUp_routers (waiting : List (Nat × Nat)) (l : List (Branch × Branch)) (s : State) :
    let v := (combineUp waiting l s).2
    v = { s with net := { s.net with routers := v.net.routers } } := by
  induction l generalizing s with
  | nil => rfl
  | cons e l ih =>
    unfold combineUp
    split
    · exact (ih _).trans rfl
    · exact ih s

/-- WR_ACK_COMBINE, once the responses have gone up as far as they have come. -/
theorem wrAckCombine_eq {s v : State} {src tag : Nat} {c : Combine} {left : List (Branch × Branch)}
    (hfind : (s.net.combine.find? fun c => c.src == src && c.tag == tag) = some c) (hup : combineUp c.waiting c.links s = (left, v)) :
    wrAckCombine src tag s =
      if left.isEmpty && c.waiting.isEmpty then
        inject c.gx c.gy c.gx c.gy { op := 0x22, vc := 2, addr := c.addr, src := src, tag := tag, sgx := c.gx, sgy := c.gy
                                     status := firstCause c.causes } (v.modNet fun n => { n with combine := n.combine.erase c })
      else v.modNet fun n => { n with combine := n.combine.map fun e => if e = c then { c with links := left } else e } := by
  simp only [wrAckCombine, hfind, hup, beq_iff_eq]

/-- Settles O31: a refusal at the router or the delivery, then the members and their combined answer. -/
theorem groupWritesCombine : Obligations.GroupWritesCombine := by
  intro s k checks hpow hlen
  dsimp only
  refine ⟨fun u harrive hvalid => ?_, fun hop hheld => ?_, fun hop hheld => ?_, fun b c v => rfl, fun b c v gx gy marks => ⟨?_, ?_⟩,
    fun l hl => ?_, fun src tag c left v hfind hup => ⟨?_, ?_⟩⟩
  · have hgroup := groupOf_arrived harrive k.addr
    refine ⟨fun g b hop hfree hspace hg => ?_, fun g b hop hfree hspace hg => ?_, fun hop hspace => ?_, fun hop hspace => ?_,
      fun hop hspace hg => ?_, fun hop hspace hg => ?_⟩
    · rw [exec_mcWr checks hpow hlen hvalid harrive hop hfree]
      simp only [mcWrite, groupCause_none hspace hg, hg]
    · rw [exec_busWr hpow hlen hvalid harrive hop hfree]
      simp only [busWrite, groupCause_none hspace hg, hg]
      rfl
    · rw [exec_mcWr checks hpow hlen hvalid harrive hop (mcHeld_refused (groupCause_control hspace)),
        mcWrite_refused checks (groupCause_control hspace)]
    · rw [exec_busWr hpow hlen hvalid harrive hop (busHeld_refused (groupCause_control hspace)), busWrite_refused (groupCause_control
        hspace)]
    · rw [exec_mcWr checks hpow hlen hvalid harrive hop (mcHeld_refused (groupCause_nowhere hspace (hgroup ▸ hg))),
        mcWrite_refused checks (groupCause_nowhere hspace hg)]
    · rw [exec_busWr hpow hlen hvalid harrive hop (busHeld_refused (groupCause_nowhere hspace (hgroup ▸ hg))),
        busWrite_refused (groupCause_nowhere hspace hg)]
  · exact eq_next (op_ok hop hlen) hpow (if_pos hheld)
  · exact eq_next (op_ok hop hlen) hpow (if_pos hheld)
  · intro hfit cause hadmit
    simp only [memberWrite, hadmit, Nat.not_lt.mpr (Nat.add_comm .. ▸ hfit), if_false]
  · intro hfit h0 hadmit
    simp only [memberWrite, hadmit, Nat.not_lt.mpr (Nat.add_comm .. ▸ hfit), if_false, Nat.ne_of_gt h0]
  · cases l with
    | nil => exact absurd rfl hl
    | cons x l =>
      obtain ⟨e, he, hfold, hmin⟩ := foldl_earlierCause l x
      have hfirst : firstCause (x :: l) = match l.foldl earlierCause (some x) with | some c => c.2.2 | none => 0 := rfl
      exact ⟨e, he, by rw [hfirst, hfold], hmin⟩
  · intro hleft hwaiting
    have hv := combineUp_routers c.waiting c.links s
    rw [hup] at hv
    have hcombine : v.net.combine = s.net.combine := congrArg (·.net.combine) hv
    refine eq_next rfl hpow ?_
    rw [wrAckCombine_eq hfind hup, if_pos (by rw [hleft, hwaiting]; rfl), State.modNet, hcombine]
  · intro hmore
    have hv := combineUp_routers c.waiting c.links s
    rw [hup] at hv
    have hcombine : v.net.combine = s.net.combine := congrArg (·.net.combine) hv
    have hnot : ¬ (left.isEmpty && c.waiting.isEmpty) = true := by
      rcases hmore with h | h <;> simp [h]
    have hout : (v.modNet fun n => { n with combine := n.combine.map fun e => if e = c then { c with links := left } else e }) =
        { s with net := { s.net with combine := s.net.combine.map fun e => if e = c then { c with links := left } else e
                                     routers := v.net.routers } } := by
      rw [State.modNet, hcombine]
      generalize s.net.combine.map _ = entries
      exact congrArg (fun t : State => { t with net := { t.net with combine := entries } }) hv
    refine ex_next rfl hpow ?_
    rw [wrAckCombine_eq hfind hup, if_neg hnot, hout]
    exact ⟨rfl, rfl⟩

end Sys2Proof.Machine
end

section
/-! PROOF. Units on the mesh: what an output lane grants and where it goes; failed routers and dead rows (R226, R228, R230, R231, R233,
R234, R237, R238, R240, R241). -/

namespace Sys2Proof.Machine
open Sys2Proof

/-! ### What an output lane grants -/

/-- The better of the best so far and another. -/
def pickBetter {α : Type} (p : α → α → Prop) [DecidableRel p] (b : Option α) (r : α) : Option α :=
  match b with
  | some x => if p r x then some r else b
  | none => some r

/-- The best of a list is one of it, and a list with a member has a best. -/
theorem foldl_pickBetter {α : Type} (p : α → α → Prop) [DecidableRel p] (l : List α) (x : α) :
    ∃ d ∈ x :: l, l.foldl (pickBetter p) (some x) = some d := by
  induction l generalizing x with
  | nil => exact ⟨x, List.mem_cons_self, rfl⟩
  | cons r l ih =>
    rw [List.foldl_cons, pickBetter]
    split
    · obtain ⟨d, hd, hfold⟩ := ih r
      exact ⟨d, List.mem_cons_of_mem _ hd, hfold⟩
    · obtain ⟨d, hd, hfold⟩ := ih x
      refine ⟨d, ?_, hfold⟩
      rcases List.mem_cons.mp hd with rfl | hd
      · exact List.mem_cons_self
      · exact List.mem_cons_of_mem _ (List.mem_cons_of_mem _ hd)

/-- The turns a ready unit's input still has to wait after the one granted latest. -/
def Ready.turnAfter (last : Option Nat) (r : Ready) : Nat := match last with | some l => (r.source + 39 - l) % 20 | none => r.source

theorem roundRobin_eq (last : Option Nat) (rs : List Ready) :
    roundRobin last rs = (rs.filter fun r => r.i == 0).foldl (pickBetter fun r x => r.turnAfter last < x.turnAfter last) none := by
  unfold roundRobin
  dsimp only
  congr 1
  funext b r
  cases b with
  | none => rfl
  | some x => rfl

/-- Round robin chooses among the heads of packets, where there is one. -/
theorem roundRobin_some (last : Option Nat) {rs : List Ready} (h : ∃ d ∈ rs, d.i = 0) : ∃ d ∈ rs, d.i = 0 ∧ roundRobin last rs = some
    d := by
  obtain ⟨d, hd, hi⟩ := h
  have hmem : d ∈ rs.filter fun r => r.i == 0 := List.mem_filter.mpr ⟨hd, by simp [hi]⟩
  have hrr := roundRobin_eq last rs
  cases hl : rs.filter fun r => r.i == 0 with
  | nil => rw [hl] at hmem; exact nomatch hmem
  | cons x l =>
    obtain ⟨c, hc, hfold⟩ := foldl_pickBetter (fun r x => r.turnAfter last < x.turnAfter last) l x
    rw [hl] at hrr
    obtain ⟨hcm, hci⟩ := List.mem_filter.mp (hl ▸ hc)
    exact ⟨c, hcm, by simpa using hci, hrr.trans hfold⟩

section
variable {s : State} {gx gy out lane : Nat}

/-- An output lane grants a ready urgent head. -/
theorem grant_urgent (h : ∃ d ∈ s.readyUnits gx gy out lane, d.t.k.vc = 0 ∧ d.i = 0) :
    ∃ d ∈ s.readyUnits gx gy out lane, d.t.k.vc = 0 ∧ d.i = 0 ∧ s.grant gx gy out lane = some d := by
  obtain ⟨d, hd, hvc, hi⟩ := h
  have hmem : d ∈ (s.readyUnits gx gy out lane).filter fun r => r.t.k.vc == 0 := List.mem_filter.mpr ⟨hd, by simp [hvc]⟩
  obtain ⟨c, hc, hci, hpick⟩ := roundRobin_some (look none (s.router gx gy).granted (4 * (2 * out + lane) + 0)) ⟨d, hmem, hi⟩
  obtain ⟨hcm, hcvc⟩ := List.mem_filter.mp hc
  refine ⟨c, hcm, by simpa using hcvc, hci, ?_⟩
  simp only [State.grant, hpick]
  rfl

/-- Without urgent units, the lane grants the packet in the middle of which it stands. -/
theorem grant_held {id : Nat} (hnone : ∀ d ∈ s.readyUnits gx gy out lane, d.t.k.vc ≠ 0)
    (hheld : look none (s.router gx gy).held (2 * out + lane) = some id) (h : ∃ d ∈ s.readyUnits gx gy out lane, d.t.id = id) :
    ∃ d ∈ s.readyUnits gx gy out lane, d.t.id = id ∧ s.grant gx gy out lane = some d := by
  have hempty : (s.readyUnits gx gy out lane).filter (fun r => r.t.k.vc == 0) = [] :=
    List.filter_eq_nil_iff.mpr fun d hd => by simpa using hnone d hd
  obtain ⟨d, hd, hid⟩ := h
  cases hfind : (s.readyUnits gx gy out lane).find? fun r => r.t.id == id with
  | none => exact absurd (by simpa using hid) (List.find?_eq_none.mp hfind d hd)
  | some c =>
    refine ⟨c, List.mem_of_find?_eq_some hfind, by simpa using List.find?_some hfind, ?_⟩
    simp only [State.grant, hempty, hheld, hfind]
    rfl

theorem grant_nothing (h : s.readyUnits gx gy out lane = []) : s.grant gx gy out lane = none := by
  have hpick (vc : Nat) : roundRobin (look none (s.router gx gy).granted (4 * (2 * out + lane) + vc))
      (([] : List Ready).filter fun r => r.t.k.vc == vc) = none := rfl
  simp only [State.grant, h, hpick, List.find?_nil]
  split <;> rfl

/-- A head alone at a free lane. -/
theorem grant_alone {d : Ready} (h : s.readyUnits gx gy out lane = [d]) (hi : d.i = 0) (hvc : d.t.k.vc < 3)
    (hheld : look none (s.router gx gy).held (2 * out + lane) = none) : s.grant gx gy out lane = some d := by
  have hpick (vc : Nat) : roundRobin (look none (s.router gx gy).granted (4 * (2 * out + lane) + vc))
      ([d].filter fun r => r.t.k.vc == vc) = if d.t.k.vc = vc then some d else none := by
    by_cases hc : d.t.k.vc = vc <;> simp [roundRobin, hi, hc]
  simp only [State.grant, h, hpick, hheld]
  obtain hvc | hvc | hvc : d.t.k.vc = 0 ∨ d.t.k.vc = 1 ∨ d.t.k.vc = 2 := by omega
  · rw [if_pos hvc]
    rfl
  · rw [if_neg (by omega), if_pos hvc]
    rfl
  · rw [if_neg (by omega), if_neg (by omega), if_pos hvc]
    rfl

/-- A ready unit's packet is in the network. -/
theorem ready_mem {d : Ready} (h : d ∈ s.readyUnits gx gy out lane) : d.t ∈ s.net.flight := by
  obtain ⟨t, ht, hd⟩ := List.mem_filterMap.mp h
  split at hd
  · cases hd
  · simp only [Option.ite_none_right_eq_some, Option.some.injEq] at hd
    obtain ⟨-, rfl⟩ := hd
    exact (List.mem_filter.mp ht).1

/-- The head of a packet stands at a router, in a lane. -/
def Transit.headAt (gx gy lane : Nat) (e : Transit) : Prop := e.k.lane = lane ∧ ∃ u l, e.units = some u :: l ∧ u.gx = gx ∧ u.gy = gy

theorem headAt_iff (e : Transit) : (e.k.lane == lane && (match e.units with | some u :: _ => u.gx == gx && u.gy == gy | _ => false)) =
    true ↔
    e.headAt gx gy lane := by
  rw [Transit.headAt, Bool.and_eq_true, beq_iff_eq]
  refine and_congr_right fun _ => ?_
  rcases e.units with - | ⟨- | u, l⟩ <;> simp

/-- A unit time of an output lane, when every head in the router's lane is sound. -/
theorem packetForward_sound (hfail : s.routerFailed gx gy = false)
    (hvalid : ∀ e ∈ s.net.flight, e.headAt gx gy lane → packetValid e.k = true) :
    packetForward gx gy out lane .good .good false s =
      match s.grant gx gy out lane with
      | none => s
      | some r => match s.net.flight.find? fun t => t.id == r.t.id with
        | some t => sendUnit gx gy out lane .good false { r with t := t } s
        | none => s := by
  unfold packetForward
  rw [hfail, if_neg Bool.false_ne_true]
  dsimp only
  split
  · next c hc =>
    have hfound := List.find?_some hc
    obtain ⟨hhere, hbad⟩ := Bool.and_eq_true_iff.mp hfound
    have hgood := hvalid c (List.mem_of_find?_eq_some hc) ((headAt_iff c).mp hhere)
    rw [hgood] at hbad
    exact absurd hbad Bool.false_ne_true
  · simp only [linkResult, ite_self, hfail, Bool.false_eq_true, if_false] <;> rfl

/-- The unit that an output lane grants is sent. -/
theorem packetForward_granted {d : Ready} (hfail : s.routerFailed gx gy = false)
    (hvalid : ∀ e ∈ s.net.flight, e.headAt gx gy lane → packetValid e.k = true)
    (hone : ∀ a ∈ s.net.flight, ∀ b ∈ s.net.flight, a.id = b.id → a = b) (hd : d.t ∈ s.net.flight)
    (hgrant : s.grant gx gy out lane = some d) :
    packetForward gx gy out lane .good .good false s = sendUnit gx gy out lane .good false d s := by
  have hfind : s.net.flight.find? (fun t => t.id == d.t.id) = some d.t := by
    cases hf : s.net.flight.find? fun t => t.id == d.t.id with
    | none => exact absurd (beq_self_eq_true d.t.id) (List.find?_eq_none.mp hf d.t hd)
    | some c => exact congrArg some (hone c (List.mem_of_find?_eq_some hf) d.t hd (by simpa using List.find?_some hf))
  rw [packetForward_sound hfail hvalid, hgrant]
  simp only [hfind]

/-- A packet with an invalid field whose head stands at the router is discarded there. -/
theorem packetForward_invalid {e : Transit} (check : LinkCheck) (waited : Bool) (hfail : s.routerFailed gx gy = false)
    (hflight : s.net.flight = [e]) (hhead : e.headAt gx gy lane) (hbad : packetValid e.k = false) :
    packetForward gx gy out lane .good check waited s = discardAt gx gy e.k s := by
  have hfind : s.net.flight.find? (fun t => (t.k.lane == lane &&
      (match t.units with | some u :: _ => u.gx == gx && u.gy == gy | _ => false)) && !packetValid t.k) = some e := by
    rw [hflight]
    exact List.find?_cons_of_pos (by rw [(headAt_iff e).mpr hhead, hbad]; rfl)
  unfold packetForward
  rw [hfail, if_neg Bool.false_ne_true]
  dsimp only
  split
  · next c hc => rw [Option.some.inj (hc.symm.trans hfind)]
  · next hc => exact nomatch hc.symm.trans hfind

end

/-! ### A packet of one unit, alone in the network -/

section
variable {s : State} {e : Transit} {u : UnitAt}

/-- No other unit stands in its way. -/
theorem bufferUnits_elsewhere (hflight : s.net.flight = [e]) (hunits : e.units = [some u]) {gx gy : Nat} (h : u.gx ≠ gx ∨ u.gy ≠ gy)
    (port : Nat) (detour : Bool) (vc lane : Nat) : s.bufferUnits gx gy port detour vc lane = [] := by
  have hnot : u.inBuffer gx gy port detour = false := by
    rcases h with h | h <;> simp [UnitAt.inBuffer, h]
  rw [State.bufferUnits, hflight]
  refine List.flatMap_eq_nil_iff.mpr fun t ht => ?_
  obtain rfl := List.mem_singleton.mp (List.mem_of_mem_filter ht)
  simp [hunits, hnot]

theorem frontUnit_alone (hflight : s.net.flight = [e]) (hunits : e.units = [some u]) (hstart : e.start ≤ s.bundNow) :
    s.frontUnit e u.gx u.gy = some (0, u) := by
  have hbuffer : s.bufferUnits u.gx u.gy u.port u.detour e.k.vc e.k.lane = [u] := by
    simp [State.bufferUnits, hflight, hunits, UnitAt.inBuffer, Option.filter]
  have hidx : (e.units.findIdx? fun v => v.any fun a => a.gx == u.gx && a.gy == u.gy) = some 0 := by
    simp [hunits]
  have hget : e.units[0]? = some (some u) := by rw [hunits]; rfl
  simp only [State.frontUnit, hidx, hget, hbuffer]
  simp [hstart]

/-- It is what its output lane may send. -/
theorem readyUnits_alone {out lane : Nat} {hop : Hop} (hflight : s.net.flight = [e]) (hunits : e.units = [some u])
    (hstart : e.start ≤ s.bundNow) (hlane : e.k.lane = lane) (hmulti : Packet.isMulti e.k = false)
    (hhop : s.nextHop (e.kAt u) = (hop, false, false)) (hout : match hop with
      | .to o x y => o = out ∧ (u.gx ≠ x ∨ u.gy ≠ y)
      | .here => s.diePort u.gx u.gy e.k true = out
      | .wait => False) :
    s.readyUnits u.gx u.gy out lane = [{ t := e, i := 0, u := u, hop := hop, newDetour := false, onDetour := false }] := by
  have hcredit : s.hasCreditFor { t := e, i := 0, u := u, hop := hop, newDetour := false, onDetour := false } = true := by
    rcases hop with - | - | ⟨o, x, y⟩
    · rfl
    · rfl
    · have hdepth : 0 < bufferDepth e.k.vc u.gx u.gy x y := by
        unfold bufferDepth
        split <;> split <;> decide
      simp only [State.hasCreditFor, bufferUnits_elsewhere hflight hunits hout.2]
      exact decide_eq_true hdepth
  rw [State.readyUnits, hflight]
  simp only [List.filter_cons, hlane, hmulti, beq_self_eq_true, Bool.not_false, Bool.and_self, if_true, List.filter_nil,
    List.filterMap_cons,
    frontUnit_alone hflight hunits hstart, hhop, hcredit, List.filterMap_nil]
  rcases hop with - | - | ⟨o, x, y⟩
  · simp only [beq_iff_eq.mpr hout, Bool.and_self, if_true]
  · exact hout.elim
  · simp only [beq_iff_eq.mpr hout.1, Bool.and_self, if_true]

/-! ### Sending it -/

theorem modRouter_modRouter (s : State) (gx gy : Nat) (f g : Router → Router) :
    (s.modRouter gx gy f).modRouter gx gy g = s.modRouter gx gy fun x => g (f x) := by
  have hupd : upd {} (gy * 60 + gx) g (upd {} (gy * 60 + gx) f s.net.routers) = upd {} (gy * 60 + gx) (fun x => g (f x)) s.net.routers :=
    by
    simp only [upd, look_put_same, put_put]
  exact congrArg (fun m => { s with net := { s.net with routers := m } }) hupd

theorem router_modRouter_other (s : State) {gx gy x y : Nat} (h : y * 60 + x ≠ gy * 60 + gx) (f : Router → Router) :
    (s.modRouter gx gy f).router x y = s.router x y := by
  simp [State.router, State.modRouter, upd, h]

/-- A router that has sent one unit of a channel by an output lane. -/
def Router.sentOne (out lane : Nat) (d : Ready) (r : Router) : Router :=
  { r with ctr := bump r.ctr (unitsCtr d.t.k.vc) 1
           held := if d.t.k.vc = 0 then r.held else put (2 * out + lane) (if d.i + 1 = d.t.units.length then none else some d.t.id) r.held
           granted := put (4 * (2 * out + lane) + d.t.k.vc) (some d.source) r.granted }

/-- The counts and the lane of a unit sent straight on. -/
theorem laneGranted_sent (s : State) (gx gy out lane : Nat) {d : Ready} (hdetour : d.newDetour = false) :
    laneGranted gx gy out lane d ((((s.bumpRouter gx gy (unitsCtr d.t.k.vc) 1).bumpRouter gx gy rtrPreempt
      (if false && d.t.k.vc == 0 then 1 else 0))).bumpRouter gx gy rtrDetour (if d.newDetour && d.i == 0 then 1 else 0)) =
    s.modRouter gx gy (Router.sentOne out lane d) := by
  rw [hdetour]
  unfold laneGranted State.bumpRouter
  rw [modRouter_modRouter, modRouter_modRouter, modRouter_modRouter]
  rfl

/-- The unit moves to the next router's buffer. -/
theorem sendUnit_moves {out lane o x y : Nat} (hflight : s.net.flight = [e]) (hunits : e.units = [some u]) (hdet : u.detour = false)
    (hkdet : e.k.detour = false) :
    let d : Ready := { t := e, i := 0, u := u, hop := .to o x y, newDetour := false, onDetour := false }
    sendUnit u.gx u.gy out lane .good false d s =
      (s.modRouter u.gx u.gy (Router.sentOne out lane d)).modNet fun n =>
        { n with moved := n.moved + 1
                 flight := [{ e with k := { e.k with gx := x, gy := y, onDetour := false }
                                     units := [some { gx := x, gy := y, port := farPort o, seq := s.net.moved + 1 }] }] } := by
  intro d
  have hlane := laneGranted_sent s u.gx u.gy out lane (d := d) rfl
  have hsend : sendUnit u.gx u.gy out lane .good false d s = (putTransit
      { e with k := { e.k with gx := x, gy := y, detour := e.k.detour || false, onDetour := u.detour || false }
               units := setAt e.units 0 (some { gx := x, gy := y, port := farPort o, detour := u.detour || false, seq := s.net.moved + 1 }) }
      (s.modRouter u.gx u.gy (Router.sentOne out lane d))).modNet fun n => { n with moved := n.moved + 1 } := by
    rw [← hlane]
    rfl
  rw [hsend, hunits, hdet, hkdet]
  simp only [putTransit, State.modNet, State.modRouter, hflight, List.map_cons, List.map_nil, if_true, setAt, List.set_cons_zero,
    Bool.or_self, ← hkdet]

/-- The unit leaves by its port. -/
theorem sendUnit_leaves {out lane : Nat} (hflight : s.net.flight = [e]) (hunits : e.units = [some u]) :
    let d : Ready := { t := e, i := 0, u := u, hop := .here, newDetour := false, onDetour := false }
    sendUnit u.gx u.gy out lane .good false d s =
      (s.modRouter u.gx u.gy (Router.sentOne out lane d)).modNet fun n => { n with flight := [{ e with units := [none] }] } := by
  intro d
  have hlane := laneGranted_sent s u.gx u.gy out lane (d := d) rfl
  have hsend : sendUnit u.gx u.gy out lane .good false d s = putTransit { e with units := setAt e.units 0 none }
      (s.modRouter u.gx u.gy (Router.sentOne out lane d)) := by
    rw [← hlane]
    rfl
  rw [hsend, hunits]
  simp only [putTransit, State.modNet, State.modRouter, hflight, List.map_cons, List.map_nil, if_true, setAt, List.set_cons_zero]

/-- What a packet of one unit, alone, leaves when it moves on from a router with two sound coordinates. -/
theorem sent_leaves {out lane : Nat} {d : Ready} (s : State) (gx gy : Nat) (f : Net → Net)
    (hf : ∀ n : Net, (f n).routers = n.routers) :
    let t := (s.modRouter gx gy (Router.sentOne out lane d)).modNet f
    (t.router gx gy).ctr = bump (s.router gx gy).ctr (if d.t.k.vc = 0 then 0x020 else if d.t.k.vc = 1 then 0x024 else 0x028) 1 ∧
    ∀ x y, y * 60 + x ≠ gy * 60 + gx → t.router x y = s.router x y := by
  intro t
  have hrouter : ∀ x y, t.router x y = (s.modRouter gx gy (Router.sentOne out lane d)).router x y := fun x y => by
    rw [State.router, State.router]
    exact congrArg (look {} · (y * 60 + x)) (hf _)
  refine ⟨?_, fun x y h => (hrouter x y).trans (router_modRouter_other s h _)⟩
  rw [hrouter, router_modRouter_same]
  rfl

end

/-- A sound packet's channel is one of the three. -/
theorem vc_of_packetValid {k : Packet} (h : packetValid k = true) : k.vc < 3 := by
  simp only [packetValid, Bool.and_eq_true, beq_iff_eq] at h
  obtain ⟨⟨hop, -⟩, -⟩ := h
  unfold opChannel at hop
  split at hop
  · have hvc := Option.some.inj hop; omega
  · split at hop
    · have hvc := Option.some.inj hop; omega
    · split at hop
      · have hvc := Option.some.inj hop; omega
      · cases hop

theorem nextHop_row {s : State} {k : Packet} (hm : Packet.isMulti k = false) (hd : k.detour = false) (hx : k.gx ≠ k.dgx)
    (hfree : s.routerFailed (toward k.gx k.dgx) k.gy = false) :
    s.nextHop k = (.to (if k.gx < k.dgx then 0 else 1) (toward k.gx k.dgx) k.gy, false, false) := by
  have hturn : (toward k.gx k.dgx = k.dgx && s.routerFailed k.dgx k.gy) = false := by
    by_cases h : toward k.gx k.dgx = k.dgx
    · rw [h] at hfree; simp [hfree]
    · simp [h]
  simp only [State.nextHop, hm, hd, hx, ne_eq, not_false_eq_true, if_true, Bool.false_eq_true, if_false, hturn, State.rowHop, hfree]

theorem nextHop_col {s : State} {k : Packet} (hm : Packet.isMulti k = false) (hd : k.detour = false) (hx : k.gx = k.dgx) (hy : k.gy ≠
    k.dgy)
    (hfree : s.routerFailed k.gx (toward k.gy k.dgy) = false) :
    s.nextHop k = (.to (if k.gy < k.dgy then 3 else 2) k.gx (toward k.gy k.dgy), false, false) := by
  simp only [State.nextHop, hm, hd, ne_eq, hx, hy, not_true_eq_false, not_false_eq_true, if_true, Bool.false_eq_true, if_false,
    State.colHop,
    hx ▸ hfree]

theorem nextHop_here {s : State} {k : Packet} (hm : Packet.isMulti k = false) (hd : k.detour = false) (hx : k.gx = k.dgx) (hy : k.gy =
    k.dgy) :
    s.nextHop k = (.here, false, false) := by
  simp only [State.nextHop, hm, hd, ne_eq, hx, hy, not_true_eq_false, Bool.false_eq_true, if_false]

/-- What a lone packet of one unit needs for a lane to take it: it stands at a router that works, in a lane no packet holds. -/
structure State.loneUnit (s : State) (e : Transit) (u : UnitAt) (out : Nat) : Prop where
  flight : s.net.flight = [e]
  units : e.units = [some u]
  start : e.start ≤ s.bundNow
  valid : packetValid e.k = true
  single : Packet.isMulti e.k = false
  works : s.routerFailed u.gx u.gy = false
  free : look none (s.router u.gx u.gy).held (2 * out + e.k.lane) = none

namespace State.loneUnit
variable {s : State} {e : Transit} {u : UnitAt} {out : Nat}

/-- The lane that its next hop names sends it. -/
theorem forward (h : s.loneUnit e u out) {hop : Hop} (hhop : s.nextHop (e.kAt u) = (hop, false, false)) (hout : match hop with
      | .to o x y => o = out ∧ (u.gx ≠ x ∨ u.gy ≠ y)
      | .here => s.diePort u.gx u.gy e.k true = out
      | .wait => False) :
    packetForward u.gx u.gy out e.k.lane .good .good false s =
      sendUnit u.gx u.gy out e.k.lane .good false { t := e, i := 0, u := u, hop := hop, newDetour := false, onDetour := false } s := by
  have hready := readyUnits_alone h.flight h.units h.start rfl h.single hhop hout
  have hmem : e ∈ s.net.flight := by rw [h.flight]; exact List.mem_cons_self
  have honly : ∀ a ∈ s.net.flight, a = e := fun a ha => by rw [h.flight] at ha; exact List.mem_singleton.mp ha
  refine packetForward_granted h.works (fun a ha _ => honly a ha ▸ h.valid) (fun a ha b hb _ => (honly a ha).trans (honly b hb).symm)
    hmem ?_
  exact grant_alone hready rfl (vc_of_packetValid h.valid) h.free

end State.loneUnit

/-! ### Discarded packets -/

/-- What losing packets leaves: the others, and the routers but for the lanes that a lost packet held. -/
def State.packetsLost (s : State) (lost : List Transit) (t : State) : Prop :=
  t = { s with net := { s.net with flight := t.net.flight, routers := t.net.routers } } ∧
  (∀ e ∈ t.net.flight, e ∈ s.net.flight ∧ ∀ l ∈ lost, e.id ≠ l.id) ∧ ∀ x y, t.router x y =
    { s.router x y with held := (t.router x y).held }

/-- A router whose lanes a packet holds no more. -/
def Router.letGo (id : Nat) (r : Router) : Router := { r with held := r.held.filter fun h => h.2 != some id }

theorem router_dropTransit (id : Nat) (s : State) (x y : Nat) : (dropTransit id s).router x y = (s.router x y).letGo id :=
  look_map_snd {} (Router.letGo id) s.net.routers (y * 60 + x)

theorem foldState_dropTransit (lost : List Transit) (s : State) :
    s.packetsLost lost (foldState lost (fun t e => dropTransit e.id t) s) := by
  induction lost generalizing s with
  | nil => exact ⟨rfl, fun e he => ⟨he, fun l hl => nomatch hl⟩, fun _ _ => rfl⟩
  | cons a l ih =>
    obtain ⟨hrest, hflight, hrouter⟩ := ih (dropTransit a.id s)
    refine ⟨?_, fun e he => ?_, fun x y => ?_⟩
    · exact hrest
    · obtain ⟨hmem, hid⟩ := hflight e he
      obtain ⟨hmem, hne⟩ := List.mem_filter.mp hmem
      refine ⟨hmem, fun c hc => ?_⟩
      rcases List.mem_cons.mp hc with rfl | hc
      · simpa using hne
      · exact hid c hc
    · have h := hrouter x y
      rw [router_dropTransit] at h
      exact h

/-- The only packet of the network, discarded at a router. -/
theorem discardAt_alone {s : State} {e : Transit} {gx : Nat} (gy : Nat) (hgx : gx < 60) (hflight : s.net.flight = [e]) :
    let t := discardAt gx gy e.k s
    t.net.flight = [] ∧ (t.router gx gy).ctr = bump (s.router gx gy).ctr 0x03C 1 ∧
    t.faults = { s.faults with reports := s.faults.reports ++
      [{ type := 0x06, cls := 2, unitCls := 0x3, unitIdx := gy * 60 + gx, detail := look 0 (bump (s.router gx gy).ctr 0x03C 1) 0x03C
         tide := s.panNow (posAt gx gy), epoch := s.boot.epoch }] } ∧
    t = { s with net := t.net, faults := t.faults } := by
  have htake : takePacket e.k s = dropTransit e.id s := by
    simp [takePacket, State.transitOf, hflight]
  have hrouter := router_dropTransit e.id s gx gy
  have hctr : (((dropTransit e.id s).bumpRouter gx gy rtrDiscard 1).router gx gy).ctr = bump (s.router gx gy).ctr 0x03C 1 := by
    rw [State.bumpRouter, router_modRouter_same, hrouter]
    rfl
  have hmod : (gy * 60 + gx) % 60 = gx := by omega
  have hdiv : (gy * 60 + gx) / 60 = gy := by omega
  have hdiscard : discardAt gx gy e.k s = report { type := RecType.router, cls := 2, unitCls := UnitCls.router, unitIdx := gy * 60 + gx
                                                   detail := look 0 (bump (s.router gx gy).ctr 0x03C 1) 0x03C }
      ((dropTransit e.id s).bumpRouter gx gy rtrDiscard 1) := by
    unfold discardAt
    dsimp only
    rw [htake, hctr]
  dsimp only
  rw [hdiscard]
  refine ⟨?_, hctr, ?_, rfl⟩
  · simp [report, State.modFaults, State.bumpRouter, State.modRouter, dropTransit, State.modNet, hflight]
  · have hstamp : ∀ d, ((dropTransit e.id s).bumpRouter gx gy rtrDiscard 1).stampOf
        { type := RecType.router, cls := 2, unitCls := UnitCls.router, unitIdx := gy * 60 + gx, detail := d } = s.panNow (posAt gx gy) :=
          by
      intro d
      show s.fieldNow (fieldOf (posAt ((gy * 60 + gx) % 60) ((gy * 60 + gx) / 60))) = _
      rw [hmod, hdiv]
      rfl
    unfold report
    rw [hstamp]
    rfl

/-! ### A failed router -/

theorem panFault_faulted (p code detail : Nat) (slot : Option Nat) (s : State) : ((panFault p code detail slot s).pan p).seq.mode =
    .faulted := by
  obtain ⟨k, hk⟩ := panFault_pan_same s p code detail slot
  rw [hk]
  by_cases hmode : (s.pan p).seq.mode = .faulted
  · have hkeep : ((panFaultOne p code (panClass code) detail slot (s.pan p).seq.pc s).pan p).seq.mode = .faulted := by
      rw [panFaultOne_faulted s p code _ detail slot _ hmode]
      unfold sameCycleFault
      dsimp only
      split
      · rw [replaceFault, pan_modSeq_same]
        exact hmode
      · exact hmode
    exact hkeep
  · rw [panFaultOne_pan_same s p code _ detail slot _ hmode]

/-- The failure of a slice leaves the pans and the network as they are. -/
theorem failSlice_dead (i code : Nat) (s : State) :
    let t := failSlice i code s
    t = { s with slices := t.slices, brineMem := t.brineMem, memdev := t.memdev, faults := t.faults } ∧
    ((t.slice i).mode = .failed ∨ (t.slice i).mode = .bad) := by
  by_cases hfailed : (s.slice i).mode = .failed
  · simp [failSlice, hfailed]
  by_cases hbad : (s.slice i).mode = .bad
  · simp [failSlice, hbad]
  obtain ⟨hrest, -, hslice, -⟩ := failSlice_fails code hfailed hbad
  exact ⟨hrest, .inl (by rw [hslice])⟩

/-- The packets with a unit in a router. -/
def State.packetsIn (s : State) (gx gy : Nat) : List Transit :=
  s.net.flight.filter fun t => t.units.any fun u => u.any fun a => a.gx == gx && a.gy == gy

/-- The network once a router has failed, before its pan, its slice and the reports. -/
def State.routerGone (s : State) (gx gy : Nat) : State :=
  ((foldState (s.packetsIn gx gy) (fun t e => dropTransit e.id t) s).modRouter gx gy fun r => { r with state := 2 }).modNet fun n =>
    { n with failedEpoch := min 2047 (n.failedEpoch + 1)
             combine := n.combine.filter fun c => !(c.gx == gx && c.gy == gy) && !c.waiting.contains (gx, gy) &&
               !c.links.any fun l => l.2.gx == gx && l.2.gy == gy }

theorem report_eq (r : FaultRec) (s : State) : report r s = { s with faults := (report r s).faults } := rfl

theorem report_report_eq (r q : FaultRec) (s : State) : report r (report q s) = { s with faults := (report r (report q s)).faults } := rfl

theorem routerFail_eq {s : State} {gx gy : Nat} (hworks : s.routerFailed gx gy = false) :
    ∃ r, routerFail gx gy s =
      { failSlice (posAt gx gy) 0 (panFault (posAt gx gy) PanCode.hwCheck 7 none (s.routerGone gx gy)) with faults := r } := by
  unfold routerFail
  rw [hworks, if_neg Bool.false_ne_true]
  dsimp only
  split
  · exact ⟨_, report_eq _ (failSlice (posAt gx gy) 0 (panFault (posAt gx gy) PanCode.hwCheck 7 none (s.routerGone gx gy)))⟩
  · exact ⟨_, report_report_eq _ _ (failSlice (posAt gx gy) 0 (panFault (posAt gx gy) PanCode.hwCheck 7 none (s.routerGone gx gy)))⟩

/-- What the failure of a router leaves. -/
theorem routerFail_leaves {s : State} {gx gy : Nat} (hworks : s.routerFailed gx gy = false) :
    let t := routerFail gx gy s
    t.routerFailed gx gy = true ∧ (∀ e ∈ t.net.flight, ∀ u, some u ∈ e.units → u.gx ≠ gx ∨ u.gy ≠ gy) ∧
    t.net.failedEpoch = min 2047 (s.net.failedEpoch + 1) ∧ (t.pan (posAt gx gy)).seq.mode = .faulted ∧
    ((t.slice (posAt gx gy)).mode = .failed ∨ (t.slice (posAt gx gy)).mode = .bad) ∧
    (∀ x y, y * 60 + x ≠ gy * 60 + gx → t.router x y = { s.router x y with held := (t.router x y).held }) := by
  obtain ⟨r, hfail⟩ := routerFail_eq hworks
  generalize hu : s.routerGone gx gy = u at *
  intro t
  have ht : t = _ := hfail
  obtain ⟨hdropRest, hdropFlight, hdropRouter⟩ := foldState_dropTransit (s.packetsIn gx gy) s
  obtain ⟨hsliceRest, hslice⟩ := failSlice_dead (posAt gx gy) 0 (panFault (posAt gx gy) PanCode.hwCheck 7 none u)
  have hpan := State.faultOnly.panFault (posAt gx gy) PanCode.hwCheck 7 none u
  have hmode := panFault_faulted (posAt gx gy) PanCode.hwCheck 7 none u
  generalize hv : panFault (posAt gx gy) PanCode.hwCheck 7 none u = v at *
  generalize hw : failSlice (posAt gx gy) 0 v = w at *
  have hnet : t.net = u.net := by
    rw [ht]
    show w.net = u.net
    rw [hsliceRest]
    show v.net = u.net
    rw [hpan]
  have hpans : t.pan (posAt gx gy) = v.pan (posAt gx gy) := by
    rw [ht]
    show look {} w.pans _ = _
    rw [hsliceRest]
    rfl
  have hrouter : ∀ x y, t.router x y = u.router x y := fun x y => congrArg (fun n : Net => look {} n.routers (y * 60 + x)) hnet
  have hrouterU : ∀ x y, u.router x y = ((foldState (s.packetsIn gx gy) (fun t e => dropTransit e.id t) s).modRouter gx gy
    fun r => { r with state := 2 }).router x y := fun x y => by rw [← hu]; rfl
  refine ⟨?_, fun e he a ha => ?_, ?_, ?_, ?_, fun x y hxy => ?_⟩
  · rw [State.routerFailed, hrouter, hrouterU, router_modRouter_same]
    rfl
  · rw [hnet, ← hu] at he
    obtain ⟨hmem, hid⟩ := hdropFlight e he
    by_contra hat
    have hin : e ∈ s.packetsIn gx gy := by
      refine List.mem_filter.mpr ⟨hmem, List.any_eq_true.mpr ⟨some a, ha, ?_⟩⟩
      simpa using hat
    exact hid e hin rfl
  · rw [hnet, ← hu]
    show min 2047 ((foldState (s.packetsIn gx gy) (fun t e => dropTransit e.id t) s).net.failedEpoch + 1) = _
    rw [hdropRest]
  · rw [hpans]
    exact hmode
  · rw [ht]
    exact hslice
  · rw [hrouter, hrouterU, router_modRouter_other _ hxy]
    exact hdropRouter x y

/-- Settles O29: an output lane's grant, a lone packet's way, and what a router discards or loses. -/
theorem packetsCrossTheMesh : Obligations.PacketsCrossTheMesh := by
  intro s gx gy hpow hgx hgy
  dsimp only
  have hok : ∀ {out lane : Nat}, out < 10 → lane < 2 →
      (decide (gx < 60) && decide (gy < 27) && decide (out < 10) && decide (lane < 2)) = true := fun ho hl => by simp [hgx, hgy, ho, hl]
  refine ⟨fun out lane ho hl hworks hvalid hone => ?_, fun e u out lane hflight hunits hux huy hdet hstart hvalid hmc hbus hkdet hlane hl
    ho
    hworks hfree => ?_, fun e out lane check waited ho hl hworks hflight hhead hbad => ?_, fun hworks => ?_, fun hfailed => ?_⟩
  · have hsend : ∀ d, d ∈ s.readyUnits gx gy out lane → s.grant gx gy out lane = some d →
        exec (.packetForward ⟨gx, gy, out, lane, .good⟩ .good false) s = .next (sendUnit gx gy out lane .good false d s) :=
      fun d hd hgrant => eq_act (hok ho hl) hpow (packetForward_granted hworks hvalid hone (ready_mem hd) hgrant)
    refine ⟨fun h => ?_, fun id hnone hheld h => ?_, fun h => ?_⟩
    · obtain ⟨d, hd, hvc, hi, hgrant⟩ := grant_urgent h
      exact ⟨d, hd, hvc, hi, hsend d hd hgrant⟩
    · obtain ⟨d, hd, hid, hgrant⟩ := grant_held hnone hheld h
      exact ⟨d, hd, hid, hsend d hd hgrant⟩
    · exact eq_act (hok ho hl) hpow (by rw [packetForward_sound hworks hvalid, grant_nothing h])
  · subst hux huy hlane
    have hsingle : Packet.isMulti e.k = false := by simp [Packet.isMulti, hmc, hbus]
    have hlone : s.loneUnit e u out := ⟨hflight, hunits, hstart, hvalid, hsingle, hworks, hfree⟩
    have hmoves : ∀ x y, s.nextHop (e.kAt u) = (.to out x y, false, false) → (u.gx ≠ x ∨ u.gy ≠ y) →
        ∃ t, exec (.packetForward ⟨u.gx, u.gy, out, e.k.lane, .good⟩ .good false) s = .next t ∧
          ((t.router u.gx u.gy).ctr = bump (s.router u.gx u.gy).ctr (if e.k.vc = 0 then 0x020 else if e.k.vc = 1 then 0x024 else 0x028)
            1 ∧
            ∀ x y, y * 60 + x ≠ u.gy * 60 + u.gx → t.router x y = s.router x y) ∧
          t = { s with net := { s.net with
            routers := t.net.routers, moved := s.net.moved + 1
            flight := [{ e with k := { e.k with gx := x, gy := y, onDetour := false }
                                units := [some { gx := x, gy := y, port := farPort out, seq := s.net.moved + 1 }] }] } } :=
      fun x y hhop hxy => ⟨_, eq_act (hok ho hl) hpow ((hlone.forward hhop ⟨rfl, hxy⟩).trans (sendUnit_moves hflight hunits hdet hkdet)),
        sent_leaves s u.gx u.gy _ fun _ => rfl, rfl⟩
    refine ⟨fun hx hfree ho => ?_, fun hx hfree ho => ?_, fun hx hy hfree ho => ?_, fun hx hy hfree ho => ?_, fun hx hy hport => ?_⟩
    · have hto : toward u.gx e.k.dgx = u.gx + 1 := if_pos hx
      have hhop := nextHop_row (s := s) (k := e.kAt u) hsingle hkdet (by simp [Transit.kAt]; omega) (by simpa [Transit.kAt, hto] using
        hfree)
      subst ho
      exact hmoves (u.gx + 1) u.gy (by simpa [Transit.kAt, hto, hx] using hhop) (.inl (by omega))
    · have hto : toward u.gx e.k.dgx = u.gx - 1 := if_neg (by omega)
      have hhop := nextHop_row (s := s) (k := e.kAt u) hsingle hkdet (by simp [Transit.kAt]; omega) (by simpa [Transit.kAt, hto] using
        hfree)
      subst ho
      exact hmoves (u.gx - 1) u.gy (by simpa [Transit.kAt, hto, Nat.lt_asymm hx] using hhop) (.inl (by omega))
    · have hto : toward u.gy e.k.dgy = u.gy + 1 := if_pos hy
      have hhop := nextHop_col (s := s) (k := e.kAt u) hsingle hkdet hx (by simp [Transit.kAt]; omega) (by simpa [Transit.kAt, hto] using
        hfree)
      subst ho
      exact hmoves u.gx (u.gy + 1) (by simpa [Transit.kAt, hto, hy] using hhop) (.inr (by omega))
    · have hto : toward u.gy e.k.dgy = u.gy - 1 := if_neg (by omega)
      have hhop := nextHop_col (s := s) (k := e.kAt u) hsingle hkdet hx (by simp [Transit.kAt]; omega) (by simpa [Transit.kAt, hto] using
        hfree)
      subst ho
      exact hmoves u.gx (u.gy - 1) (by simpa [Transit.kAt, hto, Nat.lt_asymm hy] using hhop) (.inr (by omega))
    · exact ⟨_, eq_act (hok ho hl) hpow ((hlone.forward (nextHop_here hsingle hkdet hx hy) hport.symm).trans (sendUnit_leaves hflight
        hunits)),
        sent_leaves s u.gx u.gy _ fun _ => rfl, rfl⟩
  · obtain ⟨hflight', hctr, hfaults, hrest⟩ := discardAt_alone gy hgx hflight
    refine ex_act (hok ho hl) hpow ?_
    rw [packetForward_invalid check waited hworks hflight hhead hbad]
    exact ⟨hflight', hctr, hfaults, hrest⟩
  · refine ex_act (by simp [hgx, hgy]) hpow ?_
    exact routerFail_leaves hworks
  · refine ex_act (by simp [hgx, hgy]) hpow ?_
    rw [rowDeadSet, if_pos hfailed]
    exact ⟨rfl, look_upd_same 0 gy (fun m => m ||| 2 ^ gx) s.net.rowDead, fun y hy => look_upd_other 0 hy (fun m => m ||| 2 ^ gx)
      s.net.rowDead⟩

end Sys2Proof.Machine
end

section
/-! PROOF. The accumulator file and the drain (R84 to R86, R92, R93, R118, R120, R121), and a pan's cycle that does nothing else. -/

namespace Sys2Proof.Machine
open Sys2Proof

/-! ### One pan at a time -/

theorem State.onlyPan.modPan {s t : State} {p : Nat} {x : Pan} (h : s.onlyPan t p x) (f : Pan → Pan) : s.onlyPan (t.modPan p f) p
    (f x) := by
  obtain ⟨hrest, hpan, hother⟩ := h
  exact ⟨by rw [hrest]; rfl, by rw [pan_modPan_same, hpan], fun k hk => by rw [pan_modPan_other _ hk, hother k hk]⟩

theorem State.onlyPan.bump {s t : State} {p : Nat} {x : Pan} (h : s.onlyPan t p x) (c n : Nat) :
    s.onlyPan (t.bumpPan p c n) p { x with ctr := if n = 0 then x.ctr else Machine.bump x.ctr c n } := by
  unfold State.bumpPan
  by_cases hn : n = 0
  · rw [if_pos hn, if_pos hn]
    exact h
  · rw [if_neg hn, if_neg hn]
    exact h.modPan _

theorem modPan_congr {s : State} {p : Nat} {f g : Pan → Pan} (h : f (s.pan p) = g (s.pan p)) : s.modPan p f = s.modPan p g :=
  congrArg (fun x => { s with pans := put p x s.pans }) h

/-- Nothing has changed in a pan. -/
theorem onlyPan_self (s : State) (p : Nat) : s.onlyPan s p (s.pan p) := ⟨rfl, rfl, fun _ _ => rfl⟩

/-- The next state of a pan that works, its unit's action not following a fault of the same cycle. -/
theorem eq_inCycle {s : State} {p : Nat} {f : State → State} {t : State} (hp : p < 1620) (hpow : s.powered = true)
    (hworks : s.panWorks p = true) (hnow : (s.pan p).faultsNow (s.panNow p) = false) (h : f s = t) : panAct p (inCycle p f) s = .next t :=
  eq_act (decide_eq_true hp) hpow (by rw [if_pos hworks, inCycle_plain hnow, h])

/-! ### The lattice's columns -/

theorem accSum_inRange {v : Int} (h : satInt 72 v = v) (s : State) : accSum v s = (v, s) := if_pos h

/-- What a column of an entry holds once a slot's sum has entered it. -/
def FlightSlot.column (f : FlightSlot) (col : Nat) (sum : Int) (ovf : Bool) (e : AccEntry) : AccCol :=
  { sum := sum
    flag := if colStart f.window f.start f.len f.h col then ovf else (look ({} : AccCol) e.cols col).flag || ovf
    b := if colStart f.window f.start f.len f.h col then some f.b else (look ({} : AccCol) e.cols col).b
    copy := if colLast f.window f.last f.len f.h col && !e.complete then some f.copy else (look ({} : AccCol) e.cols col).copy }

/-- Every column of an entry has had its last slot. -/
def colsFull (cols : Sparse AccCol) : Bool := (List.range 64).all fun j => (look ({} : AccCol) cols j).copy.isSome

/-- An update writes one column, and may complete the entry. -/
theorem accUpdate_eq (f : FlightSlot) (col : Nat) (sum : Int) (ovf : Bool) (e : AccEntry) :
    accUpdate f col sum ovf e =
      if colLast f.window f.last f.len f.h col && colsFull (put col (f.column col sum ovf e) e.cols) && !e.complete then
        { cols := put col (f.column col sum ovf e) e.cols, complete := true, b := f.b, drain := f.drain }
      else { e with cols := put col (f.column col sum ovf e) e.cols } := rfl

theorem accUpdate_cols (f : FlightSlot) (col : Nat) (sum : Int) (ovf : Bool) (e : AccEntry) :
    (accUpdate f col sum ovf e).cols = put col (f.column col sum ovf e) e.cols := by
  rw [accUpdate_eq]
  split <;> rfl

theorem accUpdate_complete {e : AccEntry} (h : e.complete = true) (f : FlightSlot) (col : Nat) (sum : Int) (ovf : Bool) :
    (accUpdate f col sum ovf e).complete = true ∧ (accUpdate f col sum ovf e).b = e.b ∧ (accUpdate f col sum ovf e).drain = e.drain := by
  rw [accUpdate_eq, if_neg (by simp [h])]
  exact ⟨h, rfl, rfl⟩

/-- The update that completes an entry is the last of its column and gives the entry its slot's exponent and parameters. -/
theorem accUpdate_completes {e : AccEntry} (h : e.complete = false) {f : FlightSlot} {col : Nat} {sum : Int} {ovf : Bool}
    (hu : (accUpdate f col sum ovf e).complete = true) :
    colLast f.window f.last f.len f.h col = true ∧ (accUpdate f col sum ovf e).b = f.b ∧ (accUpdate f col sum ovf e).drain = f.drain := by
  rw [accUpdate_eq] at hu ⊢
  by_cases hc : (colLast f.window f.last f.len f.h col && colsFull (put col (f.column col sum ovf e) e.cols) && !e.complete) = true
  · rw [if_pos hc]
    simp only [Bool.and_eq_true] at hc
    exact ⟨hc.1.1, rfl, rfl⟩
  · rw [if_neg hc] at hu
    exact absurd (h.symm.trans hu) Bool.false_ne_true

/-- What reaches a column at the last pan of a chain, or at a pan of its own. -/
def State.northEdge (s : State) (p col : Nat) (f : FlightSlot) (inc : Int) (oc : Bool) : Prop :=
  (f.chain = none ∧ inc = 0 ∧ oc = false) ∨ (∃ k, f.chain = some k ∧ s.logicalCol p = 13 ∧
    ((s.pan p).lat.chainIn.find? fun e => e.1 == k && e.2.1 == col) = some (k, col, inc, oc))

/-- The lattice once one column of a slot has entered its entry. -/
def Lat.entered (l : Lat) (f : FlightSlot) (col ei : Nat) (e e' : AccEntry) : Lat :=
  flightTaken f col { l with
    acc := put ei e' l.acc
    completeq := if e'.complete && !e.complete then l.completeq ++ [ei] else l.completeq
    chainIn := match f.chain with
      | some k => l.chainIn.filter fun e => !(e.1 == k && e.2.1 == col)
      | none => l.chainIn }

/-- The sum of one column enters its entry. -/
theorem entryUpdate_enters {s : State} {p col : Nat} {f : FlightSlot} {inc : Int} {oc : Bool}
    (hnext : nextFlight (s.pan p).lat col = some f) (hat : f.issued + 65 + col ≤ (s.pan p).seq.cycle) (hedge : s.northEdge p col f inc
      oc) :
    let l := (s.pan p).lat
    let own := f.cols.getD col {}
    let ei := colEntry f.window f.len f.h f.w col
    let e := look ({} : AccEntry) l.acc ei
    let old := look ({} : AccCol) e.cols col
    let st := colStart f.window f.start f.len f.h col
    let sum := if st then own.sum + inc else old.sum + (own.sum + inc)
    let e' := accUpdate f col sum (own.flag || oc) e
    (if st then e.complete = false else ∀ b, old.b = some b → b = f.b) → satInt 72 sum = sum →
    (e'.complete = true → e.complete = false → copiesDiffer e' = false ∧ e'.drain ≠ none) →
    s.onlyPan (entryUpdate p col s) p { s.pan p with lat := l.entered f col ei e e'
                                                     ctr := if own.clamps = 0 then (s.pan p).ctr
                                                            else bump (s.pan p).ctr PanCtr.clampHigh own.clamps } := by
  intro l own ei e old st sum e' hstart hrange hlast
  have hfree : ¬ ((st && e.complete) = true) := by
    by_cases hst : st = true
    · rw [if_pos hst] at hstart; simp [hstart]
    · simp [hst]
  have hsame : ¬ ((!st && old.b.any fun v => v != f.b) = true) := by
    by_cases hst : st = true
    · simp [hst]
    · rw [if_neg hst] at hstart
      cases hb : old.b with
      | none => simp
      | some b => simp [hstart b hb]
  have hbranch (t : State) : (if !e'.complete || e.complete then t else if copiesDiffer e' then panFault p PanCode.entryCopy ei none t
      else if e'.drain.isNone then panFault p PanCode.drainDesc 4 none t else t) = t := by
    split
    · rfl
    · next hc =>
      simp only [Bool.or_eq_true, Bool.not_eq_true', not_or, Bool.not_eq_false, Bool.not_eq_true] at hc
      obtain ⟨hdiffer, hdrain⟩ := hlast hc.1 hc.2
      simp [hdiffer, hdrain]
  have hat' : ¬ (s.pan p).seq.cycle < f.issued + 65 + col := Nat.not_lt.mpr hat
  rcases hedge with ⟨hchain, rfl, rfl⟩ | ⟨k, hchain, hlc, hfind⟩
  · have heq : entryUpdate p col s = ((s.modLat p fun m =>
        { m with acc := put ei e' m.acc, completeq := if e'.complete && !e.complete then m.completeq ++ [ei] else m.completeq }).modLat p
        (flightTaken f col)).bumpPan p PanCtr.clampHigh own.clamps := by
      simp only [entryUpdate, hnext, hchain, if_neg hat', Option.isSome_none, Bool.false_and, Bool.false_eq_true, if_false]
      rw [if_neg hfree, if_neg hsame, accSum_inRange hrange]
      exact hbranch _
    rw [heq]
    have h := (((onlyPan_self s p).modPan fun x => { x with lat := { x.lat with
      acc := put ei e' x.lat.acc, completeq := if e'.complete && !e.complete then x.lat.completeq ++ [ei] else x.lat.completeq } }).modPan
      fun x => { x with lat := flightTaken f col x.lat }).bump PanCtr.clampHigh own.clamps
    have heq' : l.entered f col ei e e' = flightTaken f col { l with
      acc := put ei e' l.acc, completeq := if e'.complete && !e.complete then l.completeq ++ [ei] else l.completeq } := by
      unfold Lat.entered
      rw [hchain]
    rw [heq']
    exact h
  · have heq : entryUpdate p col s = (((s.modLat p fun m => { m with
        chainIn := m.chainIn.filter fun e => !(e.1 == k && e.2.1 == col) }).modLat p fun m =>
        { m with acc := put ei e' m.acc, completeq := if e'.complete && !e.complete then m.completeq ++ [ei] else m.completeq }).modLat p
        (flightTaken f col)).bumpPan p PanCtr.clampHigh own.clamps := by
      simp only [entryUpdate, hnext, hchain, if_neg hat', Option.isSome_some, Bool.true_and, hlc, Option.getD_some, hfind,
        show decide (0 < 13) = true from rfl, show decide (13 < 13) = false from rfl, Bool.false_eq_true, if_false, if_true]
      rw [if_neg hfree, if_neg hsame, accSum_inRange hrange]
      exact hbranch _
    have h := ((((onlyPan_self s p).modPan fun x => { x with lat := { x.lat with
      chainIn := x.lat.chainIn.filter fun e => !(e.1 == k && e.2.1 == col) } }).modPan fun x => { x with lat := { x.lat with
      acc := put ei e' x.lat.acc, completeq := if e'.complete && !e.complete then x.lat.completeq ++ [ei] else x.lat.completeq } }).modPan
      fun x => { x with lat := flightTaken f col x.lat }).bump PanCtr.clampHigh own.clamps
    rw [heq]
    have heq' : l.entered f col ei e e' = flightTaken f col { l with
      acc := put ei e' l.acc, completeq := if e'.complete && !e.complete then l.completeq ++ [ei] else l.completeq
      chainIn := l.chainIn.filter fun e => !(e.1 == k && e.2.1 == col) } := by
      unfold Lat.entered
      rw [hchain]
    rw [heq']
    exact h

/-- In a chain's first pan the sum of one column enters the next pan's north edge. -/
theorem entryUpdate_passesOn {s : State} {p col k n : Nat} {f : FlightSlot} (hnext : nextFlight (s.pan p).lat col = some f)
    (hat : f.issued + 65 + col ≤ (s.pan p).seq.cycle) (hchain : f.chain = some k) (hlc : s.logicalCol p = 0)
    (hpan : (s.chainPans (p / 15)).find? (fun e => e.2 == 1) = some (n, 1)) (hne : n ≠ p) :
    let own := f.cols.getD col {}
    let t := entryUpdate p col s
    t = { s with pans := t.pans } ∧ (∀ m, m ≠ p → m ≠ n → t.pan m = s.pan m) ∧
    t.pan n = { s.pan n with lat := { (s.pan n).lat with chainIn := (s.pan n).lat.chainIn ++ [(k, col, own.sum, own.flag)] } } ∧
    (t.pan p).lat.acc = (s.pan p).lat.acc ∧ (t.pan p).seq = (s.pan p).seq := by
  intro own t
  have heq : t = (((s.modLat p fun l => { l with chainIn := l.chainIn.filter fun e => !(e.1 == k && e.2.1 == col) }).modLat n
      fun l => { l with chainIn := l.chainIn ++ [(k, col, own.sum, own.flag)] }).modLat p (flightTaken f col)).bumpPan p
      PanCtr.clampHigh own.clamps := by
    have hpan' : (s.chainPans (regionOf p)).find? (fun e => e.2 == 0 + 1) = some (n, 1) := hpan
    simp only [t, entryUpdate, hnext, hchain, if_neg (Nat.not_lt.mpr hat), Option.isSome_some, Bool.true_and, hlc, Option.getD_some,
      show decide (0 < 0) = false from rfl, show decide (0 < 13) = true from rfl, Bool.false_eq_true, if_false, if_true, hpan',
        Int.add_zero,
      Bool.or_false]
    rfl
  rw [heq]
  have hbump (u : State) : (u.bumpPan p PanCtr.clampHigh own.clamps) =
    { u with pans := (u.bumpPan p PanCtr.clampHigh own.clamps).pans } := by
    unfold State.bumpPan
    split <;> rfl
  refine ⟨by rw [hbump]; rfl, fun m hm hmn => ?_, ?_, ?_, ?_⟩
  · rw [pan_bumpPan_other _ hm, pan_modLat_other _ hm, pan_modLat_other _ hmn, pan_modLat_other _ hm]
  · rw [pan_bumpPan_other _ hne, pan_modLat_other _ hne, pan_modLat_same, pan_modLat_other _ hne]
  · rw [pan_bumpPan_same, pan_modLat_same, pan_modLat_other _ hne.symm, pan_modLat_same]
    rfl
  · rw [pan_bumpPan_same, pan_modLat_same, pan_modLat_other _ hne.symm, pan_modLat_same]

/-! ### A cycle that passes -/

/-- A west feeder with nothing to do, its tile closed. -/
theorem westAct_rests {s : State} {p : Nat} (hhold : (s.pan p).seq.hold = none) (hrun : (s.pan p).lat.run = none)
    (hdec : (s.pan p).lat.decisions = []) : westAct p s = noRun p s := by
  unfold westAct followAct
  simp only [hhold, hrun, hdec, Option.isNone_none, if_true, ite_self]

theorem noRun_closed {s : State} {p : Nat} (hopen : (s.pan p).seq.tileOpen = false) : noRun p s = s := by
  simp [noRun, hopen]

/-- With no run entered, no read goes ahead. -/
theorem feedAhead_noRun {s : State} {p : Nat} (hrun : (s.pan p).lat.run = none) (hfeedq : (s.pan p).seq.feedq = []) (n : Nat) :
    feedAhead p n s = s := by
  cases n with
  | zero => rfl
  | succ n => simp [feedAhead, enteredRuns, hrun, hfeedq]

/-- A cycle of a pan whose feeders rest. -/
theorem westSlotIssue_rests {s : State} {p : Nat} (hnow : (s.pan p).faultsNow (s.panNow p) = false) (hhold : (s.pan p).seq.hold = none)
    (hrun : (s.pan p).lat.run = none) (hdec : (s.pan p).lat.decisions = []) (hfeedq : (s.pan p).seq.feedq = [])
    (hopen : (s.pan p).seq.tileOpen = false) : westSlotIssue p [] s = passCycle p s := by
  have hact : inCycle p (westAct p) s = s := by rw [inCycle_plain hnow, westAct_rests hhold hrun hdec, noRun_closed hopen]
  exact congrArg (passCycle p) ((congrArg (feedAhead p 64) hact).trans (feedAhead_noRun hrun hfeedq 64))

/-- The one write of the cycle reaches the store. -/
theorem makeWrites_one {s : State} {p : Nat} {w : DrainWrite} (hpipe : (s.pan p).lat.pipe = [w]) (hat : w.at_ ≤ (s.pan p).seq.cycle)
    (hpart : w.part = []) (hsem : w.sem = none) :
    makeWrites p s = localWrite p w.addr w.bytes w.mark (s.modLat p fun l => { l with pipe := [] }) := by
  have hkeep : (s.modLat p fun l => { l with pipe := l.pipe.filter fun w => decide ((s.pan p).seq.cycle < w.at_) }) =
      s.modLat p fun l => { l with pipe := [] } := by
    refine modPan_congr ?_
    simp [hpipe, hat]
  simp [makeWrites, hpipe, hat, hpart, hsem, hkeep]

/-! ### The drain's queue -/

/-- The reload whose descriptor has been read is the first that is queued. -/
theorem firstDrld_keepParams {l : List DrainEntry} {n sag dag desc : Nat} (pr : DrainParams) (h : firstDrld l = some (n, sag, dag, desc,
    none)) :
    firstDrld (keepParams pr l) = some (n, sag, dag, desc, some pr) := by
  induction l with
  | nil => cases h
  | cons e l ih =>
    cases e with
    | dout => exact ih h
    | drld =>
      simp only [firstDrld, Option.some.injEq, Prod.mk.injEq] at h
      simp [keepParams, firstDrld, h]

/-- A reload whose parameters are known goes on. -/
theorem drldGrain_begun {s : State} {p n sag dag desc : Nat} {pr : DrainParams} (hq : (s.pan p).lat.completeq = [])
    (hfrom : (s.pan p).lat.drainFrom ≤ (s.pan p).seq.cycle) (hdrld : firstDrld (s.pan p).seq.drainq = some (n, sag, dag, desc, some pr)) :
    drldGrain p s = drldOne p n sag dag pr s := by
  simp [drldGrain, hq, hdrld, Nat.not_lt.mpr hfrom]

/-- A reload that reads its parameters converts its first grain in the same step. -/
theorem drldGrain_begins {s : State} {p n sag dag desc : Nat} {pr : DrainParams} (hq : (s.pan p).lat.completeq = [])
    (hfrom : (s.pan p).lat.drainFrom ≤ (s.pan p).seq.cycle) (hdrld : firstDrld (s.pan p).seq.drainq = some (n, sag, dag, desc, none))
    (hkept : firstDrld ((drldBegin p desc s).pan p).seq.drainq = some (n, sag, dag, desc, some pr)) :
    drldGrain p s = drldOne p n sag dag pr (drldBegin p desc s) := by
  simp [drldGrain, hq, hdrld, hkept, Nat.not_lt.mpr hfrom]

/-- Settles O22: a column's sum enters its entry or the next pan, and what the drain makes of entries and reloads. -/
theorem entriesAndDrain : Obligations.EntriesAndDrain := by
  intro s p hp hpow hdown hclk hspare hnow
  have hworks : s.panWorks p = true := by
    have hclocked : s.clocked (regionOf p) = true := clocked_of hdown hclk
    simp [State.panWorks, hclocked, hspare]
  dsimp only
  refine ⟨fun col f inc oc hcol hnext hat hedge hstart hrange hlast => ?_, fun col f k n hcol hnext hat hchain hlc hpan hne => ?_,
    fun f col sum ovf e => ?_, fun ei rest n ag sig sem d a hq hdout hdrain hfrom hag hbias hwide => ?_,
    fun w hpipe hat hpart hsem hhold hrun hfeedq hdec hopen hpeer => ?_,
    fun n sag dag desc pr a bs mark s4 s5 hq hfrom hdrld hsag hdag hbias hread hlocal hwide => ?_,
    fun n sag dag desc u d pr hq hfrom hdrld hreads hlocal hbit hfmt hbroken hvec hkeep => ?_, fun sem rest howed hsem => ?_⟩
  · refine ⟨_, eq_act (decide_eq_true hp) hpow ((if_pos hworks).trans ((if_pos hcol).trans (inCycle_plain hnow _))),
      entryUpdate_enters hnext hat hedge hstart hrange hlast⟩
  · exact ⟨_, eq_act (decide_eq_true hp) hpow ((if_pos hworks).trans ((if_pos hcol).trans (inCycle_plain hnow _))),
      entryUpdate_passesOn hnext hat hchain hlc hpan hne⟩
  · rw [accUpdate_cols, look_put_same]
    refine ⟨rfl, rfl, rfl, ?_, fun j hj => ?_, fun h => accUpdate_complete h f col sum ovf, fun h hu => accUpdate_completes h hu⟩
    · simp [FlightSlot.column]
    · exact look_put_other _ hj _ _
  · refine eq_inCycle hp hpow hworks hnow ?_
    simp only [drainEntry, hq, hdout, hdrain, if_neg (Nat.not_lt.mpr hfrom), hag, hbias, Bool.false_eq_true, if_false, hwide,
      Bool.not_true]
  · refine eq_act (decide_eq_true hp) hpow ?_
    rw [if_pos hworks, westSlotIssue_rests hnow hhold hrun hdec hfeedq hopen]
    simp only [passCycle, hpeer, makeWrites_one hpipe hat hpart hsem]
  · refine eq_inCycle hp hpow hworks hnow ?_
    rw [drldGrain_begun hq hfrom hdrld]
    simp only [drldOne, hsag, hdag, hbias, Bool.false_eq_true, if_false, hread, hlocal, hwide, Bool.not_true]
  · refine eq_inCycle hp hpow hworks hnow ?_
    have hbegin : drldBegin p desc s = (u.modLat p fun l => { l with descServed := false }).modSeq p fun q =>
        { q with drainq := keepParams pr q.drainq } := by
      simp only [drldBegin, hreads, hlocal, Bool.false_eq_true, if_false, Bool.not_true, hbit, hfmt, hbroken, hvec]
    have hkept : firstDrld ((drldBegin p desc s).pan p).seq.drainq = some (n, sag, dag, desc, some pr) := by
      rw [hbegin, pan_modSeq_same, hkeep]
      exact firstDrld_keepParams pr hdrld
    rw [← hbegin]
    exact drldGrain_begins hq hfrom hdrld hkept
  · refine ex_act (decide_eq_true hp) hpow ?_
    rw [if_pos hworks]
    have hdone : doutComplete p s = semAdd p sem 1 (s.modLat p fun l => { l with owed := rest }) := by simp only [doutComplete, howed]
    have hlook : look 0 ((s.modLat p fun l => { l with owed := rest }).pan p).seq.sems sem = look 0 (s.pan p).seq.sems sem := by
      rw [pan_modLat_same]
    have hmin : min 65535 (look 0 (s.pan p).seq.sems sem + 1) = look 0 (s.pan p).seq.sems sem + 1 := Nat.min_eq_right hsem
    rw [hdone, semAdd]
    simp only [hlook, hmin, decide_eq_false (Nat.not_lt.mpr (Nat.succ_le_of_lt hsem)), Bool.false_and, Bool.false_eq_true, if_false]
    exact ((onlyPan_self s p).modPan _).modPan _

end Sys2Proof.Machine
end

section
/-! PROOF. The feeders (R76 to R82, R88 to R94, R106, R109 to R114, R123, R134, R135): what they begin, issue, hold and lose. -/

namespace Sys2Proof.Machine
open Sys2Proof

theorem modPan_modPan (s : State) (p : Nat) (f g : Pan → Pan) : (s.modPan p f).modPan p g = s.modPan p fun x => g (f x) := by
  have hupd : upd {} p g (upd {} p f s.pans) = upd {} p (fun x => g (f x)) s.pans := by simp only [upd, look_put_same, put_put]
  exact congrArg (fun m => { s with pans := m }) hupd

/-- A pan that works and has not faulted in this cycle. -/
def State.worksNow (s : State) (p : Nat) : Prop :=
  s.regionDown (p / 15) = false ∧ (s.region (p / 15)).clk = .running ∧ s.isSpare p = false ∧ (s.pan p).faultsNow (s.panNow p) = false

theorem State.worksNow.works {s : State} {p : Nat} (h : s.worksNow p) : s.panWorks p = true := by
  obtain ⟨hdown, hclk, hspare, -⟩ := h
  have hclocked : s.clocked (regionOf p) = true := clocked_of hdown hclk
  simp [State.panWorks, hclocked, hspare]

/-! ### Reads ahead -/

/-- No generator of a pan reads brine. -/
def Seq.noBrine (q : Seq) : Prop := ∀ k, (look ({} : Ag) q.ags k).brine = false

theorem feedAhead_noBrine {s : State} {p : Nat} (h : (s.pan p).seq.noBrine) (n : Nat) : feedAhead p n s = s := by
  cases n with
  | zero => rfl
  | succ n =>
    have hnone : (enteredRuns (s.pan p)).filter (runBrine (s.pan p).seq) = [] :=
      List.filter_eq_nil_iff.mpr fun r _ => by simp [runBrine, h r.wag]
    simp only [feedAhead, hnone, List.find?_nil]

theorem heldAhead_noBrine {s : State} {p : Nat} (h : (s.pan p).seq.noBrine) (n : Nat) : heldAhead p n s = s := by
  cases n with
  | zero => rfl
  | succ n =>
    unfold heldAhead
    dsimp only
    split
    · rfl
    · next ld _ => simp [h ld.nag]

theorem heldAhead_noLoad {s : State} {p : Nat} (h : (s.pan p).lat.load = none) (n : Nat) : heldAhead p n s = s := by
  cases n with
  | zero => rfl
  | succ n => simp only [heldAhead, h]

/-! ### A cycle passes -/

/-- A pan as its next cycle finds it, nothing being due but results that have landed. -/
def Pan.nextOf (x : Pan) (cycle : Nat) : Pan :=
  { x with before := none, seq := { x.seq with cycle := cycle + 1, waited := 0, pend := [] } }

/-- A cycle has passed, in which the pan became y; a bundle that stalls in the next one is counted. -/
def State.passed (s : State) (p : Nat) (y : Pan) (t : State) : Prop :=
  s.onlyPan t p (if (s.modPan p fun _ => y.nextOf (s.pan p).seq.cycle).stalled p then
    { y.nextOf (s.pan p).seq.cycle with
      seq := { (y.nextOf (s.pan p).seq.cycle).seq with stalledAt := some ((s.pan p).seq.cycle + 1) }
      ctr := bump y.ctr PanCtr.hazard 1 }
  else y.nextOf (s.pan p).seq.cycle)

/-- A pan that neither waits nor has a write or a window due. -/
structure Pan.rests (x : Pan) : Prop where
  awake : x.seq.mode ≠ .waiting
  windows : x.store.winPend = []
  peer : x.seq.peerStop = none
  writes : ∀ w ∈ x.lat.pipe, x.seq.cycle < w.at_

theorem makeWrites_none {s : State} {p : Nat} (h : ∀ w ∈ (s.pan p).lat.pipe, (s.pan p).seq.cycle < w.at_) : makeWrites p s = s := by
  have hdue : (s.pan p).lat.pipe.filter (fun w => decide (w.at_ ≤ (s.pan p).seq.cycle)) = [] :=
    List.filter_eq_nil_iff.mpr fun w hw => by simpa using h w hw
  simp [makeWrites, hdue]

theorem passCycle_passed {s : State} {p : Nat} {q' : Seq} (h : (s.pan p).rests)
    (hpend : ∀ e ∈ (s.pan p).seq.pend, e.at_ ≤ (s.pan p).seq.cycle + 1) (hland : (s.pan p).seq.pend.foldl landResult (s.pan p).seq = q')
    (hpeer : q'.peerStop = none) : s.passed p { s.pan p with seq := q' } (passCycle p s) := by
  have hall : (s.pan p).seq.pend.filter (fun e => decide (e.at_ ≤ (s.pan p).seq.cycle + 1)) = (s.pan p).seq.pend :=
    List.filter_eq_self.mpr fun e he => by simpa using hpend e he
  have hnone : (s.pan p).seq.pend.filter (fun e => decide ((s.pan p).seq.cycle + 1 < e.at_)) = [] :=
    List.filter_eq_nil_iff.mpr fun e he => by simpa using hpend e he
  have hawake : ((s.pan p).seq.mode == .waiting) = false := by simpa using h.awake
  have hnext : nextCycle p s = s.modPan p fun _ => Pan.nextOf { s.pan p with seq := q' } (s.pan p).seq.cycle := by
    unfold nextCycle
    simp only [hawake, Bool.false_eq_true, if_false]
    refine modPan_congr ?_
    simp only [hall, hnone, hland, h.windows, Pan.nextOf, List.filter_nil, List.foldl_nil, ← hpeer]
    simp [← h.windows]
  have hpass : passCycle p s = if (nextCycle p s).stalled p then
      ((nextCycle p s).bumpPan p PanCtr.hazard 1).modSeq p fun q => { q with stalledAt := some q.cycle } else nextCycle p s := by
    simp only [passCycle, h.peer, makeWrites_none h.writes]
  rw [hpass, hnext, State.passed]
  split
  · exact (((onlyPan_self s p).modPan _).bump PanCtr.hazard 1).modPan _
  · exact (onlyPan_self s p).modPan _

/-- The passing of a cycle after a change to the pan that leaves its work as it was. -/
theorem State.passed.after {s : State} {p : Nat} {f : Pan → Pan} {y : Pan} {t : State} (h : (s.modPan p f).passed p y t)
    (hcycle : (f (s.pan p)).seq.cycle = (s.pan p).seq.cycle) : s.passed p y t := by
  unfold State.passed at h ⊢
  rw [pan_modPan_same, hcycle, modPan_modPan] at h
  obtain ⟨hrest, hpan, hother⟩ := h
  exact ⟨by rw [hrest]; rfl, hpan, fun k hk => by rw [hother k hk, pan_modPan_other _ hk]⟩

/-! ### What the feeders begin -/

/-- A pan whose west feeder is free. -/
structure Pan.westRests (x : Pan) : Prop where
  run : x.lat.run = none
  free : x.lat.westFree ≤ x.seq.cycle

section
variable {s : State} {p : Nat}

theorem westFeedBegin_run (h : (s.pan p).westRests) {r : WestRun} {opens : Bool} {c : Nat} {rest : List FeedEntry}
    (hq : (s.pan p).seq.feedq = .run r opens c :: rest) (hc : c ≤ (s.pan p).seq.cycle) : westFeedBegin p s =
      if !(s.pan p).seq.tileSeen then panFault p PanCode.tileState 0 none s
      else if !((copyOf (s.pan p).lat r.copy).ready || loadBefore (s.pan p) r.copy r.id) then panFault p PanCode.tileState 1 none s
      else feedAhead p 64 (s.modPan p fun x =>
        { x with seq := { x.seq with feedq := rest, tileOpen := x.seq.tileOpen || opens
                                     openPair := if opens then (if r.chained then [r.wag, r.nag] else []) else x.seq.openPair }
                 lat := { x.lat with run := some r } }) := by
  simp only [westFeedBegin, h.run, Option.isSome_none, decide_eq_false (Nat.not_lt.mpr h.free), Bool.or_self, Bool.false_eq_true,
    if_false,
    hq, if_neg (Nat.not_lt.mpr hc)]

theorem westFeedBegin_tend (h : (s.pan p).westRests) {c : Nat} {rest : List FeedEntry}
    (hq : (s.pan p).seq.feedq = .tend c :: rest) (hc : c ≤ (s.pan p).seq.cycle) : westFeedBegin p s = s.modPan p fun x =>
      { x with seq := { x.seq with feedq := rest, tileOpen := false, openPair := [] }, lat := { x.lat with westFree := x.seq.cycle + 1 } } := by
  simp only [westFeedBegin, h.run, Option.isSome_none, decide_eq_false (Nat.not_lt.mpr h.free), Bool.or_self, Bool.false_eq_true,
    if_false,
    hq, if_neg (Nat.not_lt.mpr hc)]

/-- The record of an asynchronous fault of a pan that has none yet, and what the fault discards. -/
theorem panFault_record {code detail : Nat} (hmode : (s.pan p).seq.mode ≠ .faulted) (hdetail : detail < 65536) :
    let y := (panFault p code detail none s).pan p
    y.seq.mode = .faulted ∧ y.seq.fault.code = code ∧ y.seq.fault.detail = detail ∧ y.seq.fault.async = true ∧ y.lat.run = none ∧
      y.seq.pc = (s.pan p).seq.pc := by
  obtain ⟨k, hk⟩ := panFault_pan_same s p code detail none
  rw [panFaultOne_pan_same s p code _ detail none _ hmode] at hk
  intro y
  have hy : y = _ := hk
  rw [hy]
  exact ⟨rfl, rfl, Nat.mod_eq_of_lt hdetail, rfl, rfl, rfl⟩

theorem northLoadBegin_plain {e : NorthEntry} {rest : List NorthEntry} {c : TileCtx} (hload : (s.pan p).lat.load = none)
    (hfree : (s.pan p).lat.northFree ≤ (s.pan p).seq.cycle) (hq : (s.pan p).seq.northq = e :: rest)
    (hready : e.readyAt ≤ (s.pan p).seq.cycle) (htile : (s.pan p).seq.tile = some c) (hdp : e.dp = false) :
    northLoadBegin p s = heldAhead p 64 (s.modPan p fun x =>
      { x with seq := { x.seq with northq := rest }
               lat := { x.lat with load := some { id := e.id, copy := e.copy, dp := false, nag := c.nag, mode := c.mode, b := c.b
                                                  len := c.len, window := c.window, ddesc := c.ddesc } } }) := by
  simp only [northLoadBegin, hload, Option.isSome_none, decide_eq_false (Nat.not_lt.mpr hfree), Bool.or_self, Bool.false_eq_true,
    if_false,
    hq, if_neg (Nat.not_lt.mpr hready), htile, hdp, Bool.false_and]

/-! ### Held columns -/

/-- One column written into the load in progress. -/
def NorthLoad.withColumn (l : NorthLoad) (c : List Byte × List Byte) : NorthLoad :=
  { l with next := l.next + 1, cols := put l.next (heldColumn l.mode c.1 c.2) l.cols
           arrived := drop (2 * l.next) (drop (2 * l.next + 1) l.arrived) }

/-- Columns change nothing else of a load. -/
theorem withColumns_keep (cols : List (List Byte × List Byte)) (l : NorthLoad) :
    let l' := cols.foldl NorthLoad.withColumn l
    l' = { l with next := l'.next, cols := l'.cols, arrived := l'.arrived } := by
  induction cols generalizing l with
  | nil => rfl
  | cons c cols ih =>
    have h := ih (l.withColumn c)
    exact h

theorem heldCycle_load {ld : NorthLoad} (hload : (s.pan p).lat.load = some ld) (hlast : ld.lastCycle ≠ some (s.pan p).seq.cycle)
    (hnext : ld.next < 64 * ld.len) :
    let ld1 := { ld with lastCycle := some (s.pan p).seq.cycle }
    let s1 := s.modLat p fun l => { l with load := some ld1 }
    heldCycle p s = if heldBlocked (s.pan p) ld (ld.next % 64) || heldBlocked (s.pan p) ld (ld.next % 64 + heldPer ld.mode - 1) then
      s1.bumpPan p PanCtr.heldWait 1 else heldAhead p 64 (heldWrite p ld1 s1) := by
  simp only [heldCycle, hload, if_neg hlast, if_neg (Nat.ne_of_lt hnext)]

/-- The columns of a cycle, when their data have come. -/
theorem heldWrite_data {ld : NorthLoad} {cols : List (List Byte × List Byte)} {u : State}
    (hfetch : heldFetch p ld s = (.data cols false, u)) : heldWrite p ld s =
      if (cols.foldl NorthLoad.withColumn ld).next = 64 * ld.len ∧ ld.dp = false then heldFinish p (cols.foldl NorthLoad.withColumn ld) u
      else u.modLat p fun l => { l with load := some (cols.foldl NorthLoad.withColumn ld) } := by
  simp only [heldWrite, hfetch, Bool.false_eq_true, if_false, Bool.not_eq_true']
  rfl

/-- A load that ends without parameters gives its copy what it wrote. -/
theorem heldFinish_leaves {ld : NorthLoad} (cols : List (List Byte × List Byte)) (hdp : ld.dp = false) (u : State) :
    let ld2 := cols.foldl NorthLoad.withColumn ld
    let y := (heldFinish p ld2 u).pan p
    y.lat.load = none ∧ y.lat.northFree = (u.pan p).seq.cycle + 1 ∧ copyOf y.lat ld.copy =
      { ready := true, readyFrom := (u.pan p).seq.cycle + 1, mode := ld.mode, b := ld.b, len := ld.len, window := ld.window
        cols := ld2.cols, drain := (copyOf (u.pan p).lat ld.copy).drain } := by
  have hkeep := withColumns_keep cols ld
  dsimp only at hkeep ⊢
  generalize cols.foldl NorthLoad.withColumn ld = ld2 at hkeep ⊢
  have hcopy : ld2.copy = ld.copy := by rw [hkeep]
  have hmode : ld2.mode = ld.mode := by rw [hkeep]
  have hb : ld2.b = ld.b := by rw [hkeep]
  have hlen : ld2.len = ld.len := by rw [hkeep]
  have hwindow : ld2.window = ld.window := by rw [hkeep]
  have hdp2 : ld2.dp = false := by rw [hkeep, hdp]
  rw [heldFinish, pan_modLat_same]
  refine ⟨rfl, rfl, ?_⟩
  simp only [copyOf, modCopy, hcopy, hmode, hb, hlen, hwindow, hdp2, look_upd_same, Bool.false_eq_true, if_false]

/-! ### Slots -/

/-- A slot that its pan decides on itself, with nothing in its way. -/
theorem tryIssue_own {r : WestRun} {es xs : List Byte} {u : State} (hloaded : slotLoaded p r s = true)
    (hphase : slotPhaseOk (s.pan p) r = true) (hfree : slotBlocked p r s = false) (hnotice : noticeRule (s.pan p).seq = none)
    (hfetch : westFetch p r (copyOf (s.pan p).lat r.copy).mode s = (.data es xs false, u)) :
    tryIssue p r false s = (true, if runCol s p r = some 0 then
      sendDecision p (slotNo r) true (issueSlot p r (copyOf (s.pan p).lat r.copy) es xs u)
      else issueSlot p r (copyOf (s.pan p).lat r.copy) es xs u) := by
  simp only [tryIssue, hloaded, hphase, hfree, hnotice, hfetch, Bool.not_true, Bool.and_false, Bool.false_eq_true, if_false]

/-- A slot that pan 0 of the chain has decided. -/
theorem tryIssue_decided {r : WestRun} {es xs : List Byte} {u : State} (hloaded : slotLoaded p r s = true)
    (hphase : slotPhaseOk (s.pan p) r = true) (hcol : runCol s p r ≠ some 0)
    (hfetch : westFetch p r (copyOf (s.pan p).lat r.copy).mode s = (.data es xs false, u)) :
    tryIssue p r true s = (true, issueSlot p r (copyOf (s.pan p).lat r.copy) es xs u) := by
  simp only [tryIssue, hloaded, hphase, hfetch, Bool.not_true, Bool.false_and, Bool.false_eq_true, if_false, if_true, if_neg hcol]

theorem slotPhaseOk_of {r : WestRun} (h : (copyOf (s.pan p).lat r.copy).window = true ∨
    (slotPhase (copyOf (s.pan p).lat r.copy) r).1 < (copyOf (s.pan p).lat r.copy).len) : slotPhaseOk (s.pan p) r = true := by
  simpa [slotPhaseOk] using h

/-- The west feeder's own slot, and one that another pan decides. -/
theorem westAct_own {r : WestRun} (hhold : (s.pan p).seq.hold = none) (hrun : (s.pan p).lat.run = some r)
    (hcol : runCol s p r = none ∨ runCol s p r = some 0) : westAct p s = (tryIssue p r false s).2 := by
  have hown : (runCol s p r).any (· != 0) = false := by rcases hcol with h | h <;> rw [h] <;> rfl
  simp only [westAct, hhold, hrun, hown, Bool.false_eq_true, if_false]

theorem westAct_decided {r : WestRun} {k : Nat} {rest : List (Nat × Bool)} {t : State} (hhold : (s.pan p).seq.hold = none)
    (hrun : (s.pan p).lat.run = some r) (hchained : r.chained = true) (hcol : s.logicalCol p ≠ 0)
    (hdec : (s.pan p).lat.decisions = (k, true) :: rest) (hk : slotNo r = k) (htry : tryIssue p r true s = (true, t)) :
    westAct p s = t.modLat p fun l => { l with decisions := l.decisions.drop 1 } := by
  have hother : (runCol s p r).any (· != 0) = true := by simp [runCol, hchained, hcol]
  simp only [westAct, hhold, hrun, hother, if_true, followAct, hdec, hk, lt_self_iff_false, if_false, htry]

theorem westAct_chainBubble {k : Nat} {rest : List (Nat × Bool)} (hhold : (s.pan p).seq.hold = none) (hrun : (s.pan p).lat.run = none)
    (hchained : (s.pan p).chainedNow = true) (hcol : s.logicalCol p ≠ 0) (hdec : (s.pan p).lat.decisions = (k, false) :: rest) :
    westAct p s = (s.modLat p fun l => { l with decisions := rest }).bumpPan p PanCtr.bubbleChain 1 := by
  have hother : (chainCol s p).any (· != 0) = true := by simp [chainCol, hchained, hcol]
  simp only [westAct, hhold, hrun, hother, if_true, followAct, hdec]

/-- An open tile with no slot to issue has a dry bubble. -/
theorem westAct_dry (hhold : (s.pan p).seq.hold = none) (hrun : (s.pan p).lat.run = none) (hdec : (s.pan p).lat.decisions = [])
    (hfeedq : (s.pan p).seq.feedq = []) (hopen : (s.pan p).seq.tileOpen = true) (hchained : (s.pan p).chainedNow = false) :
    westAct p s = s.bumpPan p PanCtr.bubbleDry 1 := by
  rw [westAct_rests hhold hrun hdec]
  simp [noRun, hopen, hfeedq, bubble, chainCol, hchained]

/-- A region cycle of the west feeder. -/
theorem westSlotIssue_eq (hnow : (s.pan p).faultsNow (s.panNow p) = false) :
    westSlotIssue p [] s = passCycle p (feedAhead p 64 (westAct p s)) := by
  have hact : inCycle p (westAct p) s = westAct p s := inCycle_plain hnow _
  exact congrArg (fun t => passCycle p (feedAhead p 64 t)) hact

end

/-- The next state of such a pan. -/
theorem State.worksNow.row {s : State} {p : Nat} {f : State → State} {t : State} (h : s.worksNow p) (hp : p < 1620) (hpow : s.powered = true)
    (hf : f s = t) : panAct p (inCycle p f) s = .next t := by
  have hworks := h.works
  obtain ⟨-, -, -, hnow⟩ := h
  exact eq_inCycle hp hpow hworks hnow hf

theorem State.worksNow.westRow {s : State} {p : Nat} {t : State} (h : s.worksNow p) (hp : p < 1620) (hpow : s.powered = true)
    (hact : passCycle p (feedAhead p 64 (westAct p s)) = t) : exec (.westSlotIssue p []) s = .next t := by
  have hworks := h.works
  obtain ⟨-, -, -, hnow⟩ := h
  exact eq_act (decide_eq_true hp) hpow ((if_pos hworks).trans ((westSlotIssue_eq hnow).trans hact))

/-- Settles O21: what the feeders begin and write, a slot or a bubble in each kind of cycle, and a read that is lost. -/
theorem feedersRun : Obligations.FeedersRun := by
  intro s p hp hpow
  dsimp only
  refine ⟨fun hw r opens c rest hrun hfree hq hc hflat hseen hready => ?_, fun hw r opens c rest hrun hfree hq hc hmode hbad => ?_,
    fun hw c rest hrun hfree hq hc => ?_, fun hw e rest c hload hfree hq hready htile hdp hflat => ?_,
    fun hw ld cols u hload hlast hnext hb1 hb2 hfetch => ⟨fun hend => ?_, fun hgo => ?_⟩, fun hw ld hload hlast hnext hblocked => ?_,
    fun hw hflat hidle hpend hopen => ?_, fun hw hflat hidle e hpend hreg hat hopen => ?_, fun hw hflat hidle hpend hopen hchained => ?_,
    fun hw r es xs u hhold hrun hchained hready hphase hfree hnotice hfetch => ?_,
    fun hw r es xs u hhold hrun hchained hcol hready hloaded hphase hfree hnotice hfetch => ?_,
    fun hw r es xs u rest hhold hrun hchained hcol hdec hready hphase hfetch => ?_,
    fun hw k rest hhold hchained hcol hrun hdec => ?_, fun hw k hhold hk => ?_, fun tag o north hmode hout hwho hlate => ?_⟩
  · refine ⟨_, State.worksNow.row hw hp hpow (westFeedBegin_run ⟨hrun, hfree⟩ hq hc), ?_⟩
    obtain ⟨hbrine, -⟩ := hflat
    rw [if_neg (by simp [hseen]), if_neg (by simp [hready]), feedAhead_noBrine (by rw [pan_modPan_same]; exact hbrine)]
    exact (onlyPan_self s p).modPan _
  · refine ⟨_, State.worksNow.row hw hp hpow (westFeedBegin_run ⟨hrun, hfree⟩ hq hc), ?_⟩
    by_cases hseen : (s.pan p).seq.tileSeen = true
    · obtain ⟨hready, hload, hnorth⟩ := hbad.resolve_left (by simp [hseen])
      rw [if_neg (by simp [hseen]), if_pos (by simp [hready, loadBefore, hload, hnorth]), if_pos hseen]
      obtain ⟨hm, hcode, hdetail, -⟩ := panFault_record (code := PanCode.tileState) (detail := 1) hmode (by omega)
      exact ⟨hm, hcode, hdetail⟩
    · rw [if_pos (by simp [hseen]), if_neg hseen]
      obtain ⟨hm, hcode, hdetail, -⟩ := panFault_record (code := PanCode.tileState) (detail := 0) hmode (by omega)
      exact ⟨hm, hcode, hdetail⟩
  · exact ⟨_, State.worksNow.row hw hp hpow (westFeedBegin_tend ⟨hrun, hfree⟩ hq hc), (onlyPan_self s p).modPan _⟩
  · refine ⟨_, State.worksNow.row hw hp hpow (northLoadBegin_plain hload hfree hq hready htile hdp), ?_⟩
    obtain ⟨hbrine, -⟩ := hflat
    rw [heldAhead_noBrine (by rw [pan_modPan_same]; exact hbrine)]
    exact (onlyPan_self s p).modPan _
  · have hend' : (cols.foldl NorthLoad.withColumn { ld with lastCycle := some (s.pan p).seq.cycle }).next = 64 * ld.len ∧ ld.dp =
      false := hend
    refine ⟨_, State.worksNow.row hw hp hpow (heldCycle_load hload hlast hnext), ?_⟩
    obtain ⟨hload2, hfree, hcopy⟩ := heldFinish_leaves (p := p) (ld := { ld with lastCycle := some (s.pan p).seq.cycle }) cols hend.2 u
    rw [if_neg (by simp [hb1, hb2]), heldWrite_data hfetch, if_pos hend', heldAhead_noLoad hload2]
    exact ⟨hload2, hfree, hcopy⟩
  · have hgo' : ¬ ((cols.foldl NorthLoad.withColumn { ld with lastCycle := some (s.pan p).seq.cycle }).next = 64 * ld.len ∧ ld.dp =
      false) := hgo
    refine State.worksNow.row hw hp hpow ((heldCycle_load hload hlast hnext).trans ?_)
    rw [if_neg (by simp [hb1, hb2]), heldWrite_data hfetch, if_neg hgo']
    rfl
  · refine ⟨_, State.worksNow.row hw hp hpow (heldCycle_load hload hlast hnext), ?_⟩
    rw [if_pos (by simp [hblocked])]
    exact ((onlyPan_self s p).modPan _).bump PanCtr.heldWait 1
  · refine ⟨_, State.worksNow.westRow hw hp hpow rfl, ?_⟩
    obtain ⟨hhold, hrun, hfeedq, hdec⟩ := hidle
    obtain ⟨-, hmode, hwin, hpeer, hpipe⟩ := hflat
    rw [westAct_rests hhold hrun hdec, noRun_closed hopen, feedAhead_noRun hrun hfeedq]
    exact passCycle_passed ⟨hmode, hwin, hpeer, hpipe⟩ (by simp [hpend]) (by rw [hpend]; rfl) hpeer
  · refine ⟨_, State.worksNow.westRow hw hp hpow rfl, ?_⟩
    obtain ⟨hhold, hrun, hfeedq, hdec⟩ := hidle
    obtain ⟨-, hmode, hwin, hpeer, hpipe⟩ := hflat
    rw [westAct_rests hhold hrun hdec, noRun_closed hopen, feedAhead_noRun hrun hfeedq]
    exact passCycle_passed ⟨hmode, hwin, hpeer, hpipe⟩ (by simp [hpend, hat]) ((congrArg (List.foldl landResult (s.pan p).seq) hpend).trans
      (if_pos hreg)) hpeer
  · refine ⟨_, State.worksNow.westRow hw hp hpow rfl, ?_⟩
    obtain ⟨hhold, hrun, hfeedq, hdec⟩ := hidle
    obtain ⟨-, hmode, hwin, hpeer, hpipe⟩ := hflat
    rw [westAct_dry hhold hrun hdec hfeedq hopen hchained]
    generalize hu : s.bumpPan p PanCtr.bubbleDry 1 = u
    have hmod : u = s.modPan p fun x => { x with ctr := bump x.ctr PanCtr.bubbleDry 1 } := hu.symm
    have hpan : u.pan p = { s.pan p with ctr := bump (s.pan p).ctr PanCtr.bubbleDry 1 } := by rw [hmod, pan_modPan_same]
    have hrest : (u.pan p).rests := by rw [hpan]; exact ⟨hmode, hwin, hpeer, hpipe⟩
    rw [feedAhead_noRun (by rw [hpan]; exact hrun) (by rw [hpan]; exact hfeedq)]
    have hpassed := passCycle_passed (q' := (s.pan p).seq) hrest (by simp [hpan, hpend]) (by rw [hpan, hpend]; rfl) hpeer
    rw [hpan] at hpassed
    rw [hmod] at hpassed ⊢
    exact hpassed.after rfl
  · refine State.worksNow.westRow hw hp hpow ?_
    have hcol : runCol s p r = none := by simp [runCol, hchained]
    rw [westAct_own hhold hrun (.inl hcol), tryIssue_own (by simp [slotLoaded, hready, hcol]) (slotPhaseOk_of hphase)
      (by rw [slotBlocked]; simpa [hcol] using hfree) hnotice hfetch, if_neg (by simp [hcol])]
  · refine State.worksNow.westRow hw hp hpow ?_
    have hcol : runCol s p r = some 0 := by simp [runCol, hchained, hcol]
    have hall : slotLoaded p r s = true := by
      simp only [slotLoaded, hready, hcol, Bool.not_false, Bool.true_and, bne_self_eq_false, Bool.false_or]
      exact List.all_eq_true.mpr hloaded
    rw [westAct_own hhold hrun (.inr hcol), tryIssue_own hall (slotPhaseOk_of hphase) ((if_pos hcol).trans hfree) hnotice hfetch, if_pos
      hcol]
    rfl
  · refine State.worksNow.westRow hw hp hpow ?_
    have hne : runCol s p r ≠ some 0 := by simp [runCol, hchained, hcol]
    rw [westAct_decided hhold hrun hchained hcol hdec rfl (tryIssue_decided (by simp [slotLoaded, hready, hne]) (slotPhaseOk_of hphase)
      hne hfetch)]
  · refine State.worksNow.westRow hw hp hpow ?_
    rw [westAct_chainBubble hhold hrun hchained hcol hdec]
  · refine ⟨_, eq_act (decide_eq_true hp) hpow (if_pos (State.worksNow.works hw)), ?_⟩
    have h := onlyPan_modSeq s p fun q => match q.hold with
      | some u => if u ≤ q.cycle then { q with hold := none, holdDone := true } else q
      | none => q
    rw [hhold] at h
    dsimp only at h
    rw [if_pos hk] at h
    exact h
  · refine ex_act (decide_eq_true hp) hpow ?_
    have hlost : feedLost p tag s = panFault p PanCode.feedLost (Cause.timeout * 256 + (if north then 1 else 0)) none
        (expireOut (mkSrc s.deviceId 0 ((s.logicalPan p).getD 2047)) tag s) := by
      simp only [feedLost, hout, hwho]
      exact if_pos ⟨trivial, hlate⟩
    rw [hlost]
    obtain ⟨hm, hcode, -, hasync, hrun, hpc⟩ := panFault_record (s := expireOut (mkSrc s.deviceId 0 ((s.logicalPan p).getD 2047)) tag s)
      (p := p)
      (code := PanCode.feedLost) (detail := Cause.timeout * 256 + (if north then 1 else 0)) hmode (by cases north <;> decide)
    exact ⟨hm, hcode, hasync, hrun, hpc⟩

end Sys2Proof.Machine
end

section
/-! PROOF. The course of a step (R325, R327, R329 to R333): its dispatch, its commit, and what the members and the lead send for it. -/

namespace Sys2Proof.Machine
open Sys2Proof

section
variable {s : State} {j : Nat} {x : Job}

/-- A step that is dispatched has been prepared for, and its first shares kicked. -/
theorem stepDispatch_eq (hjob : s.job? j = some x) (hflight : x.inFlight = true) (hstate : x.head.state = 1) (hheld : x.mode ≠ .held)
    (hending : x.mode ≠ .ending) (hreplay : x.replay = none) :
    stepDispatch j s =
      let s1 := foldState (s.stepPans x) (fun t p => prepPan p t) (readySlots j s)
      let clear (q : Port) : Port := { q with jobs := if bit q.jobs j then q.jobs - 2 ^ j else q.jobs }
      let s2 := { s1 with fin := { s1.fin with ports := s1.fin.ports.map fun (e : Nat × Port) => (e.1, clear e.2) } }
      kickJob j (mirrorTally j (s2.modJob j fun y => y.modHead fun t =>
        { t with state := 2, dispatched := s.now, placeVer := x.placeVer })) := by
  have hgo : (!x.inFlight || x.head.state != 1 || x.mode == .held || x.mode == .ending || x.replay.isSome) = false := by
    simp [hflight, hstate, hheld, hending, hreplay]
  simp only [stepDispatch, hjob, hgo, Bool.false_eq_true, if_false]

/-- A fault record names a region in which the step in flight runs a share. -/
def Job.touchedBy (y : Job) (t : State) (f : FaultRec) : Bool :=
  match recordRegion f with
  | some r => y.runs.any fun q => t.physRegion (y.shareLogical y.head.layer q.share) == some r
  | none => false

theorem touchedBy_of {y : Job} {t : State} {f : FaultRec} {a : Nat} (hregion : recordRegion f = some a)
    (hrun : ∃ q ∈ y.runs, t.physRegion (y.shareLogical y.head.layer q.share) = some a) : y.touchedBy t f = true := by
  obtain ⟨q, hq, hphys⟩ := hrun
  rw [Job.touchedBy, hregion]
  exact List.any_eq_true.mpr ⟨q, hq, by rw [hphys]; exact beq_self_eq_true _⟩

/-- The records that waited for the step are answered once it is dispatched. -/
theorem dispatchStep_eq {y : Job} {w : State} (hjob : s.job? j = some x) (hstate : x.head.state = 1) (hw : stepDispatch j s = w)
    (hy : w.job? j = some y) (hstate2 : y.head.state = 2) :
    dispatchStep j s = foldState (y.later.filter (y.touchedBy w)) (fun u f => actOnFault f j u)
      (w.setJob j { y with later := y.later.filter fun f => !y.touchedBy w f }) := by
  simp only [dispatchStep, hjob, hw, hy, hstate, hstate2, beq_self_eq_true, Bool.and_self, if_true] <;> rfl

theorem dispatchStep_alone {y : Job} {w : State} (hjob : s.job? j = some x) (hstate : x.head.state = 1) (hw : stepDispatch j s = w)
    (hy : w.job? j = some y) (hstate2 : y.head.state = 2) (hlater : y.later = []) : dispatchStep j s = w.setJob j y := by
  rw [dispatchStep_eq hjob hstate hw hy hstate2, hlater]
  exact congrArg (fun l => w.setJob j { y with later := l }) hlater.symm

theorem dispatchStep_late {y : Job} {w : State} {f : FaultRec} {a : Nat} (hjob : s.job? j = some x) (hstate : x.head.state = 1)
    (hw : stepDispatch j s = w) (hy : w.job? j = some y) (hstate2 : y.head.state = 2) (hlater : y.later = [f])
    (hregion : recordRegion f = some a) (hrun : ∃ q ∈ y.runs, w.physRegion (y.shareLogical y.head.layer q.share) = some a) :
    dispatchStep j s = actOnFault f j (w.setJob j { y with later := [] }) := by
  have hused := touchedBy_of hregion hrun
  rw [dispatchStep_eq hjob hstate hw hy hstate2, hlater, List.filter_cons_of_pos hused, List.filter_cons_of_neg (by simp [hused])]
  rfl

theorem ringSignal_jobs (s : State) : (ringSignal s).jobs = s.jobs := by
  unfold ringSignal signalVector
  repeat' split
  all_goals rfl

theorem postEntry_jobs (e : Entry) (s : State) : (postEntry e s).jobs = s.jobs := by
  unfold postEntry
  split
  · rw [writeEntry, ringSignal_jobs, modHif_jobs, putEntry]
  · rfl

/-- After a commit nothing follows without an order or a KILL. -/
theorem afterCommit_rests (hjob : s.job? j = some x) (horder : x.order = none) (hkilled : x.killed = none) : afterCommit j s = s := by
  simp only [afterCommit, hjob, horder, hkilled, Bool.false_eq_true, if_false]

/-- A commit of a step that no order began and no KILL waits for, with no marks of its layer. -/
theorem stepCommit_eq (hjob : s.job? j = some x) (hcommit : x.commitHere = true) (horder : x.order = none) (hkilled : x.killed = none)
    (htally : x.tally ≠ []) (hmarks : ∀ im, x.image = some im → ∀ e ∈ im.commitMarks, e.1 ≠ x.head.layer) :
    let t : Tally := { x.head with state := 4, committed := s.clock.tide, arith := arithTotals x.runs }
    let y : Job := { x with
      tally := t :: x.tally.drop 1, mode := .running, inFlight := false, nextStep := (x.head.step + 1) % 2 ^ 32
      doneSent := none, commitHere := false, replay := none
      ranBefore := (x.runs.map fun q => (x.head.step, q.share, q.runs)) ++
        x.ranBefore.filter fun e => decide (x.head.step < e.1 + 8) && e.1 != x.head.step }
    stepCommit j s = postEntry
      { jobValid := true, kind := 2, job := j, info := x.head.step, payload := stepPayload t, opcode := 0, tag := 0 }
      { s with jobs := put j y s.jobs, mirror := put j y.tally s.mirror
               svc := { s.svc with aseq := put (16 + j) x.nextAseq s.svc.aseq } } := by
  intro t y
  have hhead : ∀ f, x.modHead f = { x with tally := f x.head :: x.tally.drop 1 } := by
    intro f
    unfold Job.modHead
    split
    · next h => exact absurd h htally
    · next a l h => rw [Job.head, h]; rfl
  have hy : { y with order := none } = y := congrArg (fun o => { y with order := o }) horder.symm
  rw [← hy]
  have hafter : ∀ e u, u.jobs = put j { y with order := none } s.jobs → afterCommit j (postEntry e u) = postEntry e u := by
    intro e u hu
    refine afterCommit_rests (x := { y with order := none }) ?_ rfl hkilled
    rw [State.job?, postEntry_jobs, hu, find?_put_same]
  simp only [stepCommit, hjob, hcommit, if_true, commitStep, hhead, horder]
  simp only [State.setJob, mirrorTally, State.job?, find?_put_same]
  split
  · next im him =>
    have hnone : (im.commitMarks.filter fun e => e.1 == x.head.layer) = [] :=
      List.filter_eq_nil_iff.mpr fun e he => by simpa using hmarks im him e he
    rw [hnone]
    exact hafter _ _ rfl
  · exact hafter _ _ rfl

end

/-- Settles O37: a step's dispatch, its commit, and the records that its members exchange. -/
theorem stepsDispatchAndCommit : Obligations.StepsDispatchAndCommit := by
  intro s j x hj hpow hjob
  dsimp only
  have hok : decide (j < 16) = true := decide_eq_true hj
  refine ⟨fun hflight hstate hheld hending hreplay => ⟨fun y hy hstate2 hlater => ?_, fun y f a hy hstate2 hlater hregion hrun => ?_⟩,
    fun hcommit horder hkilled htally hmarks => ?_, fun d c hd hslot hlead hkind h => ?_,
    fun d c hd hslot hlead hkind hnot hflight hstep hcommit hmember => ?_, fun t0 hsent hlate => ?_, fun t0 hsent hearly => ?_,
    fun d c hd hkind hslot => ?_, fun d c t0 hsent hlate => ?_⟩
  · exact eq_act hok hpow (dispatchStep_alone hjob hstate (stepDispatch_eq hjob hflight hstate hheld hending hreplay) hy hstate2 hlater)
  · exact eq_act hok hpow
      (dispatchStep_late hjob hstate (stepDispatch_eq hjob hflight hstate hheld hending hreplay) hy hstate2 hlater hregion hrun)
  · exact eq_act hok hpow (stepCommit_eq hjob hcommit horder hkilled htally hmarks)
  · refine eq_act (decide_eq_true hd) hpow ?_
    have hslot' : (takeCommit d c s).jobSlot c.jobId = some (j, x) := hslot
    have hlead' : (x.lead ≠ (takeCommit d c s).deviceId || c.kind ≠ 1) = false := by simp [hkind]; exact hlead
    rcases h with hdone | ⟨hflight, hstep, hcommit⟩
    · simp only [sharesDone, hslot', hlead', hdone, Bool.false_eq_true, if_false, if_true]
      rfl
    · simp only [sharesDone, hslot', hlead', hflight, hstep, hcommit, Bool.false_eq_true, if_false, beq_self_eq_true, Bool.and_self,
        if_true,
        ite_self]
      rfl
  · refine eq_act (decide_eq_true hd) hpow ?_
    have hslot' : (takeCommit d c s).jobSlot c.jobId = some (j, x) := hslot
    have hlead' : (x.lead ≠ (takeCommit d c s).deviceId || c.kind ≠ 1) = false := by simp [hkind]; exact hlead
    simp only [sharesDone, hslot', hlead', hnot, hflight, hstep, hcommit, hmember, Bool.false_eq_true, if_false, beq_self_eq_true,
      Bool.and_self,
      if_true]
    rfl
  · refine eq_act hok hpow ?_
    simp only [sharesDoneResend, hjob, hsent, if_neg (show ¬ s.now < t0 + 1000000 from Nat.not_lt.mpr hlate)]
    rfl
  · refine eq_act hok hpow ?_
    simp only [sharesDoneResend, hjob, hsent, if_pos (show s.now < t0 + 1000000 from hearly)]
  · refine eq_act (by simp [hd, hkind]) hpow ?_
    have hslot' : (takeCommit d c s).jobSlot c.jobId = some (j, x) := hslot
    simp only [replayAck, hslot']
    rfl
  · refine eq_act hok hpow ?_
    have hdue : decide (t0 + 1000000 ≤ s.now) = true := decide_eq_true hlate
    simp only [shareReplayResend, hjob, hsent, List.filter_cons, hdue, if_true, List.filter_nil, List.map_cons, List.map_nil,
      if_pos (show t0 + 1000000 ≤ s.now from hlate)]
    rfl

end Sys2Proof.Machine
end

section
/-! PROOF. Fault reports, replays, member failures and the end of a job (R334 to R347). -/

namespace Sys2Proof.Machine
open Sys2Proof

/-! ### A fault record that Hakar takes -/

/-- The report that has waited longest moves to the records not yet mirrored. -/
def State.reportTaken (s : State) (f : FaultRec) (rest : List FaultRec) : State :=
  { s with faults := { s.faults with reports := rest, unmirrored := s.faults.unmirrored ++ [f] } }

section
variable {s : State} {j : Nat} {x : Job} {f : FaultRec} {rest : List FaultRec}

/-- A record is answered for every job it names. -/
theorem faultRecordReceive_jobs {js : List Nat} (hcore : s.hif.coreRuns = true) (hreports : s.faults.reports = f :: rest)
    (hjs : (bitList 16 f.jobs).filter (fun j => (s.job? j).isSome) = js) (htype : f.type ≠ 0x04) (hcls : js = [] → f.cls ≠ 4) :
    faultRecordReceive s =
      let u := foldState js (fun t j => actOnFault f j t) (s.reportTaken f rest)
      foldState (u.jobs.map (·.1)) (fun t i => tryDecide i t) u := by
  have hreports' : (if s.hif.coreRuns then s.faults.reports else []) = f :: rest := by rw [if_pos hcore, hreports]
  have hhaul : ¬ ((decide (f.type = RecType.haulStop) && decide (f.unitCls = UnitCls.domain)) = true) := by
    rw [decide_eq_false (show ¬ f.type = RecType.haulStop from htype)]
    exact Bool.false_ne_true
  have hfour : (js.isEmpty && decide (f.cls = 4)) = false := by
    cases js with
    | nil => simpa using hcls rfl
    | cons a l => rfl
  unfold faultRecordReceive
  rw [hreports']
  simp only [hjs, if_neg hhaul, hfour, Bool.false_and, Bool.false_eq_true, if_false]
  rfl

theorem bitList_one {n : Nat} (h : j < n) : bitList n (2 ^ j) = [j] := by
  induction n with
  | zero => exact absurd h (Nat.not_lt_zero j)
  | succ n ih =>
    rw [bitList, List.range_succ, List.filter_append]
    by_cases hj : j = n
    · subst hj
      have hbelow : (List.range j).filter (fun i => (2 ^ j).testBit i) = [] :=
        List.filter_eq_nil_iff.mpr fun i hi => by simp [(Nat.ne_of_gt (List.mem_range.mp hi))]
      rw [hbelow]
      simp [Nat.testBit_two_pow]
    · have hbelow : (List.range n).filter (fun i => (2 ^ j).testBit i) = [j] := ih (by omega)
      rw [hbelow]
      simp [Nat.testBit_two_pow, hj]

/-- A recoverable fault of a pan that runs a share of the job has the share replayed, or waits for the next step. -/
theorem actOnFault_share (hjob : s.job? j = some x) (htype : f.type = 0x01) (hcls : f.cls = 3) (hunit : f.unitCls = 0x2)
    (hpeer : f.code ≠ 0x19) (hpoison : f.code ≠ 0x30) (hending : x.mode ≠ .ending) (hpassive : f.passive = false)
    (hprior : s.priorAt x (f.unitIdx / 15) = false) :
    actOnFault f j s = if x.canReplay then replayShares j (s.sharesOn x (f.unitIdx / 15)) s else deferFault f j s := by
  have hregion : recordRegion f = some (f.unitIdx / 15) := if_pos hunit
  have hpanFault : f.type = RecType.panFault := htype
  have hpeer' : f.code ≠ PanCode.chainPeer := hpeer
  have hpoison' : f.code ≠ PanCode.poison := hpoison
  have hlate : (!x.canReplay && !false) = !x.canReplay := by simp
  have hnot : ¬ ((decide (f.type = RecType.panFault) && (f.code == PanCode.chainPeer || f.passive)) = true) := by simp [hpassive, hpeer']
  unfold actOnFault
  rw [hjob]
  simp only [hregion, hprior, if_neg hnot, if_neg hending, if_pos hpanFault, hcls, hlate, if_neg (show ¬ 3 = 4 by decide),
    if_neg (show ¬ 3 = 6 by decide), if_neg hpoison', replayAt, hjob, Bool.false_eq_true, if_false]
  cases x.canReplay <;> rfl

/-- A job whose KILL does not wait goes on with its replay. -/
theorem killDue_none (h : x.killed = none) : x.killDue = none := by rw [Job.killDue, h]

theorem phaseFour_kill {r : Replay} {t : Nat} (h : x.killed = some (t, false)) : phaseFour j x r s = killNow j t false s := by
  have hdue : x.killDue = some t := by rw [Job.killDue, h]
  simp only [phaseFour, hdue]

theorem phaseFour_reloads {r : Replay} (h : x.killed = none) : phaseFour j x r s = takeAndReload j r s := by
  simp only [phaseFour, killDue_none h]

/-! ### The failure of another member -/

/-- The regions that a job's replay has fenced. -/
def Job.fences (x : Job) : List Nat := match x.replay with | some r => r.fence | none => []

/-- A job held by another member's failure: its step ended, its replay and what it waited for given up. -/
def Job.stoppedByMember (y : Job) : Job :=
  { (if y.inFlight then y.modHead fun t => { t with state := 5 } else y) with
    mode := .held, inFlight := false, replay := none, commitHere := false, doneSent := none, replaySent := [], later := [] }

theorem memberFailure_stops {d : Nat} (hjob : s.job? j = some x) (hmember : (s.otherMembers x).contains d = true)
    (hmode : x.mode = .placed ∨ x.mode = .running ∨ x.mode = .replaying) :
    memberFailure j d s = tellMember j d x.head.step (endOrder j Status.aborted (mirrorTally j
      ((foldState x.fences (fun t q => takeRegion j q t)
        (foldState (s.jobPans x) (fun t p => idleChannels p (stop p t)) (markDead d s))).modJob j
        fun y => if y.mode = .ending then y else y.stoppedByMember))) := by
  have hheld : x.mode ≠ .held := by rcases hmode with h | h | h <;> simp [h]
  have hruns : (x.mode == .placed || x.mode == .running || x.mode == .replaying) = true := by rcases hmode with h | h | h <;> simp [h]
  simp only [memberFailure, hjob, hmember, if_neg hheld, hruns, Bool.not_true, Bool.false_eq_true, if_false] <;> rfl

theorem modJob_held {u : State} {y : Job} (hy : u.job? j = some y) (hending : y.mode ≠ .ending) :
    u.modJob j (fun y => if y.mode = .ending then y else y.stoppedByMember) = u.setJob j y.stoppedByMember := by
  simp only [State.modJob, hy, if_neg hending]

/-! ### The end of a job -/

/-- Pans without notify targets. -/
theorem foldState_noTargets (l : List Nat) (s : State) :
    let t := foldState l (fun t p => t.modSeq p fun q => { q with ntt := [] }) s
    t.net = s.net ∧ ∀ p, (p ∈ l ∨ (s.pan p).seq.ntt = []) → (t.pan p).seq.ntt = [] := by
  induction l generalizing s with
  | nil => exact ⟨rfl, fun p h => h.resolve_left (List.not_mem_nil)⟩
  | cons a l ih =>
    obtain ⟨hnet, hntt⟩ := ih (s.modSeq a fun q => { q with ntt := [] })
    refine ⟨hnet, fun p h => hntt p ?_⟩
    by_cases hp : p = a
    · subst hp
      exact .inr (by rw [pan_modSeq_same])
    · refine h.imp (fun hmem => (List.mem_cons.mp hmem).resolve_left hp) fun hs => ?_
      rw [pan_modSeq_other _ hp]
      exact hs

/-- A group, unless it is a job's. -/
def Group.unless (j : Nat) (g : Group) : Group := if g.job = j then {} else g

theorem clearTables_leaves (j : Nat) (x : Job) (s : State) :
    (∀ g, look ({} : Group) (clearTables j x s).net.groups g =
      if (look ({} : Group) s.net.groups g).job = j then {} else look {} s.net.groups g) ∧
    ∀ p ∈ s.jobPans x, ((clearTables j x s).pan p).seq.ntt = [] := by
  unfold clearTables
  dsimp only
  refine ⟨fun g => ?_, fun p hp => (foldState_noTargets (s.jobPans x) _).2 p (.inl hp)⟩
  rw [(foldState_noTargets (s.jobPans x) _).1]
  have hnone : Group.unless j {} = {} := ite_self _
  have hlook := look_map_snd {} (Group.unless j) s.net.groups g
  rw [hnone] at hlook
  exact hlook

end

/-- Settles O38: a report's answer, each phase of a replay, a member's failure, and the end of a job. -/
theorem replaysAndZeroisation : Obligations.ReplaysAndZeroisation := by
  refine ⟨fun s j x hj hpow hjob => ?_, fun s j x hj hpow hjob hmode => ?_⟩
  · dsimp only
    have hok : decide (j < 16) = true := decide_eq_true hj
    refine ⟨fun f rest hcore hreports hjobs htype hcls => ?_,
      fun f rest hcore hreports hjobs htype hcls hunit hpeer hpoison hending hpassive hprior => ?_,
      fun d c hd hkind hslot hflight hstep hcommit hseen hlive => ?_, fun d c hd hkind hslot hseen => ?_,
      fun r t hr hphase hold hkilled => ?_, fun r hr hphase hold hkilled => ?_, fun r hr hphase hold => ?_,
      fun r hr hphase hold hlate hkilled => ?_, fun r hr hphase hkilled hdue hprior => ?_, fun r hr hphase hkilled hdue hprior => ?_,
      fun d hd hmember hmode y hy hending => ?_, fun d hd hmember hmode => ?_⟩
    · refine eq_act rfl hpow ((faultRecordReceive_jobs (js := []) hcore hreports ?_ htype fun _ => hcls).trans ?_)
      · rw [hjobs]
        rfl
      · rfl
    · have hreceive := faultRecordReceive_jobs (js := [j]) hcore hreports (by rw [hjobs, bitList_one hj]; simp [hjob])
        (by rw [htype]; decide) nofun
      have hact := actOnFault_share (s := s.reportTaken f rest) hjob htype hcls hunit hpeer hpoison hending hpassive hprior
      have hfold : foldState [j] (fun t j => actOnFault f j t) (s.reportTaken f rest) = actOnFault f j (s.reportTaken f rest) := rfl
      rw [hfold, hact] at hreceive
      refine ⟨fun hlive hcommit => eq_act rfl hpow (hreceive.trans ?_), fun hnot => eq_act rfl hpow (hreceive.trans ?_)⟩
      · rw [if_pos (by simp [Job.canReplay, hlive, hcommit])]
        rfl
      · have hdefer : deferFault f j (s.reportTaken f rest) = (s.reportTaken f rest).setJob j { x with later := x.later ++ [f] } := by
          have hjob' : (s.reportTaken f rest).job? j = some x := hjob
          simp only [deferFault, State.modJob, hjob']
        rw [if_neg (by rcases hnot with h | h <;> simp [Job.canReplay, h]), hdefer]
        rfl
    · refine eq_act (by simp [hd, hkind]) hpow ?_
      have hslot' : (takeCommit d c s).jobSlot c.jobId = some (j, x) := hslot
      simp only [shareReplay, hslot', hseen, hflight, hstep, hcommit, hlive, Bool.false_eq_true, if_false, if_true, Bool.not_true,
        bne_self_eq_false,
        Bool.or_self]
      rfl
    · refine eq_act (by simp [hd, hkind]) hpow ?_
      have hslot' : (takeCommit d c s).jobSlot c.jobId = some (j, x) := hslot
      simp only [shareReplay, hslot', hseen, if_true]
      rfl
    · refine eq_act hok hpow ?_
      simp [replayQuiesced, hjob, hr, hphase, hold, phaseFour_kill hkilled]
    · refine eq_act hok hpow ?_
      simp [replayQuiesced, hjob, hr, hphase, hold, phaseFour_reloads hkilled, takeAndReload]
    · refine eq_act hok hpow ?_
      simp [replayQuiesced, hjob, hr, hold]
    · refine eq_act hok hpow ?_
      have hgo : (decide (r.phase = 4) && !(s.oldWrites x r).isEmpty && (s.oldWrites x r).all fun o => decide (o.issued + 1000000 ≤
        s.now)) = true := by
        simp only [hphase, decide_true, Bool.true_and, Bool.and_eq_true, List.all_eq_true, decide_eq_true_eq]
        exact ⟨by simpa using hold, hlate⟩
      simp only [quiesceTimeLimit, hjob, hr, hgo, if_true, phaseFour_reloads hkilled]
      rfl
    · refine eq_act hok hpow ?_
      simp [replayResume, hjob, hr, hphase, killDue_none hkilled, hdue, hprior]
    · refine eq_act hok hpow ?_
      simp [replayResume, hjob, hr, hphase, killDue_none hkilled, hdue, hprior]
    · refine eq_act (by simp [hj, hd]) hpow ((memberFailure_stops hjob hmember hmode).trans ?_)
      exact congrArg (fun v => tellMember j d x.head.step (endOrder j Status.aborted (mirrorTally j v))) (modJob_held hy hending)
    · refine eq_act (by simp [hj, hd]) hpow ?_
      simp only [memberFailure, hjob, hmember, hmode, if_true, Bool.not_true, Bool.false_eq_true, if_false]
      rfl
  · have hok : decide (j < 16) = true := decide_eq_true hj
    refine ⟨fun hzero hfree => ?_, fun hzero hretain hreleased => ?_, fun e hzero hfill hend hcarries hqueued => ?_, fun hzero
      hcarries => ?_,
      fun hzero hfill => ?_, clearTables_leaves j x s⟩
    · refine eq_act hok hpow ?_
      have hgo : (x.retain && !x.released) = false := by rcases hfree with h | h <;> simp [h]
      simp [zeroisation, hjob, hmode, hzero, hgo]
    · refine eq_act hok hpow ?_
      simp [zeroisation, hjob, hmode, hzero, hretain, hreleased]
    · refine eq_act hok hpow ?_
      have hfill' : ((s.jobPans x).any fun p => (s.pan p).store.fillBusy) = false := by simpa using hfill
      simp [zeroisationDone, hjob, hmode, hzero, hfill', hcarries, hqueued, hend, foldState]
    · refine eq_act hok hpow ?_
      simp [zeroisationDone, hjob, hcarries]
    · refine eq_act hok hpow ?_
      have hfill' : ((s.jobPans x).any fun p => (s.pan p).store.fillBusy) = true := by simpa using hfill
      simp [zeroisationDone, hjob, hfill']

end Sys2Proof.Machine
end
